-- ==== Sys2Proof/Word.lean ====
section
/-!
DEFINITION. The word types of the Yotrix Y40 (spec 00_scope R7, R10) and their plainest arithmetic.
-/

namespace Sys2Proof

/-- One byte of memory. -/
abbrev Byte := BitVec 8

/-- The 32-bit value of one lane (R10: v0–v319). -/
abbrev Word := BitVec 32

/-- The 64-bit value of a scalar register (R10: s0–s63). -/
abbrev DWord := BitVec 64

/-- One bit per lane of a group (R10: m0–m15). -/
abbrev Mask := BitVec 32

/-- The value of a vector register, latch or port in the 32 lanes, lane 0 first. A lane beyond the list holds 0. -/
abbrev Lanes := List Word

/-- One 256-bit bundle, word 0 in the low bits (R76). -/
abbrev BundleWord := BitVec 256

/-- Number of lanes of a group (R11). -/
def laneCount : Nat := 32

end Sys2Proof
end

