-- ==== Sys2Proof/Syntax.lean ====
section
/-!
DEFINITION. The instructions and events of the Y40, one constructor of `Instr` per row of the opcode table, and the parts of a bundle
(spec 05_bundles). What each does is in Machine/; this file holds names and operands only.
-/

namespace Sys2Proof

/-- Function units of a cluster (R84). `sp` has ports only. -/
inductive FUnit where
  | ia0 | ia1 | fm0 | fm1 | sf | lg | xl | ld | st | mx | cp | sm | sp
  deriving DecidableEq, Repr

/-- Operand latches of a unit (R79). -/
inductive LatchName where
  | a | b | c | w
  deriving DecidableEq, Repr

/-- Rounding modes of the fm operations (R56, R99). -/
inductive Rounding where
  | rn | rz | ru | rd
  deriving DecidableEq, Repr

/-- Opcodes of ia (R97). -/
inductive IaOp where
  | add | addc | sub | subb | mul | mulhi | mulhu | mad | shl | shr | sar | rotl | rotr | bfx | bfxu | bfi
  | popc | clz | ctz | brev | min | max | minu | maxu | abs | adds | subs | addus | subus | lea
  deriving DecidableEq, Repr

/-- Opcodes of lg (R98). -/
inductive LgOp where
  | and | or | xor | andn | not | sel | ceq | cne | clt | cle | cltu | cleu
  | fceq | fcne | fclt | fcle | fcun | fcls | mbit | bsel
  deriving DecidableEq, Repr

/-- Opcodes of fm (R99); the twelve rounding operations carry their mode. -/
inductive FmOp where
  | fma (mode : Rounding) | fms (mode : Rounding) | fnma (mode : Rounding) | add (mode : Rounding) | sub (mode : Rounding)
  | mul (mode : Rounding) | hfma (mode : Rounding) | bfma (mode : Rounding) | cvth (mode : Rounding) | cvtb (mode : Rounding)
  | cvti (mode : Rounding) | cvtf (mode : Rounding)
  | min | max | neg | abs | csgn | cvtfh | cvtfb | cvt8 | cvt6 | dec8 | dec6 | hmin | hmax | bmin | bmax
  deriving DecidableEq, Repr

/-- Opcodes of sf (R100). -/
inductive SfOp where
  | div | sqrt | rcp | rsqrt | exp2 | log2 | sinpi | cospi | scpi
  deriving DecidableEq, Repr

/-- Opcodes of xl (R101). -/
inductive XlOp where
  | shfl | shup | shdn | shxor | vany | vall | ballot | vmatch | scan | fscan | red | redmin | redmax | fred | blk8 | blk6
  deriving DecidableEq, Repr

/-- Opcodes of sm (R105). -/
inductive SmOp where
  | send | sendr | sendb
  deriving DecidableEq, Repr

/-- Opcodes of ld (R102). -/
inductive LdOp where
  | lb | lbz | lh | lhz | lw | ld | lwo | ldo | tld | lblk | pf
  deriving DecidableEq, Repr

/-- Opcodes of st (R104). -/
inductive StOp where
  | sb | sh | sw | sd | swo | sdo | tst
  | aadd | afadd | amin | amax | aminu | amaxu | aand | aor | axor | axch | acas
  | radd | rfadd | mcst
  deriving DecidableEq, Repr

/-- Opcodes of mx (R106). -/
inductive MxOp where
  | tmma | tout | tfill | tzero | tewadd | tewmul | tewscale | tredrow | tredcol | ttrn | mxfence | qadv
  deriving DecidableEq, Repr

/-- Opcodes of cp (R107). -/
inductive CpOp where
  | copy1 | copy2 | copyt | mcast | fill | coll | ovl
  deriving DecidableEq, Repr

/-- The operation a trigger move starts (R88). The `Bool` of ia and fm chooses unit 0 or 1. -/
inductive Trigger where
  | ia (unit : Bool) (op : IaOp)
  | lg (op : LgOp)
  | fm (unit : Bool) (op : FmOp)
  | sf (op : SfOp)
  | xl (op : XlOp)
  | sm (op : SmOp)
  | ld (op : LdOp)
  | st (op : StOp)
  | mx (op : MxOp)
  | cp (op : CpOp)
  deriving DecidableEq, Repr

/-- The guard of a move: mask register and inversion (R78, R85). -/
structure Guard where
  mask : BitVec 4
  inv : Bool
  deriving DecidableEq, Repr

/-- Sources of a move (R81, R82). -/
inductive Src where
  /-- v0–v319. -/
  | v (i : BitVec 9)
  /-- A result port; `x = false` is port o. -/
  | port (unit : FUnit) (x : Bool)
  /-- A signed 12-bit immediate. -/
  | imm (i : BitVec 12)
  | s (i : BitVec 6)
  | hiS (i : BitVec 6)
  | w (i : BitVec 3)
  | spad
  | lane
  | split
  | gtime
  | pstate
  /-- The long immediate of slot 0–5. -/
  | lim (i : BitVec 3)
  | e (i : BitVec 2)
  deriving DecidableEq, Repr

/-- What a move does with its value (R79, R80). -/
inductive Dst where
  | v (i : BitVec 10)
  | latch (unit : FUnit) (l : LatchName) (hold : Bool)
  | trig (t : Trigger)
  | mask (i : BitVec 4)
  | e (i : BitVec 2)
  | fclr
  deriving DecidableEq, Repr

/-- A move of a bundle (R78). -/
structure Move where
  g : Guard
  dst : Dst
  src : Src
  deriving DecidableEq, Repr

/-- A move slot (R77): empty, a move, or a long immediate. -/
inductive Slot where
  | empty
  | move (m : Move)
  | lim (value : Word)
  deriving DecidableEq, Repr

/-- The two-operand scalar operations 0x00–0x10 (R119). -/
inductive AluOp where
  | add | sub | mul | mulh | and | or | xor | shl | shr | sar | min | max | minu | maxu | ceq | clt | cltu
  deriving DecidableEq, Repr

/-- Scalar operations (R109) with the fields each names (R95). -/
inductive ScalarOp where
  | alu (op : AluOp) (sd sa sb : BitVec 6) (imm : BitVec 22)
  | sld (sd sa sb : BitVec 6) (imm : BitVec 22)
  | sst (sd sa sb : BitVec 6) (imm : BitVec 22)
  | sldq (sd sa sb : BitVec 6) (imm : BitVec 22)
  | sstq (sd sa sb : BitVec 6) (imm : BitVec 22)
  | mrd (sd : BitVec 6) (mask : BitVec 4)
  | mwr (mask : BitVec 4) (sa sb : BitVec 6) (imm : BitVec 22)
  | basew (win : BitVec 3) (sa sb : BitVec 6) (imm : BitVec 22)
  | reggive (sb : BitVec 6) (imm : BitVec 22)
  | regclaim (sb : BitVec 6) (imm : BitVec 22)
  | ret (sa : BitVec 6)
  | exit
  | recbeg
  | recend
  | reverse (sd : BitVec 6)
  | spawn (sd sa sb : BitVec 6) (imm : BitVec 22)
  | pmap (sd sa sb : BitVec 6) (imm : BitVec 22)
  | pflush (sa sb : BitVec 6) (imm : BitVec 22)
  | ovload (sa sb : BitVec 6) (imm : BitVec 22)
  | ovcall (sa sb : BitVec 6) (imm : BitVec 22)
  | phint (sa sb : BitVec 6) (imm : BitVec 22)
  | li (sd : BitVec 6) (imm : BitVec 32)
  | liz (sd : BitVec 6) (imm : BitVec 32)
  | lih (sd : BitVec 6) (imm : BitVec 32)
  | bd (inv : Bool) (mask : BitVec 4) (target : BitVec 24) (join : BitVec 16)
  | bu (inv : Bool) (mask : BitVec 4) (target : BitVec 24)
  | call (target : BitVec 24)
  | loop (target : BitVec 24) (counter : BitVec 6)
  | bara (sa sb id : BitVec 6) (scope : BitVec 3)
  | barw (id : BitVec 6) (scope : BitVec 3)
  | dsync (scope : BitVec 3)
  | fence (scope : BitVec 3)
  | waitc (sa id : BitVec 6)
  | mxwait (sa : BitVec 6)
  | cpwait (sa id : BitVec 6)
  | mxtake
  | mxgive
  | rdsr (sd : BitVec 6) (reg : BitVec 16)
  | wrsr (sa : BitVec 6) (reg : BitVec 16)
  | sys (code : BitVec 16)
  | trap (code : BitVec 16)
  | eret
  deriving DecidableEq, Repr

/-- A bundle (R76): lookahead, yield hint, six move slots and an optional scalar operation. -/
structure Bundle where
  la : BitVec 4
  y : Bool
  slots : List Slot
  scalar : Option ScalarOp
  deriving DecidableEq, Repr

/-- Which bytes of an 8-byte host register a write names (R354). -/
inductive WPart where
  | whole | low | high
  deriving DecidableEq, Repr

/-- A task queue: host queue 0–255, or hardware task queue 0–63 of a die (R34). -/
inductive QueueRef where
  | host (q : Nat)
  | hw (die q : Nat)
  deriving DecidableEq, Repr

/-- What a rank of another module brings to a collective call (R365-R367, R369): its group and call number, its descriptor fields, the tick at
which it joined, its source bytes, and those of their 32-byte granules, counted from its source's first byte, that are poisoned. -/
structure CollRank where
  group : Nat
  seq : Nat
  rank : Nat
  desc0 : DWord
  count : Nat
  joined : Nat
  src : List Byte
  poison : List Nat := []
  deriving DecidableEq, Repr

/-- What the cap controller measured over a period (R335), in milliwatts: module input power, idle floor, and each core's draw. -/
structure PowerMeasure where
  input : Nat
  idle : Nat
  draw : List Nat
  deriving DecidableEq, Repr

/-- What is measured of a direction of a link (R340): whether it is the transmit direction, the flits in its transmit queue, and its
utilisation in percent: the highest met in 100 µs for a narrowing, that over 10 µs for a widening. -/
structure LinkMeasure where
  tx : Bool
  queue : Nat
  busy : Nat
  deriving DecidableEq, Repr

/-- Why a Flisia port went down (R364). -/
inductive PortDownCause where
  | replays | lossOfLock | ackTimeout
  deriving DecidableEq, Repr

/-- Tamper sensors (R375). -/
inductive Sensor where
  | temperature | voltageGlitch | clockGlitch | mesh | debugUnlock
  deriving DecidableEq, Repr

/-- What resets the module (R376). -/
inductive ResetCause where
  | conventional | pfFlr
  deriving DecidableEq, Repr

/-- What an inbound peer access does (R363): an atomic or reducing store is the peer's operation of R226 or R227, with its compare word. -/
inductive PeerKind where
  | load | store
  | atomic (op : StOp) (compare : Word)
  deriving DecidableEq, Repr

/-- An access by another module (R363): sender, physical address, kind, size in bytes, data, and whether the data is poisoned (R369). -/
structure PeerAccess where
  sender : BitVec 12
  addr : Nat
  kind : PeerKind
  size : Nat
  data : List Byte
  poison : Bool := false
  deriving DecidableEq, Repr

/-- The instructions and events of the device, one constructor per row of spec/opcode_table.json, bundles first and
the device's events after them, each in the table's order. Bundle-level constructors stand for a bundle that holds just that operation; the others are the device's own steps and its inputs,
with the agent they concern as arguments. -/
inductive Instr where
  /-- BUNDLE_ISSUE (R86). A cluster issues a presented split's bundle: sources are read, destinations written, triggers fired and the scalar operation applied, or the bundle traps with no effect. -/
  | bundleIssue (b : Bundle)
  /-- ADD (R119). Scalar 64-bit sum of sa and t. -/
  | add (sd sa sb : BitVec 6) (imm : BitVec 22)
  /-- SUB (R119). Scalar 64-bit difference sa minus t. -/
  | sub (sd sa sb : BitVec 6) (imm : BitVec 22)
  /-- MUL (R119). Low 64 bits of the scalar product. -/
  | mul (sd sa sb : BitVec 6) (imm : BitVec 22)
  /-- MULH (R119). High 64 bits of the signed 128-bit scalar product. -/
  | mulh (sd sa sb : BitVec 6) (imm : BitVec 22)
  /-- AND (R119). Scalar bitwise AND. -/
  | and (sd sa sb : BitVec 6) (imm : BitVec 22)
  /-- OR (R119). Scalar bitwise OR. -/
  | or (sd sa sb : BitVec 6) (imm : BitVec 22)
  /-- XOR (R119). Scalar bitwise XOR. -/
  | xor (sd sa sb : BitVec 6) (imm : BitVec 22)
  /-- SHL (R119). Scalar shift left by t[5:0]. -/
  | shl (sd sa sb : BitVec 6) (imm : BitVec 22)
  /-- SHR (R119). Scalar logical shift right by t[5:0]. -/
  | shr (sd sa sb : BitVec 6) (imm : BitVec 22)
  /-- SAR (R119). Scalar arithmetic shift right by t[5:0]. -/
  | sar (sd sa sb : BitVec 6) (imm : BitVec 22)
  /-- MIN (R119). Scalar signed minimum. -/
  | min (sd sa sb : BitVec 6) (imm : BitVec 22)
  /-- MAX (R119). Scalar signed maximum. -/
  | max (sd sa sb : BitVec 6) (imm : BitVec 22)
  /-- MINU (R119). Scalar unsigned minimum. -/
  | minu (sd sa sb : BitVec 6) (imm : BitVec 22)
  /-- MAXU (R119). Scalar unsigned maximum. -/
  | maxu (sd sa sb : BitVec 6) (imm : BitVec 22)
  /-- CEQ (R119). Scalar compare for equality, giving 1 or 0. -/
  | ceq (sd sa sb : BitVec 6) (imm : BitVec 22)
  /-- CLT (R119). Scalar signed less-than compare. -/
  | clt (sd sa sb : BitVec 6) (imm : BitVec 22)
  /-- CLTU (R119). Scalar unsigned less-than compare. -/
  | cltu (sd sa sb : BitVec 6) (imm : BitVec 22)
  /-- SLD (R120). Scalar load of 8 bytes at sa + t. -/
  | sld (sd sa sb : BitVec 6) (imm : BitVec 22)
  /-- SST (R120). Scalar store of 8 bytes at sa + t. -/
  | sst (sd sa sb : BitVec 6) (imm : BitVec 22)
  /-- SLDQ (R120). Scalar load of 16 bytes into sd and sd + 1. -/
  | sldq (sd sa sb : BitVec 6) (imm : BitVec 22)
  /-- SSTQ (R120). Scalar store of 16 bytes from sd and sd + 1. -/
  | sstq (sd sa sb : BitVec 6) (imm : BitVec 22)
  /-- MRD (R121). Reads a mask register into sd after pending mask writes. -/
  | mrd (sd : BitVec 6) (mask : BitVec 4)
  /-- MWR (R121). Writes all 32 bits of m1-m15 regardless of guards. -/
  | mwr (mask : BitVec 4) (sa sb : BitVec 6) (imm : BitVec 22)
  /-- BASEW (R122). Translates a base once and loads a window with frame, rights and limit. -/
  | basew (win : BitVec 3) (sa sb : BitVec 6) (imm : BitVec 22)
  /-- REGGIVE (R135). Returns the highest registers of the group to the cluster pool. -/
  | reggive (sb : BitVec 6) (imm : BitVec 22)
  /-- REGCLAIM (R135). Requests more registers from the pool, waiting in order until served. -/
  | regclaim (sb : BitVec 6) (imm : BitVec 22)
  /-- RET (R126). Branches the split to the address in s[sa]. -/
  | ret (sa : BitVec 6)
  /-- EXIT (R134). Ends the split's active lanes, discarding their due results, and ends the group when no split remains. -/
  | exit
  /-- RECBEG (R291). Opens a record segment in the team's engine order. -/
  | recbeg
  /-- RECEND (R291). Closes the open record segment. -/
  | recend
  /-- REVERSE (R297). Accepts a reverse walk of the segment, closing a batch and returning its number. -/
  | reverse (sd : BitVec 6)
  /-- SPAWN (R133). Copies a task descriptor into a hardware task queue of the die, optionally waiting for its event. -/
  | spawn (sd sa sb : BitVec 6) (imm : BitVec 22)
  /-- PMAP (R140). Maps scratchpad granules onto a global range, writing back earlier mappings. -/
  | pmap (sd sa sb : BitVec 6) (imm : BitVec 22)
  /-- PFLUSH (R140). Writes back the dirty Polder lines of a range. -/
  | pflush (sa sb : BitVec 6) (imm : BitVec 22)
  /-- OVLOAD (R139). Starts loading 64 KiB into an instruction-memory slot, clearing its OVRES bit. -/
  | ovload (sa sb : BitVec 6) (imm : BitVec 22)
  /-- OVCALL (R126). Links s63 and branches to s[sa] + t. -/
  | ovcall (sa sb : BitVec 6) (imm : BitVec 22)
  /-- PHINT (R137). Declares a matrix burst's onset, intensity and length for the context. -/
  | phint (sa sb : BitVec 6) (imm : BitVec 22)
  /-- LI (R119). Loads the sign-extended 32-bit immediate. -/
  | li (sd : BitVec 6) (imm : BitVec 32)
  /-- LIZ (R119). Loads the zero-extended 32-bit immediate. -/
  | liz (sd : BitVec 6) (imm : BitVec 32)
  /-- LIH (R119). Writes the immediate into bits 63:32 of sd. -/
  | lih (sd : BitVec 6) (imm : BitVec 32)
  /-- BD (R20). Divergent branch: creates a split, pushes the stack or traps with divergence overflow. -/
  | bd (inv : Bool) (mask : BitVec 4) (target : BitVec 24) (join : BitVec 16)
  /-- BU (R124). Uniform branch taken when the condition holds in all active lanes, trapping on disagreement. -/
  | bu (inv : Bool) (mask : BitVec 4) (target : BitVec 24)
  /-- CALL (R126). Links s63 and branches to the target. -/
  | call (target : BitVec 24)
  /-- LOOP (R127). Decrements s[N] and branches while it is nonzero. -/
  | loop (target : BitVec 24) (counter : BitVec 6)
  /-- BARA (R129). Arrives on a barrier object with a weight, possibly completing its phase. -/
  | bara (sa sb id : BitVec 6) (scope : BitVec 3)
  /-- BARW (R129). Waits until the barrier object's phase differs from the group's arrival phase. -/
  | barw (id : BitVec 6) (scope : BitVec 3)
  /-- DSYNC (R130). Domain synchronisation toggling the phase, acting as a cumulative fence. -/
  | dsync (scope : BitVec 3)
  /-- FENCE (R131). Fence at a scope, waiting for earlier loads and stores to be performed. -/
  | fence (scope : BitVec 3)
  /-- WAITC (R132). Waits until an in-flight counter falls to a threshold. -/
  | waitc (sa id : BitVec 6)
  /-- MXWAIT (R132). Waits until BATCHDONE covers a batch. -/
  | mxwait (sa : BitVec 6)
  /-- CPWAIT (R132). Waits until a channel's DONE covers an identifier. -/
  | cpwait (sa id : BitVec 6)
  /-- MXTAKE (R136). Takes the team's matrix-engine token, waiting in order if held. -/
  | mxtake
  /-- MXGIVE (R136). Frees the team's token. -/
  | mxgive
  /-- RDSR (R141). Reads a special register into sd. -/
  | rdsr (sd : BitVec 6) (reg : BitVec 16)
  /-- WRSR (R141). Writes a special register without behaviour of its own. -/
  | wrsr (sa : BitVec 6) (reg : BitVec 16)
  /-- WRSR_FSTAT (R60). Writes FSTAT after earlier flags are ORed in. -/
  | wrsrFstat (sa : BitVec 6) (reg : BitVec 16)
  /-- WRSR_GSTAT (R142). Clears DEADSRC bits or sets DELEG in supervisor mode. -/
  | wrsrGstat (sa : BitVec 6) (reg : BitVec 16)
  /-- WRSR_STREAM (R264). Writes QW0 or QW1 of a stream after checks, waiting for commands naming it. -/
  | wrsrStream (sa : BitVec 6) (reg : BitVec 16)
  /-- WRSR_LINING (R288). Writes LNBASE, LNSIZE, LNHEAD or GMAP after checks, waiting for accepted commands. -/
  | wrsrLining (sa : BitVec 6) (reg : BitVec 16)
  /-- WRSR_EPC (R309). Writes the resumption address and return options. -/
  | wrsrEpc (sa : BitVec 6) (reg : BitVec 16)
  /-- WRSR_TVEC (R314). Writes the delegated trap vector. -/
  | wrsrTvec (sa : BitVec 6) (reg : BitVec 16)
  /-- WRSR_SWAPTH (R41). Sets the core's parking threshold. -/
  | wrsrSwapth (sa : BitVec 6) (reg : BitVec 16)
  /-- WRSR_ILIM (R327). Sets the core's Weir limits, effective next Weir cycle. -/
  | wrsrIlim (sa : BitVec 6) (reg : BitVec 16)
  /-- WRSR_CLKPAT (R329). Sets the cluster's clock pulse pattern. -/
  | wrsrClkpat (sa : BitVec 6) (reg : BitVec 16)
  /-- WRSR_OVMASK (R144). Sets the team's loadable overlay slots. -/
  | wrsrOvmask (sa : BitVec 6) (reg : BitVec 16)
  /-- SYS (R145). Traps with SYS, code in EINFO, EPC at the next bundle. -/
  | sys (code : BitVec 16)
  /-- TRAP (R145). Traps with breakpoint, EPC at the TRAP bundle. -/
  | trap (code : BitVec 16)
  /-- ERET (R313). Leaves supervisor mode, resuming, injecting a replaced access or killing the group. -/
  | eret
  /-- IA_ADD (R154). 32-bit add with carry out to x. -/
  | iaAdd (unit : Bool) (g : Guard) (src : Src)
  /-- IA_ADDC (R154). Add with carry in and carry out. -/
  | iaAddc (unit : Bool) (g : Guard) (src : Src)
  /-- IA_SUB (R154). 32-bit subtract with borrow to x. -/
  | iaSub (unit : Bool) (g : Guard) (src : Src)
  /-- IA_SUBB (R154). Subtract with borrow in and out. -/
  | iaSubb (unit : Bool) (g : Guard) (src : Src)
  /-- IA_MUL (R154). Low 32 bits of the product. -/
  | iaMul (unit : Bool) (g : Guard) (src : Src)
  /-- IA_MULHI (R154). High 32 bits of the signed product. -/
  | iaMulhi (unit : Bool) (g : Guard) (src : Src)
  /-- IA_MULHU (R154). High 32 bits of the unsigned product. -/
  | iaMulhu (unit : Bool) (g : Guard) (src : Src)
  /-- IA_MAD (R154). Low 32 bits of a times b plus c. -/
  | iaMad (unit : Bool) (g : Guard) (src : Src)
  /-- IA_SHL (R155). Shift left by b[4:0]. -/
  | iaShl (unit : Bool) (g : Guard) (src : Src)
  /-- IA_SHR (R155). Logical shift right. -/
  | iaShr (unit : Bool) (g : Guard) (src : Src)
  /-- IA_SAR (R155). Arithmetic shift right. -/
  | iaSar (unit : Bool) (g : Guard) (src : Src)
  /-- IA_ROTL (R155). Rotate left. -/
  | iaRotl (unit : Bool) (g : Guard) (src : Src)
  /-- IA_ROTR (R155). Rotate right. -/
  | iaRotr (unit : Bool) (g : Guard) (src : Src)
  /-- IA_BFX (R156). Extract a sign-extended bit field. -/
  | iaBfx (unit : Bool) (g : Guard) (src : Src)
  /-- IA_BFXU (R156). Extract a zero-extended bit field. -/
  | iaBfxu (unit : Bool) (g : Guard) (src : Src)
  /-- IA_BFI (R156). Insert a bit field. -/
  | iaBfi (unit : Bool) (g : Guard) (src : Src)
  /-- IA_POPC (R157). Population count. -/
  | iaPopc (unit : Bool) (g : Guard) (src : Src)
  /-- IA_CLZ (R157). Count leading zeros. -/
  | iaClz (unit : Bool) (g : Guard) (src : Src)
  /-- IA_CTZ (R157). Count trailing zeros. -/
  | iaCtz (unit : Bool) (g : Guard) (src : Src)
  /-- IA_BREV (R157). Bit reverse. -/
  | iaBrev (unit : Bool) (g : Guard) (src : Src)
  /-- IA_MIN (R158). Signed minimum. -/
  | iaMin (unit : Bool) (g : Guard) (src : Src)
  /-- IA_MAX (R158). Signed maximum. -/
  | iaMax (unit : Bool) (g : Guard) (src : Src)
  /-- IA_MINU (R158). Unsigned minimum. -/
  | iaMinu (unit : Bool) (g : Guard) (src : Src)
  /-- IA_MAXU (R158). Unsigned maximum. -/
  | iaMaxu (unit : Bool) (g : Guard) (src : Src)
  /-- IA_ABS (R158). Wrapping absolute value. -/
  | iaAbs (unit : Bool) (g : Guard) (src : Src)
  /-- IA_ADDS (R158). Signed saturating add. -/
  | iaAdds (unit : Bool) (g : Guard) (src : Src)
  /-- IA_SUBS (R158). Signed saturating subtract. -/
  | iaSubs (unit : Bool) (g : Guard) (src : Src)
  /-- IA_ADDUS (R158). Unsigned saturating add. -/
  | iaAddus (unit : Bool) (g : Guard) (src : Src)
  /-- IA_SUBUS (R158). Unsigned saturating subtract. -/
  | iaSubus (unit : Bool) (g : Guard) (src : Src)
  /-- IA_LEA (R154). a plus b shifted left by c. -/
  | iaLea (unit : Bool) (g : Guard) (src : Src)
  /-- LG_AND (R160). Bitwise AND. -/
  | lgAnd (g : Guard) (src : Src)
  /-- LG_OR (R160). Bitwise OR. -/
  | lgOr (g : Guard) (src : Src)
  /-- LG_XOR (R160). Bitwise XOR. -/
  | lgXor (g : Guard) (src : Src)
  /-- LG_ANDN (R160). a AND NOT b. -/
  | lgAndn (g : Guard) (src : Src)
  /-- LG_NOT (R160). Bitwise NOT. -/
  | lgNot (g : Guard) (src : Src)
  /-- LG_SEL (R160). Selects a or b by c[0]. -/
  | lgSel (g : Guard) (src : Src)
  /-- LG_CEQ (R160). Integer equality compare. -/
  | lgCeq (g : Guard) (src : Src)
  /-- LG_CNE (R160). Integer inequality compare. -/
  | lgCne (g : Guard) (src : Src)
  /-- LG_CLT (R160). Signed less-than compare. -/
  | lgClt (g : Guard) (src : Src)
  /-- LG_CLE (R160). Signed less-or-equal compare. -/
  | lgCle (g : Guard) (src : Src)
  /-- LG_CLTU (R160). Unsigned less-than compare. -/
  | lgCltu (g : Guard) (src : Src)
  /-- LG_CLEU (R160). Unsigned less-or-equal compare. -/
  | lgCleu (g : Guard) (src : Src)
  /-- LG_FCEQ (R161). FP32 equality compare. -/
  | lgFceq (g : Guard) (src : Src)
  /-- LG_FCNE (R161). FP32 inequality compare. -/
  | lgFcne (g : Guard) (src : Src)
  /-- LG_FCLT (R161). FP32 less-than compare, invalid on any NaN. -/
  | lgFclt (g : Guard) (src : Src)
  /-- LG_FCLE (R161). FP32 less-or-equal compare. -/
  | lgFcle (g : Guard) (src : Src)
  /-- LG_FCUN (R161). FP32 unordered test. -/
  | lgFcun (g : Guard) (src : Src)
  /-- LG_FCLS (R162). FP32 class as a one-hot word. -/
  | lgFcls (g : Guard) (src : Src)
  /-- LG_MBIT (R163). Delivers bit lane of the operand. -/
  | lgMbit (g : Guard) (src : Src)
  /-- LG_BSEL (R160). Bitwise select by c. -/
  | lgBsel (g : Guard) (src : Src)
  /-- FM_FMA (R165). Fused FP32 a times b plus c in the named mode. -/
  | fmFma (unit : Bool) (mode : Rounding) (g : Guard) (src : Src)
  /-- FM_FMS (R165). Fused FP32 a times b minus c. -/
  | fmFms (unit : Bool) (mode : Rounding) (g : Guard) (src : Src)
  /-- FM_FNMA (R165). Fused FP32 minus a times b plus c. -/
  | fmFnma (unit : Bool) (mode : Rounding) (g : Guard) (src : Src)
  /-- FM_ADD (R165). FP32 add. -/
  | fmAdd (unit : Bool) (mode : Rounding) (g : Guard) (src : Src)
  /-- FM_SUB (R165). FP32 subtract. -/
  | fmSub (unit : Bool) (mode : Rounding) (g : Guard) (src : Src)
  /-- FM_MUL (R165). FP32 multiply. -/
  | fmMul (unit : Bool) (mode : Rounding) (g : Guard) (src : Src)
  /-- FM_HFMA (R166). FP16 pair fused multiply-add. -/
  | fmHfma (unit : Bool) (mode : Rounding) (g : Guard) (src : Src)
  /-- FM_BFMA (R166). BF16 pair fused multiply-add. -/
  | fmBfma (unit : Bool) (mode : Rounding) (g : Guard) (src : Src)
  /-- FM_CVTH (R167). Narrows two FP32 values to an FP16 pair. -/
  | fmCvth (unit : Bool) (mode : Rounding) (g : Guard) (src : Src)
  /-- FM_CVTB (R167). Narrows two FP32 values to a BF16 pair. -/
  | fmCvtb (unit : Bool) (mode : Rounding) (g : Guard) (src : Src)
  /-- FM_CVTI (R168). FP32 to saturating signed integer. -/
  | fmCvti (unit : Bool) (mode : Rounding) (g : Guard) (src : Src)
  /-- FM_CVTF (R169). Signed integer to FP32. -/
  | fmCvtf (unit : Bool) (mode : Rounding) (g : Guard) (src : Src)
  /-- FM_MIN (R170). FP32 minimumNumber. -/
  | fmMin (unit : Bool) (g : Guard) (src : Src)
  /-- FM_MAX (R170). FP32 maximumNumber. -/
  | fmMax (unit : Bool) (g : Guard) (src : Src)
  /-- FM_NEG (R171). Flips the sign bit. -/
  | fmNeg (unit : Bool) (g : Guard) (src : Src)
  /-- FM_ABS (R171). Clears the sign bit. -/
  | fmAbs (unit : Bool) (g : Guard) (src : Src)
  /-- FM_CSGN (R171). Copies b's sign onto a. -/
  | fmCsgn (unit : Bool) (g : Guard) (src : Src)
  /-- FM_CVTFH (R172). Widens an FP16 pair to two FP32 values. -/
  | fmCvtfh (unit : Bool) (g : Guard) (src : Src)
  /-- FM_CVTFB (R172). Widens a BF16 pair to two FP32 values. -/
  | fmCvtfb (unit : Bool) (g : Guard) (src : Src)
  /-- FM_CVT8 (R173). Encodes FP32 into one T8 element of b. -/
  | fmCvt8 (unit : Bool) (g : Guard) (src : Src)
  /-- FM_CVT6 (R173). Encodes FP32 into one T6 element of b. -/
  | fmCvt6 (unit : Bool) (g : Guard) (src : Src)
  /-- FM_DEC8 (R174). Decodes a T8 element to FP32. -/
  | fmDec8 (unit : Bool) (g : Guard) (src : Src)
  /-- FM_DEC6 (R174). Decodes a T6 element to FP32. -/
  | fmDec6 (unit : Bool) (g : Guard) (src : Src)
  /-- FM_HMIN (R170). FP16 pair minimum. -/
  | fmHmin (unit : Bool) (g : Guard) (src : Src)
  /-- FM_HMAX (R170). FP16 pair maximum. -/
  | fmHmax (unit : Bool) (g : Guard) (src : Src)
  /-- FM_BMIN (R170). BF16 pair minimum. -/
  | fmBmin (unit : Bool) (g : Guard) (src : Src)
  /-- FM_BMAX (R170). BF16 pair maximum. -/
  | fmBmax (unit : Bool) (g : Guard) (src : Src)
  /-- SF_DIV (R175). Correctly rounded FP32 division. -/
  | sfDiv (g : Guard) (src : Src)
  /-- SF_SQRT (R175). Correctly rounded square root. -/
  | sfSqrt (g : Guard) (src : Src)
  /-- SF_RCP (R175). Correctly rounded reciprocal. -/
  | sfRcp (g : Guard) (src : Src)
  /-- SF_RSQRT (R175). Correctly rounded reciprocal square root. -/
  | sfRsqrt (g : Guard) (src : Src)
  /-- SF_EXP2 (R175). Correctly rounded 2^a. -/
  | sfExp2 (g : Guard) (src : Src)
  /-- SF_LOG2 (R175). Correctly rounded log2. -/
  | sfLog2 (g : Guard) (src : Src)
  /-- SF_SINPI (R175). Correctly rounded sin(pi a). -/
  | sfSinpi (g : Guard) (src : Src)
  /-- SF_COSPI (R175). Correctly rounded cos(pi a). -/
  | sfCospi (g : Guard) (src : Src)
  /-- SF_SCPI (R175). sin(pi a) to o and cos(pi a) to x. -/
  | sfScpi (g : Guard) (src : Src)
  /-- XL_SHFL (R180). Reads a of a chosen lane. -/
  | xlShfl (g : Guard) (src : Src)
  /-- XL_SHUP (R180). Reads a of lane l minus d. -/
  | xlShup (g : Guard) (src : Src)
  /-- XL_SHDN (R180). Reads a of lane l plus d. -/
  | xlShdn (g : Guard) (src : Src)
  /-- XL_SHXOR (R180). Reads a of lane l XOR mask. -/
  | xlShxor (g : Guard) (src : Src)
  /-- XL_VANY (R182). 1 if any contributing lane's bit 0 is set. -/
  | xlVany (g : Guard) (src : Src)
  /-- XL_VALL (R182). 1 if every contributing lane's bit 0 is set. -/
  | xlVall (g : Guard) (src : Src)
  /-- XL_BALLOT (R182). Mask of contributing lanes with bit 0 set. -/
  | xlBallot (g : Guard) (src : Src)
  /-- XL_MATCH (R182). Mask of contributing lanes with an equal value. -/
  | xlMatch (g : Guard) (src : Src)
  /-- XL_SCAN (R183). Integer inclusive and exclusive prefix sums. -/
  | xlScan (g : Guard) (src : Src)
  /-- XL_FSCAN (R184). FP32 prefix sums in fixed lane order. -/
  | xlFscan (g : Guard) (src : Src)
  /-- XL_RED (R183). Integer sum reduction. -/
  | xlRed (g : Guard) (src : Src)
  /-- XL_REDMIN (R183). Signed minimum reduction. -/
  | xlRedmin (g : Guard) (src : Src)
  /-- XL_REDMAX (R183). Signed maximum reduction. -/
  | xlRedmax (g : Guard) (src : Src)
  /-- XL_FRED (R184). FP32 sum reduction in fixed order. -/
  | xlFred (g : Guard) (src : Src)
  /-- XL_BLK8 (R185). Encodes the lanes as one T8B32 block. -/
  | xlBlk8 (g : Guard) (src : Src)
  /-- XL_BLK6 (R185). Encodes the lanes as one T6B32 block. -/
  | xlBlk6 (g : Guard) (src : Src)
  /-- SM_SEND (R188). Queues a seam send of each lane's value to the same lane of the target. -/
  | smSend (g : Guard) (src : Src)
  /-- SM_SENDR (R188). Queues a rotated seam send. -/
  | smSendr (g : Guard) (src : Src)
  /-- SM_SENDB (R188). Queues a broadcast of one lane's value to every target lane. -/
  | smSendb (g : Guard) (src : Src)
  /-- LD_LB (R220). Loads a sign-extended byte. -/
  | ldLb (g : Guard) (src : Src)
  /-- LD_LBZ (R220). Loads a zero-extended byte. -/
  | ldLbz (g : Guard) (src : Src)
  /-- LD_LH (R220). Loads a sign-extended halfword. -/
  | ldLh (g : Guard) (src : Src)
  /-- LD_LHZ (R220). Loads a zero-extended halfword. -/
  | ldLhz (g : Guard) (src : Src)
  /-- LD_LW (R220). Loads a word. -/
  | ldLw (g : Guard) (src : Src)
  /-- LD_LD (R220). Loads a doubleword into o and x. -/
  | ldLd (g : Guard) (src : Src)
  /-- LD_LWO (R221). Ordered word load, relaxed or acquire. -/
  | ldLwo (g : Guard) (src : Src)
  /-- LD_LDO (R221). Ordered doubleword load. -/
  | ldLdo (g : Guard) (src : Src)
  /-- LD_TLD (R231). Loads a tensor element through a shape record. -/
  | ldTld (g : Guard) (src : Src)
  /-- LD_LBLK (R223). Makes a load-block unit of 1-64 lines with flag bfN. -/
  | ldLblk (g : Guard) (src : Src)
  /-- LD_PF (R222). Prefetches a line into L1. -/
  | ldPf (g : Guard) (src : Src)
  /-- ST_SB (R224). Stores a byte. -/
  | stSb (g : Guard) (src : Src)
  /-- ST_SH (R224). Stores a halfword. -/
  | stSh (g : Guard) (src : Src)
  /-- ST_SW (R224). Stores a word. -/
  | stSw (g : Guard) (src : Src)
  /-- ST_SD (R224). Stores a doubleword. -/
  | stSd (g : Guard) (src : Src)
  /-- ST_SWO (R225). Ordered word store, relaxed or release. -/
  | stSwo (g : Guard) (src : Src)
  /-- ST_SDO (R225). Ordered doubleword store. -/
  | stSdo (g : Guard) (src : Src)
  /-- ST_TST (R232). Stores a tensor element through a shape record. -/
  | stTst (g : Guard) (src : Src)
  /-- ST_AADD (R226). Atomic integer add returning the old word. -/
  | stAadd (g : Guard) (src : Src)
  /-- ST_AFADD (R226). Atomic FP32 add. -/
  | stAfadd (g : Guard) (src : Src)
  /-- ST_AMIN (R226). Atomic signed minimum. -/
  | stAmin (g : Guard) (src : Src)
  /-- ST_AMAX (R226). Atomic signed maximum. -/
  | stAmax (g : Guard) (src : Src)
  /-- ST_AMINU (R226). Atomic unsigned minimum. -/
  | stAminu (g : Guard) (src : Src)
  /-- ST_AMAXU (R226). Atomic unsigned maximum. -/
  | stAmaxu (g : Guard) (src : Src)
  /-- ST_AAND (R226). Atomic AND. -/
  | stAand (g : Guard) (src : Src)
  /-- ST_AOR (R226). Atomic OR. -/
  | stAor (g : Guard) (src : Src)
  /-- ST_AXOR (R226). Atomic XOR. -/
  | stAxor (g : Guard) (src : Src)
  /-- ST_AXCH (R226). Atomic exchange. -/
  | stAxch (g : Guard) (src : Src)
  /-- ST_ACAS (R226). Atomic compare and swap. -/
  | stAcas (g : Guard) (src : Src)
  /-- ST_RADD (R227). Reducing integer add store. -/
  | stRadd (g : Guard) (src : Src)
  /-- ST_RFADD (R227). Reducing FP32 add store. -/
  | stRfadd (g : Guard) (src : Src)
  /-- ST_MCST (R229). Multicast store to every destination of a list. -/
  | stMcst (g : Guard) (src : Src)
  /-- MX_TMMA (R271). Submits a tile matrix product-accumulate. -/
  | mxTmma (src : Src)
  /-- MX_TOUT (R276). Submits bias, activation and requantisation of an accumulator into an output tile. -/
  | mxTout (src : Src)
  /-- MX_TFILL (R272). Submits an accumulator fill from a stream tile. -/
  | mxTfill (src : Src)
  /-- MX_TABLE_LOAD (R278). TFILL with TBL set loads an activation table. -/
  | mxTableLoad (src : Src)
  /-- MX_TZERO (R273). Submits zeroing of an accumulator region. -/
  | mxTzero (src : Src)
  /-- MX_TEW_ADD (R274). Submits an elementwise add. -/
  | mxTewAdd (src : Src)
  /-- MX_TEW_MUL (R274). Submits an elementwise multiply. -/
  | mxTewMul (src : Src)
  /-- MX_TEW_SCALE (R274). Submits an elementwise scale. -/
  | mxTewScale (src : Src)
  /-- MX_TRED_ROW (R275). Submits a row reduction. -/
  | mxTredRow (src : Src)
  /-- MX_TRED_COL (R275). Submits a column reduction. -/
  | mxTredCol (src : Src)
  /-- MX_TTRN (R273). Submits a transpose. -/
  | mxTtrn (src : Src)
  /-- MX_MXFENCE (R281). Closes accepted commands into a numbered batch. -/
  | mxMxfence (src : Src)
  /-- MX_QADV (R280). Advances a stream's HEAD or TAIL at issue. -/
  | mxQadv (src : Src)
  /-- CP_COPY1 (R236). Submits a 1-D copy to the block-transfer engine. -/
  | cpCopy1 (src : Src)
  /-- CP_COPY2 (R236). Submits a 2-D copy. -/
  | cpCopy2 (src : Src)
  /-- CP_COPYT (R236). Submits a tensor copy between shape records. -/
  | cpCopyt (src : Src)
  /-- CP_MCAST (R236). Submits a multicast copy. -/
  | cpMcast (src : Src)
  /-- CP_FILL (R236). Submits a fill with a 64-bit value. -/
  | cpFill (src : Src)
  /-- CP_COLL (R236). Submits a collective descriptor to the collective engine. -/
  | cpColl (src : Src)
  /-- CP_OVL (R236). Submits an overlay load into a slot. -/
  | cpOvl (src : Src)
  /-- RESULT_DELIVERY (R89). A fixed-latency unit result becomes due and is delivered to its port with its flags. -/
  | resultDelivery (group seq : Nat) (retried poisoned : Mask)
  /-- LOAD_DATA_RETURN (R220). A lane load's data returns, fills the port and lowers its in-flight counter. -/
  | loadDataReturn (group seq : Nat)
  /-- SCALAR_LOAD_RETURN (R117). SLD or SLDQ data returns and is written to the s-register. -/
  | scalarLoadReturn (group seq : Nat)
  /-- STORE_ACCEPT (R208). A store, atomic or reducing store is accepted at its coherence point and lowers P1 or P2. -/
  | storeAccept (group seq : Nat)
  /-- PREFETCH_FILL (R222). A prefetch line is filled or dropped and P0 is lowered. -/
  | prefetchFill (group seq : Nat)
  /-- LBLK_FILL_COMPLETE (R207). Every line of a load-block unit is filled; bfN is set and P4 lowered. -/
  | lblkFillComplete (core team flag : Nat)
  /-- LBLK_LINE_INVALIDATE (R207). Another agent's write invalidates one line of a load-block unit. -/
  | lblkLineInvalidate (core team flag line : Nat)
  /-- POLDER_RECALL (R204). The directory recalls a Polder line, writing back dirty data and invalidating it. -/
  | polderRecall (core line : Nat) (exclusive : Bool)
  /-- SEAM_DELIVERY (R189). A queued send is delivered to the target slot once it is empty in every written lane. -/
  | seamDelivery (group : Nat)
  /-- HELD_SPLIT_TIMEOUT (R22). After 1,024 group bundles a held split's join is cleared and it continues alone. -/
  | heldSplitTimeout (group split : Nat)
  /-- SPLIT_STARVATION_PRESENT (R24). A split eligible but unpresented for 256 group bundles is presented next. -/
  | splitStarvationPresent (group split : Nat)
  /-- CONTEXT_STARVATION_PRIMARY (R46). A context ready for 64 cycles without issuing becomes primary. -/
  | contextStarvationPrimary (group : Nat)
  /-- YIELD_END (R49). Eight cycles after a Y=1 bundle the context may again be taken as primary. -/
  | yieldEnd (group : Nat)
  /-- REGCLAIM_SERVED (R17). A waiting claim is served once the pool holds it; new registers read 0. -/
  | regclaimServed (cluster : Nat)
  /-- SPAWN_QUEUE_ROOM (R133). A SPAWN waiting for a free queue entry appends its descriptor. -/
  | spawnQueueRoom (group : Nat)
  /-- SPAWN_EVENT_WAKE (R133). A 0b01 completion event of the spawned task ends a waiting SPAWN. -/
  | spawnEventWake (group : Nat)
  /-- PFLUSH_COMPLETE (R140). Every write-back of a PFLUSH is visible at system scope and the wait ends. -/
  | pflushComplete (group : Nat)
  /-- OVERLAY_LOAD_COMPLETE (R139). An overlay load finishes, setting OVRES, or fails leaving it clear. -/
  | overlayLoadComplete (core slot : Nat)
  /-- BARRIER_PHASE_COMPLETE (R129). A barrier phase completes and waiting BARWs return as team acquires. -/
  | barrierPhaseComplete (team id : Nat)
  /-- DSYNC_COMPLETE (R19). Every domain member has issued DSYNC for the phase and all complete. -/
  | dsyncComplete (domain : Nat)
  /-- FENCE_COMPLETE (R131). Earlier accesses are performed at the scope and later accesses may proceed. -/
  | fenceComplete (group seq : Nat)
  /-- WAITC_COMPLETE (R132). The in-flight counter reaches the threshold and the wait ends. -/
  | waitcComplete (group : Nat)
  /-- MXWAIT_COMPLETE (R132). The awaited batch completes; the wait returns as an acquire or after-traps on a reportable batch. -/
  | mxwaitComplete (group : Nat)
  /-- CPWAIT_COMPLETE (R239). CHDONE covers the identifier; the wait returns or after-traps on the first failed command. -/
  | cpwaitComplete (group : Nat)
  /-- MXTAKE_GRANT (R136). The freed token passes to the earliest waiting MXTAKE. -/
  | mxtakeGrant (team : Nat)
  /-- STREAM_WRITE_WAIT_END (R264). Commands naming the stream have retired; the write takes effect or after-traps. -/
  | streamWriteWaitEnd (group : Nat)
  /-- LINING_WRITE_WAIT_END (R288). Accepted commands have retired; the Lining write is rechecked and takes effect or after-traps. -/
  | liningWriteWaitEnd (group : Nat)
  /-- MX_COMMAND_START (R265). A team's next command starts once its streams allow and its Polder lines and pages are prepared. -/
  | mxCommandStart (team : Nat)
  /-- MX_COMMAND_RETIRE (R261). A command's writes are performed, stream pointers move and any barrier signal is made. -/
  | mxCommandRetire (team : Nat) (poisoned : Bool)
  /-- BATCH_COMPLETE (R281). A batch completes, its status record is written and BATCHDONE covers it. -/
  | batchComplete (team : Nat)
  /-- REVERSE_ENTRY (R299). The reverse walk checks and processes one Lining entry's adjoint. -/
  | reverseEntry (team : Nat) (poisoned : Bool)
  /-- REVERSE_SUSPEND (R304). The engine suspends a REVERSE between entries and later resumes it at CUR. -/
  | reverseSuspend (team : Nat)
  /-- COPY_START (R235). A buffered command starts once its issue time is met and its channel predecessor has completed. -/
  | copyStart (core cmd : Nat)
  /-- COPY_RESUME (R238). After a successful response the command resumes at q. -/
  | copyResume (core cmd : Nat)
  /-- COPY_COMPLETE (R237). Every destination byte is performed and CHDONE.DONE advances. -/
  | copyComplete (core cmd : Nat)
  /-- COLL_CALL (R366). The collective engine runs a collective with the ranks of its group and sequence. -/
  | collCall (core cmd : Nat) (ranks : List CollRank)
  /-- COLL_JOIN_TIMEOUT (R367). A rank not joining within 100 ms fails the call on every rank. -/
  | collJoinTimeout (core cmd : Nat)
  /-- TASK_FETCH (R379). A dispatcher reads a task at a queue head and judges its head conditions. -/
  | taskFetch (queue : QueueRef)
  /-- DEPENDENCE_POLL (R35). A dispatcher rereads pending dependence records on a 0b10 event or after 10,000 ticks. -/
  | dependencePoll (queue : QueueRef)
  /-- TASK_PRIORITY_RISE (R37). An eligible head undispatched for 1,000,000 ticks rises one priority level. -/
  | taskPriorityRise (queue : QueueRef)
  /-- TASK_DISPATCH (R36). The dispatcher selects an eligible head and offers its teams or hands it to the walker, writing REMAIN. -/
  | taskDispatch (dispatcher : Nat)
  /-- WALKER_EXPAND (R31). The loop-nest walker expands an operator task into tile steps. -/
  | walkerExpand (task : Nat)
  /-- TILE_STEP_LAUNCH (R31). A tile step launches once its chain predecessor has retired. -/
  | tileStepLaunch (task : Nat)
  /-- TEAM_ADMIT (R39). A core admits an offered team when its table, scratchpad and barrier resources are free, clearing its scratchpad. -/
  | teamAdmit (team core : Nat)
  /-- TEAM_RESIDENT (R39). An admitted or ready team becomes resident when its contexts and registers are free. -/
  | teamResident (team : Nat) (clusters : List Nat)
  /-- TEAM_PARK (R40). A team waiting SWAPTH ticks is parked when the park area has room. -/
  | teamPark (team : Nat)
  /-- TEAM_READY (R42). A parked team's group wait condition is met and the team becomes ready to resume. -/
  | teamReady (team : Nat)
  /-- PREEMPT (R317). A core switches out contexts for a higher-priority ready team. -/
  | preempt (team : Nat)
  /-- TEAM_RETIRE (R43). A team whose groups and engine work are done retires, releases its resources and decrements REMAIN. -/
  | teamRetire (team : Nat)
  /-- PAGE_RESPONSE_OK (R214). A successful FQRESP lowers the requester's missing-page count. -/
  | pageResponseOk (func : Nat) (tag : BitVec 16)
  /-- PAGE_RESPONSE_FAIL (R214). A failed FQRESP turns the fault into a permission trap or a task failure. -/
  | pageResponseFail (func : Nat) (tag : BitVec 16)
  /-- PRI_RESPONSE (R214). A host PRI response succeeds or fails for a host-page request. -/
  | priResponse (func : Nat) (tag : BitVec 16) (ok : Bool)
  /-- INV_PAGE (R357). INVCMD KIND 0b00 invalidates the page holding INVADDR. -/
  | invPage (func : Nat) (asid : BitVec 20)
  /-- INV_ASID (R357). INVCMD KIND 0b01 invalidates a whole ASID. -/
  | invAsid (func : Nat) (asid : BitVec 20)
  /-- INV_FUNCTION (R357). INVCMD KIND 0b10 invalidates every ASID of the function. -/
  | invFunction (func : Nat)
  /-- ATS_INVALIDATE_REQUEST (R357). A host ATS Invalidate Request is served for its host pages. -/
  | atsInvalidateRequest (func : Nat) (asid : BitVec 20) (va : Nat)
  /-- INVALIDATION_END (R200). TLB entries are removed, windows zeroed and old accesses performed; BUSY clears and INVDONE is set. -/
  | invalidationEnd (func : Nat)
  /-- QTAIL_NOTIFY (R360). A write to QTAIL notifies the queue or is refused with BADTAIL. -/
  | qtailNotify (func queue : Nat) (part : WPart) (relaxed : Bool) (val : DWord)
  /-- QUEUE_CONFIG_WRITE (R359). A write of QBASE or QCTL, dropped while enabled unless it clears EN. -/
  | queueConfigWrite (func queue : Nat) (ctl : Bool) (part : WPart) (val : DWord)
  /-- QOWN_WRITE (R354). Sets queue owners, dropped for invalid values or enabled queues. -/
  | qownWrite (func offset : Nat) (part : WPart) (val : DWord)
  /-- FQCTL_WRITE (R358). Sets fault queue HEAD, vector and size, dropped whole for a bad size. -/
  | fqctlWrite (func : Nat) (part : WPart) (val : DWord)
  /-- PCAP_WRITE (R334). Sets the package cap and recomputes EFFCAP. -/
  | pcapWrite (func : Nat) (part : WPart) (val : DWord)
  /-- PFLOOR_WRITE (R334). Sets a partition floor unless the floors would exceed 1,600 W. -/
  | pfloorWrite (func index : Nat) (part : WPart) (val : DWord)
  /-- DIDT_DN_WRITE (R333). Sets the largest per-cycle fall; a zero is dropped. -/
  | didtDnWrite (func : Nat) (part : WPart) (val : DWord)
  /-- LINKCFG_WRITE (R362). Sets module identity and per-port least widths, widening ports at once. -/
  | linkcfgWrite (func : Nat) (part : WPart) (val : DWord)
  /-- PARTMAP_WRITE (R361). Assigns half-dies to partitions unless one holds an admitted team. -/
  | partmapWrite (func : Nat) (part : WPart) (val : DWord)
  /-- FPART_WRITE (R361). Assigns functions to partitions unless a function has work. -/
  | fpartWrite (func : Nat) (part : WPart) (val : DWord)
  /-- PARTCTL_WRITE (R361). Sets partition SECURE and HOLD bits. -/
  | partctlWrite (func : Nat) (part : WPart) (val : DWord)
  /-- PARTITION_PREEMPT (R361). A PREEMPT bit written 1 switches out every resident context of the partition. -/
  | partitionPreempt (part : Nat)
  /-- SVLOAD_GO (R362). Loads a supervisor image into slot 7 of every core and measures it. -/
  | svloadGo (func : Nat) (part : WPart) (val : DWord)
  /-- MBOX_REPORT (R374). MBOXCMD 0x01 produces a signed attestation report or refuses. -/
  | mboxReport (func : Nat)
  /-- MBOX_ALARM_LOG (R374). MBOXCMD 0x02 writes the alarm log. -/
  | mboxAlarmLog (func : Nat)
  /-- MBOX_BAD_COMMAND (R374). An unknown MBOXCMD code gives STATUS 0x02. -/
  | mboxBadCommand (func : Nat) (cmd : BitVec 8)
  /-- REGISTER_WRITE (R354). A host write of a register without behaviour of its own, W1C bits included. -/
  | registerWrite (func offset : Nat) (part : WPart) (val : DWord)
  /-- FLIT_RECEIVE (R364). A received flit is checked, acknowledged or answered with NAK. -/
  | flitReceive (port : Nat) (flit : List Byte)
  /-- FLIT_REPLAY (R364). A NAK makes the sender replay from ACKSEQ + 1. -/
  | flitReplay (port : Nat)
  /-- PORT_DOWN (R364). A port goes down on replays, loss of lock or acknowledgement timeout, and retrains or is retired. -/
  | portDown (port : Nat) (cause : PortDownCause)
  /-- LINK_NARROW (R340). A link direction halves its width after 100 µs below 25% utilisation. -/
  | linkNarrow (port : Nat) (m : LinkMeasure)
  /-- LINK_WIDEN (R340). A link direction doubles its width on queue depth or high utilisation. -/
  | linkWiden (port : Nat) (m : LinkMeasure)
  /-- PEER_INBOUND_ACCESS (R363). An inbound peer access is served or refused by the PF's windows. -/
  | peerInboundAccess (acc : PeerAccess)
  /-- PEER_ACKNOWLEDGE (R258). A peer acknowledges an access, which is then performed at system scope. -/
  | peerAcknowledge (group seq : Nat)
  /-- WEIR_CYCLE (R325). The Weir sums the window weight, freezes the core if over limit and recomputes pressure. -/
  | weirCycle (core : Nat)
  /-- PRED_RISE (R330). PRED rises after 256 Weir cycles at level 1 or 2. -/
  | predRise (core : Nat)
  /-- PRED_FALL (R330). PRED falls after 256 Weir cycles at level 0, ending FORCED. -/
  | predFall (core : Nat)
  /-- FORCED_CHECK (R331). 10,000 ticks after PRED rises the level is checked and the forced pattern may apply. -/
  | forcedCheck (core : Nat)
  /-- CAP_CONTROLLER_PERIOD (R335). Every 1,000 ticks the cap controller measures power and sets each core's budget. -/
  | capControllerPeriod (m : PowerMeasure)
  /-- ENGINE_THROTTLE_WINDOW (R337). Each 64 engine cycles undeclared busy cycles are charged and the context throttled. -/
  | engineThrottleWindow (core group busy narrow wide : Nat)
  /-- HINT_ONSET (R338). A hint's staggered effective onset arrives and sets the declared intensity. -/
  | hintOnset (group : Nat)
  /-- HINT_EXPIRY (R336). A hint's length passes and the intensity returns to PCLS. -/
  | hintExpiry (group : Nat)
  /-- TAMPER_ALARM (R375). A tamper sensor raises an alarm at its level, possibly erasing keys. -/
  | tamperAlarm (sensor : Sensor)
  /-- MODULE_RESET (R376). Conventional reset or PF FLR runs bring-up through DEVREADY. -/
  | moduleReset (cause : ResetCause)
  /-- VF_FLR (R376). A VF Function Level Reset disables its queues, ends its teams and resets its registers. -/
  | vfFlr (vf : Nat)
  /-- PORT_UP (R364). A Flisia port finishes training or retraining and comes up, setting FEVENT.LINK. -/
  | portUp (port : Nat)
  /-- SVLOAD_LOAD_END (R362). The supervisor image load into slot 7 of a core ends and sets OVRES bit 7, waking contexts frozen on slot 7. -/
  | svloadLoadEnd (core : Nat)
  /-- MAILBOX_COMMAND_END (R374). A running mailbox command finishes, writes its report or log, sets STATUS and clears BUSY. -/
  | mailboxCommandEnd (func : Nat)
  deriving DecidableEq, Repr

end Sys2Proof
end

