-- ==== Sys2Proof/Machine/Legal.lean ====
section
/-!
DEFINITION. Which encodings are instructions (R110): the static checks on a bundle's fields, one function per row of R110's table.
Checks that need state (register counts, branch targets, legacy width, `fclr` bits 12:8) are made when the bundle is presented.
-/

namespace Sys2Proof.Machine

/-- The unit a trigger starts (R84). -/
def triggerUnit : Trigger → FUnit
  | .ia false _ => .ia0
  | .ia true _ => .ia1
  | .lg _ => .lg
  | .fm false _ => .fm0
  | .fm true _ => .fm1
  | .sf _ => .sf
  | .xl _ => .xl
  | .sm _ => .sm
  | .ld _ => .ld
  | .st _ => .st
  | .mx _ => .mx
  | .cp _ => .cp

/-- Whether a unit has a latch (R84). -/
def unitHasLatch (u : FUnit) (l : LatchName) : Bool :=
  match u, l with
  | .sp, _ => false
  | .ld, .w => true
  | .st, .w => true
  | _, .w => false
  | .sf, .c => false
  | .mx, .c => false
  | _, _ => true

/-- Whether a unit has a result port; `x = false` is port o (R84). -/
def unitHasPort (u : FUnit) (x : Bool) : Bool :=
  match u, x with
  | .sm, _ => false
  | .lg, true => false
  | .st, true => false
  | .mx, true => false
  | .cp, true => false
  | _, _ => true

/-- mx and cp have group-uniform 64-bit latches (R83). -/
def unitUniform (u : FUnit) : Bool := u == .mx || u == .cp

/-- The sources a uniform latch or trigger takes (R83): `s0`-`s63`, an immediate or a long immediate. -/
def sourceUniform : Src → Bool
  | .s _ => true
  | .imm _ => true
  | .lim _ => true
  | _ => false

/-- `w0`-`w7` and `spad`, for `w` latches only (R83). -/
def sourceWindow : Src → Bool
  | .w _ => true
  | .spad => true
  | _ => false

/-- Whether a slot holds a long immediate (R77). -/
def slotIsLim : Slot → Bool
  | .lim _ => true
  | _ => false

/-- A source field is legal by itself (R81, R82, R110). -/
def sourceLegal (slots : List Slot) : Src → Bool
  | .v i => decide (i.toNat < 320)
  | .port u x => unitHasPort u x
  | .lim i => slotIsLim (slots.getD i.toNat .empty)
  | _ => true

/-- What orders an ordered memory operation allows (R103). -/
inductive OrderKind where
  | load | store | atomic
  deriving DecidableEq, Repr

/-- The ordered memory operations (R103). -/
def orderKind : Trigger → Option OrderKind
  | .ld .lwo => some .load
  | .ld .ldo => some .load
  | .st .swo => some .store
  | .st .sdo => some .store
  | .st .radd => some .store
  | .st .rfadd => some .store
  | .st .aadd => some .atomic
  | .st .afadd => some .atomic
  | .st .amin => some .atomic
  | .st .amax => some .atomic
  | .st .aminu => some .atomic
  | .st .amaxu => some .atomic
  | .st .aand => some .atomic
  | .st .aor => some .atomic
  | .st .axor => some .atomic
  | .st .axch => some .atomic
  | .st .acas => some .atomic
  | _ => none

/-- The order operand (R103): bits 11:5 zero, a scope code 0-5, an order the operation allows. -/
def orderLegal (k : OrderKind) (i : BitVec 12) : Bool :=
  decide (i.toNat < 32) && decide (i.toNat / 4 ≤ 5) &&
    match k with
    | .load => decide (i.toNat % 4 ≤ 1)
    | .store => decide (i.toNat % 4 = 0 ∨ i.toNat % 4 = 2)
    | .atomic => true

/-- An immediate source (R81). -/
def sourceImm : Src → Bool
  | .imm _ => true
  | _ => false

/-- The source a trigger takes (R83, R88, R103). -/
def triggerSourceLegal (t : Trigger) (src : Src) : Bool :=
  match orderKind t, src with
  | some k, .imm i => orderLegal k i
  | some _, _ => false
  | none, src =>
    if t = .mx .mxfence then sourceImm src
    else if unitUniform (triggerUnit t) then sourceUniform src
    else !sourceWindow src

/-- A destination with its source (R79, R80, R83, R88, R91, R92). -/
def destLegal (d : Dst) (src : Src) : Bool :=
  match d with
  | .v i => decide (i.toNat < 320) && !sourceWindow src
  | .latch u l _ =>
    unitHasLatch u l &&
      (if l = .w then sourceWindow src else if unitUniform u then sourceUniform src else !sourceWindow src)
  | .trig t => triggerSourceLegal t src
  | .mask i => decide (i ≠ 0) && !sourceWindow src
  | .e _ => decide (src = .imm 0)
  | .fclr => sourceUniform src

/-- Whether a destination belongs to mx or cp, whose moves are unguarded (R83). -/
def destUniform : Dst → Bool
  | .latch u _ _ => unitUniform u
  | .trig t => unitUniform (triggerUnit t)
  | _ => false

/-- A guard with its destination (R83, R85). -/
def guardLegal (g : Guard) (d : Dst) : Bool :=
  if g.mask = 0 then !g.inv else !destUniform d

/-- A move's fields are legal (R110). The move whose 32 bits are all zero is the empty slot (R77), not a move. -/
def moveLegal (slots : List Slot) (m : Move) : Bool :=
  guardLegal m.g m.dst && sourceLegal slots m.src && destLegal m.dst m.src &&
    decide (m ≠ { g := { mask := 0, inv := false }, dst := .v 0, src := .v 0 })

/-- Two destinations that one bundle may not both name (R88): the same place, or two triggers of one unit. -/
def sameDest (d e : Dst) : Bool :=
  match d, e with
  | .v i, .v j => decide (i = j)
  | .latch u l _, .latch u' l' _ => decide (u = u' ∧ l = l')
  | .trig t, .trig t' => decide (triggerUnit t = triggerUnit t')
  | .mask i, .mask j => decide (i = j)
  | .e i, .e j => decide (i = j)
  | .fclr, .fclr => true
  | _, _ => false

/-- Whether a slot's move names the destination `d`. -/
def slotNames (d : Dst) : Slot → Bool
  | .move m => sameDest d m.dst
  | _ => false

/-- A slot is legal beside the slots before it. -/
def slotLegal (slots before : List Slot) : Slot → Bool
  | .move m => moveLegal slots m && !(before.any (slotNames m.dst))
  | _ => true

/-- The first illegal slot of `rest`, whose first slot has number `k`. -/
def firstIllegalSlot (slots before : List Slot) (k : Nat) : List Slot → Option Nat
  | [] => none
  | x :: rest =>
    if slotLegal slots before x then firstIllegalSlot slots (before ++ [x]) (k + 1) rest else some k

/-- The special registers of R141's table; every other number is an illegal encoding. -/
def regAssigned (n : Nat) : Bool :=
  decide (n ≤ 4) || decide (8 ≤ n ∧ n ≤ 0xC) || decide (0x10 ≤ n ∧ n ≤ 0x12) || decide (0x18 ≤ n ∧ n ≤ 0x1F) ||
  decide (0x20 ≤ n ∧ n ≤ 0x2A) || decide (0x40 ≤ n ∧ n ≤ 0x60) || decide (n = 0x70) || decide (n = 0x71) ||
  decide (0x80 ≤ n ∧ n ≤ 0x82) || decide (0x100 ≤ n ∧ n ≤ 0x104) || decide (n = 0x110) ||
  decide (0x120 ≤ n ∧ n ≤ 0x123) || decide (0x128 ≤ n ∧ n ≤ 0x12F)

/-- Register and id fields within the ranges of R96, R109 and the operations' own rules. -/
def scalarLegal : ScalarOp → Bool
  | .sldq sd _ _ _ => decide (sd.toNat ≤ 62)
  | .sstq sd _ _ _ => decide (sd.toNat ≤ 62)
  | .mwr m _ _ _ => decide (m ≠ 0)
  | .reverse sd => decide (sd ≠ 0)
  | .bd _ _ _ join => decide (join ≠ 0)
  | .loop _ n => decide (1 ≤ n.toNat ∧ n.toNat ≤ 62)
  | .bara _ _ id scope => decide (id.toNat < 32) && decide (scope.toNat ≤ 1)
  | .barw id scope => decide (id.toNat < 32) && decide (scope.toNat ≤ 1)
  | .dsync scope => decide (2 ≤ scope.toNat ∧ scope.toNat ≤ 4)
  | .fence scope => decide (scope.toNat ≤ 5)
  | .waitc _ id => decide (id.toNat ≤ 5)
  | .cpwait _ id => decide (id.toNat ≤ 7)
  | .rdsr _ reg => regAssigned reg.toNat
  | .wrsr _ reg => regAssigned reg.toNat
  | _ => true

/-- The first illegal field of a bundle: a move slot 0-5, or 6 for the scalar slot (R308 SLOT). -/
def firstIllegal (b : Bundle) : Option Nat :=
  match firstIllegalSlot b.slots [] 0 b.slots with
  | some k => some k
  | none => match b.scalar with
    | some op => if scalarLegal op then none else some 6
    | none => none

/-- A bundle of six slots with no illegal field (R110). -/
def bundleLegal (b : Bundle) : Bool := decide (b.slots.length = 6) && decide (firstIllegal b = none)

end Sys2Proof.Machine
end

