-- ==== Sys2Proof/Machine/Forms.lean ====
section
/-!
DEFINITION. The bundle an instruction stands for, and the instruction a bundle is. A bundle that holds exactly one operation (one
trigger move in slot 0, or a scalar operation alone, with LA = 0 and Y = 0) has that operation's own constructor; every other
bundle is `bundleIssue`. The device's events are no bundle.
-/

namespace Sys2Proof.Machine

/-- The guard m0 (R85). -/
def noGuard : Guard := { mask := 0, inv := false }

/-- A bundle that holds one trigger move. -/
def triggerBundle (t : Trigger) (g : Guard) (src : Src) : Bundle :=
  { la := 0, y := false, slots := [.move { g := g, dst := .trig t, src := src }, .empty, .empty, .empty, .empty, .empty],
    scalar := none }

/-- A bundle that holds one scalar operation. -/
def scalarBundle (op : ScalarOp) : Bundle :=
  { la := 0, y := false, slots := [.empty, .empty, .empty, .empty, .empty, .empty], scalar := some op }

/-- The bundle of an instruction, none for an event. -/
def toBundle (i : Instr) : Option Bundle :=
  match i with
  | .bundleIssue b => some b
  | .resultDelivery _ _ _ _ => none
  | .loadDataReturn _ _ => none
  | .scalarLoadReturn _ _ => none
  | .storeAccept _ _ => none
  | .prefetchFill _ _ => none
  | .lblkFillComplete _ _ _ => none
  | .lblkLineInvalidate _ _ _ _ => none
  | .polderRecall _ _ _ => none
  | .seamDelivery _ => none
  | .heldSplitTimeout _ _ => none
  | .splitStarvationPresent _ _ => none
  | .contextStarvationPrimary _ => none
  | .yieldEnd _ => none
  | .add sd sa sb imm => some (scalarBundle (.alu .add sd sa sb imm))
  | .sub sd sa sb imm => some (scalarBundle (.alu .sub sd sa sb imm))
  | .mul sd sa sb imm => some (scalarBundle (.alu .mul sd sa sb imm))
  | .mulh sd sa sb imm => some (scalarBundle (.alu .mulh sd sa sb imm))
  | .and sd sa sb imm => some (scalarBundle (.alu .and sd sa sb imm))
  | .or sd sa sb imm => some (scalarBundle (.alu .or sd sa sb imm))
  | .xor sd sa sb imm => some (scalarBundle (.alu .xor sd sa sb imm))
  | .shl sd sa sb imm => some (scalarBundle (.alu .shl sd sa sb imm))
  | .shr sd sa sb imm => some (scalarBundle (.alu .shr sd sa sb imm))
  | .sar sd sa sb imm => some (scalarBundle (.alu .sar sd sa sb imm))
  | .min sd sa sb imm => some (scalarBundle (.alu .min sd sa sb imm))
  | .max sd sa sb imm => some (scalarBundle (.alu .max sd sa sb imm))
  | .minu sd sa sb imm => some (scalarBundle (.alu .minu sd sa sb imm))
  | .maxu sd sa sb imm => some (scalarBundle (.alu .maxu sd sa sb imm))
  | .ceq sd sa sb imm => some (scalarBundle (.alu .ceq sd sa sb imm))
  | .clt sd sa sb imm => some (scalarBundle (.alu .clt sd sa sb imm))
  | .cltu sd sa sb imm => some (scalarBundle (.alu .cltu sd sa sb imm))
  | .sld sd sa sb imm => some (scalarBundle (.sld sd sa sb imm))
  | .sst sd sa sb imm => some (scalarBundle (.sst sd sa sb imm))
  | .sldq sd sa sb imm => some (scalarBundle (.sldq sd sa sb imm))
  | .sstq sd sa sb imm => some (scalarBundle (.sstq sd sa sb imm))
  | .mrd sd mask => some (scalarBundle (.mrd sd mask))
  | .mwr mask sa sb imm => some (scalarBundle (.mwr mask sa sb imm))
  | .basew win sa sb imm => some (scalarBundle (.basew win sa sb imm))
  | .reggive sb imm => some (scalarBundle (.reggive sb imm))
  | .regclaim sb imm => some (scalarBundle (.regclaim sb imm))
  | .regclaimServed _ => none
  | .ret sa => some (scalarBundle (.ret sa))
  | .exit => some (scalarBundle (.exit))
  | .recbeg => some (scalarBundle (.recbeg))
  | .recend => some (scalarBundle (.recend))
  | .reverse sd => some (scalarBundle (.reverse sd))
  | .spawn sd sa sb imm => some (scalarBundle (.spawn sd sa sb imm))
  | .spawnQueueRoom _ => none
  | .spawnEventWake _ => none
  | .pmap sd sa sb imm => some (scalarBundle (.pmap sd sa sb imm))
  | .pflush sa sb imm => some (scalarBundle (.pflush sa sb imm))
  | .pflushComplete _ => none
  | .ovload sa sb imm => some (scalarBundle (.ovload sa sb imm))
  | .overlayLoadComplete _ _ => none
  | .ovcall sa sb imm => some (scalarBundle (.ovcall sa sb imm))
  | .phint sa sb imm => some (scalarBundle (.phint sa sb imm))
  | .li sd imm => some (scalarBundle (.li sd imm))
  | .liz sd imm => some (scalarBundle (.liz sd imm))
  | .lih sd imm => some (scalarBundle (.lih sd imm))
  | .bd inv mask target join => some (scalarBundle (.bd inv mask target join))
  | .bu inv mask target => some (scalarBundle (.bu inv mask target))
  | .call target => some (scalarBundle (.call target))
  | .loop target counter => some (scalarBundle (.loop target counter))
  | .bara sa sb id scope => some (scalarBundle (.bara sa sb id scope))
  | .barw id scope => some (scalarBundle (.barw id scope))
  | .barrierPhaseComplete _ _ => none
  | .dsync scope => some (scalarBundle (.dsync scope))
  | .dsyncComplete _ => none
  | .fence scope => some (scalarBundle (.fence scope))
  | .fenceComplete _ _ => none
  | .waitc sa id => some (scalarBundle (.waitc sa id))
  | .waitcComplete _ => none
  | .mxwait sa => some (scalarBundle (.mxwait sa))
  | .mxwaitComplete _ => none
  | .cpwait sa id => some (scalarBundle (.cpwait sa id))
  | .cpwaitComplete _ => none
  | .mxtake => some (scalarBundle (.mxtake))
  | .mxtakeGrant _ => none
  | .mxgive => some (scalarBundle (.mxgive))
  | .rdsr sd reg => some (scalarBundle (.rdsr sd reg))
  | .wrsr sa reg => some (scalarBundle (.wrsr sa reg))
  | .wrsrFstat sa reg => some (scalarBundle (.wrsr sa reg))
  | .wrsrGstat sa reg => some (scalarBundle (.wrsr sa reg))
  | .wrsrStream sa reg => some (scalarBundle (.wrsr sa reg))
  | .streamWriteWaitEnd _ => none
  | .wrsrLining sa reg => some (scalarBundle (.wrsr sa reg))
  | .liningWriteWaitEnd _ => none
  | .wrsrEpc sa reg => some (scalarBundle (.wrsr sa reg))
  | .wrsrTvec sa reg => some (scalarBundle (.wrsr sa reg))
  | .wrsrSwapth sa reg => some (scalarBundle (.wrsr sa reg))
  | .wrsrIlim sa reg => some (scalarBundle (.wrsr sa reg))
  | .wrsrClkpat sa reg => some (scalarBundle (.wrsr sa reg))
  | .wrsrOvmask sa reg => some (scalarBundle (.wrsr sa reg))
  | .sys code => some (scalarBundle (.sys code))
  | .trap code => some (scalarBundle (.trap code))
  | .eret => some (scalarBundle (.eret))
  | .iaAdd unit g src => some (triggerBundle (.ia unit .add) g src)
  | .iaAddc unit g src => some (triggerBundle (.ia unit .addc) g src)
  | .iaSub unit g src => some (triggerBundle (.ia unit .sub) g src)
  | .iaSubb unit g src => some (triggerBundle (.ia unit .subb) g src)
  | .iaMul unit g src => some (triggerBundle (.ia unit .mul) g src)
  | .iaMulhi unit g src => some (triggerBundle (.ia unit .mulhi) g src)
  | .iaMulhu unit g src => some (triggerBundle (.ia unit .mulhu) g src)
  | .iaMad unit g src => some (triggerBundle (.ia unit .mad) g src)
  | .iaShl unit g src => some (triggerBundle (.ia unit .shl) g src)
  | .iaShr unit g src => some (triggerBundle (.ia unit .shr) g src)
  | .iaSar unit g src => some (triggerBundle (.ia unit .sar) g src)
  | .iaRotl unit g src => some (triggerBundle (.ia unit .rotl) g src)
  | .iaRotr unit g src => some (triggerBundle (.ia unit .rotr) g src)
  | .iaBfx unit g src => some (triggerBundle (.ia unit .bfx) g src)
  | .iaBfxu unit g src => some (triggerBundle (.ia unit .bfxu) g src)
  | .iaBfi unit g src => some (triggerBundle (.ia unit .bfi) g src)
  | .iaPopc unit g src => some (triggerBundle (.ia unit .popc) g src)
  | .iaClz unit g src => some (triggerBundle (.ia unit .clz) g src)
  | .iaCtz unit g src => some (triggerBundle (.ia unit .ctz) g src)
  | .iaBrev unit g src => some (triggerBundle (.ia unit .brev) g src)
  | .iaMin unit g src => some (triggerBundle (.ia unit .min) g src)
  | .iaMax unit g src => some (triggerBundle (.ia unit .max) g src)
  | .iaMinu unit g src => some (triggerBundle (.ia unit .minu) g src)
  | .iaMaxu unit g src => some (triggerBundle (.ia unit .maxu) g src)
  | .iaAbs unit g src => some (triggerBundle (.ia unit .abs) g src)
  | .iaAdds unit g src => some (triggerBundle (.ia unit .adds) g src)
  | .iaSubs unit g src => some (triggerBundle (.ia unit .subs) g src)
  | .iaAddus unit g src => some (triggerBundle (.ia unit .addus) g src)
  | .iaSubus unit g src => some (triggerBundle (.ia unit .subus) g src)
  | .iaLea unit g src => some (triggerBundle (.ia unit .lea) g src)
  | .lgAnd g src => some (triggerBundle (.lg .and) g src)
  | .lgOr g src => some (triggerBundle (.lg .or) g src)
  | .lgXor g src => some (triggerBundle (.lg .xor) g src)
  | .lgAndn g src => some (triggerBundle (.lg .andn) g src)
  | .lgNot g src => some (triggerBundle (.lg .not) g src)
  | .lgSel g src => some (triggerBundle (.lg .sel) g src)
  | .lgCeq g src => some (triggerBundle (.lg .ceq) g src)
  | .lgCne g src => some (triggerBundle (.lg .cne) g src)
  | .lgClt g src => some (triggerBundle (.lg .clt) g src)
  | .lgCle g src => some (triggerBundle (.lg .cle) g src)
  | .lgCltu g src => some (triggerBundle (.lg .cltu) g src)
  | .lgCleu g src => some (triggerBundle (.lg .cleu) g src)
  | .lgFceq g src => some (triggerBundle (.lg .fceq) g src)
  | .lgFcne g src => some (triggerBundle (.lg .fcne) g src)
  | .lgFclt g src => some (triggerBundle (.lg .fclt) g src)
  | .lgFcle g src => some (triggerBundle (.lg .fcle) g src)
  | .lgFcun g src => some (triggerBundle (.lg .fcun) g src)
  | .lgFcls g src => some (triggerBundle (.lg .fcls) g src)
  | .lgMbit g src => some (triggerBundle (.lg .mbit) g src)
  | .lgBsel g src => some (triggerBundle (.lg .bsel) g src)
  | .fmFma unit mode g src => some (triggerBundle (.fm unit (.fma mode)) g src)
  | .fmFms unit mode g src => some (triggerBundle (.fm unit (.fms mode)) g src)
  | .fmFnma unit mode g src => some (triggerBundle (.fm unit (.fnma mode)) g src)
  | .fmAdd unit mode g src => some (triggerBundle (.fm unit (.add mode)) g src)
  | .fmSub unit mode g src => some (triggerBundle (.fm unit (.sub mode)) g src)
  | .fmMul unit mode g src => some (triggerBundle (.fm unit (.mul mode)) g src)
  | .fmHfma unit mode g src => some (triggerBundle (.fm unit (.hfma mode)) g src)
  | .fmBfma unit mode g src => some (triggerBundle (.fm unit (.bfma mode)) g src)
  | .fmCvth unit mode g src => some (triggerBundle (.fm unit (.cvth mode)) g src)
  | .fmCvtb unit mode g src => some (triggerBundle (.fm unit (.cvtb mode)) g src)
  | .fmCvti unit mode g src => some (triggerBundle (.fm unit (.cvti mode)) g src)
  | .fmCvtf unit mode g src => some (triggerBundle (.fm unit (.cvtf mode)) g src)
  | .fmMin unit g src => some (triggerBundle (.fm unit .min) g src)
  | .fmMax unit g src => some (triggerBundle (.fm unit .max) g src)
  | .fmNeg unit g src => some (triggerBundle (.fm unit .neg) g src)
  | .fmAbs unit g src => some (triggerBundle (.fm unit .abs) g src)
  | .fmCsgn unit g src => some (triggerBundle (.fm unit .csgn) g src)
  | .fmCvtfh unit g src => some (triggerBundle (.fm unit .cvtfh) g src)
  | .fmCvtfb unit g src => some (triggerBundle (.fm unit .cvtfb) g src)
  | .fmCvt8 unit g src => some (triggerBundle (.fm unit .cvt8) g src)
  | .fmCvt6 unit g src => some (triggerBundle (.fm unit .cvt6) g src)
  | .fmDec8 unit g src => some (triggerBundle (.fm unit .dec8) g src)
  | .fmDec6 unit g src => some (triggerBundle (.fm unit .dec6) g src)
  | .fmHmin unit g src => some (triggerBundle (.fm unit .hmin) g src)
  | .fmHmax unit g src => some (triggerBundle (.fm unit .hmax) g src)
  | .fmBmin unit g src => some (triggerBundle (.fm unit .bmin) g src)
  | .fmBmax unit g src => some (triggerBundle (.fm unit .bmax) g src)
  | .sfDiv g src => some (triggerBundle (.sf .div) g src)
  | .sfSqrt g src => some (triggerBundle (.sf .sqrt) g src)
  | .sfRcp g src => some (triggerBundle (.sf .rcp) g src)
  | .sfRsqrt g src => some (triggerBundle (.sf .rsqrt) g src)
  | .sfExp2 g src => some (triggerBundle (.sf .exp2) g src)
  | .sfLog2 g src => some (triggerBundle (.sf .log2) g src)
  | .sfSinpi g src => some (triggerBundle (.sf .sinpi) g src)
  | .sfCospi g src => some (triggerBundle (.sf .cospi) g src)
  | .sfScpi g src => some (triggerBundle (.sf .scpi) g src)
  | .xlShfl g src => some (triggerBundle (.xl .shfl) g src)
  | .xlShup g src => some (triggerBundle (.xl .shup) g src)
  | .xlShdn g src => some (triggerBundle (.xl .shdn) g src)
  | .xlShxor g src => some (triggerBundle (.xl .shxor) g src)
  | .xlVany g src => some (triggerBundle (.xl .vany) g src)
  | .xlVall g src => some (triggerBundle (.xl .vall) g src)
  | .xlBallot g src => some (triggerBundle (.xl .ballot) g src)
  | .xlMatch g src => some (triggerBundle (.xl .vmatch) g src)
  | .xlScan g src => some (triggerBundle (.xl .scan) g src)
  | .xlFscan g src => some (triggerBundle (.xl .fscan) g src)
  | .xlRed g src => some (triggerBundle (.xl .red) g src)
  | .xlRedmin g src => some (triggerBundle (.xl .redmin) g src)
  | .xlRedmax g src => some (triggerBundle (.xl .redmax) g src)
  | .xlFred g src => some (triggerBundle (.xl .fred) g src)
  | .xlBlk8 g src => some (triggerBundle (.xl .blk8) g src)
  | .xlBlk6 g src => some (triggerBundle (.xl .blk6) g src)
  | .smSend g src => some (triggerBundle (.sm .send) g src)
  | .smSendr g src => some (triggerBundle (.sm .sendr) g src)
  | .smSendb g src => some (triggerBundle (.sm .sendb) g src)
  | .ldLb g src => some (triggerBundle (.ld .lb) g src)
  | .ldLbz g src => some (triggerBundle (.ld .lbz) g src)
  | .ldLh g src => some (triggerBundle (.ld .lh) g src)
  | .ldLhz g src => some (triggerBundle (.ld .lhz) g src)
  | .ldLw g src => some (triggerBundle (.ld .lw) g src)
  | .ldLd g src => some (triggerBundle (.ld .ld) g src)
  | .ldLwo g src => some (triggerBundle (.ld .lwo) g src)
  | .ldLdo g src => some (triggerBundle (.ld .ldo) g src)
  | .ldTld g src => some (triggerBundle (.ld .tld) g src)
  | .ldLblk g src => some (triggerBundle (.ld .lblk) g src)
  | .ldPf g src => some (triggerBundle (.ld .pf) g src)
  | .stSb g src => some (triggerBundle (.st .sb) g src)
  | .stSh g src => some (triggerBundle (.st .sh) g src)
  | .stSw g src => some (triggerBundle (.st .sw) g src)
  | .stSd g src => some (triggerBundle (.st .sd) g src)
  | .stSwo g src => some (triggerBundle (.st .swo) g src)
  | .stSdo g src => some (triggerBundle (.st .sdo) g src)
  | .stTst g src => some (triggerBundle (.st .tst) g src)
  | .stAadd g src => some (triggerBundle (.st .aadd) g src)
  | .stAfadd g src => some (triggerBundle (.st .afadd) g src)
  | .stAmin g src => some (triggerBundle (.st .amin) g src)
  | .stAmax g src => some (triggerBundle (.st .amax) g src)
  | .stAminu g src => some (triggerBundle (.st .aminu) g src)
  | .stAmaxu g src => some (triggerBundle (.st .amaxu) g src)
  | .stAand g src => some (triggerBundle (.st .aand) g src)
  | .stAor g src => some (triggerBundle (.st .aor) g src)
  | .stAxor g src => some (triggerBundle (.st .axor) g src)
  | .stAxch g src => some (triggerBundle (.st .axch) g src)
  | .stAcas g src => some (triggerBundle (.st .acas) g src)
  | .stRadd g src => some (triggerBundle (.st .radd) g src)
  | .stRfadd g src => some (triggerBundle (.st .rfadd) g src)
  | .stMcst g src => some (triggerBundle (.st .mcst) g src)
  | .mxTmma src => some (triggerBundle (.mx .tmma) noGuard src)
  | .mxTout src => some (triggerBundle (.mx .tout) noGuard src)
  | .mxTfill src => some (triggerBundle (.mx .tfill) noGuard src)
  | .mxTableLoad src => some (triggerBundle (.mx .tfill) noGuard src)
  | .mxTzero src => some (triggerBundle (.mx .tzero) noGuard src)
  | .mxTewAdd src => some (triggerBundle (.mx .tewadd) noGuard src)
  | .mxTewMul src => some (triggerBundle (.mx .tewmul) noGuard src)
  | .mxTewScale src => some (triggerBundle (.mx .tewscale) noGuard src)
  | .mxTredRow src => some (triggerBundle (.mx .tredrow) noGuard src)
  | .mxTredCol src => some (triggerBundle (.mx .tredcol) noGuard src)
  | .mxTtrn src => some (triggerBundle (.mx .ttrn) noGuard src)
  | .mxMxfence src => some (triggerBundle (.mx .mxfence) noGuard src)
  | .mxQadv src => some (triggerBundle (.mx .qadv) noGuard src)
  | .mxCommandStart _ => none
  | .mxCommandRetire _ _ => none
  | .batchComplete _ => none
  | .reverseEntry _ _ => none
  | .reverseSuspend _ => none
  | .cpCopy1 src => some (triggerBundle (.cp .copy1) noGuard src)
  | .cpCopy2 src => some (triggerBundle (.cp .copy2) noGuard src)
  | .cpCopyt src => some (triggerBundle (.cp .copyt) noGuard src)
  | .cpMcast src => some (triggerBundle (.cp .mcast) noGuard src)
  | .cpFill src => some (triggerBundle (.cp .fill) noGuard src)
  | .cpColl src => some (triggerBundle (.cp .coll) noGuard src)
  | .cpOvl src => some (triggerBundle (.cp .ovl) noGuard src)
  | .copyStart _ _ => none
  | .copyResume _ _ => none
  | .copyComplete _ _ => none
  | .collCall _ _ _ => none
  | .collJoinTimeout _ _ => none
  | .taskFetch _ => none
  | .dependencePoll _ => none
  | .taskPriorityRise _ => none
  | .taskDispatch _ => none
  | .walkerExpand _ => none
  | .tileStepLaunch _ => none
  | .teamAdmit _ _ => none
  | .teamResident _ _ => none
  | .teamPark _ => none
  | .teamReady _ => none
  | .preempt _ => none
  | .teamRetire _ => none
  | .pageResponseOk _ _ => none
  | .pageResponseFail _ _ => none
  | .priResponse _ _ _ => none
  | .invPage _ _ => none
  | .invAsid _ _ => none
  | .invFunction _ => none
  | .atsInvalidateRequest _ _ _ => none
  | .invalidationEnd _ => none
  | .qtailNotify _ _ _ _ _ => none
  | .queueConfigWrite _ _ _ _ _ => none
  | .qownWrite _ _ _ _ => none
  | .fqctlWrite _ _ _ => none
  | .pcapWrite _ _ _ => none
  | .pfloorWrite _ _ _ _ => none
  | .didtDnWrite _ _ _ => none
  | .linkcfgWrite _ _ _ => none
  | .partmapWrite _ _ _ => none
  | .fpartWrite _ _ _ => none
  | .partctlWrite _ _ _ => none
  | .partitionPreempt _ => none
  | .svloadGo _ _ _ => none
  | .mboxReport _ => none
  | .mboxAlarmLog _ => none
  | .mboxBadCommand _ _ => none
  | .registerWrite _ _ _ _ => none
  | .flitReceive _ _ => none
  | .flitReplay _ => none
  | .portDown _ _ => none
  | .linkNarrow _ _ => none
  | .linkWiden _ _ => none
  | .peerInboundAccess _ => none
  | .peerAcknowledge _ _ => none
  | .weirCycle _ => none
  | .predRise _ => none
  | .predFall _ => none
  | .forcedCheck _ => none
  | .capControllerPeriod _ => none
  | .engineThrottleWindow _ _ _ _ _ => none
  | .hintOnset _ => none
  | .hintExpiry _ => none
  | .tamperAlarm _ => none
  | .moduleReset _ => none
  | .vfFlr _ => none
  | .portUp _ => none
  | .svloadLoadEnd _ => none
  | .mailboxCommandEnd _ => none

/-- The constructor of a lone ia trigger. -/
def iaInstr (unit : Bool) (op : IaOp) (g : Guard) (src : Src) : Instr :=
  match op with
  | .add => .iaAdd unit g src
  | .addc => .iaAddc unit g src
  | .sub => .iaSub unit g src
  | .subb => .iaSubb unit g src
  | .mul => .iaMul unit g src
  | .mulhi => .iaMulhi unit g src
  | .mulhu => .iaMulhu unit g src
  | .mad => .iaMad unit g src
  | .shl => .iaShl unit g src
  | .shr => .iaShr unit g src
  | .sar => .iaSar unit g src
  | .rotl => .iaRotl unit g src
  | .rotr => .iaRotr unit g src
  | .bfx => .iaBfx unit g src
  | .bfxu => .iaBfxu unit g src
  | .bfi => .iaBfi unit g src
  | .popc => .iaPopc unit g src
  | .clz => .iaClz unit g src
  | .ctz => .iaCtz unit g src
  | .brev => .iaBrev unit g src
  | .min => .iaMin unit g src
  | .max => .iaMax unit g src
  | .minu => .iaMinu unit g src
  | .maxu => .iaMaxu unit g src
  | .abs => .iaAbs unit g src
  | .adds => .iaAdds unit g src
  | .subs => .iaSubs unit g src
  | .addus => .iaAddus unit g src
  | .subus => .iaSubus unit g src
  | .lea => .iaLea unit g src

/-- The constructor of a lone lg trigger. -/
def lgInstr (op : LgOp) (g : Guard) (src : Src) : Instr :=
  match op with
  | .and => .lgAnd g src
  | .or => .lgOr g src
  | .xor => .lgXor g src
  | .andn => .lgAndn g src
  | .not => .lgNot g src
  | .sel => .lgSel g src
  | .ceq => .lgCeq g src
  | .cne => .lgCne g src
  | .clt => .lgClt g src
  | .cle => .lgCle g src
  | .cltu => .lgCltu g src
  | .cleu => .lgCleu g src
  | .fceq => .lgFceq g src
  | .fcne => .lgFcne g src
  | .fclt => .lgFclt g src
  | .fcle => .lgFcle g src
  | .fcun => .lgFcun g src
  | .fcls => .lgFcls g src
  | .mbit => .lgMbit g src
  | .bsel => .lgBsel g src

/-- The constructor of a lone fm trigger. -/
def fmInstr (unit : Bool) (op : FmOp) (g : Guard) (src : Src) : Instr :=
  match op with
  | .fma mode => .fmFma unit mode g src
  | .fms mode => .fmFms unit mode g src
  | .fnma mode => .fmFnma unit mode g src
  | .add mode => .fmAdd unit mode g src
  | .sub mode => .fmSub unit mode g src
  | .mul mode => .fmMul unit mode g src
  | .hfma mode => .fmHfma unit mode g src
  | .bfma mode => .fmBfma unit mode g src
  | .cvth mode => .fmCvth unit mode g src
  | .cvtb mode => .fmCvtb unit mode g src
  | .cvti mode => .fmCvti unit mode g src
  | .cvtf mode => .fmCvtf unit mode g src
  | .min => .fmMin unit g src
  | .max => .fmMax unit g src
  | .neg => .fmNeg unit g src
  | .abs => .fmAbs unit g src
  | .csgn => .fmCsgn unit g src
  | .cvtfh => .fmCvtfh unit g src
  | .cvtfb => .fmCvtfb unit g src
  | .cvt8 => .fmCvt8 unit g src
  | .cvt6 => .fmCvt6 unit g src
  | .dec8 => .fmDec8 unit g src
  | .dec6 => .fmDec6 unit g src
  | .hmin => .fmHmin unit g src
  | .hmax => .fmHmax unit g src
  | .bmin => .fmBmin unit g src
  | .bmax => .fmBmax unit g src

/-- The constructor of a lone sf trigger. -/
def sfInstr (op : SfOp) (g : Guard) (src : Src) : Instr :=
  match op with
  | .div => .sfDiv g src
  | .sqrt => .sfSqrt g src
  | .rcp => .sfRcp g src
  | .rsqrt => .sfRsqrt g src
  | .exp2 => .sfExp2 g src
  | .log2 => .sfLog2 g src
  | .sinpi => .sfSinpi g src
  | .cospi => .sfCospi g src
  | .scpi => .sfScpi g src

/-- The constructor of a lone xl trigger. -/
def xlInstr (op : XlOp) (g : Guard) (src : Src) : Instr :=
  match op with
  | .shfl => .xlShfl g src
  | .shup => .xlShup g src
  | .shdn => .xlShdn g src
  | .shxor => .xlShxor g src
  | .vany => .xlVany g src
  | .vall => .xlVall g src
  | .ballot => .xlBallot g src
  | .vmatch => .xlMatch g src
  | .scan => .xlScan g src
  | .fscan => .xlFscan g src
  | .red => .xlRed g src
  | .redmin => .xlRedmin g src
  | .redmax => .xlRedmax g src
  | .fred => .xlFred g src
  | .blk8 => .xlBlk8 g src
  | .blk6 => .xlBlk6 g src

/-- The constructor of a lone sm trigger. -/
def smInstr (op : SmOp) (g : Guard) (src : Src) : Instr :=
  match op with
  | .send => .smSend g src
  | .sendr => .smSendr g src
  | .sendb => .smSendb g src

/-- The constructor of a lone ld trigger. -/
def ldInstr (op : LdOp) (g : Guard) (src : Src) : Instr :=
  match op with
  | .lb => .ldLb g src
  | .lbz => .ldLbz g src
  | .lh => .ldLh g src
  | .lhz => .ldLhz g src
  | .lw => .ldLw g src
  | .ld => .ldLd g src
  | .lwo => .ldLwo g src
  | .ldo => .ldLdo g src
  | .tld => .ldTld g src
  | .lblk => .ldLblk g src
  | .pf => .ldPf g src

/-- The constructor of a lone st trigger. -/
def stInstr (op : StOp) (g : Guard) (src : Src) : Instr :=
  match op with
  | .sb => .stSb g src
  | .sh => .stSh g src
  | .sw => .stSw g src
  | .sd => .stSd g src
  | .swo => .stSwo g src
  | .sdo => .stSdo g src
  | .tst => .stTst g src
  | .aadd => .stAadd g src
  | .afadd => .stAfadd g src
  | .amin => .stAmin g src
  | .amax => .stAmax g src
  | .aminu => .stAminu g src
  | .amaxu => .stAmaxu g src
  | .aand => .stAand g src
  | .aor => .stAor g src
  | .axor => .stAxor g src
  | .axch => .stAxch g src
  | .acas => .stAcas g src
  | .radd => .stRadd g src
  | .rfadd => .stRfadd g src
  | .mcst => .stMcst g src

/-- The constructor of a lone mx trigger. -/
def mxInstr (op : MxOp) (src : Src) : Instr :=
  match op with
  | .tmma => .mxTmma src
  | .tout => .mxTout src
  | .tfill => .mxTfill src
  | .tzero => .mxTzero src
  | .tewadd => .mxTewAdd src
  | .tewmul => .mxTewMul src
  | .tewscale => .mxTewScale src
  | .tredrow => .mxTredRow src
  | .tredcol => .mxTredCol src
  | .ttrn => .mxTtrn src
  | .mxfence => .mxMxfence src
  | .qadv => .mxQadv src

/-- The constructor of a lone cp trigger. -/
def cpInstr (op : CpOp) (src : Src) : Instr :=
  match op with
  | .copy1 => .cpCopy1 src
  | .copy2 => .cpCopy2 src
  | .copyt => .cpCopyt src
  | .mcast => .cpMcast src
  | .fill => .cpFill src
  | .coll => .cpColl src
  | .ovl => .cpOvl src

/-- The constructor of a lone trigger move. An mx or cp move has no guard (R83). -/
def triggerInstr (t : Trigger) (g : Guard) (src : Src) : Instr :=
  match t with
  | .ia unit op => iaInstr unit op g src
  | .lg op => lgInstr op g src
  | .fm unit op => fmInstr unit op g src
  | .sf op => sfInstr op g src
  | .xl op => xlInstr op g src
  | .sm op => smInstr op g src
  | .ld op => ldInstr op g src
  | .st op => stInstr op g src
  | .mx op => mxInstr op src
  | .cp op => cpInstr op src

/-- The constructor of a two-operand scalar operation. -/
def aluInstr (op : AluOp) (sd sa sb : BitVec 6) (imm : BitVec 22) : Instr :=
  match op with
  | .add => .add sd sa sb imm
  | .sub => .sub sd sa sb imm
  | .mul => .mul sd sa sb imm
  | .mulh => .mulh sd sa sb imm
  | .and => .and sd sa sb imm
  | .or => .or sd sa sb imm
  | .xor => .xor sd sa sb imm
  | .shl => .shl sd sa sb imm
  | .shr => .shr sd sa sb imm
  | .sar => .sar sd sa sb imm
  | .min => .min sd sa sb imm
  | .max => .max sd sa sb imm
  | .minu => .minu sd sa sb imm
  | .maxu => .maxu sd sa sb imm
  | .ceq => .ceq sd sa sb imm
  | .clt => .clt sd sa sb imm
  | .cltu => .cltu sd sa sb imm

/-- WRSR has a constructor for each group of registers with an effect of its own (R141). -/
def wrsrInstr (sa : BitVec 6) (reg : BitVec 16) : Instr :=
  let n := reg.toNat
  if n = 0x000 then .wrsrFstat sa reg
  else if n = 0x001 then .wrsrGstat sa reg
  else if 0x040 ≤ n ∧ n ≤ 0x05F then .wrsrStream sa reg
  else if 0x020 ≤ n ∧ n ≤ 0x02A then .wrsrLining sa reg
  else if n = 0x100 then .wrsrEpc sa reg
  else if n = 0x104 then .wrsrTvec sa reg
  else if n = 0x110 then .wrsrSwapth sa reg
  else if n = 0x120 then .wrsrIlim sa reg
  else if n = 0x121 then .wrsrClkpat sa reg
  else if n = 0x070 then .wrsrOvmask sa reg
  else .wrsr sa reg

/-- The constructor of a lone scalar operation. -/
def scalarInstr (op : ScalarOp) : Instr :=
  match op with
  | .alu op sd sa sb imm => aluInstr op sd sa sb imm
  | .wrsr sa reg => wrsrInstr sa reg
  | .sld sd sa sb imm => .sld sd sa sb imm
  | .sst sd sa sb imm => .sst sd sa sb imm
  | .sldq sd sa sb imm => .sldq sd sa sb imm
  | .sstq sd sa sb imm => .sstq sd sa sb imm
  | .mrd sd mask => .mrd sd mask
  | .mwr mask sa sb imm => .mwr mask sa sb imm
  | .basew win sa sb imm => .basew win sa sb imm
  | .reggive sb imm => .reggive sb imm
  | .regclaim sb imm => .regclaim sb imm
  | .ret sa => .ret sa
  | .exit => .exit
  | .recbeg => .recbeg
  | .recend => .recend
  | .reverse sd => .reverse sd
  | .spawn sd sa sb imm => .spawn sd sa sb imm
  | .pmap sd sa sb imm => .pmap sd sa sb imm
  | .pflush sa sb imm => .pflush sa sb imm
  | .ovload sa sb imm => .ovload sa sb imm
  | .ovcall sa sb imm => .ovcall sa sb imm
  | .phint sa sb imm => .phint sa sb imm
  | .li sd imm => .li sd imm
  | .liz sd imm => .liz sd imm
  | .lih sd imm => .lih sd imm
  | .bd inv mask target join => .bd inv mask target join
  | .bu inv mask target => .bu inv mask target
  | .call target => .call target
  | .loop target counter => .loop target counter
  | .bara sa sb id scope => .bara sa sb id scope
  | .barw id scope => .barw id scope
  | .dsync scope => .dsync scope
  | .fence scope => .fence scope
  | .waitc sa id => .waitc sa id
  | .mxwait sa => .mxwait sa
  | .cpwait sa id => .cpwait sa id
  | .mxtake => .mxtake
  | .mxgive => .mxgive
  | .rdsr sd reg => .rdsr sd reg
  | .sys code => .sys code
  | .trap code => .trap code
  | .eret => .eret

/-- The instruction a bundle is. -/
def ofBundle (b : Bundle) : Instr :=
  if b.la = 0 ∧ b.y = false then
    match b.slots, b.scalar with
    | [.empty, .empty, .empty, .empty, .empty, .empty], some op => scalarInstr op
    | [.move m, .empty, .empty, .empty, .empty, .empty], none =>
      match m.dst with
      | .trig t => triggerInstr t m.g m.src
      | _ => .bundleIssue b
    | _, _ => .bundleIssue b
  else .bundleIssue b

end Sys2Proof.Machine
end

