-- ==== Sys2Proof/WellFormed.lean ====
section
/-!
DEFINITION. Which instructions are well formed: those some legal bundle encodes. The checks themselves, one per row of R110's table,
are in Machine/Legal.lean.
-/

namespace Sys2Proof.WellFormed

open Sys2Proof.Machine

/-- The instruction an instruction's words decode to: MX_TABLE_LOAD is the tfill opcode (R278), so its words read as MX_TFILL. -/
def canonical : Instr → Instr
  | .mxTableLoad src => .mxTfill src
  | i => i

/-- A bundle instruction is well formed when its bundle breaks no row of R110 and is this instruction's own form.
An event of the device has no encoding and nothing to check. -/
def wf (i : Instr) : Bool :=
  match toBundle i with
  | none => true
  | some b => bundleLegal b && decide (ofBundle b = canonical i)

/-- An instruction that words encode. -/
def encoded (i : Instr) : Bool := (toBundle i).isSome

end Sys2Proof.WellFormed
end

