-- ==== Sys2Proof/Decode.lean ====
section
/-!
DEFINITION. The decoder of bundles (R76-R110), total on any 256 bits, and the encoder written from the same tables.
A rejected bundle names the first illegal field as R308's SLOT does: 0-5 a move slot, 6 the scalar slot, 7 the header.
-/

namespace Sys2Proof

open Sys2Proof.Machine

/-! ## Opcode tables (R97-R107). The opcode is the place in the list. -/

/-- R97: 0x00-0x1D. -/
def iaOps : List IaOp :=
  [.add, .addc, .sub, .subb, .mul, .mulhi, .mulhu, .mad, .shl, .shr, .sar, .rotl, .rotr, .bfx, .bfxu, .bfi,
   .popc, .clz, .ctz, .brev, .min, .max, .minu, .maxu, .abs, .adds, .subs, .addus, .subus, .lea]

/-- R98: 0x00-0x13. -/
def lgOps : List LgOp :=
  [.and, .or, .xor, .andn, .not, .sel, .ceq, .cne, .clt, .cle, .cltu, .cleu,
   .fceq, .fcne, .fclt, .fcle, .fcun, .fcls, .mbit, .bsel]

/-- R99: mode field 0b00 rn, 0b01 rz, 0b10 ru, 0b11 rd. -/
def roundings : List Rounding := [.rn, .rz, .ru, .rd]

/-- R99: the twelve rounding operations; the opcode is 4 x op + mode. -/
def fmRounding (m : Rounding) : List FmOp :=
  [.fma m, .fms m, .fnma m, .add m, .sub m, .mul m, .hfma m, .bfma m, .cvth m, .cvtb m, .cvti m, .cvtf m]

/-- R99: 0x30-0x3E. -/
def fmPlain : List FmOp :=
  [.min, .max, .neg, .abs, .csgn, .cvtfh, .cvtfb, .cvt8, .cvt6, .dec8, .dec6, .hmin, .hmax, .bmin, .bmax]

/-- R100: 0x00-0x08. -/
def sfOps : List SfOp := [.div, .sqrt, .rcp, .rsqrt, .exp2, .log2, .sinpi, .cospi, .scpi]

/-- R101: 0x00-0x0F. -/
def xlOps : List XlOp :=
  [.shfl, .shup, .shdn, .shxor, .vany, .vall, .ballot, .vmatch, .scan, .fscan, .red, .redmin, .redmax, .fred, .blk8, .blk6]

/-- R105: 0x00-0x02. -/
def smOps : List SmOp := [.send, .sendr, .sendb]

/-- R102: 0x00-0x0A. -/
def ldOps : List LdOp := [.lb, .lbz, .lh, .lhz, .lw, .ld, .lwo, .ldo, .tld, .lblk, .pf]

/-- R104: 0x00-0x06. -/
def stPlain : List StOp := [.sb, .sh, .sw, .sd, .swo, .sdo, .tst]

/-- R104: 0x10-0x1A. -/
def stAtomic : List StOp := [.aadd, .afadd, .amin, .amax, .aminu, .amaxu, .aand, .aor, .axor, .axch, .acas]

/-- R106: 0x00-0x0B. -/
def mxOps : List MxOp :=
  [.tmma, .tout, .tfill, .tzero, .tewadd, .tewmul, .tewscale, .tredrow, .tredcol, .ttrn, .mxfence, .qadv]

/-- R107: 0x00-0x06. -/
def cpOps : List CpOp := [.copy1, .copy2, .copyt, .mcast, .fill, .coll, .ovl]

/-- R109: 0x00-0x10. -/
def aluOps : List AluOp :=
  [.add, .sub, .mul, .mulh, .and, .or, .xor, .shl, .shr, .sar, .min, .max, .minu, .maxu, .ceq, .clt, .cltu]

/-- Unit numbers 0-11 (R84); 15 is sp. -/
def units : List FUnit := [.ia0, .ia1, .fm0, .fm1, .sf, .lg, .xl, .ld, .st, .mx, .cp, .sm]

/-- The unit a unit number names (R84); 12-14 are reserved. -/
def unitOf (n : Nat) : Option FUnit := if n = 15 then some .sp else units[n]?

/-- The number of a unit (R84). -/
def unitNo (u : FUnit) : Nat := if u = .sp then 15 else units.idxOf u

/-- fm opcodes (R99). -/
def fmOf (n : Nat) : Option FmOp :=
  if n < 48 then (roundings[n % 4]?).bind fun m => (fmRounding m)[n / 4]? else fmPlain[n - 48]?

/-- st opcodes (R104). -/
def stOf (n : Nat) : Option StOp :=
  if n < 0x10 then stPlain[n]?
  else if n < 0x20 then stAtomic[n - 0x10]?
  else if n = 0x20 then some .radd
  else if n = 0x21 then some .rfadd
  else if n = 0x28 then some .mcst
  else none

/-- The trigger a unit and an opcode name (R79, R97-R107). -/
def triggerOf (u : FUnit) (op : Nat) : Option Trigger :=
  match u with
  | .ia0 => (iaOps[op]?).map (.ia false)
  | .ia1 => (iaOps[op]?).map (.ia true)
  | .fm0 => (fmOf op).map (.fm false)
  | .fm1 => (fmOf op).map (.fm true)
  | .sf => (sfOps[op]?).map .sf
  | .lg => (lgOps[op]?).map .lg
  | .xl => (xlOps[op]?).map .xl
  | .ld => (ldOps[op]?).map .ld
  | .st => (stOf op).map .st
  | .mx => (mxOps[op]?).map .mx
  | .cp => (cpOps[op]?).map .cp
  | .sm => (smOps[op]?).map .sm
  | .sp => none

/-- A rounding mode's field (R99). -/
def roundingNo (m : Rounding) : Nat := roundings.idxOf m

/-- An fm operation's opcode (R99). -/
def fmNo (o : FmOp) : Nat :=
  let r (k : Nat) (m : Rounding) : Nat := 4 * k + roundingNo m
  match o with
  | .fma m => r 0 m
  | .fms m => r 1 m
  | .fnma m => r 2 m
  | .add m => r 3 m
  | .sub m => r 4 m
  | .mul m => r 5 m
  | .hfma m => r 6 m
  | .bfma m => r 7 m
  | .cvth m => r 8 m
  | .cvtb m => r 9 m
  | .cvti m => r 10 m
  | .cvtf m => r 11 m
  | o => 48 + fmPlain.idxOf o

/-- An st operation's opcode (R104). -/
def stNo (o : StOp) : Nat :=
  match o with
  | .radd => 0x20
  | .rfadd => 0x21
  | .mcst => 0x28
  | o => if o ∈ stPlain then stPlain.idxOf o else 0x10 + stAtomic.idxOf o

/-- A trigger's opcode (R97-R107). -/
def triggerNo : Trigger → Nat
  | .ia _ o => iaOps.idxOf o
  | .lg o => lgOps.idxOf o
  | .fm _ o => fmNo o
  | .sf o => sfOps.idxOf o
  | .xl o => xlOps.idxOf o
  | .sm o => smOps.idxOf o
  | .ld o => ldOps.idxOf o
  | .st o => stNo o
  | .mx o => mxOps.idxOf o
  | .cp o => cpOps.idxOf o

/-! ## Moves (R78-R82) -/

/-- A source field (R81, R82). -/
def decodeSrc (f : BitVec 14) : Option Src :=
  let c := (f.extractLsb' 0 12).toNat
  match (f.extractLsb' 12 2).toNat with
  | 0 => if c < 512 then some (.v (f.extractLsb' 0 9)) else none
  | 1 =>
    if f.extractLsb' 10 2 = 0 ∧ f.extractLsb' 2 4 = 0 then
      match unitOf (f.extractLsb' 6 4).toNat, (f.extractLsb' 0 2).toNat with
      | some u, 0 => some (.port u false)
      | some u, 1 => some (.port u true)
      | _, _ => none
    else none
  | 2 => some (.imm (f.extractLsb' 0 12))
  | _ =>
    if c < 0x40 then some (.s (f.extractLsb' 0 6))
    else if c < 0x80 then some (.hiS (f.extractLsb' 0 6))
    else if c < 0x88 then some (.w (f.extractLsb' 0 3))
    else if c = 0x88 then some .spad
    else if c = 0x90 then some .lane
    else if c = 0x91 then some .split
    else if c = 0x92 then some .gtime
    else if c = 0x93 then some .pstate
    else if 0xA0 ≤ c ∧ c < 0xA6 then some (.lim (f.extractLsb' 0 3))
    else if 0xB0 ≤ c ∧ c < 0xB4 then some (.e (f.extractLsb' 0 2))
    else none

/-- The code of a latch (R79). -/
def latchOf (n : Nat) : LatchName :=
  match n with
  | 0 => .a
  | 1 => .b
  | 2 => .c
  | _ => .w

/-- A destination field with the H bit, which is a latch's alone (R78-R80). -/
def decodeDst (f : BitVec 12) (h : Bool) : Option Dst :=
  let c := (f.extractLsb' 0 10).toNat
  match (f.extractLsb' 10 2).toNat with
  | 0 => if h then none else some (.v (f.extractLsb' 0 10))
  | 1 =>
    if f.extractLsb' 0 4 = 0 then
      (unitOf (f.extractLsb' 6 4).toNat).map fun u => .latch u (latchOf (f.extractLsb' 4 2).toNat) h
    else none
  | 2 =>
    if h then none
    else (unitOf (f.extractLsb' 6 4).toNat).bind fun u => (triggerOf u (f.extractLsb' 0 6).toNat).map .trig
  | _ =>
    if h then none
    else if 1 ≤ c ∧ c ≤ 0xF then some (.mask (f.extractLsb' 0 4))
    else if 0x10 ≤ c ∧ c ≤ 0x13 then some (.e (f.extractLsb' 0 2))
    else if c = 0x20 then some .fclr
    else none

/-- A move slot that is no long immediate (R77, R78). -/
def decodeMove (w : Word) : Option Slot :=
  if w = 0 then some .empty
  else
    match decodeDst (w.extractLsb' 15 12) (w.getLsbD 0), decodeSrc (w.extractLsb' 1 14) with
    | some d, some s => some (.move { g := { mask := w.extractLsb' 28 4, inv := w.getLsbD 27 }, dst := d, src := s })
    | _, _ => none

/-- A slot with its K bit (R77). -/
def decodeSlot (k : Bool) (w : Word) : Option Slot := if k then some (.lim w) else decodeMove w

/-! ## The scalar slot (R95, R109) -/

/-- The operations of format SS from 0x11 on. An operation without a second operand t takes no immediate, so a nonzero imm22 there is an
illegal encoding (R109 names the unused register fields alone: DEDUCED, log 11). -/
def decodeSS (op : Nat) (sd sa sb : BitVec 6) (imm : BitVec 22) : Option ScalarOp :=
  let t0 := sb = 0 ∧ imm = 0
  match op with
  | 0x11 => some (.sld sd sa sb imm)
  | 0x12 => some (.sst sd sa sb imm)
  | 0x13 => some (.sldq sd sa sb imm)
  | 0x14 => some (.sstq sd sa sb imm)
  | 0x15 => if sa.toNat < 16 ∧ t0 then some (.mrd sd (sa.extractLsb' 0 4)) else none
  | 0x16 => if sd.toNat < 16 then some (.mwr (sd.extractLsb' 0 4) sa sb imm) else none
  | 0x17 => if sd.toNat < 8 then some (.basew (sd.extractLsb' 0 3) sa sb imm) else none
  | 0x18 => if sd = 0 ∧ sa = 0 then some (.reggive sb imm) else none
  | 0x19 => if sd = 0 ∧ sa = 0 then some (.regclaim sb imm) else none
  | 0x1A => if sd = 0 ∧ t0 then some (.ret sa) else none
  | 0x1B => if sd = 0 ∧ sa = 0 ∧ t0 then some .exit else none
  | 0x1C => if sd = 0 ∧ sa = 0 ∧ t0 then some .recbeg else none
  | 0x1D => if sd = 0 ∧ sa = 0 ∧ t0 then some .recend else none
  | 0x1E => if sa = 0 ∧ t0 then some (.reverse sd) else none
  | 0x1F => some (.spawn sd sa sb imm)
  | 0x20 => some (.pmap sd sa sb imm)
  | 0x21 => if sd = 0 then some (.pflush sa sb imm) else none
  | 0x22 => if sd = 0 then some (.ovload sa sb imm) else none
  | 0x23 => if sd = 0 then some (.ovcall sa sb imm) else none
  | 0x24 => if sd = 0 then some (.phint sa sb imm) else none
  | _ => none

/-- The operations of format SI; bits 33:32 are reserved. -/
def decodeSI (op : Nat) (sd : BitVec 6) (r : BitVec 2) (imm : BitVec 32) : Option ScalarOp :=
  if r = 0 then
    match op with
    | 0x40 => some (.li sd imm)
    | 0x41 => some (.liz sd imm)
    | 0x42 => some (.lih sd imm)
    | _ => none
  else none

/-- The operations of format BR. -/
def decodeBR (op : BitVec 8) (target : BitVec 24) (join : BitVec 16) : Option ScalarOp :=
  let n := op.toNat
  if n < 0x80 then some (.bd (op.getLsbD 4) (op.extractLsb' 0 4) target join)
  else if n < 0xA0 then if join = 0 then some (.bu (op.getLsbD 4) (op.extractLsb' 0 4) target) else none
  else if n = 0xA0 then if join = 0 then some (.call target) else none
  else if n = 0xA1 then if join.extractLsb' 6 10 = 0 then some (.loop target (join.extractLsb' 0 6)) else none
  else none

/-- The operations of format SY; bits 18:0 are reserved. -/
def decodeSY (op : Nat) (sa sb id : BitVec 6) (scope : BitVec 3) (r : BitVec 19) : Option ScalarOp :=
  if r = 0 then
    match op with
    | 0xB0 => some (.bara sa sb id scope)
    | 0xB1 => if sa = 0 ∧ sb = 0 then some (.barw id scope) else none
    | 0xB2 => if sa = 0 ∧ sb = 0 ∧ id = 0 then some (.dsync scope) else none
    | 0xB3 => if sa = 0 ∧ sb = 0 ∧ id = 0 then some (.fence scope) else none
    | 0xB4 => if sb = 0 ∧ scope = 0 then some (.waitc sa id) else none
    | 0xB5 => if sb = 0 ∧ id = 0 ∧ scope = 0 then some (.mxwait sa) else none
    | 0xB6 => if sb = 0 ∧ scope = 0 then some (.cpwait sa id) else none
    | 0xB7 => if sa = 0 ∧ sb = 0 ∧ id = 0 ∧ scope = 0 then some .mxtake else none
    | 0xB8 => if sa = 0 ∧ sb = 0 ∧ id = 0 ∧ scope = 0 then some .mxgive else none
    | _ => none
  else none

/-- The operations of format SX; bits 11:0 are reserved. -/
def decodeSX (op : Nat) (sd sa : BitVec 6) (imm : BitVec 16) (r : BitVec 12) : Option ScalarOp :=
  if r = 0 then
    match op with
    | 0xC0 => if sa = 0 then some (.rdsr sd imm) else none
    | 0xC1 => if sd = 0 then some (.wrsr sa imm) else none
    | 0xC2 => if sd = 0 ∧ sa = 0 then some (.sys imm) else none
    | 0xC3 => if sd = 0 ∧ sa = 0 then some (.trap imm) else none
    | 0xC4 => if sd = 0 ∧ sa = 0 ∧ imm = 0 then some .eret else none
    | _ => none
  else none

/-- The scalar slot's 48 bits (R95): the opcode's range gives the format. -/
def decodeScalar (w : BitVec 48) : Option ScalarOp :=
  let op := w.extractLsb' 40 8
  let n := op.toNat
  let f1 : BitVec 6 := w.extractLsb' 34 6
  let f2 : BitVec 6 := w.extractLsb' 28 6
  let f3 : BitVec 6 := w.extractLsb' 22 6
  if n < 0x11 then (aluOps[n]?).map fun o => .alu o f1 f2 f3 (w.extractLsb' 0 22)
  else if n < 0x40 then decodeSS n f1 f2 f3 (w.extractLsb' 0 22)
  else if n < 0x60 then decodeSI n f1 (w.extractLsb' 32 2) (w.extractLsb' 0 32)
  else if n < 0xB0 then decodeBR op (w.extractLsb' 16 24) (w.extractLsb' 0 16)
  else if n < 0xC0 then decodeSY n f1 f2 f3 (w.extractLsb' 19 3) (w.extractLsb' 0 19)
  else decodeSX n f1 f2 (w.extractLsb' 12 16) (w.extractLsb' 0 12)

/-! ## Bundles (R76) -/

/-- The six slots, read one by one: none where a field is illegal by itself. -/
def decodeSlots (w : BundleWord) : List (Option Slot) :=
  (List.range 6).map fun i => decodeSlot (w.getLsbD (246 + i)) (w.extractLsb' (32 * i) 32)

/-- The place of the first slot that was not read. -/
def firstUnread : Nat → List (Option Slot) → Option Nat
  | _, [] => none
  | k, none :: _ => some k
  | k, some _ :: rest => firstUnread (k + 1) rest

/-- The smaller of two failing places. -/
def firstOf : Option Nat → Option Nat → Option Nat
  | some a, some b => some (min a b)
  | some a, none => some a
  | none, b => b

/-- The bundle a word holds, or the first illegal field (R110, R308). Log 11. -/
def decodeBundle (w : BundleWord) : Except Nat Bundle :=
  let scalarBits : BitVec 48 := w.extractLsb' 192 48
  let hasScalar := w.getLsbD 245
  if w.extractLsb' 240 4 ≠ 0 ∨ (hasScalar = false ∧ scalarBits ≠ 0) then .error 7
  else
    let read := decodeSlots w
    let slots := read.map fun x => x.getD .empty
    match firstOf (firstUnread 0 read) (firstIllegalSlot slots [] 0 slots) with
    | some k => .error k
    | none =>
      let la := w.extractLsb' 252 4
      let y := w.getLsbD 244
      if hasScalar then
        match decodeScalar scalarBits with
        | some op => if scalarLegal op then .ok { la := la, y := y, slots := slots, scalar := some op } else .error 6
        | none => .error 6
      else .ok { la := la, y := y, slots := slots, scalar := none }

/-- The instruction a bundle word holds. -/
def decode (w : BundleWord) : Except Nat Instr :=
  match decodeBundle w with
  | .ok b => .ok (ofBundle b)
  | .error k => .error k

/-! ## The encoder -/

/-- A source's 14 bits (R81, R82). -/
def encodeSrc : Src → BitVec 14
  | .v i => i.setWidth 14
  | .port u x => BitVec.ofNat 14 (0x1000 + 64 * unitNo u + if x then 1 else 0)
  | .imm i => BitVec.ofNat 14 (0x2000 + i.toNat)
  | .s i => BitVec.ofNat 14 (0x3000 + i.toNat)
  | .hiS i => BitVec.ofNat 14 (0x3040 + i.toNat)
  | .w i => BitVec.ofNat 14 (0x3080 + i.toNat)
  | .spad => 0x3088
  | .lane => 0x3090
  | .split => 0x3091
  | .gtime => 0x3092
  | .pstate => 0x3093
  | .lim i => BitVec.ofNat 14 (0x30A0 + i.toNat)
  | .e i => BitVec.ofNat 14 (0x30B0 + i.toNat)

/-- A latch's code (R79). -/
def latchNo : LatchName → Nat
  | .a => 0
  | .b => 1
  | .c => 2
  | .w => 3

/-- A destination's 12 bits (R79, R80). -/
def encodeDst : Dst → BitVec 12
  | .v i => i.setWidth 12
  | .latch u l _ => BitVec.ofNat 12 (0x400 + 64 * unitNo u + 16 * latchNo l)
  | .trig t => BitVec.ofNat 12 (0x800 + 64 * unitNo (triggerUnit t) + triggerNo t)
  | .mask i => BitVec.ofNat 12 (0xC00 + i.toNat)
  | .e i => BitVec.ofNat 12 (0xC10 + i.toNat)
  | .fclr => 0xC20

/-- The H bit (R78). -/
def dstHold : Dst → Bool
  | .latch _ _ h => h
  | _ => false

/-- A slot's 32 bits (R77, R78). -/
def encodeSlot : Slot → Word
  | .empty => 0
  | .lim v => v
  | .move m =>
    BitVec.ofNat 32 (m.g.mask.toNat * 2 ^ 28 + (if m.g.inv then 2 ^ 27 else 0) + (encodeDst m.dst).toNat * 2 ^ 15 +
      (encodeSrc m.src).toNat * 2 + if dstHold m.dst then 1 else 0)

/-- Format SS (R95). -/
def encodeSS (op : Nat) (sd sa sb : BitVec 6) (imm : BitVec 22) : Nat :=
  op * 2 ^ 40 + sd.toNat * 2 ^ 34 + sa.toNat * 2 ^ 28 + sb.toNat * 2 ^ 22 + imm.toNat

/-- Format SI (R95). -/
def encodeSI (op : Nat) (sd : BitVec 6) (imm : BitVec 32) : Nat := op * 2 ^ 40 + sd.toNat * 2 ^ 34 + imm.toNat

/-- Format BR (R95). -/
def encodeBR (op : Nat) (target : BitVec 24) (join : BitVec 16) : Nat := op * 2 ^ 40 + target.toNat * 2 ^ 16 + join.toNat

/-- Format SY (R95). -/
def encodeSY (op : Nat) (sa sb id : BitVec 6) (scope : BitVec 3) : Nat :=
  op * 2 ^ 40 + sa.toNat * 2 ^ 34 + sb.toNat * 2 ^ 28 + id.toNat * 2 ^ 22 + scope.toNat * 2 ^ 19

/-- Format SX (R95). -/
def encodeSX (op : Nat) (sd sa : BitVec 6) (imm : BitVec 16) : Nat :=
  op * 2 ^ 40 + sd.toNat * 2 ^ 34 + sa.toNat * 2 ^ 28 + imm.toNat * 2 ^ 12

/-- The condition bits of a BD or BU opcode (R96). -/
def encodeCond (inv : Bool) (mask : BitVec 4) : Nat := (if inv then 16 else 0) + mask.toNat

/-- The scalar slot's value (R95, R109). -/
def encodeScalarNat : ScalarOp → Nat
  | .alu op sd sa sb imm => encodeSS (aluOps.idxOf op) sd sa sb imm
  | .sld sd sa sb imm => encodeSS 0x11 sd sa sb imm
  | .sst sd sa sb imm => encodeSS 0x12 sd sa sb imm
  | .sldq sd sa sb imm => encodeSS 0x13 sd sa sb imm
  | .sstq sd sa sb imm => encodeSS 0x14 sd sa sb imm
  | .mrd sd mask => encodeSS 0x15 sd (mask.setWidth 6) 0 0
  | .mwr mask sa sb imm => encodeSS 0x16 (mask.setWidth 6) sa sb imm
  | .basew win sa sb imm => encodeSS 0x17 (win.setWidth 6) sa sb imm
  | .reggive sb imm => encodeSS 0x18 0 0 sb imm
  | .regclaim sb imm => encodeSS 0x19 0 0 sb imm
  | .ret sa => encodeSS 0x1A 0 sa 0 0
  | .exit => encodeSS 0x1B 0 0 0 0
  | .recbeg => encodeSS 0x1C 0 0 0 0
  | .recend => encodeSS 0x1D 0 0 0 0
  | .reverse sd => encodeSS 0x1E sd 0 0 0
  | .spawn sd sa sb imm => encodeSS 0x1F sd sa sb imm
  | .pmap sd sa sb imm => encodeSS 0x20 sd sa sb imm
  | .pflush sa sb imm => encodeSS 0x21 0 sa sb imm
  | .ovload sa sb imm => encodeSS 0x22 0 sa sb imm
  | .ovcall sa sb imm => encodeSS 0x23 0 sa sb imm
  | .phint sa sb imm => encodeSS 0x24 0 sa sb imm
  | .li sd imm => encodeSI 0x40 sd imm
  | .liz sd imm => encodeSI 0x41 sd imm
  | .lih sd imm => encodeSI 0x42 sd imm
  | .bd inv mask target join => encodeBR (0x60 + encodeCond inv mask) target join
  | .bu inv mask target => encodeBR (0x80 + encodeCond inv mask) target 0
  | .call target => encodeBR 0xA0 target 0
  | .loop target counter => encodeBR 0xA1 target (counter.setWidth 16)
  | .bara sa sb id scope => encodeSY 0xB0 sa sb id scope
  | .barw id scope => encodeSY 0xB1 0 0 id scope
  | .dsync scope => encodeSY 0xB2 0 0 0 scope
  | .fence scope => encodeSY 0xB3 0 0 0 scope
  | .waitc sa id => encodeSY 0xB4 sa 0 id 0
  | .mxwait sa => encodeSY 0xB5 sa 0 0 0
  | .cpwait sa id => encodeSY 0xB6 sa 0 id 0
  | .mxtake => encodeSY 0xB7 0 0 0 0
  | .mxgive => encodeSY 0xB8 0 0 0 0
  | .rdsr sd reg => encodeSX 0xC0 sd 0 reg
  | .wrsr sa reg => encodeSX 0xC1 0 sa reg
  | .sys code => encodeSX 0xC2 0 0 code
  | .trap code => encodeSX 0xC3 0 0 code
  | .eret => encodeSX 0xC4 0 0 0

/-- The scalar slot's 48 bits. -/
def encodeScalar (op : ScalarOp) : BitVec 48 := BitVec.ofNat 48 (encodeScalarNat op)

/-- Slots from the list's first at bit 0 up. -/
def encodeSlots : List Slot → Nat
  | [] => 0
  | x :: rest => (encodeSlot x).toNat + 2 ^ 32 * encodeSlots rest

/-- The K bits, slot 0 lowest (R76). -/
def encodeK : List Slot → Nat
  | [] => 0
  | x :: rest => (if slotIsLim x then 1 else 0) + 2 * encodeK rest

/-- A bundle's 256 bits (R76). -/
def encodeBundle (b : Bundle) : BundleWord :=
  BitVec.ofNat 256 (encodeSlots b.slots +
    2 ^ 192 * (match b.scalar with | some op => (encodeScalar op).toNat | none => 0) +
    2 ^ 244 * (if b.y then 1 else 0) + 2 ^ 245 * (if b.scalar.isSome then 1 else 0) +
    2 ^ 246 * encodeK b.slots + 2 ^ 252 * b.la.toNat)

/-- An instruction's word; none for an event, which has no encoding. -/
def encode (i : Instr) : Option BundleWord := (toBundle i).map encodeBundle

/-! ## Bytes in instruction memory (R7, R76: little-endian) -/

/-- A bundle word from its 32 bytes, the lowest address first. -/
def wordOfBytes : List Byte → Nat
  | [] => 0
  | b :: rest => b.toNat + 256 * wordOfBytes rest

/-- The 32 bytes of a bundle word. -/
def bytesOfWord (w : BundleWord) : List Byte := (List.range 32).map fun i => w.extractLsb' (8 * i) 8

/-- The instruction read from an instruction whose bits are `w`, the bits above `nbits` zero. -/
def decodeTableWord (nbits w : Nat) : Option Instr :=
  match decode (BitVec.ofNat 256 (wordOfBytes (bytesOfWord (BitVec.ofNat 256 (w % 2 ^ nbits))))) with
  | .ok i => some i
  | .error _ => none

end Sys2Proof
end

