-- ==== Sys2Proof/Machine/Float.lean ====
section
/-!
DEFINITION. Number formats and arithmetic (spec 03_numbers): exact values, one rounding, flags, tapered and block formats,
the chunk rule, and the correctly rounded functions. Every function is integer arithmetic on exact values.
-/

namespace Sys2Proof.Machine

/-! ## Formats (R54) and flags (R58, R59) -/

/-- A binary format: exponent bits and fraction bits. -/
structure Fmt where
  ebits : Nat
  mbits : Nat
  deriving DecidableEq, Repr

/-- IEEE binary32. -/
def fp32 : Fmt := { ebits := 8, mbits := 23 }

/-- IEEE binary16. -/
def fp16 : Fmt := { ebits := 5, mbits := 10 }

/-- The upper half of binary32. -/
def bf16 : Fmt := { ebits := 8, mbits := 7 }

/-- Exponent bias (R54). -/
def fmtBias (f : Fmt) : Nat := 2 ^ (f.ebits - 1) - 1

/-- The exponent of a format's quantum at its smallest: the weight of the lowest subnormal bit. -/
def fmtQmin (f : Fmt) : Int := 1 - (fmtBias f : Int) - f.mbits

/-- The exponent field of infinities and NaNs, shifted to its place. -/
def fmtInf (f : Fmt) : Nat := (2 ^ f.ebits - 1) * 2 ^ f.mbits

/-- The sign bit. -/
def fmtSign (f : Fmt) : Nat := 2 ^ (f.ebits + f.mbits)

/-- The canonical NaN (R54). -/
def qnan (f : Fmt) : Nat := fmtInf f + 2 ^ (f.mbits - 1)

/-- Flags in FSTAT's order: INV, DZ, OVF, UNF, INX from bit 0 (R59). -/
abbrev Flags := BitVec 5

/-- Invalid. -/
def fINV : Flags := 1

/-- Divide-by-zero. -/
def fDZ : Flags := 2

/-- Overflow. -/
def fOVF : Flags := 4

/-- Underflow. -/
def fUNF : Flags := 8

/-- Inexact. -/
def fINX : Flags := 16

/-- The flag when the condition holds. -/
def flagIf (c : Bool) (f : Flags) : Flags := if c then f else 0

/-- A value read from a format: a NaN, an infinity, or the exact number (-1)^neg x man x 2^exp. -/
inductive FVal where
  | nan (signalling : Bool)
  | inf (neg : Bool)
  | fin (neg : Bool) (man : Nat) (exp : Int)
  deriving DecidableEq, Repr

/-- A result's bits and flags. -/
structure FRes where
  bits : Nat
  flags : Flags
  deriving DecidableEq, Repr

/-- Reading a value (R54, R55: subnormals at their value). -/
def fRead (f : Fmt) (bits : Nat) : FVal :=
  let frac := bits % 2 ^ f.mbits
  let e := bits / 2 ^ f.mbits % 2 ^ f.ebits
  let neg := bits / fmtSign f % 2 = 1
  if e = 2 ^ f.ebits - 1 then
    if frac = 0 then .inf neg else .nan (frac < 2 ^ (f.mbits - 1))
  else if e = 0 then .fin neg frac (fmtQmin f)
  else .fin neg (frac + 2 ^ f.mbits) (fmtQmin f + (e - 1))

/-- Whether a value is a signalling NaN. -/
def fSNaN : FVal → Bool
  | .nan s => s
  | _ => false

/-- Whether a value is a NaN. -/
def fNaN : FVal → Bool
  | .nan _ => true
  | _ => false

/-- A signed zero or infinity's bits. -/
def fSigned (f : Fmt) (neg : Bool) (mag : Nat) : Nat := (if neg then fmtSign f else 0) + mag

/-! ## Rounding (R56, R58, R61) -/

/-- Whether to round up a magnitude cut after a quotient, from the parity of the quotient, the comparison of twice the remainder
with the unit, and whether anything nonzero was cut. -/
def roundsUp (mode : Rounding) (neg odd : Bool) (cmp : Ordering) (inexact : Bool) : Bool :=
  match mode with
  | .rn => cmp == .gt || (cmp == .eq && odd)
  | .rz => false
  | .ru => !neg && inexact
  | .rd => neg && inexact

/-- Twice the remainder against the unit, with bits below the value known only to be nonzero. -/
def cutCompare (rem unit : Nat) (sticky : Bool) : Ordering :=
  if 2 * rem < unit then .lt else if 2 * rem > unit then .gt else if sticky then .gt else .eq

/-- A magnitude rounded to a multiple of 2^q: the quotient and whether it was inexact. -/
def roundTo (mode : Rounding) (neg : Bool) (man : Nat) (exp q : Int) (sticky : Bool) : Nat × Bool :=
  if q ≤ exp then (man * 2 ^ (exp - q).toNat, sticky)
  else
    let unit := 2 ^ (q - exp).toNat
    let quo := man / unit
    let rem := man % unit
    let inexact := sticky || decide (rem ≠ 0)
    (if roundsUp mode neg (quo % 2 = 1) (cutCompare rem unit sticky) inexact then quo + 1 else quo, inexact)

/-- An overflowing result of a mode (R56): infinity or the largest finite value. -/
def overflowBits (f : Fmt) (mode : Rounding) (neg : Bool) : Nat :=
  let toInf := match mode with
    | .rn => true
    | .rz => false
    | .ru => !neg
    | .rd => neg
  fSigned f neg (if toInf then fmtInf f else fmtInf f - 1)

/-- The number man x 2^exp, a little more where `sticky`, rounded to a format (R61 rnd), with the flags of R58. -/
def roundMag (f : Fmt) (mode : Rounding) (neg : Bool) (man : Nat) (exp : Int) (sticky : Bool) : FRes :=
  if man = 0 then { bits := fSigned f neg 0, flags := 0 }
  else
    let e := (Nat.log2 man : Int) + exp
    let q := max (e - f.mbits) (fmtQmin f)
    let (m, inexact) := roundTo mode neg man exp q sticky
    let field := (q - fmtQmin f).toNat * 2 ^ f.mbits + m
    if field ≥ fmtInf f then { bits := overflowBits f mode neg, flags := fOVF ||| fINX }
    else
      let (mu, _) := roundTo mode neg man exp (e - f.mbits) sticky
      let tiny := e - f.mbits < fmtQmin f ∧ ¬ (mu = 2 ^ (f.mbits + 1) ∧ e - f.mbits + 1 = fmtQmin f)
      { bits := fSigned f neg field,
        flags := flagIf (decide tiny && inexact) fUNF ||| flagIf inexact fINX }

/-! ## Addition, multiplication and fused forms (R165, R166) -/

/-- An exact sum of two numbers: sign, magnitude and exponent; none when it is zero. -/
def exactSum (n1 : Bool) (m1 : Nat) (e1 : Int) (n2 : Bool) (m2 : Nat) (e2 : Int) : Option (Bool × Nat × Int) :=
  let e := min e1 e2
  let a : Int := (m1 * 2 ^ (e1 - e).toNat : Nat)
  let b : Int := (m2 * 2 ^ (e2 - e).toNat : Nat)
  let t := (if n1 then -a else a) + (if n2 then -b else b)
  if t = 0 then none else some (decide (t < 0), t.natAbs, e)

/-- The sum of a finite number and a value, rounded once. The sign of an exact zero follows R56. -/
def addFin (f : Fmt) (mode : Rounding) (n1 : Bool) (m1 : Nat) (e1 : Int) (n2 : Bool) (m2 : Nat) (e2 : Int) : FRes :=
  match exactSum n1 m1 e1 n2 m2 e2 with
  | some (n, m, e) => roundMag f mode n m e false
  | none =>
    let neg := if n1 = n2 then n1 else mode = .rd
    { bits := fSigned f neg 0, flags := 0 }

/-- a + b (R165). -/
def fAddVal (f : Fmt) (mode : Rounding) (a b : FVal) : FRes :=
  let inv := flagIf (fSNaN a || fSNaN b) fINV
  match a, b with
  | .nan _, _ => { bits := qnan f, flags := inv }
  | _, .nan _ => { bits := qnan f, flags := inv }
  | .inf n1, .inf n2 => if n1 = n2 then { bits := fSigned f n1 (fmtInf f), flags := 0 } else { bits := qnan f, flags := fINV }
  | .inf n, .fin .. => { bits := fSigned f n (fmtInf f), flags := 0 }
  | .fin .., .inf n => { bits := fSigned f n (fmtInf f), flags := 0 }
  | .fin n1 m1 e1, .fin n2 m2 e2 => addFin f mode n1 m1 e1 n2 m2 e2

/-- a x b (R165). -/
def fMulVal (f : Fmt) (mode : Rounding) (a b : FVal) : FRes :=
  let inv := flagIf (fSNaN a || fSNaN b) fINV
  match a, b with
  | .nan _, _ => { bits := qnan f, flags := inv }
  | _, .nan _ => { bits := qnan f, flags := inv }
  | .inf n1, .inf n2 => { bits := fSigned f (n1 != n2) (fmtInf f), flags := 0 }
  | .inf n1, .fin n2 m _ =>
    if m = 0 then { bits := qnan f, flags := fINV } else { bits := fSigned f (n1 != n2) (fmtInf f), flags := 0 }
  | .fin n1 m _, .inf n2 =>
    if m = 0 then { bits := qnan f, flags := fINV } else { bits := fSigned f (n1 != n2) (fmtInf f), flags := 0 }
  | .fin n1 m1 e1, .fin n2 m2 e2 => roundMag f mode (n1 != n2) (m1 * m2) (e1 + e2) false

/-- The negation of a value. -/
def fNegVal : FVal → FVal
  | .nan s => .nan s
  | .inf n => .inf (!n)
  | .fin n m e => .fin (!n) m e

/-- The product as an exact value: none for 0 x Inf. -/
def exactProduct (a b : FVal) : Option FVal :=
  match a, b with
  | .nan s, .nan t => some (.nan (s || t))
  | .nan s, _ => some (.nan s)
  | _, .nan s => some (.nan s)
  | .inf n1, .inf n2 => some (.inf (n1 != n2))
  | .inf n1, .fin n2 m _ => if m = 0 then none else some (.inf (n1 != n2))
  | .fin n1 m _, .inf n2 => if m = 0 then none else some (.inf (n1 != n2))
  | .fin n1 m1 e1, .fin n2 m2 e2 => some (.fin (n1 != n2) (m1 * m2) (e1 + e2))

/-- a x b + c with one rounding, the product negated first where `negProduct` (R165). -/
def fFmaVal (f : Fmt) (mode : Rounding) (negProduct : Bool) (a b c : FVal) : FRes :=
  let inv := flagIf (fSNaN a || fSNaN b || fSNaN c) fINV
  match exactProduct a b with
  | none => { bits := qnan f, flags := fINV }
  | some p =>
    let r := fAddVal f mode (if negProduct then fNegVal p else p) c
    { r with flags := r.flags ||| inv }

/-- A NaN-free comparison of two values. -/
def fCompare (a b : FVal) : Ordering :=
  match a, b with
  | .fin n1 m1 e1, .fin n2 m2 e2 =>
    match exactSum n1 m1 e1 (!n2) m2 e2 with
    | none => .eq
    | some (neg, _, _) => if neg then .lt else .gt
  | .inf n1, .inf n2 => if n1 = n2 then .eq else if n1 then .lt else .gt
  | .inf n, _ => if n then .lt else .gt
  | _, .inf n => if n then .gt else .lt
  | _, _ => .eq

/-- minimumNumber or maximumNumber (R170) of two patterns; equal operands give their common pattern, -0 below +0. -/
def fMinMax (f : Fmt) (isMax : Bool) (x y : Nat) : FRes :=
  let a := fRead f x
  let b := fRead f y
  let inv := flagIf (fSNaN a || fSNaN b) fINV
  let lesser (p q : Nat) : Bool := match fCompare (fRead f p) (fRead f q) with
    | .lt => true
    | .gt => false
    | .eq => decide (p / fmtSign f % 2 = 1)
  let bits :=
    if fNaN a && fNaN b then qnan f
    else if fNaN a then y
    else if fNaN b then x
    else if lesser x y then (if isMax then y else x) else (if isMax then x else y)
  { bits := bits, flags := inv }

/-- Conversion between formats with one rounding (R167, R172). -/
def fConvert (src dst : Fmt) (mode : Rounding) (x : Nat) : FRes :=
  match fRead src x with
  | .nan s => { bits := qnan dst, flags := flagIf s fINV }
  | .inf n => { bits := fSigned dst n (fmtInf dst), flags := 0 }
  | .fin n m e => roundMag dst mode n m e false

/-- FP32 to a signed 32-bit integer (R168). -/
def fToInt (mode : Rounding) (x : Nat) : FRes :=
  match fRead fp32 x with
  | .nan _ => { bits := 0, flags := fINV }
  | .inf n => { bits := if n then 2 ^ 31 else 2 ^ 31 - 1, flags := fINV }
  | .fin n m e =>
    let (q, inexact) := roundTo mode n m e 0 false
    if n then
      if q > 2 ^ 31 then { bits := 2 ^ 31, flags := fINV } else { bits := (2 ^ 32 - q) % 2 ^ 32, flags := flagIf inexact fINX }
    else if q > 2 ^ 31 - 1 then { bits := 2 ^ 31 - 1, flags := fINV } else { bits := q, flags := flagIf inexact fINX }

/-- A signed 32-bit integer to FP32 (R169). -/
def fOfInt (mode : Rounding) (x : Int) : FRes := roundMag fp32 mode (decide (x < 0)) x.natAbs 0 false

/-! ## Tapered formats (R62, R66) -/

/-- A tapered value: NaR or (-1)^neg x man x 2^exp. -/
inductive TVal where
  | nar
  | fin (neg : Bool) (man : Nat) (exp : Int)
  deriving DecidableEq, Repr

/-- The value of bits, most significant first. -/
def bitsVal (l : List Bool) : Nat := l.foldl (fun a b => 2 * a + if b then 1 else 0) 0

/-- The low `n` bits of a number, most significant first. -/
def bitsOf (n x : Nat) : List Bool := (List.range n).map fun i => x.testBit (n - 1 - i)

/-- dec_t with body width B: 7 for T8, 5 for T6 (R62). -/
def decT (B c : Nat) : TVal :=
  let s := c / 2 ^ B % 2 = 1
  let body := c % 2 ^ B
  if body = 0 then (if s then .nar else .fin false 0 0)
  else
    let bits := bitsOf B body
    let b := bits.headD false
    let n := (bits.takeWhile (· = b)).length
    let k : Int := if b then (n : Int) - 1 else -(n : Int)
    let rest := bits.drop (n + 1)
    let e : Int := if rest.headD false then 1 else 0
    let fr := rest.tail
    .fin s (2 ^ fr.length + bitsVal fr) (2 * k + e - fr.length)

/-- enc_t of the magnitude man x 2^exp, nonzero, with body width B (R66). -/
def encTMag (B : Nat) (neg : Bool) (man : Nat) (exp : Int) : FRes :=
  let maxk : Int := B - 1
  let s := if neg then 2 ^ B else 0
  let lg := Nat.log2 man
  let frac := man - 2 ^ lg
  let e := (lg : Int) + exp
  if e < -2 * maxk - 1 then { bits := 0, flags := fUNF ||| fINX }
  else if e < -2 * maxk ∨ (e = -2 * maxk ∧ frac = 0) then
    { bits := s + 1, flags := if e < -2 * maxk then fUNF ||| fINX else 0 }
  else if e > 2 * maxk ∨ (e = 2 * maxk ∧ frac ≠ 0) then { bits := s + (2 ^ B - 1), flags := fOVF ||| fINX }
  else
    let k := e / 2
    let ebit := (e - 2 * k).toNat
    let rl := if k ≥ 0 then k.toNat + 2 else (-k).toNat + 1
    let regime := if k ≥ 0 then 2 ^ rl - 2 else 1
    let str := regime * 2 ^ (lg + 1) + ebit * 2 ^ lg + frac
    let total := rl + 1 + lg
    let (body, inexact) :=
      if total ≤ B then (str * 2 ^ (B - total), false)
      else
        let unit := 2 ^ (total - B)
        let quo := str / unit
        let rem := str % unit
        (if roundsUp .rn false (quo % 2 = 1) (cutCompare rem unit false) (rem ≠ 0) then quo + 1 else quo, decide (rem ≠ 0))
    { bits := s + body, flags := flagIf inexact fINX }

/-- enc_t of a value times 2^(-scale) (R66, R70). -/
def encT (B : Nat) (scale : Int) (x : FVal) : FRes :=
  match x with
  | .nan _ => { bits := 2 ^ B, flags := fINV }
  | .inf _ => { bits := 2 ^ B, flags := fINV }
  | .fin n m e => if m = 0 then { bits := 0, flags := 0 } else encTMag B n m (e - scale)

/-- A tapered code times 2^scale as a format's bits (R68, R71): exact or rounded to nearest even. -/
def decTTo (f : Fmt) (B : Nat) (scale : Int) (c : Nat) : FRes :=
  match decT B c with
  | .nar => { bits := qnan f, flags := fINV }
  | .fin n m e => if m = 0 then { bits := 0, flags := 0 } else roundMag f .rn n m (e + scale) false

/-- floor(log2 |x|) of a finite nonzero value. -/
def floorLog2 : FVal → Option Int
  | .fin _ m e => if m = 0 then none else some ((Nat.log2 m : Int) + e)
  | _ => none

/-- The block scale of R70: over the finite nonzero values, saturated to -127 to 127. -/
def blockScale (xs : List FVal) : Int :=
  match xs.filterMap floorLog2 with
  | [] => 0
  | e :: es => max (-127) (min 127 (es.foldl max e))

/-- A scale byte. -/
def scaleByte (s : Int) : Nat := (s % 256).toNat

/-- A scale byte read as two's complement; none for the block NaR 0x80 (R69). -/
def scaleOf (b : Nat) : Option Int := if b % 256 = 128 then none else some (if b % 256 < 128 then (b % 256 : Int) else (b % 256 : Int) - 256)

/-! ## Chunk accumulation (R73) -/

/-- A product of a chunk: a NaN, from a NaN or NaR operand (`operand`) or from 0 x Inf, an infinity, or an exact number. -/
inductive PVal where
  | nan (operand : Bool)
  | inf (neg : Bool)
  | fin (neg : Bool) (man : Nat) (exp : Int)
  deriving DecidableEq, Repr

/-- The product of two operand values with a scale added to its exponent (R72, R73). -/
def chunkProduct (a b : FVal) (scale : Int) : PVal :=
  match exactProduct a b with
  | none => .nan false
  | some (.nan _) => .nan true
  | some (.inf n) => .inf n
  | some (.fin n m e) => .fin n m (e + scale)

/-- Whether a product is a NaN. -/
def pNaN : PVal → Bool
  | .nan _ => true
  | _ => false

/-- Whether a product has a NaN or NaR operand. -/
def pNaNOperand : PVal → Bool
  | .nan o => o
  | _ => false

/-- Signs of the infinite products. -/
def pInfSigns (ps : List PVal) : List Bool := ps.filterMap fun p => match p with
  | .inf n => some n
  | _ => none

/-- floor(log2 |p|) of the nonzero products. -/
def pLogs (ps : List PVal) : List Int := ps.filterMap fun p => match p with
  | .fin _ m e => if m = 0 then none else some ((Nat.log2 m : Int) + e)
  | _ => none

/-- trunc(p, g) in units of 2^g, as an integer. -/
def pTrunc (g : Int) (p : PVal) : Int :=
  match p with
  | .fin n m e =>
    let q : Nat := if e ≥ g then m * 2 ^ (e - g).toNat else m / 2 ^ (g - e).toNat
    if n then -(q : Int) else q
  | _ => 0

/-- chunk(acc, p) of R73 on FP32 bits, with the flags of R279. -/
def chunkRes (acc : Nat) (ps : List PVal) : FRes :=
  let a := fRead fp32 acc
  if fNaN a || ps.any pNaN then { bits := qnan fp32, flags := flagIf (!fNaN a && !ps.any pNaNOperand) fINV }
  else
    let signs := pInfSigns ps ++ (match a with
      | .inf n => [n]
      | _ => [])
    match signs with
    | n :: rest =>
      if rest.all (· = n) then { bits := fSigned fp32 n (fmtInf fp32), flags := 0 } else { bits := qnan fp32, flags := fINV }
    | [] =>
      match a with
      | .fin na ma ea =>
        let y := match pLogs ps with
          | [] => addFin fp32 .rn na ma ea false 0 0
          | e :: es =>
            let g := es.foldl max e - 63
            let t := (ps.map (pTrunc g)).foldl (· + ·) 0
            addFin fp32 .rn na ma ea (decide (t < 0)) t.natAbs g
        if y.bits % fmtSign fp32 = 0 then { y with bits := 0 } else y
      | _ => { bits := qnan fp32, flags := 0 }

/-- chunk(acc, p) of R73 on FP32 bits. -/
def chunk (acc : Nat) (ps : List PVal) : Nat := (chunkRes acc ps).bits

/-! ## Correctly rounded functions (R75) -/

/-- floor of the square root, one bit at a time from bit `n` down. -/
def isqrtAux : Nat → Nat → Nat → Nat
  | 0, _, r => r
  | n + 1, x, r =>
    let r' := r + 2 ^ n
    isqrtAux n x (if r' * r' ≤ x then r' else r)

/-- floor of the square root. -/
def isqrt (x : Nat) : Nat := isqrtAux (Nat.log2 x / 2 + 1) x 0

/-- a / b (R75). -/
def sfDiv (x y : Nat) : FRes :=
  let a := fRead fp32 x
  let b := fRead fp32 y
  let inv := flagIf (fSNaN a || fSNaN b) fINV
  match a, b with
  | .nan _, _ => { bits := qnan fp32, flags := inv }
  | _, .nan _ => { bits := qnan fp32, flags := inv }
  | .inf _, .inf _ => { bits := qnan fp32, flags := fINV }
  | .inf n1, .fin n2 _ _ => { bits := fSigned fp32 (n1 != n2) (fmtInf fp32), flags := 0 }
  | .fin n1 _ _, .inf n2 => { bits := fSigned fp32 (n1 != n2) 0, flags := 0 }
  | .fin n1 m1 e1, .fin n2 m2 e2 =>
    if m2 = 0 then
      if m1 = 0 then { bits := qnan fp32, flags := fINV }
      else { bits := fSigned fp32 (n1 != n2) (fmtInf fp32), flags := fDZ }
    else
      let num := m1 * 2 ^ 80
      roundMag fp32 .rn (n1 != n2) (num / m2) (e1 - e2 - 80) (num % m2 ≠ 0)

/-- The square root of a (R75). -/
def sfSqrt (x : Nat) : FRes :=
  match fRead fp32 x with
  | .nan s => { bits := qnan fp32, flags := flagIf s fINV }
  | .inf n => if n then { bits := qnan fp32, flags := fINV } else { bits := fmtInf fp32, flags := 0 }
  | .fin n m e =>
    if m = 0 then { bits := fSigned fp32 n 0, flags := 0 }
    else if n then { bits := qnan fp32, flags := fINV }
    else
      let odd := (e % 2).toNat
      let v := m * 2 ^ (80 + odd)
      let r := isqrt v
      roundMag fp32 .rn false r ((e - odd - 80) / 2) (r * r ≠ v)

/-- 1 / sqrt a (R75). The value is exact only for a power of four. -/
def sfRsqrt (x : Nat) : FRes :=
  match fRead fp32 x with
  | .nan s => { bits := qnan fp32, flags := flagIf s fINV }
  | .inf n => if n then { bits := qnan fp32, flags := fINV } else { bits := 0, flags := 0 }
  | .fin n m e =>
    if m = 0 then { bits := fSigned fp32 n (fmtInf fp32), flags := fDZ }
    else if n then { bits := qnan fp32, flags := fINV }
    else
      let odd := (e % 2).toNat
      let v := m * 2 ^ odd
      let r := isqrt (2 ^ 160 / v)
      roundMag fp32 .rn false r (-80 - (e - odd) / 2) (r * r * v ≠ 2 ^ 160)

/-- Fixed-point places of the transcendental functions. Log 12. -/
def fxBits : Nat := 400

/-- floor(pi x 2^400). -/
def fxPi : Nat := 0x3243f6a8885a308d313198a2e03707344a4093822299f31d0082efa98ec4e6c89452821e638d01377be5466cf34e90c6cc0ac

/-- floor(ln 2 x 2^400). -/
def fxLn2 : Nat := 0xb17217f7d1cf79abc9e3b39803f2f6af40f343267298b62d8a0d175b8baafa2be7b876206debac98559552fb4afa1b10ed2e

/-- A product of two fixed-point numbers. -/
def fxMul (a b : Nat) : Nat := a * b / 2 ^ fxBits

/-- Sum of the exponential series from the term with index `k`. -/
def fxExpSeries : Nat → Nat → Nat → Nat → Nat
  | 0, _, _, _ => 0
  | n + 1, k, x, term => term + fxExpSeries n (k + 1) x (fxMul term x / (k + 1))

/-- e^x of a fixed-point x below 1. -/
def fxExp (x : Nat) : Nat := fxExpSeries 100 0 x (2 ^ fxBits)

/-- The alternating series of sine and cosine: terms of indices `k`, `k + 2` and so on. -/
def fxTrigSeries : Nat → Nat → Nat → Nat → Int
  | 0, _, _, _ => 0
  | n + 1, k, x2, term => (term : Int) - fxTrigSeries n (k + 2) x2 (fxMul term x2 / ((k + 1) * (k + 2)))

/-- sin x of a fixed-point x in [0, pi/2]. -/
def fxSin (x : Nat) : Nat := (fxTrigSeries 60 1 (fxMul x x) x).toNat

/-- cos x of a fixed-point x in [0, pi/2]. -/
def fxCos (x : Nat) : Nat := (fxTrigSeries 60 0 (fxMul x x) (2 ^ fxBits)).toNat

/-- The series z + z^3/3 + z^5/5 and so on, from the term with index `k`. -/
def fxAtanhSeries : Nat → Nat → Nat → Nat → Nat
  | 0, _, _, _ => 0
  | n + 1, k, z2, p => p / k + fxAtanhSeries n (k + 2) z2 (fxMul p z2)

/-- ln m of a fixed-point m in [1, 2). -/
def fxLn (m : Nat) : Nat :=
  let one := 2 ^ fxBits
  let z := (m - one) * one / (m + one)
  2 * fxAtanhSeries 140 1 (fxMul z z) z

/-- 2^a (R75). An integer a gives an exact power; every other result is irrational. -/
def sfExp2 (x : Nat) : FRes :=
  match fRead fp32 x with
  | .nan s => { bits := qnan fp32, flags := flagIf s fINV }
  | .inf n => { bits := if n then 0 else fmtInf fp32, flags := 0 }
  | .fin n m e =>
    if m = 0 then roundMag fp32 .rn false 1 0 false
    else if (Nat.log2 m : Int) + e ≥ 8 then
      if n then roundMag fp32 .rn false 1 (-400) true else roundMag fp32 .rn false 1 400 false
    else
      let v := if e ≥ 0 then m * 2 ^ (e.toNat + fxBits) else m * 2 ^ fxBits / 2 ^ (-e).toNat
      let one := 2 ^ fxBits
      let whole : Int := if n then -((v + one - 1) / one : Nat) else (v / one : Nat)
      let f := if n then (one - v % one) % one else v % one
      if f = 0 then roundMag fp32 .rn false 1 whole false
      else roundMag fp32 .rn false (fxExp (fxMul f fxLn2)) (whole - fxBits) true

/-- log2 a (R75). A power of two gives an integer; every other result is irrational. -/
def sfLog2 (x : Nat) : FRes :=
  match fRead fp32 x with
  | .nan s => { bits := qnan fp32, flags := flagIf s fINV }
  | .inf n => if n then { bits := qnan fp32, flags := fINV } else { bits := fmtInf fp32, flags := 0 }
  | .fin n m e =>
    if m = 0 then { bits := fSigned fp32 true (fmtInf fp32), flags := fDZ }
    else if n then { bits := qnan fp32, flags := fINV }
    else
      let lg := Nat.log2 m
      let whole := (lg : Int) + e
      if m = 2 ^ lg then roundMag fp32 .rn (decide (whole < 0)) whole.natAbs 0 false
      else
        let ln := fxLn (m * 2 ^ fxBits / 2 ^ lg)
        let v := whole * (2 ^ fxBits : Nat) + (ln * 2 ^ fxBits / fxLn2 : Nat)
        roundMag fp32 .rn (decide (v < 0)) v.natAbs (-(fxBits : Int)) true

/-- |a| modulo 2 as a fixed-point number, exact. -/
def fxMod2 (m : Nat) (e : Int) : Nat :=
  (if e ≥ 0 then m * 2 ^ (e.toNat + fxBits) else m * 2 ^ fxBits / 2 ^ (-e).toNat) % 2 ^ (fxBits + 1)

/-- The magnitude and sign of sine or cosine of pi x r, r in [0, 2): the quadrant, and the angle within it. Exactly +0 or 1 at
multiples of one half. -/
def fxTrig (cosine neg : Bool) (r : Nat) : FRes :=
  let half := 2 ^ (fxBits - 1)
  let quad := r / half + (if cosine then 1 else 0)
  let t := r % half
  let flip := quad / 2 % 2 = 1
  let sgn := (flip != neg)
  if t = 0 then
    if quad % 2 = 1 then roundMag fp32 .rn sgn 1 0 false
    else { bits := fSigned fp32 (neg && !cosine) 0, flags := 0 }
  else
    let x := fxMul t fxPi
    roundMag fp32 .rn sgn (if quad % 2 = 1 then fxCos x else fxSin x) (-(fxBits : Int)) true

/-- sin(pi a) (R75). -/
def sfSinpi (x : Nat) : FRes :=
  match fRead fp32 x with
  | .nan s => { bits := qnan fp32, flags := flagIf s fINV }
  | .inf _ => { bits := qnan fp32, flags := fINV }
  | .fin n m e => if m = 0 then { bits := fSigned fp32 n 0, flags := 0 } else fxTrig false n (fxMod2 m e)

/-- cos(pi a) (R75). -/
def sfCospi (x : Nat) : FRes :=
  match fRead fp32 x with
  | .nan s => { bits := qnan fp32, flags := flagIf s fINV }
  | .inf _ => { bits := qnan fp32, flags := fINV }
  | .fin _ m e => fxTrig true false (fxMod2 m e)

end Sys2Proof.Machine
end

