-- ==== Sys2Proof/Machine/Lane.lean ====
section
/-!
DEFINITION. What each lane-local unit computes (spec 09_lane_units, 03_numbers): ia, lg, fm and sf on one lane's operands.
The first operands come from latches a and b in that order, the last from the trigger (R147).
-/

namespace Sys2Proof.Machine

/-- A lane's result: port o, port x where the operation writes it, and the flags it raises. -/
structure LaneRes where
  o : Word
  x : Option Word := none
  flags : Flags := 0
  deriving DecidableEq, Repr

/-- The word 1 or 0. -/
def boolWord (b : Bool) : Word := if b then 1 else 0

/-- sat of R61 on integers. -/
def satInt (x lo hi : Int) : Int := if x < lo then lo else if x > hi then hi else x

/-! ## ia (R153-R158) -/

/-- Position of a bit-field operand (R156). -/
def fieldPos (p : Word) : Nat := p.toNat % 32

/-- Length of a bit field after clipping at bit 31 (R156). -/
def fieldLen (p : Word) : Nat := min (min (p.toNat / 256 % 64) 32) (32 - fieldPos p)

/-- The field of a at p, zero-extended. -/
def bfxuWord (a p : Word) : Word := BitVec.ofNat 32 (a.toNat / 2 ^ fieldPos p % 2 ^ fieldLen p)

/-- The field of a at p, sign-extended. -/
def bfxWord (a p : Word) : Word :=
  let n := fieldLen p
  let f := (bfxuWord a p).toNat
  if n = 0 then 0 else if f.testBit (n - 1) then BitVec.ofInt 32 ((f : Int) - 2 ^ n) else BitVec.ofNat 32 f

/-- a inserted into b at p. -/
def bfiWord (a b p : Word) : Word :=
  let n := fieldLen p
  let m : Word := BitVec.ofNat 32 ((2 ^ n - 1) * 2 ^ fieldPos p)
  (b &&& ~~~m) ||| (BitVec.ofNat 32 (a.toNat % 2 ^ n * 2 ^ fieldPos p) &&& m)

/-- Number of one bits. -/
def popcWord (a : Word) : Nat := ((List.range 32).filter fun i => a.getLsbD i).length

/-- Zero bits above the highest one bit. -/
def clzWord (a : Word) : Nat := ((List.range 32).takeWhile fun i => !a.getLsbD (31 - i)).length

/-- Zero bits below the lowest one bit. -/
def ctzWord (a : Word) : Nat := ((List.range 32).takeWhile fun i => !a.getLsbD i).length

/-- Bit reverse. -/
def brevWord (a : Word) : Word := (List.range 32).foldl (fun r i => if a.getLsbD (31 - i) then r ||| (1 <<< i) else r) 0

/-- The signed range of a word. -/
def satSigned (x : Int) : Word := BitVec.ofInt 32 (satInt x (-2 ^ 31) (2 ^ 31 - 1))

/-- The unsigned range of a word. -/
def satUnsigned (x : Int) : Word := BitVec.ofInt 32 (satInt x 0 (2 ^ 32 - 1))

/-- ia on one lane (R154-R158). -/
def iaLane (op : IaOp) (a b c : Word) : LaneRes :=
  let n := b.toNat % 32
  match op with
  | .add => { o := a + b, x := some (boolWord (a.toNat + b.toNat ≥ 2 ^ 32)) }
  | .addc => { o := a + b + BitVec.ofNat 32 (c.toNat % 2), x := some (boolWord (a.toNat + b.toNat + c.toNat % 2 ≥ 2 ^ 32)) }
  | .sub => { o := a - b, x := some (boolWord (a.toNat < b.toNat)) }
  | .subb => { o := a - b - BitVec.ofNat 32 (c.toNat % 2), x := some (boolWord (a.toNat < b.toNat + c.toNat % 2)) }
  | .mul => { o := a * b }
  | .mulhi => { o := BitVec.ofInt 32 (a.toInt * b.toInt / 2 ^ 32) }
  | .mulhu => { o := BitVec.ofNat 32 (a.toNat * b.toNat / 2 ^ 32) }
  | .mad => { o := a * b + c }
  | .shl => { o := a <<< n }
  | .shr => { o := a >>> n }
  | .sar => { o := a.sshiftRight n }
  | .rotl => { o := a.rotateLeft n }
  | .rotr => { o := a.rotateRight n }
  | .bfx => { o := bfxWord a b }
  | .bfxu => { o := bfxuWord a b }
  | .bfi => { o := bfiWord a b c }
  | .popc => { o := BitVec.ofNat 32 (popcWord a) }
  | .clz => { o := BitVec.ofNat 32 (clzWord a) }
  | .ctz => { o := BitVec.ofNat 32 (ctzWord a) }
  | .brev => { o := brevWord a }
  | .min => { o := if a.toInt ≤ b.toInt then a else b }
  | .max => { o := if a.toInt ≥ b.toInt then a else b }
  | .minu => { o := if a.toNat ≤ b.toNat then a else b }
  | .maxu => { o := if a.toNat ≥ b.toNat then a else b }
  | .abs => { o := BitVec.ofInt 32 |a.toInt| }
  | .adds => { o := satSigned (a.toInt + b.toInt) }
  | .subs => { o := satSigned (a.toInt - b.toInt) }
  | .addus => { o := satUnsigned ((a.toNat : Int) + b.toNat) }
  | .subus => { o := satUnsigned ((a.toNat : Int) - b.toNat) }
  | .lea => { o := a + b <<< (c.toNat % 32) }

/-! ## lg (R159-R163) -/

/-- An FP32 compare (R161): the ordered test, the unordered result, and whether any NaN raises invalid. -/
def fpCompare (test : Ordering → Bool) (unordered anyNaN : Bool) (a b : Word) : LaneRes :=
  let x := fRead fp32 a.toNat
  let y := fRead fp32 b.toNat
  if fNaN x || fNaN y then
    { o := boolWord unordered, flags := flagIf (anyNaN || fSNaN x || fSNaN y) fINV }
  else { o := boolWord (test (fCompare x y)) }

/-- The class bit of an FP32 pattern (R162). -/
def fclsWord (a : Word) : Word :=
  let subnormal : Bool := decide (a.toNat / 2 ^ 23 % 256 = 0)
  match fRead fp32 a.toNat with
  | .nan s => if s then 1 else 2
  | .inf n => if n then 4 else 512
  | .fin n m _ =>
    if m = 0 then (if n then 32 else 64)
    else if subnormal then (if n then 16 else 128)
    else if n then 8 else 256

/-- lg on one lane; `lane` is the lane number, modulo 16 in legacy width (R151, R163). -/
def lgLane (op : LgOp) (lane : Nat) (a b c : Word) : LaneRes :=
  match op with
  | .and => { o := a &&& b }
  | .or => { o := a ||| b }
  | .xor => { o := a ^^^ b }
  | .andn => { o := a &&& ~~~b }
  | .not => { o := ~~~a }
  | .sel => { o := if c.getLsbD 0 then a else b }
  | .ceq => { o := boolWord (a = b) }
  | .cne => { o := boolWord (a ≠ b) }
  | .clt => { o := boolWord (a.toInt < b.toInt) }
  | .cle => { o := boolWord (a.toInt ≤ b.toInt) }
  | .cltu => { o := boolWord (a.toNat < b.toNat) }
  | .cleu => { o := boolWord (a.toNat ≤ b.toNat) }
  | .fceq => fpCompare (· = .eq) false false a b
  | .fcne => fpCompare (· ≠ .eq) true false a b
  | .fclt => fpCompare (· = .lt) false true a b
  | .fcle => fpCompare (· ≠ .gt) false true a b
  | .fcun => fpCompare (fun _ => false) true false a b
  | .fcls => { o := fclsWord a }
  | .mbit => { o := boolWord (a.getLsbD lane) }
  | .bsel => { o := (a &&& c) ||| (b &&& ~~~c) }

/-! ## fm (R164-R174) -/

/-- A result of bits and flags as a lane result. -/
def resWord (r : FRes) : LaneRes := { o := BitVec.ofNat 32 r.bits, flags := r.flags }

/-- Element i of a pair (R55). -/
def pairElem (i : Nat) (a : Word) : Nat := a.toNat / 2 ^ (16 * i) % 2 ^ 16

/-- A pair assembled from two element results (R147, R166). -/
def pairWord (e0 e1 : FRes) : LaneRes :=
  { o := BitVec.ofNat 32 (e0.bits + 2 ^ 16 * e1.bits), flags := e0.flags ||| e1.flags }

/-- The fma of one element of a pair (R166). -/
def pairFma (f : Fmt) (m : Rounding) (i : Nat) (a b c : Word) : FRes :=
  fFmaVal f m false (fRead f (pairElem i a)) (fRead f (pairElem i b)) (fRead f (pairElem i c))

/-- Minimum or maximum of both elements of a pair (R170). -/
def pairMinMax (f : Fmt) (isMax : Bool) (a b : Word) : LaneRes :=
  pairWord (fMinMax f isMax (pairElem 0 a) (pairElem 0 b)) (fMinMax f isMax (pairElem 1 a) (pairElem 1 b))

/-- A pair widened to FP32: element 0 to o, element 1 to x (R172). -/
def pairWiden (f : Fmt) (a : Word) : LaneRes :=
  let r0 := fConvert f fp32 .rn (pairElem 0 a)
  let r1 := fConvert f fp32 .rn (pairElem 1 a)
  { o := BitVec.ofNat 32 r0.bits, x := some (BitVec.ofNat 32 r1.bits), flags := r0.flags ||| r1.flags }

/-- b with tapered element i replaced by enc_t(a); `w` is the element's width, 8 or 6 (R173). -/
def cvtTapered (w : Nat) (a b c : Word) : LaneRes :=
  let i := c.toNat % 4
  let r := encT (w - 1) 0 (fRead fp32 a.toNat)
  let low := b.toNat % 2 ^ (4 * w)
  let old := low / 2 ^ (w * i) % 2 ^ w
  { o := BitVec.ofNat 32 (low - old * 2 ^ (w * i) + r.bits * 2 ^ (w * i)), flags := r.flags }

/-- The FP32 value of tapered element b[1:0] of a (R174). -/
def decTapered (w : Nat) (a b : Word) : LaneRes :=
  resWord (decTTo fp32 (w - 1) 0 (a.toNat / 2 ^ (w * (b.toNat % 4)) % 2 ^ w))

/-- fm on one lane (R165-R174). -/
def fmLane (op : FmOp) (a b c : Word) : LaneRes :=
  let x := fRead fp32 a.toNat
  let y := fRead fp32 b.toNat
  let z := fRead fp32 c.toNat
  match op with
  | .fma m => resWord (fFmaVal fp32 m false x y z)
  | .fms m => resWord (fFmaVal fp32 m false x y (fNegVal z))
  | .fnma m => resWord (fFmaVal fp32 m true x y z)
  | .add m => resWord (fAddVal fp32 m x y)
  | .sub m => resWord (fAddVal fp32 m x (fNegVal y))
  | .mul m => resWord (fMulVal fp32 m x y)
  | .hfma m => pairWord (pairFma fp16 m 0 a b c) (pairFma fp16 m 1 a b c)
  | .bfma m => pairWord (pairFma bf16 m 0 a b c) (pairFma bf16 m 1 a b c)
  | .cvth m => pairWord (fConvert fp32 fp16 m a.toNat) (fConvert fp32 fp16 m b.toNat)
  | .cvtb m => pairWord (fConvert fp32 bf16 m a.toNat) (fConvert fp32 bf16 m b.toNat)
  | .cvti m => resWord (fToInt m a.toNat)
  | .cvtf m => resWord (fOfInt m a.toInt)
  | .min => resWord (fMinMax fp32 false a.toNat b.toNat)
  | .max => resWord (fMinMax fp32 true a.toNat b.toNat)
  | .neg => { o := a ^^^ 0x80000000 }
  | .abs => { o := a &&& 0x7FFFFFFF }
  | .csgn => { o := (a &&& 0x7FFFFFFF) ||| (b &&& 0x80000000) }
  | .cvtfh => pairWiden fp16 a
  | .cvtfb => pairWiden bf16 a
  | .cvt8 => cvtTapered 8 a b c
  | .cvt6 => cvtTapered 6 a b c
  | .dec8 => decTapered 8 a b
  | .dec6 => decTapered 6 a b
  | .hmin => pairMinMax fp16 false a b
  | .hmax => pairMinMax fp16 true a b
  | .bmin => pairMinMax bf16 false a b
  | .bmax => pairMinMax bf16 true a b

/-! ## sf (R175) -/

/-- sf on one lane. -/
def sfLane (op : SfOp) (a b : Word) : LaneRes :=
  match op with
  | .div => resWord (sfDiv a.toNat b.toNat)
  | .sqrt => resWord (sfSqrt a.toNat)
  | .rcp => resWord (sfDiv 0x3F800000 a.toNat)
  | .rsqrt => resWord (sfRsqrt a.toNat)
  | .exp2 => resWord (sfExp2 a.toNat)
  | .log2 => resWord (sfLog2 a.toNat)
  | .sinpi => resWord (sfSinpi a.toNat)
  | .cospi => resWord (sfCospi a.toNat)
  | .scpi =>
    let s := sfSinpi a.toNat
    let c := sfCospi a.toNat
    { o := BitVec.ofNat 32 s.bits, x := some (BitVec.ofNat 32 c.bits), flags := s.flags ||| c.flags }

/-! ## Atomics (R226, R227) -/

/-- The new value of the word of an atomic or reducing store. -/
def atomicNew (op : StOp) (w b c : Word) : Word :=
  match op with
  | .aadd | .radd => w + b
  | .afadd | .rfadd => BitVec.ofNat 32 (fAddVal fp32 .rn (fRead fp32 w.toNat) (fRead fp32 b.toNat)).bits
  | .amin => if w.toInt ≤ b.toInt then w else b
  | .amax => if w.toInt ≥ b.toInt then w else b
  | .aminu => if w.toNat ≤ b.toNat then w else b
  | .amaxu => if w.toNat ≥ b.toNat then w else b
  | .aand => w &&& b
  | .aor => w ||| b
  | .axor => w ^^^ b
  | .axch => b
  | .acas => if w = c then b else w
  | .sb | .sh | .sw | .sd | .swo | .sdo | .tst | .mcst => b

end Sys2Proof.Machine
end

