-- ==== Sys2Proof/Config.lean ====
section
/-!
DEFINITION. What an implementation fixes and the free values: every constant here is opaque, so no proof can use a number for it.
A free value is applied to `State.free`, a plain counter that each use advances, or to the operands it depends on.
-/

namespace Sys2Proof.Config

/-- A free choice between two outcomes the spec lists (R9). Log 10. -/
opaque freeBit : Nat → Bool

/-- A free 32-bit value. Log 10. -/
opaque freeWord : Nat → Word

/-- A free natural number, used for choices limited to a listed range (R9). Log 10. -/
opaque freeNat : Nat → Nat

/-- LSZ of the access word of an access whose size the spec does not state, BASEW's and the matrix engine's: 0-4 (R310). Log 38. -/
opaque accessLsz : Nat → Fin 5

/-- `gtime` ticks that pass in a step (R3, R4: clocks and `gtime` are unrelated). Log 2. -/
opaque elapsed : Nat → Nat

/-- MCREV as the Bodor controller wrote it before DEVREADY (R341). Log 6. -/
opaque mcrev : DWord

/-- M0 after bring-up: the measurement of the firmware image (R373), whose bytes the spec does not give. Log 6. -/
opaque firmwareMeasure : BitVec 256

/-- Whether the firmware image's SLH-DSA-SHA2-128s signature verifies under the fused public key (R372). Log 6. -/
opaque firmwareSigned : Bool

/-- The firmware image's security version (R372). Log 6. -/
opaque firmwareVersion : Nat

/-- The fused counter that the security version is checked against (R372). Log 6. -/
opaque fusedVersion : Nat

/-- M1 after bring-up: the measurement of the supplied supervisor image (R373, R376). Log 6. -/
opaque supervisorMeasure : BitVec 256

/-- Byte `i` of the SLH-DSA-SHA2-128s signature over the report bytes by the device attestation key (R374). Log 6. -/
opaque signatureByte : List Byte → Nat → Byte

/-- Byte `i` of the alarm log's 16-byte record of a sensor, a level and a `gtime` (R374): the spec gives no layout of the record and no
sensor numbers. Log 6. -/
opaque alarmByte : Nat → Nat → Nat → Nat → Byte

/-- The CRC-64 of R364 before the first bit, and what its result is XORed with: the spec gives the polynomial alone. Log 18. -/
opaque crcInit : BitVec 64
/-- See `crcInit`. Log 18. -/
opaque crcXor : BitVec 64
/-- Whether each byte enters the CRC of R364 from its least significant bit. Log 18. -/
opaque crcReflectIn : Bool
/-- Whether the CRC of R364 is reversed at the end. Log 18. -/
opaque crcReflectOut : Bool

/-- Byte `i` of the payload of a flit that the module sends (R364): the spec gives no layout of payloads. Log 18. -/
opaque flitByte : Nat → Nat → Byte

end Sys2Proof.Config
end

