-- ==== Sys2Proof/Machine/State.lean ====
section
/-!
DEFINITION. The state of the module as plain data, the faults and refusals, and the machine at reset (R376; log 4).
Tables by number are lists of (number, entry) pairs with rising numbers; an absent entry is at its reset value.
-/

namespace Sys2Proof.Machine

/-- A table by number, numbers rising. -/
abbrev Table (α : Type) := List (Nat × α)

/-- Five flags in FSTAT's order (R59). -/
abbrev Flags5 := BitVec 5

/-- Bytes by address, addresses strictly rising and no byte 0 listed: an unlisted byte reads 0 (R376 zeroes every memory). -/
abbrev Mem := List Host.Cell

/-! ## A context (R10, R12, R87-R91, R319) -/

/-- An operand latch (R87): a value, a full bit and a hold mark per lane. -/
structure Latch where
  val : Lanes := []
  full : Mask := 0
  hold : Mask := 0
  poison : Mask := 0
  deriving DecidableEq, Repr

/-- A uniform latch of mx or cp (R83, R87); `poison` says that it holds an uncorrectable error (R321, R368). -/
structure ULatch where
  val : DWord := 0
  full : Bool := false
  hold : Bool := false
  poison : Bool := false
  deriving DecidableEq, Repr

/-- What a port shows of delivered results (R89): per lane the value, the issue number of the trigger that gave it
(0 for the +0 every port holds at launch), and whether the value is poisoned (R152). -/
structure PortCell where
  val : Lanes := []
  id : List Nat := []
  poison : Mask := 0
  deriving DecidableEq, Repr

/-- A result of a trigger (R89): its issue number, its due bundle, the lanes whose guard was true, the values for ports o and x,
the lanes already delivered, the flags and status bits its delivery raises (R60, R180), and whether residues check it (R152). -/
structure Result where
  id : Nat
  unit : FUnit
  due : Nat
  mask : Mask
  hasO : Bool
  hasX : Bool
  o : Lanes
  x : Lanes
  filled : Mask
  flags : List (BitVec 5)
  dead : Mask
  poison : Mask
  residue : Bool
  deriving DecidableEq, Repr

/-- The unit image (R311): latches by 4 x unit number + latch code, uniform latches (mx a, b at 0, 1; cp a, b, c of half h at
4 + 4h on), ports by 2 x unit number + port, results in flight or not yet due, and the bundle count of R89. -/
structure Image where
  latches : Table Latch := []
  uniform : Table ULatch := []
  ports : Table PortCell := []
  results : List Result := []
  count : Nat := 0
  deriving DecidableEq, Repr

/-- A serialisation stack entry (R20). -/
structure StackEntry where
  join : Nat
  fall : Nat
  mask : Mask
  second : Bool
  deriving DecidableEq, Repr

/-- A covered operation of a split and the bundles left in its window (R51, R52). -/
structure Covered where
  id : Nat
  left : Nat
  deriving DecidableEq, Repr

/-- A split (R11, R20-R25). `held` counts the group's bundles since its hold began, `waiting` those since it was last presented;
`counted` says that the bundle it stands at has been counted in PORTWAIT (R53). -/
structure Split where
  pc : Nat
  mask : Mask
  join : Option Nat := none
  stack : List StackEntry := []
  la : List Covered := []
  held : Option Nat := none
  waiting : Nat := 0
  counted : Bool := false
  deriving DecidableEq, Repr

/-- The split whose sm trigger found the seam queue full, the PC of that bundle, and whether a later sm trigger of the context already waits
behind it (R189). -/
structure SeamWait where
  split : Nat
  pc : Nat
  turn : Bool := false
  deriving DecidableEq, Repr

/-- Where an access is performed (R193, R194, R363). -/
inductive Space where
  | dev | host | spad | peer
  deriving DecidableEq, Repr

/-- The rights and frame of a page (R196, R197); `leaf` is the address of the table entry whose A and D bits it sets, `span` the size of
that entry's page. -/
structure Frame where
  space : Space
  pa : Nat
  rd : Bool
  w : Bool
  sup : Bool
  uncached : Bool
  leaf : Option Nat := none
  span : Nat := 65536
  deriving DecidableEq, Repr

/-- A translation window (R122). -/
structure Window where
  base : Nat := 0
  frame : Frame := { space := .dev, pa := 0, rd := false, w := false, sup := false, uncached := false }
  limit : Nat := 0
  deriving DecidableEq, Repr

/-- A seam receive slot e0-e3 (R91). -/
structure ESlot where
  val : Lanes := []
  full : Mask := 0
  poison : Mask := 0
  deriving DecidableEq, Repr

/-- A queued send (R188, R189): the target group's index, the slot, and the target lanes with their values. -/
structure Send where
  gix : Nat
  slot : Nat
  lanes : Mask
  val : Lanes
  deriving DecidableEq, Repr

/-- One lane's element of a memory operation, checked and translated at issue (R199, R218): its lane, the space and address it is
performed at, its virtual address or scratchpad offset, its size in bytes and its store data, operand or compare word. `got` says that it has
been performed before the rest of its operation (R243, R245): the value it read, and that value's poison. -/
structure Elem where
  lane : Nat
  space : Space
  addr : Nat
  va : Nat
  size : Nat
  data : Nat := 0
  cmp : Nat := 0
  got : Option (Nat × Bool) := none
  deriving DecidableEq, Repr

/-- What an outstanding memory operation is. -/
inductive MemKind where
  | load (op : LdOp)
  | store (op : StOp)
  | scalarLoad (half sd : Nat) (quad : Bool)
  | scalarStore
  | prefetch
  | tensorLoad (fmt : Nat) (hem : Word)
  | tensorStore (fmt : Nat)
  | multicast
  deriving DecidableEq, Repr

/-- One lane's part of a tensor operation (R211, R231, R232): the bytes of its element (none where it is out of range; three for a
T6 group), the element's place in the group, the scale byte of its block, the bytes of every position of the block, the element's
position there, the store data, and a T6 group's bytes as they stood when a store of it issued. -/
structure TElem where
  lane : Nat
  place : List Elem := []
  sub : Nat := 0
  scale : List Elem := []
  positions : List (List Elem) := []
  pos : Nat := 0
  data : Word := 0
  before : Nat := 0
  deriving DecidableEq, Repr

/-- An outstanding memory operation of a context, in issue order (R219). A trigger whose lanes use both windows and the scratchpad is
two of one id (R208): `part` 1 for the window lanes and 2 for the scratchpad lanes, else 0. `draw` is the place of a tensor store's free
choices among lanes that name one element (R232, log 10). -/
structure MemOp where
  id : Nat
  part : Nat := 0
  half : Nat
  kind : MemKind
  elems : List Elem
  tensor : List TElem := []
  acquire : Bool := false
  release : Bool := false
  scope : Nat := 0
  sup : Bool := false
  replay : Bool := false
  draw : Nat := 0
  deriving DecidableEq, Repr

/-- A barrier arrival not yet made (R129): with scope 1 it is a release of the operations issued before its id. -/
structure Arrival where
  id : Nat
  bar : Nat
  half : Nat
  weight : Nat
  nextexp : Option Nat
  release : Bool
  deriving DecidableEq, Repr

/-- A fence not yet complete (R131, R249): the operations issued before its id are before it. -/
structure Fence where
  id : Nat
  scope : Nat
  deriving DecidableEq, Repr

/-- An entry of an in-flight counter's path (R208): an operation, and whether it is done but not yet lowered. -/
structure PathEntry where
  id : Nat
  done : Bool
  deriving DecidableEq, Repr

/-- A wait a context is stalled in (R117). -/
inductive Wait where
  | barw (half id phase scope : Nat)
  | dsync (level phase : Nat)
  | waitc (half path threshold : Nat)
  | mxwait (batch : Nat)
  | cpwait (channel id : Nat)
  | regclaim (count order : Nat)
  | mxtake (order : Nat)
  | pflush (start length : Nat)
  | spawnRead (sd half queue : Nat) (wait : Bool) (op : Nat) (desc : Elem)
  | spawnRoom (sd half queue : Nat) (wait : Bool) (desc : List Byte)
  | spawnEvent (sd half task : Nat)
  | streamWrite (reg : Nat) (val : DWord)
  | liningWrite (reg : Nat) (val : DWord)
  deriving DecidableEq, Repr

/-- A trap to be taken: cause, EINFO, the slot and lane ECAUSE names, and whether its bundle has taken effect (R307, R308). -/
structure TrapInfo where
  code : Nat
  info : DWord
  slot : Nat
  lane : Option Nat := none
  after : Bool := false
  deriving DecidableEq, Repr

/-- A page request that a requester waits for (R213). -/
structure PageWait where
  tag : Nat
  deriving DecidableEq, Repr

/-- A group's page fault (R315): the split that met it, the requests still out, each access with its page, and the traps of accesses whose
request failed; `out` says that the group has been switched out for it (R318). -/
structure PageFault where
  split : Nat
  out : Bool := false
  waits : List PageWait
  accesses : List (Nat × TrapInfo)
  failed : List TrapInfo
  deriving DecidableEq, Repr

/-- A power hint (R137, R336, R338): its onset and effective onset, intensity and length in ticks, and whether it is in force. -/
structure Hint where
  declared : Nat
  onset : Nat
  intensity : Nat
  length : Nat
  active : Bool
  deriving DecidableEq, Repr

/-- A replaced access that an ERET with INJ = 1 has left for a split (R313): the slot of the trigger (6 for the scalar operation), the
values of ports o and x, and the scalar values. -/
structure Inject where
  split : Nat
  slot : Nat
  o : Lanes
  x : Option Lanes
  s0 : DWord
  s1 : DWord
  deriving DecidableEq, Repr

/-- Where a group is (R11, R39, R317): admitted and not yet run, resident, saved (parked or switched out), or ended. -/
inductive Place where
  | admitted
  | resident (cluster slot : Nat)
  | saved
  | ended
  deriving DecidableEq, Repr

/-- A group of a team: the context of R319. Per-half sets (R349) are numbered 64 x half + register, 8 x half + window or path.
`sPoison`, `mPoison` and `wPoison` name the registers that hold an uncorrectable error (R321); `seamWait` names the split whose sm trigger
found the seam queue full (R189); `reserve` says that its image lies in the save reserve, not the park area (R378); `emul` holds the byte
accesses of an emulated misaligned access still to be made, by number, and what those made have read: number, lane, byte, poison (R215). -/
structure Group where
  team : Nat
  gix : Nat
  role : Nat
  rix : Nat
  lw : Bool
  regcnt : Nat
  v : Table Lanes := []
  vPoison : Table Mask := []
  s : Table DWord := []
  sPoison : List Nat := []
  m : Table Mask := []
  mPoison : Table Mask := []
  mPrev : Table Mask := []
  userPrev : Table Mask := []
  w : Table Window := []
  wPoison : List Nat := []
  e : Table ESlot := []
  seam : List Send := []
  seamWait : Option SeamWait := none
  image : Image := {}
  user : Option Image := none
  fstat : BitVec 13 := 0
  deleg : Bool := false
  super : Bool := false
  deadSrc : Bool := false
  deadSrcH : Bool := false
  dead : Mask := 0
  exited : Mask := 0
  splits : Table Split := []
  trapSplit : Nat := 0
  opId : Nat := 1
  ops : List MemOp := []
  fences : List Fence := []
  arrivals : List Arrival := []
  paths : Table (List PathEntry) := []
  ap : Table Nat := []
  dsyncs : Table Nat := []
  wait : Option Wait := none
  waitSplit : Nat := 0
  waitSince : Nat := 0
  epc : DWord := 0
  ecause : DWord := 0
  einfo : DWord := 0
  escratch : DWord := 0
  tvec : DWord := 0
  pendTraps : List (TrapInfo × Nat × Nat) := []
  inject : Option Inject := none
  pageFault : Option PageFault := none
  undecl : Nat := 0
  hints : List Hint := []
  place : Place := .admitted
  since : Nat := 0
  readySince : Option Nat := none
  yieldUntil : Option Nat := none
  reserve : Bool := false
  emul : Option (List Nat × List (Nat × Nat × Nat × Bool)) := none
  regclaimReady : Bool := false
  deriving DecidableEq, Repr

/-! ## A team (R11-R19, R43) -/

/-- A kernel descriptor's fields (R12, R13). -/
structure KDesc where
  prof : Nat
  lw : Bool
  nreg : Nat
  spkb : Nat
  nbar : Nat
  ngrp : Nat
  rc0 : Nat
  rc1 : Nat
  rc2 : Nat
  recOk : Bool
  pcls : Nat
  entry : Nat
  handler : Nat
  hmask : Nat
  deriving DecidableEq, Repr

/-- A barrier object (R128). -/
structure Barrier where
  expect : Nat
  nextexp : Nat
  count : Nat := 0
  phase : Nat := 0
  deriving DecidableEq, Repr

/-- A stream register pair qN (R262, R263). -/
structure Stream where
  qw0 : DWord := 0
  head : Nat := 0
  tail : Nat := 0
  deriving DecidableEq, Repr

/-- A channel of the block-transfer engine (R234, R239): the last identifier given, DONE, the first failed identifier with its cause
while FAIL is 1, PEND and PROG. -/
structure Channel where
  last : Nat := 0
  done : Nat := 0
  fail : Option (Nat × Nat) := none
  pend : Bool := false
  prog : Nat := 0
  deriving DecidableEq, Repr

/-- Where a logged command's entry goes (R294): offset, size in units, preceding entry, FIRST, and the entry number and cumulative
cycles its header will hold (R295, R302). -/
structure LogEntry where
  off : Nat
  size : Nat
  prev : Nat
  first : Bool
  seq : Nat
  acyc : Nat
  mcyc : Nat
  deriving DecidableEq, Repr

/-- An activation table (R277): owner, XLO, W, and the 1,024 FP32 values of its entries. -/
structure ActTable where
  owner : Option Nat := none
  xlo : Word := 0
  w : Int := 0
  vals : Table Word := []
  deriving DecidableEq, Repr

/-- What an engine item is: a tile command's opcode and command word, or a REVERSE. -/
inductive EngineOp where
  | tile (op : MxOp) (lo hi : DWord)
  | reverse
  deriving DecidableEq, Repr

/-- An accepted item of a team's engine order (R261): the issuing group and its operation number, its log entry with the operand
descriptors without OFF, its batch (0 while unfenced), whether it has started, the requests it waits for, and the access word of a denial
(R377). Of its source operands (for a REVERSE, of the entry being processed, which `entry` marks) it notes the ranges, the bytes as they
may be read from before a write made meanwhile, and as they stood after the last engine command that wrote them (R284), and the table of
a TOUT (R278). `shown` are the scratchpad addresses of its result that are written already (R253). `stopped` says that a REVERSE's walk ended
on a failure (R303). -/
structure EngineItem where
  id : Nat
  op : EngineOp
  gid : Nat
  opId : Nat := 0
  log : Option LogEntry := none
  batch : Nat := 0
  started : Bool := false
  ranges : List (Nat × Nat) := []
  snap : List (Nat × Byte) := []
  base : List (Nat × Byte) := []
  table : Option ActTable := none
  waits : List PageWait := []
  denied : Option DWord := none
  heads : List (Nat × Nat) := []
  descs : List DWord := []
  walkDone : Bool := false
  stopped : Bool := false
  entry : Bool := false
  shown : List Nat := []
  deriving DecidableEq, Repr

/-- Lining bytes that an engine command has yet to perform (R255): virtual address, space, physical address, bytes and their poison. -/
structure LateWrite where
  va : Nat
  space : Space
  addr : Nat
  bytes : List Byte
  poison : Bool
  deriving DecidableEq, Repr

/-- A batch not yet complete (R281, R282): its number (0 for the one still open), the items not yet retired, status flags, POISON, FAULT
with the first denied access, the offset of a failed REVERSE entry, the record index k, whether it holds a REVERSE, the Lining bytes still
to be performed (R255), the requests its status record waits for, and whether one of them failed (R377). -/
structure Batch where
  num : Nat := 0
  left : Nat := 0
  flags : Flags5 := 0
  poison : Bool := false
  fault : Option DWord := none
  revFail : Option Nat := none
  record : Nat := 0
  reverse : Bool := false
  lining : List LateWrite := []
  waits : List PageWait := []
  failed : Bool := false
  deriving DecidableEq, Repr

/-- A reportable batch not yet reported (R132): its number, cause and EINFO. -/
structure Report where
  num : Nat
  code : Nat
  info : DWord
  deriving DecidableEq, Repr

/-- Where a team is (R39-R42): admitted, resident, parked, ready to resume, or retired. -/
inductive TeamPlace where
  | offered
  | admitted
  | resident
  | parked
  | ready
  | retired
  deriving DecidableEq, Repr

/-- A load-block unit of a team (R207): its lines' physical addresses, the lines filled, and its P4 entry. -/
structure LoadBlock where
  lines : List Nat
  filled : List Nat
  gid : Nat
  half : Nat
  op : Nat
  complete : Bool
  deriving DecidableEq, Repr

/-- A team (R11-R19). `committed` says that a tile step has committed (R256), `again` that it is a discarded step launched again (R32). -/
structure Team where
  task : Nat
  index : Nat
  coords : List Nat
  step : Bool
  stepRegs : List (Nat × DWord)
  chain : List Nat
  arg : DWord
  core : Nat
  func : Nat
  asid : Nat
  prio : Nat
  kd : KDesc
  spBase : Nat
  groups : List Nat
  place : TeamPlace := .admitted
  readyAt : Nat := 0
  committed : Bool := false
  again : Bool := false
  barriers : Table Barrier := []
  dom : List Nat := []
  token : Option Nat := none
  streams : Table Stream := []
  lnBase : Nat := 0
  lnSize : Nat := 0
  lnSt : Nat := 0
  lnCur : Nat := 0
  lnHead : Nat := 0
  lnSeq : Nat := 0
  lnAcyc : Nat := 0
  lnMcyc : Nat := 0
  lnPrev : Option (List DWord) := none
  lnFresh : Bool := false
  gmap : Table DWord := []
  batchLast : Nat := 0
  batchDone : Nat := 0
  openBatch : Batch := {}
  batches : List Batch := []
  reports : List Report := []
  engine : List EngineItem := []
  suspended : Bool := false
  qadvOps : Table Nat := []
  channels : Table Channel := []
  ovmask : BitVec 8 := 0
  bflags : BitVec 16 := 0
  blocks : Table LoadBlock := []
  waitOrder : Nat := 1
  deriving DecidableEq, Repr

/-! ## A core and a cluster -/

/-- A Polder granule's mapping (R204), and the bytes its scratchpad held before it was mapped (R140). -/
structure PMapEntry where
  va : Nat
  asid : Nat
  func : Nat
  before : List Byte := []
  deriving DecidableEq, Repr

/-- A present Polder line (R204): its frame and the function it was translated for, and whether it is held exclusive and dirty. -/
structure PolderLine where
  frame : Frame
  func : Nat := 0
  exclusive : Bool
  dirty : Bool
  deriving DecidableEq, Repr

/-- An accumulator tile (R206): the team that wrote it last, its elements by 128 x row + column, an unlisted one being +0, and those that
hold an uncorrectable error (R368). -/
structure AccTile where
  owner : Option Nat := none
  elems : Table Word := []
  poison : List Nat := []
  deriving DecidableEq, Repr

/-- An overlay load in progress (R139): slot, source, the team's address space, and the requests it waits for; `cmd` names the ovl
command it belongs to, and `after` the group and operation number of the OVLOAD whose earlier FENCE of die scope it comes after. -/
structure OvLoad where
  id : Nat
  slot : Nat
  va : Nat
  asid : Nat
  func : Nat
  sup : Bool
  cmd : Option Nat := none
  after : Option (Nat × Nat) := none
  waits : List PageWait := []
  failed : Bool := false
  deriving DecidableEq, Repr

/-- The state of a command in the time-sorted buffer (R235, R238). -/
inductive CopyState where
  | buffered
  | running
  | stopped (at_ : Nat)
  | collective
  deriving DecidableEq, Repr

/-- Where a move's bytes come from. -/
inductive CSrc where
  | glob (va : Nat)
  | spad (off : Nat)
  | const (b : List Byte)
  deriving DecidableEq, Repr

/-- A run of bytes of a command (R236), at a command byte: from a source to a destination (global, or a team offset). With `code`, only
the 6-bit code at the second place of the destination's 3-byte group is written, from the first place of the source's. -/
structure CMove where
  pos : Nat
  src : CSrc
  dstSpad : Bool
  dst : Nat
  n : Nat
  code : Option (Nat × Nat) := none
  deriving DecidableEq, Repr

/-- A command of the block-transfer engine (R233-R240): its numbers, issuing team, group, half and operation number, channel and
transfer identifier, operands, mode, state, the pages it waits for, a failed response, the command byte it goes on from, the moves it
makes with the source bytes of each as they stood at its start, the place of its free choices (R235, R237, R251; log 10), what an mcast,
which has met all its faults at its start, has yet to write (R238), the sources of
a collective's ranks with the poison of each byte once all have joined (R366, R369), and the 64 KiB chunks of its destination that have been
acknowledged (R367). -/
structure CopyCmd where
  id : Nat
  op : CpOp
  team : Nat
  gid : Nat
  half : Nat
  opId : Nat
  channel : Nat
  num : Nat
  a : DWord
  b : DWord
  time : DWord
  ctl : DWord
  sup : Bool
  state : CopyState := .buffered
  waits : List PageWait := []
  failed : Bool := false
  resumeAt : Nat := 0
  moves : List CMove := []
  snap : List (List Byte) := []
  draw : Nat := 0
  late : List LateWrite := []
  started : Nat := 0
  sources : Option (List (List Byte × List Bool)) := none
  acked : Nat := 0
  deriving DecidableEq, Repr

/-- A TLB entry (R198). -/
structure TlbEntry where
  asid : Nat
  func : Nat
  page : Nat
  size : Nat
  frame : Frame
  deriving DecidableEq, Repr

/-- A lock on scratchpad banks (R252): the engine command that holds it and the banks. -/
structure BankLock where
  owner : Nat
  banks : List Nat
  deriving DecidableEq, Repr

/-- ILIM (R327). -/
structure Ilim where
  fduty : Nat := 0x10
  frz2 : Nat := 0x08
  soft : Nat := 0x0888
  hard : Nat := 0x09C4
  deriving DecidableEq, Repr

/-- The Weir of a core (R325-R339): the weight of the current cycle, the last 64 cycle weights and frozen marks (newest first), whether
the current cycle is frozen, the last total T, the level and its runs, the predicate and the time of its check, ballast, the ILIM in force
(R327), the effective limits that have held in the cap controller's period (R335), and the weights of the engine cycles run in the
present window with the contexts they are charged to, oldest first (R337). -/
structure Weir where
  cur : Nat := 0
  hist : List Nat := []
  marks : List Bool := []
  frozen : Bool := false
  total : Nat := 0
  level : Nat := 0
  highRun : Nat := 0
  lowRun : Nat := 0
  pred : Bool := false
  checkAt : Option Nat := none
  forced : Bool := false
  ballast : Bool := false
  rampStart : Option Nat := none
  rampUsed : Bool := false
  ballastEnergy : Nat := 0
  frzcnt : Nat := 0
  throttled : List Nat := []
  budget : Nat := 40000
  ilim : Ilim := {}
  held : List Nat := [40000]
  busy : List (Nat × Nat) := []
  deriving DecidableEq, Repr

/-- A core, numbered 48 x die + core. -/
structure Core where
  imem : Mem := []
  imemPoison : List Nat := []
  ovres : BitVec 8 := 0x80
  supplied : Bool := true
  loads : List OvLoad := []
  sp : Mem := []
  spPoison : List Nat := []
  pmap : Table PMapEntry := []
  lines : Table PolderLine := []
  locks : List BankLock := []
  acc : Table AccTile := []
  tables : Table ActTable := []
  copies : List CopyCmd := []
  tlb : List TlbEntry := []
  swapth : Nat := 0x4E20
  ilim : Ilim := {}
  weir : Weir := {}
  closing : Bool := false
  deriving DecidableEq, Repr

/-- A cluster, numbered 8 x core + cluster: CLKPAT, PORTWAIT, the slot last taken as secondary, the secondary of the bundle just issued,
its cycle count, and its error count and retirement (R46, R47, R53, R329, R371). -/
structure Cluster where
  clkpat : BitVec 32 := 0xFFFFFFFF
  portwait : Nat := 0
  lastSecondary : Nat := 0
  pairWith : Option Nat := none
  cycles : Nat := 0
  errors : Nat := 0
  retired : Bool := false
  deriving DecidableEq, Repr

/-! ## Tasks and queues (R27-R38, R379) -/

/-- A level of an operator task's loop nest (R30). -/
structure LoopLevel where
  bound : Nat
  stride : Int
  start : Int
  sreg : Nat
  mapped : Bool
  deriving DecidableEq, Repr

/-- Where a task is (R34-R38, R379). -/
inductive TaskStage where
  | queued
  | waiting
  | dispatched
  | ended
  deriving DecidableEq, Repr

/-- A task: its descriptor's words, owner and source queue, progress and error (R27-R33). `left` counts REMAIN, `noRecord` marks a
record whose writes are dropped, `chainNext` and `chainBusy` the chains of an operator task, `redo` its discarded steps. Of the record
writes still to be made, (0, v) is the REMAIN word, (1, _) its decrement and (8, v) the STATUS word; `finishing` says that the last of
them ends the task, `expanded` that the walker has the steps. -/
structure Task where
  words : List DWord
  func : Nat
  asid : Nat
  src : QueueRef
  prio : Nat
  stage : TaskStage := .queued
  since : Option Nat := none
  error : Option Nat := none
  kd : Option KDesc := none
  arg : DWord := 0
  total : Nat := 0
  offered : Nat := 0
  left : Nat := 0
  live : Nat := 0
  lastCheck : Nat := 0
  depsMet : Bool := false
  noRecord : Bool := false
  remainDone : Bool := false
  pendingWrites : List (Nat × DWord) := []
  waits : List PageWait := []
  failedPage : Bool := false
  levels : List LoopLevel := []
  seqlev : Nat := 0
  chainNext : Table Nat := []
  chainBusy : List Nat := []
  redo : List Nat := []
  coresUsed : List Nat := []
  allOffered : Bool := false
  coreEvents : List Nat := []
  dieEvents : List Nat := []
  coreReached : List Nat := []
  dieReached : List Nat := []
  finishing : Bool := false
  expanded : Bool := false
  deriving DecidableEq, Repr

/-- A host queue's registers (R359), the tasks read from it and not yet handed on, whether an entry is being read, and the pages that
read waits for. -/
structure HostQueue where
  base : Nat := 0
  qasid : Nat := 0
  en : Bool := false
  log2n : Nat := 0
  tail : Nat := 0
  badtail : Bool := false
  notifyro : Bool := false
  rlxcnt : Nat := 0
  head : Nat := 0
  tasks : List Nat := []
  reading : Bool := false
  waits : List PageWait := []
  deriving DecidableEq, Repr

/-- A die: its TLB, its hardware task queues, the queue served last, the tasks handed to its walker, and the rises placed in slots of
250 ticks (R34, R36, R198, R338). -/
structure Die where
  tlb : List TlbEntry := []
  queues : Table (List Nat) := []
  served : Nat := 0
  walker : List Nat := []
  rises : Table Nat := []
  deriving DecidableEq, Repr

/-- A live domain (R18, R19). -/
structure Domain where
  level : Nat
  task : Nat
  scope : Nat
  ident : Nat
  deriving DecidableEq, Repr

/-! ## Host, links and the module (R353-R376) -/

/-- Who waits for a page (R213, R377, R238, R34, R28). -/
inductive Requester where
  | group (gid : Nat)
  | engine (team : Nat)
  | copy (core cmd : Nat)
  | overlay (core id : Nat)
  | queue (q : QueueRef)
  | record (task : Nat)
  | batch (team : Nat)
  deriving DecidableEq, Repr

/-- An outstanding page request (R213): its TAG, whether it is a PRI request, the faulting virtual address, and who waits. -/
structure PageReq where
  tag : Nat
  host : Bool
  asid : Nat
  va : Nat
  kind : Nat
  level : Nat
  srck : Nat
  who : List Requester
  queued : Bool := false
  deriving DecidableEq, Repr

/-- An invalidation in progress (R357): its kind, or an ATS request of the host (3), its address space and virtual page. -/
structure Inval where
  kind : Nat
  asid : Nat
  page : Nat
  deriving DecidableEq, Repr

/-- A PCI Express function's register block (R354-R363). -/
structure Func where
  event : BitVec 11 := 0
  evvec : Nat := 0
  errCount : Nat := 0
  errSpawn : Bool := false
  errQueue : Nat := 0
  errCode : Nat := 0
  rootAddr : Nat := 0
  rootLog2n : Nat := 0
  invaddr : Nat := 0
  inval : Option Inval := none
  atsInval : List Inval := []
  fqbase : Nat := 0
  fqHead : Nat := 0
  fqTail : Nat := 0
  fqVec : Nat := 0
  fqLog2n : Nat := 0
  mboxAddr : Nat := 0
  mboxStatus : Nat := 0
  mboxCmd : Option Nat := none
  ovdef : BitVec 7 := 0x7F
  pwin : Table DWord := []
  reqs : List PageReq := []
  nextTag : Nat := 0
  deriving DecidableEq, Repr

/-- A Flisia port (R340, R364); `ackSince` is when its oldest unacknowledged flit, or the acknowledgement before it, stood; `waiting` are
the types of the flits that wait for room in its replay buffer. -/
structure Port where
  up : Bool := false
  retired : Bool := false
  txWidth : Nat := 8
  rxWidth : Nat := 8
  txSeq : Nat := 0
  rxSeq : Nat := 0xFFF
  buffer : List (Nat × List Byte) := []
  waiting : List Nat := []
  replayReq : Bool := false
  replays : Nat := 0
  ackSince : Nat := 0
  downs : List Nat := []
  deriving DecidableEq, Repr

/-- An alarm record (R374, R375). -/
structure Alarm where
  sensor : Nat
  level : Nat
  time : Nat
  deriving DecidableEq, Repr

/-- A host page as ATS translates it (R194, R353): environment. -/
structure AtsEntry where
  func : Nat
  asid : Nat
  page : Nat
  addr : Nat
  rd : Bool
  w : Bool
  deriving DecidableEq, Repr

/-- An outstanding supervisor image load (R362). -/
structure SvLoad where
  addr : Nat
  cores : List Nat
  deriving DecidableEq, Repr

/-- What a request to the host is (R226, R258, R353): a posted write, one of the three AtomicOps, or an MSI-X message with its vector. -/
inductive TlpKind where
  | write | fetchAdd | swap | cas
  | msix (vector : Nat)
  deriving DecidableEq, Repr

/-- A request that a function has sent to the host (R258, R353, R369): its bytes, whether it carries the relaxed-ordering attribute,
and whether it is poisoned. An MSI-X message has no address and no bytes here. -/
structure Tlp where
  func : Nat
  addr : Nat
  bytes : List Byte
  kind : TlpKind
  ro : Bool
  poisoned : Bool
  deriving DecidableEq, Repr

/-! ## The module -/

/-- A step of bring-up (R376), the next one to be made; `done` after DEVREADY, `failed` where the firmware did not pass (R372). -/
inductive BringUp where
  | train | verify | test | load | ready | done | failed
  deriving DecidableEq, Repr

/-- What the next step does (log 1): a cluster issues, an event of the device or of the outside world happens, an error is met (R368) or
a chunk sum is retried (R370), the host writes its own memory (R258, R259), a dispatcher reads dependence records again after a package
event (R35, R44), bring-up makes a step (R376), some elements of an outstanding operation are performed before the others (R243, R245), or
some bytes of a matrix command's output tile are written before the others (R253). -/
inductive Act where
  | issue (cluster : Nat)
  | event (i : Instr)
  | eccCorrected
  | uncorrectable (space : Space) (core addr : Nat)
  | uncorrectableReg (group reg : Nat) (lanes : Mask)
  | uncorrectableScalar (group reg : Nat)
  | uncorrectableCode (core addr : Nat)
  | uncorrectableAcc (core tile elem : Nat)
  | chunkRetry
  | hostPost (func addr : Nat) (bytes : List Byte)
  | hostPerform
  | poll (queue : QueueRef)
  | bringUp
  | elements (group op part : Nat) (which : List Nat)
  | tileBytes (team : Nat) (which : List Nat)
  deriving DecidableEq, Repr

/-- The state of the module. Cores are numbered 48 x die + core, clusters 8 x core + cluster; groups, teams and tasks by number. -/
structure State where
  agenda : List Act := []
  focus : Nat := 0
  cur : Option (Nat × Nat) := none
  free : Nat := 0
  nextId : Nat := 1
  gtime : Nat := 0
  mem : Mem := []
  memPoison : List Nat := []
  hostMem : Mem := []
  hostPoison : List Nat := []
  tlps : List Tlp := []
  hostPosted : List (Nat × Nat × List Byte) := []
  peerMem : Table Mem := []
  peerPoison : Table (List Nat) := []
  peerRefuses : List Nat := []
  ats : List AtsEntry := []
  groups : Table Group := []
  teams : Table Team := []
  cores : Table Core := []
  clusters : Table Cluster := []
  dies : Table Die := []
  tasks : Table Task := []
  domains : List Domain := []
  hubServed : Nat := 0
  queues : Table HostQueue := []
  qown : Table Nat := []
  funcs : Table Func := []
  pcap : Nat := 0x640
  pfloor : Table Nat := []
  idle : Nat := 0x0B4
  capAt : Nat := 0
  input : Nat := 0
  didtDn : Nat := 0x20
  modid : Nat := 0
  minw : Table Nat := []
  partmap : Table Nat := []
  fpart : Table Nat := []
  secure : BitVec 8 := 0
  hold : BitVec 8 := 0
  preempting : BitVec 8 := 0
  svload : Option SvLoad := none
  svAddr : Nat := 0
  rasCe : Nat := 0
  rasUe : Nat := 0
  rasRes : Nat := 0
  devReady : Bool := true
  bring : BringUp := .done
  retcl : Nat := 0
  retlnk : Nat := 0
  alarm : Nat := 0
  keyLost : Bool := false
  attKey : Bool := true
  replace : Bool := false
  measure : Table (BitVec 256) := []
  alarms : List Alarm := []
  ports : Table Port := []
  flitsOut : List (Nat × List Byte) := []
  deriving DecidableEq, Repr

/-- Faults: reasons the machine stops. No row of the opcode table stops the device. -/
inductive Fault where
  /-- Raised by a bundle-level meaning run where no split is presented (`cur` names none); a step never does so. Safe. -/
  | noContext
  deriving DecidableEq, Repr

/-- Refusals. -/
inductive Refusal where
  /-- Raised by an arm of `exec` whose meaning is not written yet. Safe. -/
  | notModelled (mnemonic : String)
  deriving DecidableEq, Repr

/-- The module right after reset. -/
def State.reset : State :=
  { measure := [(0, Config.firmwareMeasure), (1, Config.supervisorMeasure)] }

end Sys2Proof.Machine
end

