-- ==== Sys2Proof/Machine/Ops.lean ====
section
/-!
DEFINITION. The named operations over tables, memory, registers and contexts, and the taking of a trap and the return from it (R307-R313).
-/

namespace Sys2Proof.Machine

/-! ## Tables -/

/-- The entry of a number. -/
def tget {α : Type} : Table α → Nat → Option α
  | [], _ => none
  | (j, a) :: r, k => if j = k then some a else tget r k

/-- A table with one entry set, numbers kept rising. -/
def tset {α : Type} : Table α → Nat → α → Table α
  | [], k, a => [(k, a)]
  | (j, b) :: r, k, a => if k < j then (k, a) :: (j, b) :: r else if j = k then (k, a) :: r else (j, b) :: tset r k a

/-- A table without the entry of a number. -/
def tdel {α : Type} (t : Table α) (k : Nat) : Table α := t.filter fun e => e.1 ≠ k

/-- The entry of a number, or the value an absent one has. -/
def tgetD {α : Type} (t : Table α) (k : Nat) (d : α) : α := (tget t k).getD d

/-! ## Bytes and memory -/

/-- The byte at an address; an unlisted byte is 0. -/
def memGet : Mem → Nat → Byte
  | [], _ => 0
  | (j, b) :: r, a => if j = a then b else memGet r a

/-- One byte written: addresses stay strictly rising and no byte 0 is listed. -/
def memPut : Mem → Nat → Byte → Mem
  | [], a, b => if b = 0 then [] else [(a, b)]
  | (j, c) :: r, a, b =>
    if a < j then (if b = 0 then (j, c) :: r else (a, b) :: (j, c) :: r)
    else if a = j then (if b = 0 then r else (a, b) :: r)
    else (j, c) :: memPut r a b

/-- Addresses strictly rise from `lo` on and no listed byte is 0. -/
def memWfFrom : Nat → Mem → Bool
  | _, [] => true
  | lo, (a, b) :: r => decide (lo ≤ a) && decide (b ≠ 0) && memWfFrom (a + 1) r

/-- The canonical form of a memory. -/
def memWf (m : Mem) : Bool := memWfFrom 0 m

/-- `n` bytes from an address up. -/
def memRead (m : Mem) (a n : Nat) : List Byte := (List.range n).map fun i => memGet m (a + i)

/-- Bytes written from an address up. -/
def memWrite : Mem → Nat → List Byte → Mem
  | m, _, [] => m
  | m, a, b :: r => memWrite (memPut m a b) (a + 1) r

/-- Bytes `a` to `a + n - 1` set to 0. -/
def memClear (m : Mem) (a n : Nat) : Mem := m.filter fun e => ¬ (a ≤ e.1 ∧ e.1 < a + n)

/-- The little-endian value of bytes (R7). -/
def leVal : List Byte → Nat
  | [] => 0
  | b :: r => b.toNat + 256 * leVal r

/-- The `n` little-endian bytes of a value (R7). -/
def leBytes : Nat → Nat → List Byte
  | 0, _ => []
  | n + 1, x => BitVec.ofNat 8 x :: leBytes n (x / 256)

/-- Bits `lo` to `lo + n - 1` of a number. -/
def bits (x lo n : Nat) : Nat := x / 2 ^ lo % 2 ^ n

/-- A number with bits `lo` to `lo + n - 1` replaced. -/
def setBits (x lo n v : Nat) : Nat := x - bits x lo n * 2 ^ lo + v % 2 ^ n * 2 ^ lo

/-- `n` bits read as two's complement. -/
def signedOf (n x : Nat) : Int := if x % 2 ^ n < 2 ^ (n - 1) then (x % 2 ^ n : Int) else (x % 2 ^ n : Int) - 2 ^ n

/-! ## Lanes and masks -/

/-- The 32 lanes in rising order. -/
def lanes : List Nat := List.range 32

/-- A lane's value. -/
def laneGet (v : Lanes) (l : Nat) : Word := v.getD l 0

/-- Lane values from a function. -/
def laneFill (f : Nat → Word) : Lanes := lanes.map f

/-- Lane values with those of a mask replaced. -/
def laneMerge (old new : Lanes) (m : Mask) : Lanes := laneFill fun l => if m.getLsbD l then laneGet new l else laneGet old l

/-- The mask of the lanes a test holds in. -/
def maskOf (f : Nat → Bool) : Mask := lanes.foldl (fun m l => if f l then m ||| (1#32 <<< l) else m) 0

/-- The lanes of a mask in rising order. -/
def maskLanes (m : Mask) : List Nat := lanes.filter fun l => m.getLsbD l

/-! ## Access to the state's tables -/

/-- The record an absent group reads as. -/
def noGroup : Group := { team := 0, gix := 0, role := 0, rix := 0, lw := false, regcnt := 0 }

/-- A group. -/
def groupOf (s : State) (gid : Nat) : Group := tgetD s.groups gid noGroup

/-- A state with one group set. -/
def setGroup (s : State) (gid : Nat) (g : Group) : State := { s with groups := tset s.groups gid g }

/-- The kernel descriptor an absent team reads as. -/
def noKDesc : KDesc :=
  { prof := 2, lw := false, nreg := 0, spkb := 0, nbar := 0, ngrp := 0, rc0 := 0, rc1 := 0, rc2 := 0, recOk := false, pcls := 0,
    entry := 0, handler := 0, hmask := 0 }

/-- The record an absent team reads as. -/
def noTeam : Team :=
  { task := 0, index := 0, coords := [], step := false, stepRegs := [], chain := [], arg := 0, core := 0, func := 0, asid := 0,
    prio := 0, kd := noKDesc, spBase := 0, groups := [] }

/-- A team. -/
def teamOf (s : State) (t : Nat) : Team := tgetD s.teams t noTeam

/-- A state with one team set. -/
def setTeam (s : State) (t : Nat) (x : Team) : State := { s with teams := tset s.teams t x }

/-- The team of a group. -/
def groupTeam (s : State) (gid : Nat) : Team := teamOf s (groupOf s gid).team

/-- A core. -/
def coreOf (s : State) (c : Nat) : Core := tgetD s.cores c {}

/-- A state with one core set. -/
def setCore (s : State) (c : Nat) (x : Core) : State := { s with cores := tset s.cores c x }

/-- A cluster. -/
def clusterOf (s : State) (c : Nat) : Cluster := tgetD s.clusters c {}

/-- A state with one cluster set. -/
def setCluster (s : State) (c : Nat) (x : Cluster) : State := { s with clusters := tset s.clusters c x }

/-- A die. -/
def dieOf (s : State) (d : Nat) : Die := tgetD s.dies d {}

/-- A state with one die set. -/
def setDie (s : State) (d : Nat) (x : Die) : State := { s with dies := tset s.dies d x }

/-- A function's registers. -/
def funcOf (s : State) (f : Nat) : Func := tgetD s.funcs f {}

/-- A state with one function set. -/
def setFunc (s : State) (f : Nat) (x : Func) : State := { s with funcs := tset s.funcs f x }

/-- A host queue. -/
def queueOf (s : State) (q : Nat) : HostQueue := tgetD s.queues q {}

/-- A state with one host queue set. -/
def setQueue (s : State) (q : Nat) (x : HostQueue) : State := { s with queues := tset s.queues q x }

/-- The record an absent task reads as. -/
def noTask : Task := { words := [], func := 0, asid := 0, src := .host 0, prio := 0 }

/-- A task. -/
def taskOf (s : State) (t : Nat) : Task := tgetD s.tasks t noTask

/-- A state with one task set. -/
def setTask (s : State) (t : Nat) (x : Task) : State := { s with tasks := tset s.tasks t x }

/-- A Flisia port. -/
def portOf (s : State) (p : Nat) : Port := tgetD s.ports p {}

/-- A state with one port set. -/
def setPort (s : State) (p : Nat) (x : Port) : State := { s with ports := tset s.ports p x }

/-- The die of a core. -/
def dieOfCore (c : Nat) : Nat := c / 48

/-- The core of a cluster. -/
def coreOfCluster (c : Nat) : Nat := c / 8

/-- The function that a queue or other owner names: QOWN, 0xFF none (R354). -/
def ownerOf (s : State) (q : Nat) : Nat := tgetD s.qown q 0

/-- A free choice between two listed outcomes (R9), and the state that has used it. Log 10. -/
def drawBit (s : State) : Bool × State := (Config.freeBit s.free, { s with free := s.free + 1 })

/-- A free number (R9). Log 10. -/
def drawNat (s : State) : Nat × State := (Config.freeNat s.free, { s with free := s.free + 1 })

/-- A byte that is old or new, which is not predictable (R9). Log 10. -/
def drawByte (old new : Byte) (n : Nat) : Byte := if Config.freeBit n then new else old

/-! ## Events to the host (R44, R355) -/

/-- An MSI-X message of a function, which carries no relaxed-ordering attribute (R258, R355). -/
def msixTlp (f vec : Nat) : Tlp := { func := f, addr := 0, bytes := [], kind := .msix vec, ro := false, poisoned := false }

/-- An MSI-X message sent, after every request sent before it (R258). -/
def sendMsix (s : State) (f vec : Nat) : State := { s with tlps := s.tlps ++ [msixTlp f vec] }

/-- A bit of FEVENT set; a rising bit sends EVVEC once (R355). -/
def setEvent (s : State) (f bit : Nat) : State :=
  let x := funcOf s f
  if x.event.getLsbD bit then s
  else sendMsix (setFunc s f { x with event := x.event ||| (1#11 <<< bit) }) f x.evvec

/-! ## Registers of a group -/

/-- The half of a group that a split belongs to: ids 0, 1 and 2, 3 in legacy width (R349). -/
def halfOf (g : Group) (sid : Nat) : Nat := if g.lw then sid / 2 else 0

/-- The lanes of a half (R349). -/
def halfMask (g : Group) (h : Nat) : Mask := if g.lw then (if h = 0 then 0x0000FFFF else 0xFFFF0000) else 0xFFFFFFFF

/-- live(g): the lanes that are not dead (R10). -/
def liveMask (g : Group) : Mask := ~~~g.dead

/-- The split an id names. -/
def splitOf (g : Group) (sid : Nat) : Split := tgetD g.splits sid { pc := 0, mask := 0 }

/-- A group with one split set. -/
def setSplit (g : Group) (sid : Nat) (x : Split) : Group := { g with splits := tset g.splits sid x }

/-- active(sp) (R10). -/
def activeMask (g : Group) (sid : Nat) : Mask := (splitOf g sid).mask &&& liveMask g

/-- A scalar register of a half; s0 reads zero (R10, R349). -/
def sget (g : Group) (h i : Nat) : DWord := if i = 0 then 0 else tgetD g.s (64 * h + i) 0

/-- A scalar register written; a write to s0 is discarded (R96), and any other ends an uncorrectable error there. -/
def sput (g : Group) (h i : Nat) (v : DWord) : Group :=
  if i = 0 then g else { g with s := tset g.s (64 * h + i) v, sPoison := g.sPoison.filter fun k => decide (k ≠ 64 * h + i) }

/-- A vector register. -/
def vget (g : Group) (i : Nat) : Lanes := tgetD g.v i []

/-- A vector register written in the lanes of a mask. -/
def vput (g : Group) (i : Nat) (v : Lanes) (m : Mask) : Group := { g with v := tset g.v i (laneMerge (vget g i) v m) }

/-- A mask register m1-m15 as it now stands. -/
def mget (g : Group) (i : Nat) : Mask := tgetD g.m i 0

/-- A mask register as the guards of the next bundle see it: the value from before the last bundle where that bundle wrote it (R90). -/
def mgetGuard (g : Group) (i : Nat) : Mask := (tget g.mPrev i).getD (mget g i)

/-- A window of a half. -/
def wget (g : Group) (h i : Nat) : Window := tgetD g.w (8 * h + i) {}

/-- Low half or upper half flags of FSTAT (R59): five flags of a lane at their place. -/
def fstatPlace (g : Group) (lane : Nat) (f : Flags5) : BitVec 13 :=
  if g.lw ∧ 16 ≤ lane then f.setWidth 13 <<< 8 else f.setWidth 13

/-! ## Results and ports (R89, R60) -/

/-- The flags of a result's lanes ORed together at their places in FSTAT; a poisoned lane raises none (R152). -/
def resultFlags (g : Group) (r : Result) (m : Mask) : BitVec 13 :=
  (maskLanes m).foldl (fun f l => f ||| (if r.poison.getLsbD l then 0 else fstatPlace g l (r.flags.getD l 0))) 0

/-- A result's delivery in some lanes: the lanes are filled, its flags and dead-source bits are raised (R60, R180). -/
def deliverLanes (g : Group) (r : Result) (m : Mask) : Group × Result :=
  let m := m &&& r.mask &&& ~~~r.filled
  let d := r.dead &&& m
  ({ g with
      fstat := g.fstat ||| resultFlags g r m
      deadSrc := g.deadSrc || decide (d &&& (if g.lw then 0x0000FFFF else 0xFFFFFFFF) ≠ 0)
      deadSrcH := g.deadSrcH || decide (g.lw ∧ d &&& 0xFFFF0000 ≠ 0) },
   { r with filled := r.filled ||| m })

/-- Whether every lane of a result is delivered. -/
def resultFull (r : Result) : Bool := decide (r.mask &&& ~~~r.filled = 0)

/-- The place of a unit's ports and latches in the image's tables: its unit number (R84). -/
def unitKey : FUnit → Nat
  | .ia0 => 0
  | .ia1 => 1
  | .fm0 => 2
  | .fm1 => 3
  | .sf => 4
  | .lg => 5
  | .xl => 6
  | .ld => 7
  | .st => 8
  | .mx => 9
  | .cp => 10
  | .sm => 11
  | .sp => 15

/-- A port with a due result shown in the lanes where it was issued later than what the port shows (R89). -/
def portShow (c : PortCell) (id : Nat) (m : Mask) (v : Lanes) (poison : Mask) : PortCell :=
  let t := maskOf fun l => m.getLsbD l && decide (c.id.getD l 0 < id)
  { val := laneMerge c.val v t
    id := lanes.map fun l => if t.getLsbD l then id else c.id.getD l 0
    poison := (c.poison &&& ~~~t) ||| (poison &&& t) }

/-- The ports after one delivered and due result has become part of them. -/
def portsShow (ports : Table PortCell) (r : Result) : Table PortCell :=
  let k := 2 * unitKey r.unit
  let p := if r.hasO then tset ports k (portShow (tgetD ports k {}) r.id r.mask r.o r.poison) else ports
  if r.hasX then tset p (k + 1) (portShow (tgetD p (k + 1) {}) r.id r.mask r.x r.poison) else p

/-- The image with every result that is due at the bundle count and wholly delivered moved into the ports. -/
def settle (im : Image) : Image :=
  let done := im.results.filter fun r => decide (r.due ≤ im.count) && resultFull r
  { im with ports := done.foldl portsShow im.ports
            results := im.results.filter fun r => !(decide (r.due ≤ im.count) && resultFull r) }

/-- The units whose results are always delivered when they are due. R84 lets those of mx and cp come at L or later; the model delivers them at L
(DESIGN CHOICE, log 29). -/
def fixedLatency (u : FUnit) : Bool := u ≠ .ld && u ≠ .st

/-- Each result that a test names delivered in every lane. -/
def deliverWhere (p : Result → Bool) (g : Group) : List Result → Group × List Result
  | [] => (g, [])
  | r :: rest =>
    let (g, r) := if p r then deliverLanes g r r.mask else (g, r)
    let (g, rest) := deliverWhere p g rest
    (g, r :: rest)

/-- Every fixed-latency result due at the present bundle count is delivered (R89). -/
def deliverDue (g : Group) : Group :=
  let (g', rs) := deliverWhere (fun r => fixedLatency r.unit && decide (r.due ≤ g.image.count)) g g.image.results
  { g' with image := settle { g.image with results := rs } }

/-- Every fixed-latency result in flight in either image is delivered, due or not: a drain (R318), or an RDSR of FSTAT (R60). -/
def deliverAll (g : Group) : Group :=
  let (g, rs) := deliverWhere (fun r => fixedLatency r.unit) g g.image.results
  let g := { g with image := settle { g.image with results := rs } }
  match g.user with
  | none => g
  | some u =>
    let (g, rs) := deliverWhere (fun r => fixedLatency r.unit) g u.results
    { g with user := some (settle { u with results := rs }) }

/-- Results no longer delivered in some lanes (R134). -/
def dropResults (m : Mask) (rs : List Result) : List Result :=
  (rs.map fun r => { r with mask := r.mask &&& (~~~m ||| r.filled) }).filter fun r => decide (r.mask ≠ 0)

/-! ## Ending a group (R26, R134, R313) -/

/-- A context's throttling by the Weir ended (R330). -/
def unthrottle (s : State) (core gid : Nat) : State :=
  let c := coreOf s core
  if c.weir.throttled.contains gid then
    setCore s core { c with weir := { c.weir with throttled := c.weir.throttled.filter fun k => decide (k ≠ gid) } }
  else s

/-- The record of a group that ends: its splits and results go. Stores, atomics, engine commands and sends already accepted complete
(R134, R189). -/
def endedGroup (g : Group) : Group :=
  { g with
    splits := [], exited := 0xFFFFFFFF, image := { g.image with results := [] }, user := none, super := false, deleg := false
    place := .ended, wait := none, pendTraps := [], inject := none, pageFault := none, seamWait := none, emul := none
    hints := [] }

/-- A group ends: its registers return to the pool, and a token it holds is freed (R134, R136). -/
def endGroup (s : State) (gid : Nat) : State :=
  let g := groupOf s gid
  let t := teamOf s g.team
  let s := setTeam (setGroup s gid (endedGroup g)) g.team { t with token := if t.token = some gid then none else t.token }
  unthrottle s t.core gid

/-- A task's first failure is its error (R33). -/
def failTask (s : State) (t code : Nat) : State :=
  let x := taskOf s t
  setTask s t { x with error := x.error.orElse fun _ => some code }

/-- ERET with KILL = 1, and a double trap (R312, R313): the group ends and its task fails with 0x0B unless it has already failed. -/
def killGroup (s : State) (gid : Nat) : State :=
  let task := (groupTeam s gid).task
  failTask (endGroup s gid) task 0x0B

/-! ## Taking a trap (R307-R312) -/

/-- ECAUSE (R308). -/
def ecauseWord (t : TrapInfo) (sid : Nat) : DWord :=
  BitVec.ofNat 64 (t.code + (if t.after then 2 ^ 8 else 0) + t.slot * 2 ^ 9 + sid * 2 ^ 12 +
    match t.lane with
    | some l => l * 2 ^ 16 + 2 ^ 21
    | none => 0)

/-- The supervisor routine's address (R311). -/
def supervisorPc : Nat := 0x70000

/-- A split's lookahead count set to 0 (R52). -/
def laZero (x : Split) : Split := { x with la := x.la.map fun c => { c with left := 0 } }

/-- A split sent to an address, where its next bundle is a new one for R53. -/
def splitAt (g : Group) (sid pc : Nat) : Group := setSplit g sid { laZero (splitOf g sid) with pc := pc, counted := false }

/-- Trap entry of a group (R311): ECAUSE, EINFO and EPC written, the unit image set aside, SUPER set, the trapping split at 0x7_0000.
`ports` are the ports the routine finds; every other one is +0. -/
def trapGroup (g : Group) (sid : Nat) (t : TrapInfo) (pc : Nat) (ports : Table PortCell) : Group :=
  let g := splitAt g sid supervisorPc
  { g with
    ecause := ecauseWord t sid, einfo := t.info, epc := BitVec.ofNat 64 (pc % 2 ^ 19)
    user := some g.image, image := { ports := ports }, super := true, trapSplit := sid
    userPrev := g.mPrev, mPrev := [] }

/-- Taking a trap: supervisor entry in user mode, the end of the group in supervisor mode (R311, R312). -/
def takeTrap (s : State) (gid sid : Nat) (t : TrapInfo) (pc : Nat) (ports : Table PortCell) : State :=
  let g := groupOf s gid
  if g.super then killGroup s gid else setGroup s gid (trapGroup g sid t pc ports)

/-! ## Returning from a trap (R313) -/

/-- The group part of ERET without KILL: the flags of the supervisor routine's own operations are raised (R60), the user unit image and its
bundle count are back, the other splits are released, the split stands at `pc` with a lookahead count of 0, and DELEG is clear. -/
def leaveSupervisor (g : Group) (sid pc : Nat) : Group :=
  let g := splitAt (deliverWhere (fun r => fixedLatency r.unit) g g.image.results).1 sid pc
  { g with
    image := g.user.getD g.image, user := none, super := false, deleg := false, mPrev := g.userPrev, userPrev := [] }

end Sys2Proof.Machine
end

