-- ==== Sys2Proof/Machine/Flags.lean ====
section
/-!
DEFINITION. Flag and status computations: FSTAT clears (R60, R92), GSTAT (R142), PSTATE (R330), ROLE, DOM, MXTOK and CHDONE words.
-/

namespace Sys2Proof.Machine

/-! ## FSTAT (R59, R60) -/

/-- The flag bits of FSTAT: 4:0, and 12:8 in legacy width (R59). -/
def fstatMask (g : Group) : BitVec 13 := if g.lw then 0x1F1F else 0x001F

/-- The flag bits of FSTAT that belong to a half: bits 4:0 to the lower, bits 12:8 to the upper (R59, R349). -/
def fstatHalf (g : Group) (h : Nat) : BitVec 13 := if g.lw then (if h = 0 then 0x001F else 0x1F00) else 0x001F

/-- A clear of the FSTAT bits that are 1 in a value (R80, R92): a legacy half clears its own flags alone (R350). DEDUCED, log 41. -/
def fstatClear (g : Group) (h : Nat) (v : BitVec 13) : Group := { g with fstat := g.fstat &&& ~~~(v &&& fstatHalf g h) }

/-- FSTAT as a half reads it: the other half's flags read 0 (R350). DEDUCED, log 41. -/
def fstatWord (g : Group) (h : Nat) : DWord := (g.fstat &&& fstatHalf g h).setWidth 64

/-- FSTAT written by a half: the other half's flags keep (R350). DEDUCED, log 41. -/
def fstatWrite (g : Group) (h : Nat) (v : DWord) : Group :=
  { g with fstat := (g.fstat &&& ~~~fstatHalf g h) ||| (v.setWidth 13 &&& fstatHalf g h) }

/-- A value for FSTAT with a nonzero bit a native group cannot set (R59, R92). -/
def fstatIllegal (g : Group) (v : Nat) : Bool := !g.lw && decide (bits v 8 5 ≠ 0)

/-! ## GSTAT (R142) -/

/-- Whether a half owns DEADSRC (`upper` false) or DEADSRCH: the lower half, or the native group, owns the first (R349). -/
def ownsDead (g : Group) (h : Nat) (upper : Bool) : Bool := if g.lw then decide (h = 1) == upper else !upper

/-- GSTAT as a half reads it: the other half's dead-source bit reads 0 (R350). DEDUCED, log 41. -/
def gstatWord (g : Group) (h : Nat) : DWord :=
  BitVec.ofNat 64 ((if g.deadSrc && ownsDead g h false then 1 else 0) + (if g.deadSrcH && ownsDead g h true then 2 else 0) +
    (if g.super then 4 else 0) + (if g.lw then 8 else 0) + if g.deleg then 16 else 0)

/-! ## ROLE, DOM, MXTOK, CHDONE -/

/-- ROLE (R16). -/
def roleWord (g : Group) : DWord := BitVec.ofNat 64 (g.role + g.rix * 16 + g.gix * 256)

/-- DOM (R18): the identities at levels 3, 4 and 5. -/
def domWord (t : Team) : DWord :=
  BitVec.ofNat 64 (t.dom.getD 0 0 + t.dom.getD 1 0 * 2 ^ 16 + t.dom.getD 2 0 * 2 ^ 32)

/-- MXTOK read by a group (R143). -/
def mxtokWord (s : State) (gid : Nat) (t : Team) : DWord :=
  match t.token with
  | none => 0
  | some h => BitVec.ofNat 64 ((groupOf s h).gix + (if h = gid then 16 else 0) + 32)

/-- CHDONE of a channel (R234). -/
def chdoneWord (c : Channel) : DWord :=
  BitVec.ofNat 64 (c.done + c.prog * 2 ^ 32 + (if c.pend then 2 ^ 62 else 0) + if c.fail.isSome then 2 ^ 63 else 0)

/-! ## PSTATE, ILIM, EFFCAP (R325, R327, R330, R334) -/

/-- The effective limit of a core's Weir: the lesser of 16 x ILIM.HARD and the budget (R325). -/
def effLimit (c : Core) : Nat := min (16 * c.weir.ilim.hard) c.weir.budget

/-- PSTATE (R330). -/
def pstateWord (c : Core) : DWord :=
  let w := c.weir
  BitVec.ofNat 64 ((if w.pred then 1 else 0) + (if w.forced then 2 else 0) + w.level * 4 +
    (if w.throttled.isEmpty then 0 else 16) + (if w.budget < 16 * w.ilim.hard then 32 else 0) +
    (if w.ballast then 64 else 0) + min 255 (256 * effLimit c / (16 * w.ilim.hard)) * 256)

/-- ILIM (R327). -/
def ilimWord (c : Core) : DWord :=
  BitVec.ofNat 64 (c.ilim.hard + c.ilim.soft * 2 ^ 16 + c.ilim.frz2 * 2 ^ 32 + c.ilim.fduty * 2 ^ 38)

/-- The sum of the eight floors (R334). -/
def floorSum (s : State) : Nat := (List.range 8).foldl (fun a n => a + tgetD s.pfloor n 0) 0

/-- EFFCAP.WATTS (R334). -/
def effcapWatts (s : State) : Nat := max (max (min s.pcap 1600) s.idle) (floorSum s)

/-- CAPCLAMP (R334). -/
def capclamp (s : State) : Bool := decide (effcapWatts s > min s.pcap 1600)

/-- EFFCAP (R334). -/
def effcapWord (s : State) : DWord :=
  BitVec.ofNat 64 (effcapWatts s + (if capclamp s then 2 ^ 11 else 0) + s.idle * 2 ^ 16)

/-! ## Stream registers (R262, R263) -/

/-- A stream of a team. -/
def streamOf (t : Team) (n : Nat) : Stream := tgetD t.streams n {}

/-- QW1 of a stream. -/
def qw1Word (x : Stream) : DWord := BitVec.ofNat 64 (x.head + x.tail * 2 ^ 32)

/-- The occupancy of a stream (R263). -/
def occupancy (x : Stream) : Nat := (x.tail + 2 ^ 32 - x.head) % 2 ^ 32

/-! ## Lining registers (R287) -/

/-- LNHEAD. -/
def lnheadWord (t : Team) : DWord := BitVec.ofNat 64 (t.lnHead + t.lnCur * 2 ^ 26 + t.lnSt * 2 ^ 62)

end Sys2Proof.Machine
end

