-- ==== Sys2Proof/Machine/Operands.lean ====
section
/-!
DEFINITION. Operand forms: the sources of moves (R81, R82), guards (R85), port selection (R89), operand latches (R87) and the second
operand of the scalar slot (R96).
-/

namespace Sys2Proof.Machine

/-! ## Guards (R85, R90) -/

/-- The lanes in which a move's guard is true (R10): active lanes whose mask bit, as the guards of this bundle see it, is 1, or 0
where inverted. -/
def guardLanes (g : Group) (sid : Nat) (gd : Guard) : Mask :=
  let a := activeMask g sid
  if gd.mask = 0 then a
  else
    let m := mgetGuard g gd.mask.toNat
    a &&& (if gd.inv then ~~~m else m)

/-! ## Ports (R89, R108) -/

/-- What a lane reads from a port. -/
inductive PortSel where
  | value (v : Word) (poisoned : Bool)
  | unfilled
  deriving DecidableEq, Repr

/-- Whether a result competes for a port in a lane at a bundle count (R89). -/
def portMatch (u : FUnit) (x : Bool) (n lane : Nat) (r : Result) : Bool :=
  decide (r.unit = u) && (if x then r.hasX else r.hasO) && r.mask.getLsbD lane && decide (r.due ≤ n)

/-- The result issued last among those of a list that compete. -/
def latestResult (p : Result → Bool) : List Result → Option Result
  | [] => none
  | r :: rest =>
    match latestResult p rest with
    | none => if p r then some r else none
    | some b => if p r && decide (b.id < r.id) then some r else some b

/-- The value of a port in a lane at the image's bundle count (R89). -/
def portSelect (im : Image) (u : FUnit) (x : Bool) (lane : Nat) : PortSel :=
  let c := tgetD im.ports (2 * unitKey u + if x then 1 else 0) {}
  let shown : PortSel := .value (laneGet c.val lane) (c.poison.getLsbD lane)
  match latestResult (portMatch u x im.count lane) im.results with
  | none => shown
  | some r =>
    if c.id.getD lane 0 < r.id then
      if r.filled.getLsbD lane then .value (laneGet (if x then r.x else r.o) lane) (r.poison.getLsbD lane) else .unfilled
    else shown

/-- Whether a port is unfilled in some lane of a mask (R89). -/
def portUnfilled (im : Image) (u : FUnit) (x : Bool) (m : Mask) : Bool :=
  (maskLanes m).any fun l => decide (portSelect im u x l = .unfilled)

/-- A port's value in a lane. -/
def portValue (im : Image) (u : FUnit) (x : Bool) (lane : Nat) : Word :=
  match portSelect im u x lane with
  | .value v _ => v
  | .unfilled => 0

/-- Whether a lane of a port is poisoned (R152). -/
def portPoison (im : Image) (u : FUnit) (x : Bool) : Mask :=
  maskOf fun l => match portSelect im u x l with
    | .value _ p => p
    | .unfilled => false

/-! ## Sources (R81, R82) -/

/-- The value of a long-immediate slot (R77). -/
def limValue (b : Bundle) (i : Nat) : Word :=
  match b.slots.getD i .empty with
  | .lim v => v
  | _ => 0

/-- The number a `w` latch holds for a reference: 0-7 for w0-w7, 8 for spad (R82, R311). -/
def windowRef : Src → Word
  | .w i => i.setWidth 32
  | _ => 8

/-- A source's lane values. A stalled port reads 0 here; `srcStalls` tells. -/
def srcValue (s : State) (gid sid : Nat) (b : Bundle) (src : Src) : Lanes :=
  let g := groupOf s gid
  let t := teamOf s g.team
  let h := halfOf g sid
  match src with
  | .v i => vget g i.toNat
  | .port .sp x => laneFill fun l => if x then BitVec.ofNat 32 t.index else BitVec.ofNat 32 (g.gix * 32 + l)
  | .port u x => laneFill (portValue g.image u x)
  | .imm i => laneFill fun _ => i.signExtend 32
  | .s i => laneFill fun _ => (sget g h i.toNat).setWidth 32
  | .hiS i => laneFill fun _ => (sget g h i.toNat >>> 32).setWidth 32
  | .w i => laneFill fun _ => windowRef (.w i)
  | .spad => laneFill fun _ => windowRef .spad
  | .lane => laneFill fun l => BitVec.ofNat 32 (if g.lw then l % 16 else l)
  | .split => laneFill fun _ => BitVec.ofNat 32 sid
  | .gtime => laneFill fun _ => BitVec.ofNat 32 s.gtime
  | .pstate => laneFill fun _ => (pstateWord (coreOf s t.core)).setWidth 32
  | .lim i => laneFill fun _ => limValue b i.toNat
  | .e i => (tgetD g.e i.toNat {}).val

/-- The scalar registers a source reads. -/
def srcScalars : Src → List Nat
  | .s i => [i.toNat]
  | .hiS i => [i.toNat]
  | _ => []

/-- Whether a source is an s-register with an uncorrectable error (R321). -/
def srcScalarPoison (g : Group) (h : Nat) (src : Src) : Bool := (srcScalars src).any fun i => g.sPoison.contains (64 * h + i)

/-- The lanes of a source that hold a poisoned value (R321): every lane, where it is an s-register of half `h` with an uncorrectable error. -/
def srcPoison (g : Group) (h : Nat) (src : Src) : Mask :=
  match src with
  | .v i => tgetD g.vPoison i.toNat 0
  | .port .sp _ => 0
  | .port u x => portPoison g.image u x
  | .e i => (tgetD g.e i.toNat {}).poison
  | .s _ | .hiS _ => if srcScalarPoison g h src then 0xFFFFFFFF else 0
  | .imm _ | .w _ | .spad | .lane | .split | .gtime | .pstate | .lim _ => 0

/-- The active lanes in which a guard's mask register holds an uncorrectable error (R321). -/
def guardPoison (g : Group) (sid : Nat) (gd : Guard) : Mask :=
  if gd.mask = 0 then 0 else activeMask g sid &&& tgetD g.mPoison gd.mask.toNat 0

/-- Whether a source cannot be read yet in the lanes of a guard: an unfilled port or an empty e-slot (R89, R91). -/
def srcStalls (g : Group) (src : Src) (m : Mask) : Bool :=
  match src with
  | .port .sp _ => false
  | .port u x => portUnfilled g.image u x m
  | .e i => decide (m &&& ~~~(tgetD g.e i.toNat {}).full ≠ 0)
  | .v _ | .imm _ | .s _ | .hiS _ | .w _ | .spad | .lane | .split | .gtime | .pstate | .lim _ => false

/-- The 64-bit value a uniform latch or trigger takes (R83). -/
def uniformValue (g : Group) (h : Nat) (b : Bundle) (src : Src) : DWord :=
  match src with
  | .s i => sget g h i.toNat
  | .imm i => i.signExtend 64
  | .lim i => (limValue b i.toNat).signExtend 64
  | .v _ | .port _ _ | .hiS _ | .w _ | .spad | .lane | .split | .gtime | .pstate | .e _ => 0

/-! ## Latches (R87, R153, R159, R164, R175, R179, R216) -/

/-- The place of a latch in the image's table. -/
def latchKey (u : FUnit) (l : LatchName) : Nat :=
  4 * unitKey u + match l with
    | .a => 0
    | .b => 1
    | .c => 2
    | .w => 3

/-- A latch of an image. -/
def latchOf' (im : Image) (u : FUnit) (l : LatchName) : Latch := tgetD im.latches (latchKey u l) {}

/-- The place of a uniform latch: mx's a and b are the group's, cp's a, b and c are a half's (R87). -/
def uniformKey (u : FUnit) (h : Nat) (l : LatchName) : Nat :=
  (if u = .mx then 0 else 4 + 4 * h) + match l with
    | .a => 0
    | .b => 1
    | .c => 2
    | .w => 3

/-- The ia operations' latches (R153). -/
def iaLatches : IaOp → List LatchName
  | .addc | .subb | .mad | .bfi | .lea => [.a, .b]
  | .popc | .clz | .ctz | .brev | .abs => []
  | .add | .sub | .mul | .mulhi | .mulhu | .shl | .shr | .sar | .rotl | .rotr | .bfx | .bfxu
  | .min | .max | .minu | .maxu | .adds | .subs | .addus | .subus => [.a]

/-- The lg operations' latches (R159). -/
def lgLatches : LgOp → List LatchName
  | .sel | .bsel => [.a, .b]
  | .not | .fcls | .mbit => []
  | .and | .or | .xor | .andn | .ceq | .cne | .clt | .cle | .cltu | .cleu | .fceq | .fcne | .fclt | .fcle | .fcun => [.a]

/-- The fm operations' latches (R164). -/
def fmLatches : FmOp → List LatchName
  | .fma _ | .fms _ | .fnma _ | .hfma _ | .bfma _ | .cvt8 | .cvt6 => [.a, .b]
  | .cvti _ | .cvtf _ | .neg | .abs | .cvtfh | .cvtfb => []
  | .add _ | .sub _ | .mul _ | .cvth _ | .cvtb _ | .min | .max | .csgn | .dec8 | .dec6 | .hmin | .hmax | .bmin | .bmax => [.a]

/-- The xl operations' latches (R179). -/
def xlLatches : XlOp → List LatchName
  | .shfl | .shup | .shdn | .shxor => [.a]
  | .vany | .vall | .ballot | .vmatch | .scan | .fscan | .red | .redmin | .redmax | .fred | .blk8 | .blk6 => []

/-- The ld operations' latches (R216). -/
def ldLatches : LdOp → List LatchName
  | .lb | .lbz | .lh | .lhz | .lw | .ld | .pf => [.w]
  | .lwo | .ldo | .lblk => [.w, .a]
  | .tld => [.w, .a, .b]

/-- The st operations' latches (R216). -/
def stLatches : StOp → List LatchName
  | .sb | .sh | .sw => [.w, .a]
  | .sd | .swo | .mcst => [.w, .a, .b]
  | .aadd | .afadd | .amin | .amax | .aminu | .amaxu | .aand | .aor | .axor | .axch | .radd | .rfadd => [.w, .a, .b]
  | .sdo | .tst | .acas => [.w, .a, .b, .c]

/-- The latches a trigger's operation reads. -/
def latchesRead : Trigger → List LatchName
  | .ia _ op => iaLatches op
  | .lg op => lgLatches op
  | .fm _ op => fmLatches op
  | .sf op => if op = .div then [.a] else []
  | .xl op => xlLatches op
  | .sm op => if op = .send then [.b] else [.b, .c]
  | .ld op => ldLatches op
  | .st op => stLatches op
  | .mx op => if op = .mxfence ∨ op = .qadv then [] else [.a]
  | .cp _ => [.a, .b, .c]

/-- The ports a trigger writes: o and x (R97-R107). -/
def portsWritten : Trigger → Bool × Bool
  | .ia _ op => (true, op = .add || op = .addc || op = .sub || op = .subb)
  | .lg _ => (true, false)
  | .fm _ op => (true, op = .cvtfh || op = .cvtfb)
  | .sf op => (true, op = .scpi)
  | .xl op => (true, op = .scan || op = .fscan || op = .blk8 || op = .blk6)
  | .sm _ => (false, false)
  | .ld op => (op ≠ .lblk && op ≠ .pf, op = .ld || op = .ldo)
  | .st op =>
    (op = .aadd || op = .afadd || op = .amin || op = .amax || op = .aminu || op = .amaxu || op = .aand || op = .aor ||
      op = .axor || op = .axch || op = .acas, false)
  | .mx op => (op = .mxfence, false)
  | .cp _ => (true, false)

/-- The latency L of a trigger (R84); `spadOnly` when every contributing lane of a load reads through spad. -/
def latency (t : Trigger) (spadOnly : Bool) : Nat :=
  match t with
  | .ia _ _ => 2
  | .lg _ => 1
  | .fm _ _ => 4
  | .sf op => if op = .div ∨ op = .sqrt then 14 else 12
  | .xl op =>
    match op with
    | .shfl | .shup | .shdn | .shxor | .vany | .vall | .ballot | .vmatch => 6
    | .scan | .fscan | .red | .redmin | .redmax | .fred | .blk8 | .blk6 => 10
  | .sm _ => 0
  | .ld _ => if spadOnly then 16 else 26
  | .st _ => 26
  | .mx _ => 1
  | .cp _ => 1

/-- Whether the lookahead covers a trigger (R51). -/
def laCovers : Trigger → Bool
  | .sf _ | .sm _ | .ld _ | .mx _ | .cp _ => true
  | .xl op =>
    match op with
    | .scan | .fscan | .red | .redmin | .redmax | .fred | .blk8 | .blk6 => true
    | .shfl | .shup | .shdn | .shxor | .vany | .vall | .ballot | .vmatch => false
  | .ia _ _ | .lg _ | .fm _ _ | .st _ => false

/-! ## The scalar slot's operands (R96, R118) -/

/-- The second operand t = sb + sext(imm22) (R96). -/
def scalarT (g : Group) (h : Nat) (sb : BitVec 6) (imm : BitVec 22) : DWord := sget g h sb.toNat + imm.signExtend 64

/-- The address of a scalar access: s[sa] + t (R118). -/
def scalarAddr (g : Group) (h : Nat) (sa sb : BitVec 6) (imm : BitVec 22) : DWord :=
  sget g h sa.toNat + scalarT g h sb imm

/-- A branch address: the bundle's address plus 32 x the signed offset; none outside instruction memory (R96, R123). -/
def branchTo {n : Nat} (pc : Nat) (off : BitVec n) : Option Nat :=
  let a : Int := (pc : Int) + 32 * off.toInt
  if 0 ≤ a ∧ a ≤ 0x7FFE0 then some a.toNat else none

/-- The lanes in which a condition mask holds for a split: m0 is the active mask, the others as a scalar operation sees them (R20, R90). -/
def condLanes (g : Group) (sid : Nat) (inv : Bool) (mask : BitVec 4) : Mask :=
  let m := if mask = 0 then activeMask g sid else mget g mask.toNat
  activeMask g sid &&& (if inv then ~~~m else m)

end Sys2Proof.Machine
end

