-- ==== Sys2Proof/Machine/Cross.lean ====
section
/-!
DEFINITION. The cross-lane unit and the seam's addressing (spec 11_cross_lane, R178-R188). A legacy split's lanes lie in one half
(R349), so a contributing set does too; `lw` bounds lane arithmetic to that half.
-/

namespace Sys2Proof.Machine

/-- First lane of the half a lane belongs to: 0 in native width (R181). -/
def halfBase (lw : Bool) (l : Nat) : Nat := if lw then l / 16 * 16 else 0

/-- Lanes in the span a shuffle acts in: 32, or 16 in legacy width. -/
def spanOf (lw : Bool) : Nat := if lw then 16 else 32

/-- The source lane of a shuffle, none where it has none (R180, R181). -/
def shuffleSource (lw : Bool) (op : XlOp) (l b : Nat) : Option Nat :=
  let h := halfBase lw l
  let i := l - h
  let n := spanOf lw
  match op with
  | .shfl => some (h + b % n)
  | .shup => if b > i then none else some (h + i - b)
  | .shdn => if i + b > n - 1 then none else some (h + i + b)
  | .shxor => some (h + (i ^^^ b % n))
  | _ => none

/-- What an xl trigger gives: ports o and x, the flags of each lane, and the lanes that read a dead lane (R180). -/
structure XlRes where
  o : Lanes
  x : Lanes := []
  flags : List Flags := []
  deadSrc : Mask := 0
  deriving DecidableEq, Repr

/-- A shuffle (R180). -/
def xlShuffle (lw : Bool) (op : XlOp) (dead c : Mask) (a b : Lanes) : XlRes :=
  let src (l : Nat) := shuffleSource lw op l (laneGet b l).toNat
  { o := laneFill fun l =>
      match src l with
      | none => laneGet a l
      | some j => if dead.getLsbD j then 0 else if c.getLsbD j then laneGet a j else laneGet a l
    deadSrc := maskOf fun l => c.getLsbD l && match src l with
      | none => false
      | some j => dead.getLsbD j }

/-- The mask word of the lanes of C that a test holds in, counted from the half's first lane (R182). -/
def laneWord (lw : Bool) (c : Mask) (p : Nat → Bool) : Word :=
  (maskLanes c).foldl (fun w j => if p j then w ||| (1#32 <<< (j - halfBase lw j)) else w) 0

/-- A vote, ballot or match (R182). -/
def xlVote (lw : Bool) (op : XlOp) (c : Mask) (a : Lanes) : XlRes :=
  let bit (j : Nat) := (laneGet a j).getLsbD 0
  match op with
  | .vany => let r := boolWord ((maskLanes c).any bit); { o := laneFill fun _ => r }
  | .vall => let r := boolWord ((maskLanes c).all bit); { o := laneFill fun _ => r }
  | .ballot => let r := laneWord lw c bit; { o := laneFill fun _ => r }
  | _ => { o := laneFill fun l => laneWord lw c fun j => decide (laneGet a j = laneGet a l) }

/-- An integer scan over lanes in rising order (R183): (lane, exclusive, inclusive). -/
def scanLanes (a : Lanes) : Word → List Nat → List (Nat × Word × Word)
  | _, [] => []
  | s, l :: r => (l, s, s + laneGet a l) :: scanLanes a (s + laneGet a l) r

/-- One step of fscan (R184): the running sum after a lane and the flags raised. -/
def fscanStep (s : Option Word) (a : Word) : Word × Flags :=
  let v := fRead fp32 a.toNat
  let inv := flagIf (fSNaN v) fINV
  match s with
  | none => (if fNaN v then BitVec.ofNat 32 (qnan fp32) else a, inv)
  | some s =>
    let r := fAddVal fp32 .rn (fRead fp32 s.toNat) v
    (BitVec.ofNat 32 r.bits, inv ||| r.flags)

/-- An FP32 scan in lane order (R184): (lane, exclusive, inclusive, flags). -/
def fscanLanes (a : Lanes) : Option Word → List Nat → List (Nat × Word × Word × Flags)
  | _, [] => []
  | s, l :: r =>
    let (n, f) := fscanStep s (laneGet a l)
    (l, s.getD 0, n, f) :: fscanLanes a (some n) r

/-- The value that a list of lane results gives a lane. -/
def laneOf (rs : List (Nat × Word)) (l : Nat) : Word := match rs.find? fun e => decide (e.1 = l) with
  | some e => e.2
  | none => 0

/-- A scan, reduction or block encoding (R183-R185). -/
def xlReduce (op : XlOp) (c : Mask) (a : Lanes) : XlRes :=
  let ls := maskLanes c
  match op with
  | .scan =>
    let r := scanLanes a 0 ls
    { o := laneFill (laneOf (r.map fun e => (e.1, e.2.2))), x := laneFill (laneOf (r.map fun e => (e.1, e.2.1))) }
  | .fscan =>
    let r := fscanLanes a none ls
    let f := r.foldl (fun f e => f ||| e.2.2.2) 0
    { o := laneFill (laneOf (r.map fun e => (e.1, e.2.2.1))), x := laneFill (laneOf (r.map fun e => (e.1, e.2.1)))
      flags := lanes.map fun l => if c.getLsbD l then f else 0 }
  | .fred =>
    let r := fscanLanes a none ls
    let v := match r.getLast? with
      | some e => e.2.2.1
      | none => 0
    let f := r.foldl (fun f e => f ||| e.2.2.2) 0
    { o := laneFill fun _ => v, flags := lanes.map fun l => if c.getLsbD l then f else 0 }
  | .red => let v := ls.foldl (fun s l => s + laneGet a l) 0; { o := laneFill fun _ => v }
  | .redmin =>
    let v := ls.foldl (fun s l => if (laneGet a l).toInt < s.toInt then laneGet a l else s) (laneGet a (ls.headD 0))
    { o := laneFill fun _ => v }
  | .redmax =>
    let v := ls.foldl (fun s l => if (laneGet a l).toInt > s.toInt then laneGet a l else s) (laneGet a (ls.headD 0))
    { o := laneFill fun _ => v }
  | .blk8 | .blk6 =>
    let b := if op = .blk8 then 7 else 5
    let s := blockScale (ls.map fun l => fRead fp32 (laneGet a l).toNat)
    let e (l : Nat) := encT b s (fRead fp32 (laneGet a l).toNat)
    { o := laneFill fun l => BitVec.ofNat 32 (e l).bits, x := laneFill fun _ => BitVec.ofNat 32 (scaleByte s)
      flags := lanes.map fun l => if c.getLsbD l then (e l).flags else 0 }
  | _ => { o := [] }

/-- An xl trigger over its contributing set (R178). `a` is latch a, `v` the trigger value. -/
def xlGroup (lw : Bool) (op : XlOp) (dead c : Mask) (a v : Lanes) : XlRes :=
  match op with
  | .shfl | .shup | .shdn | .shxor => xlShuffle lw op dead c a v
  | .vany | .vall | .ballot | .vmatch => xlVote lw op c v
  | .scan | .fscan | .red | .redmin | .redmax | .fred | .blk8 | .blk6 => xlReduce op c v

/-! ## The seam (R187, R188) -/

/-- The lowest lane of a mask. -/
def lowestLane (m : Mask) : Nat := (maskLanes m).headD 0

/-- The group index a target word names. -/
def seamGix (b : Word) : Nat := bits b.toNat 0 4

/-- The slot a target word names. -/
def seamSlot (b : Word) : Nat := bits b.toNat 4 2

/-- A target word that a team of `ngrp` groups cannot use (R187). -/
def seamTargetBad (ngrp : Nat) (b : Word) : Bool := decide (bits b.toNat 6 26 ≠ 0) || decide (seamGix b ≥ ngrp)

/-- The deliveries of a send (R188): target lanes, their values, and whether a dead lane was read. `h` is the sender's half's first lane. -/
def seamDeliveries (lw : Bool) (op : SmOp) (dead c : Mask) (a : Lanes) (cw : Word) : Mask × Lanes × Bool :=
  let h := halfBase lw (lowestLane c)
  let n := spanOf lw
  match op with
  | .send => (c, a, false)
  | .sendr =>
    let r := cw.toNat % n
    let from_ (t : Nat) := h + (t - h + n - r) % n
    let inSpan (t : Nat) : Bool := decide (h ≤ t ∧ t < h + n)
    (maskOf fun t => inSpan t && c.getLsbD (from_ t), laneFill fun t => if inSpan t then laneGet a (from_ t) else 0, false)
  | .sendb =>
    let k := h + cw.toNat % n
    let span := maskOf fun t => decide (h ≤ t ∧ t < h + n)
    if dead.getLsbD k then (span, laneFill fun _ => 0, true)
    else if c.getLsbD k then (span, laneFill fun _ => laneGet a k, false)
    else (0, [], false)

end Sys2Proof.Machine
end

