-- ==== Sys2Proof/Machine/Hints.lean ====
section
/-!
DEFINITION. Declared matrix intensity (spec 25_power, R336-R338): a context's intensity, and the declaring of a hint.
-/

namespace Sys2Proof.Machine

/-- Ticks in a microsecond (R6, R41). -/
def ticksPerMicro : Nat := 1000

/-- A context's declared intensity I (R336): that of its live hint, else PCLS. -/
def intensityOf (s : State) (gid : Nat) : Nat :=
  let g := groupOf s gid
  match g.hints.find? fun h => h.active with
  | some h => h.intensity
  | none => (teamOf s g.team).kd.pcls

/-- The number k of R338's staggering for a rise at an onset: the least one whose slot has room, else 15. -/
def staggerOf (rises : Table Nat) (onset rise : Nat) : Nat :=
  ((List.range 16).find? fun k => decide (tgetD rises ((onset + 250 * k) / 250) 0 + rise ≤ 64)).getD 15

/-- The first hint of a context whose effective onset has come (R336). -/
def dueHint (s : State) (gid : Nat) : Option Hint :=
  (groupOf s gid).hints.find? fun h => !h.active && decide (h.onset ≤ s.gtime)

/-- A context's hints changed; a change of I ends its throttle (R337). -/
def setHints (s : State) (gid : Nat) (hs : List Hint) : State :=
  let t := setGroup s gid { groupOf s gid with hints := hs }
  if intensityOf t gid = intensityOf s gid then t else unthrottle t (teamOf s (groupOf s gid).team).core gid

/-- The hints declared after the first that a test names. -/
def declaredAfter (p : Hint → Bool) : List Hint → List Hint
  | [] => []
  | h :: r => if p h then r else declaredAfter p r

/-- HINT_ONSET: a due hint becomes the live one in place of every hint declared before it (R137); a change of I ends the context's
throttle (R337). -/
def hintStarts (s : State) (gid : Nat) : State :=
  match dueHint s gid with
  | none => s
  | some h => setHints s gid ({ h with active := true } :: declaredAfter (fun x => decide (x = h)) (groupOf s gid).hints)

/-- A hint declared for a context (R137, R302, R338): its rise is placed in a slot of its die, and it waits for its effective onset, or
applies at once where that is past. `stagger` is false for the self-declaration of a REVERSE, which takes k = 0 and replaces every
earlier hint (R339). -/
def declareHint (s : State) (gid onset intensity micros : Nat) (stagger : Bool) : State :=
  let g := groupOf s gid
  let d := dieOfCore (teamOf s g.team).core
  let on := max onset s.gtime
  let rise := intensity - intensityOf s gid
  let die := dieOf s d
  let k := if stagger then staggerOf die.rises on rise else 0
  let eff := on + 250 * k
  let slot := eff / 250
  let s := setDie s d { die with rises := tset die.rises slot (tgetD die.rises slot 0 + rise) }
  let h : Hint := { declared := on, onset := eff, intensity := intensity, length := micros * ticksPerMicro, active := false }
  if eff ≤ s.gtime then setHints s gid [{ h with active := true }] else setGroup s gid { g with hints := g.hints ++ [h] }

/-- HINT_EXPIRY: the live hint's length has passed and I returns to PCLS (R336). -/
def hintEnds (s : State) (gid : Nat) : State :=
  let hs := (groupOf s gid).hints
  if hs.any fun h => h.active && decide (h.onset + h.length ≤ s.gtime) then setHints s gid (hs.filter fun h => !h.active) else s

end Sys2Proof.Machine
end

