-- ==== Sys2Proof/Machine/Flits.lean ====
section
/-!
DEFINITION. Flisia flits (R364): the CRC, sending a flit, and the port a peer request goes out on (R363).
-/

namespace Sys2Proof.Machine

/-! ## The CRC -/

/-- One bit of the CRC-64 with polynomial 0x42F0_E1EB_A9EA_3693. -/
def crcBit (c : BitVec 64) (b : Bool) : BitVec 64 :=
  let d := if b then c ^^^ (1#64 <<< 63) else c
  if d.getLsbD 63 then (d <<< 1) ^^^ 0x42F0E1EBA9EA3693#64 else d <<< 1

/-- A byte's bits in the order they enter the CRC. -/
def crcBits (reflect : Bool) (b : Byte) : List Bool :=
  (List.range 8).map fun i => b.getLsbD (if reflect then i else 7 - i)

/-- A word's bits in reverse order. -/
def reverse64 (x : BitVec 64) : BitVec 64 := (List.range 64).foldl (fun r i => if x.getLsbD i then r ||| (1#64 <<< (63 - i)) else r) 0

/-- The CRC of bytes, for a start value, a final XOR and the two orders. -/
def crcWith (init fin : BitVec 64) (reflIn reflOut : Bool) (bytes : List Byte) : BitVec 64 :=
  let c := (bytes.flatMap (crcBits reflIn)).foldl crcBit init
  (if reflOut then reverse64 c else c) ^^^ fin

/-- The CRC of a flit (R364): the spec gives the polynomial alone (log 18). -/
def flitCrc (bytes : List Byte) : BitVec 64 :=
  crcWith Config.crcInit Config.crcXor Config.crcReflectIn Config.crcReflectOut bytes

/-! ## Peer windows (R363) -/

/-- The peer window register of a function an aperture address uses (R363). -/
def pwinOf (s : State) (f a : Nat) : DWord := tgetD (funcOf s f).pwin (bits a 40 4) 0

/-- Whether a peer access is refused at the source (R363). -/
def pwinDenied (s : State) (f a : Nat) : Bool :=
  let p := (pwinOf s f a).toNat
  decide (bits p 63 1 = 0 ∨ bits p 39 12 = 0 ∨ s.modid = 0)

/-- The module and remote address of an aperture address (R363). -/
def peerTarget (s : State) (f a : Nat) : Nat × Nat :=
  let p := (pwinOf s f a).toNat
  (bits p 39 12, bits p 0 8 * 2 ^ 40 + bits a 0 40)

/-! ## Sending -/

/-- A flit's 256 bytes. -/
def flitOf (type seq ack : Nat) (nak : Bool) (payload : List Byte) : List Byte :=
  let body := leBytes 8 (type + seq % 4096 * 2 ^ 4 + ack % 4096 * 2 ^ 16 + if nak then 2 ^ 28 else 0) ++ payload
  body ++ leBytes 8 (flitCrc body).toNat

/-- A payload, whose layout the spec does not give: free bytes (log 18). -/
def freePayload (n : Nat) : List Byte := (List.range 240).map (Config.flitByte n)

/-- A numbered flit put on a port, kept in the replay buffer until it is acknowledged. -/
def putFlit (s : State) (p type : Nat) : State :=
  let x := portOf s p
  let f := flitOf type x.txSeq x.rxSeq false (freePayload s.free)
  let s := setPort s p { x with
    txSeq := (x.txSeq + 1) % 4096, buffer := x.buffer ++ [(x.txSeq, f)]
    ackSince := if x.buffer.isEmpty then s.gtime else x.ackSince }
  { s with flitsOut := s.flitsOut ++ [(p, f)], free := s.free + 1 }

/-- A numbered flit sent on a port: it waits while the replay buffer holds 512 (R364). -/
def sendFlit (s : State) (p type : Nat) : State :=
  let x := portOf s p
  if x.buffer.length ≥ 512 || !x.waiting.isEmpty then setPort s p { x with waiting := x.waiting ++ [type] } else putFlit s p type

/-- Waiting flits of a port sent while its replay buffer has room. -/
def pumpPort : Nat → State → Nat → State
  | 0, s, _ => s
  | n + 1, s, p =>
    let x := portOf s p
    match x.waiting with
    | [] => s
    | type :: r => if x.buffer.length ≥ 512 then s else pumpPort n (putFlit (setPort s p { x with waiting := r }) p type) p

/-- An acknowledge flit, which carries no number of its own: its SEQ is a free value (log 18). -/
def sendAck (s : State) (p : Nat) (nak : Bool) : State :=
  let x := portOf s p
  let f := flitOf 4 (Config.freeNat s.free) x.rxSeq nak (freePayload s.free)
  { s with flitsOut := s.flitsOut ++ [(p, f)], free := s.free + 1 }

/-- The ports that are up among those of a peer window (R363). -/
def windowPorts (s : State) (f a : Nat) : List Nat :=
  (List.range 12).filter fun p => decide (bits (pwinOf s f a).toNat (27 + p) 1 = 1) && (portOf s p).up

/-- A peer request leaves on one of its window's ports that is up, which one is not predictable. -/
def peerSend (s : State) (f a : Nat) : State :=
  match windowPorts s f a with
  | [] => s
  | ps => sendFlit { s with free := s.free + 1 } (ps.getD (Config.freeNat s.free % ps.length) 0) 1

end Sys2Proof.Machine
end

