-- ==== Sys2Proof/Machine/Translate.lean ====
section
/-!
DEFINITION. Page tables, TLBs and the bytes of physical memory (spec 13_memory, R193-R200; R356, R363).
-/

namespace Sys2Proof.Machine

/-! ## Polder lines and shared memory (R201, R204, R205, R244)

A present Polder line's bytes stand in the core's scratchpad; a dirty one is newer than the memory it caches. -/

/-- The place that a physical address of a function names: a peer's module and remote address (R363), else 0 and the address. -/
def placeKey (s : State) (f : Nat) (sp : Space) (a : Nat) : Nat × Nat := if sp = .peer then peerTarget s f a else (0, a)

/-- Whether a Polder line holds a byte of the `n` bytes from a place up. -/
def lineMeets (s : State) (sp : Space) (k : Nat × Nat) (n : Nat) (l : PolderLine) : Bool :=
  let j := placeKey s l.func l.frame.space l.frame.pa
  decide (l.frame.space = sp ∧ j.1 = k.1 ∧ j.2 < k.2 + n ∧ k.2 < j.2 + 128)

/-- A dirty Polder line of any core at a place: the core and the scratchpad address of the byte. -/
def dirtyAt (s : State) (sp : Space) (k : Nat × Nat) : Option (Nat × Nat) :=
  s.cores.findSome? fun e => (e.2.lines.find? fun x => x.2.dirty && lineMeets s sp k 1 x.2).map fun x =>
    (e.1, 128 * x.1 + (k.2 - (placeKey s x.2.func x.2.frame.space x.2.frame.pa).2))

/-- The byte of device, host or peer memory at a place, Polder lines apart. -/
def rawByte (s : State) (sp : Space) (k : Nat × Nat) : Byte :=
  match sp with
  | .dev => memGet s.mem k.2
  | .host => memGet s.hostMem k.2
  | .peer => memGet (tgetD s.peerMem k.1 []) k.2
  | .spad => 0

/-- The byte every agent sees at a place. -/
def byteAt (s : State) (sp : Space) (k : Nat × Nat) : Byte :=
  match dirtyAt s sp k with
  | some (c, p) => memGet (coreOf s c).sp p
  | none => rawByte s sp k

/-- The bytes from a place up. -/
def bytesAt (s : State) (sp : Space) (k : Nat × Nat) (n : Nat) : List Byte := (List.range n).map fun i => byteAt s sp (k.1, k.2 + i)

/-- The byte every agent sees at a device address. -/
def devByte (s : State) (a : Nat) : Byte := byteAt s .dev (0, a)

/-- Bytes of device memory. -/
def devRead (s : State) (a n : Nat) : List Byte := bytesAt s .dev (0, a) n

/-! ## Poison by ECC granule (R368, R369) -/

/-- The granules of 32 bytes that a byte range touches. -/
def granulesOf (a n : Nat) : List Nat := if n = 0 then [] else (List.range ((a + n - 1) / 32 - a / 32 + 1)).map fun i => a / 32 + i

/-- Granules added to a list of poisoned ones. -/
def poisonAdd (ps gs : List Nat) : List Nat := ps ++ gs.filter fun g => !ps.contains g

/-- The poisoned granules after a write: those it touches where its data is poisoned, else without those it rewrites whole. -/
def poisonAfter (ps : List Nat) (a n : Nat) (poison : Bool) : List Nat :=
  if poison then poisonAdd ps (granulesOf a n) else ps.filter fun g => !decide (a ≤ 32 * g ∧ 32 * g + 32 ≤ a + n)

/-- Granules of 32 bytes wholly among the given addresses (R369). -/
def wholeGranules (gs addrs : List Nat) : List Nat :=
  gs.filter fun g => (List.range 32).all fun i => addrs.contains (32 * g + i)

/-- The poisoned granules of a place's memory. -/
def poisonOf (s : State) (core f : Nat) (sp : Space) (a : Nat) : List Nat :=
  match sp with
  | .dev => s.memPoison
  | .host => s.hostPoison
  | .peer => tgetD s.peerPoison (peerTarget s f a).1 []
  | .spad => (coreOf s core).spPoison

/-- The poisoned granules of a place's memory replaced. -/
def setPoison (s : State) (core f : Nat) (sp : Space) (a : Nat) (ps : List Nat) : State :=
  match sp with
  | .dev => { s with memPoison := ps }
  | .host => { s with hostPoison := ps }
  | .peer => { s with peerPoison := tset s.peerPoison (peerTarget s f a).1 ps }
  | .spad => setCore s core { coreOf s core with spPoison := ps }

/-- Whether a byte range holds an uncorrectable error (R368, R369), or lies with a peer that refuses the module (R363). -/
def spacePoison (s : State) (core f : Nat) (sp : Space) (a n : Nat) : Bool :=
  let k := placeKey s f sp a
  (sp == .peer && s.peerRefuses.contains k.1) ||
    (List.range n).any fun i =>
      match dirtyAt s sp (k.1, k.2 + i) with
      | some (c, p) => (coreOf s c).spPoison.contains (p / 32)
      | none => (poisonOf s core f sp a).contains ((k.2 + i) / 32)

/-- Poison cleared in the granules that a set of writes wholly rewrites (R369). -/
def clearPoison (s : State) (core f : Nat) (sp : Space) (addrs : List Nat) : State :=
  match addrs with
  | [] => s
  | a :: _ =>
    let ps := poisonOf s core f sp a
    if ps.isEmpty then s
    else setPoison s core f sp a (ps.filter fun g => !(wholeGranules [g] (addrs.map fun x => (placeKey s f sp x).2)).contains g)

/-- The granules of a byte range marked poisoned. -/
def markPoison (s : State) (core : Nat) (sp : Space) (a n : Nat) : State :=
  setPoison s core 0 sp a (poisonAdd (poisonOf s core 0 sp a) (granulesOf (placeKey s 0 sp a).2 n))

/-! ## Writes -/

/-- A request of a function to host memory (R258, R353): relaxed-ordered, and poisoned where its data is (R369). -/
def hostSend (s : State) (f a : Nat) (kind : TlpKind) (bytes : List Byte) (poison : Bool) : State :=
  { s with
    hostMem := memWrite s.hostMem a bytes
    hostPoison := poisonAfter s.hostPoison a bytes.length poison
    tlps := s.tlps ++ [{ func := f, addr := a, bytes := bytes, kind := kind, ro := true, poisoned := poison }] }

/-- The requests sent to the host since the first `n` carry no relaxed-ordering attribute: a release at system scope, or DONE (R258). -/
def sendOrdered (n : Nat) (s : State) : State :=
  { s with tlps := s.tlps.take n ++ (s.tlps.drop n).map fun t => { t with ro := false } }

/-- Bytes written in device, host or peer memory, Polder lines apart. A refused peer store is dropped and sets FEVENT.LINK (R363). -/
def rawWrite (s : State) (f : Nat) (sp : Space) (a : Nat) (bytes : List Byte) (poison : Bool) : State :=
  match sp with
  | .dev => { s with mem := memWrite s.mem a bytes, memPoison := poisonAfter s.memPoison a bytes.length poison }
  | .host => hostSend s f a .write bytes poison
  | .peer =>
    let (m, r) := peerTarget s f a
    if s.peerRefuses.contains m then setEvent s 0 7
    else { s with peerMem := tset s.peerMem m (memWrite (tgetD s.peerMem m []) r bytes)
                  peerPoison := tset s.peerPoison m (poisonAfter (tgetD s.peerPoison m []) r bytes.length poison) }
  | .spad => s

/-- An agent that is no core's L1: the MMU, an engine, a dispatcher, a Polder range, a peer. -/
def noCore : Nat := 192

/-- Whether a block's line at an address holds a byte of a range. -/
def blockMeets (a n l : Nat) : Bool := decide (l < a + n ∧ a < l + 128)

/-- The lines of load-block units that another agent than their core's contexts writes are invalidated (R207). -/
def invalidateBlocks (s : State) (core a n : Nat) : State :=
  s.teams.foldl (fun s e =>
    if decide (e.2.core ≠ core) && e.2.blocks.any fun b => b.2.filled.any (blockMeets a n) then
      setTeam s e.1 { teamOf s e.1 with
        blocks := (teamOf s e.1).blocks.map fun b => (b.1, { b.2 with filled := b.2.filled.filter fun l => !blockMeets a n l }) }
    else s) s

/-- A Polder line written back to its global address where dirty (R205), each granule with its poison (R369); no load-block unit keeps the
bytes (R207). -/
def writeBack (s : State) (k n : Nat) (l : PolderLine) : State :=
  if l.dirty then
    let c := coreOf s k
    let s := if l.frame.space = .peer then peerSend s l.func l.frame.pa else s
    let s := (List.range 4).foldl (fun s i =>
      rawWrite s l.func l.frame.space (l.frame.pa + 32 * i) (memRead c.sp (128 * n + 32 * i) 32) (c.spPoison.contains (4 * n + i))) s
    if l.frame.space = .dev then invalidateBlocks s noCore l.frame.pa 128 else s
  else s

/-- Whether a line's bytes can go where they belong: a dirty peer line waits for a port of its window (R363). -/
def lineGoes (s : State) (l : PolderLine) : Bool :=
  !l.dirty || decide (l.frame.space ≠ .peer) || !(windowPorts s l.func l.frame.pa).isEmpty

/-- A Polder line written back and invalidated. -/
def dropLine (s : State) (k n : Nat) : State :=
  match tget (coreOf s k).lines n with
  | none => s
  | some l =>
    if lineGoes s l then
      let s := writeBack s k n l
      let c := coreOf s k
      setCore s k { c with lines := tdel c.lines n }
    else s

/-- Some lines of a core dropped. -/
def dropLines (s : State) (k : Nat) (ns : List Nat) : State := ns.foldl (fun s n => dropLine s k n) s

/-- The lines of a core that hold a byte of a range: for a write every one, for a read the dirty ones. -/
def linesMeeting (s : State) (c : Core) (sp : Space) (k : Nat × Nat) (n : Nat) (write : Bool) : List Nat :=
  (c.lines.filter fun x => (write || x.2.dirty) && lineMeets s sp k n x.2).map Prod.fst

/-- Whether an access of a range must wait: a dirty peer line of another core or line than `own` that holds a byte of it has no port up to be
written back by (R204, R363). -/
def recallBlocked (s : State) (sp : Space) (k : Nat × Nat) (n : Nat) (own : Option (Nat × Nat)) : Bool :=
  s.cores.any fun e => e.2.lines.any fun x => !lineGoes s x.2 && lineMeets s sp k n x.2 && decide (own ≠ some (e.1, x.1))

/-- The recall of every Polder line that holds a byte of a range (R204): for a write every one, for a read the dirty ones. -/
def recallRange (s : State) (sp : Space) (k : Nat × Nat) (n : Nat) (write : Bool) : State :=
  s.cores.foldl (fun s e => dropLines s e.1 (linesMeeting s e.2 sp k n write)) s

/-- An access of a core refills the invalidated lines that it meets of the core's complete units (R207). -/
def refillBlocks (s : State) (core a n : Nat) : State :=
  s.teams.foldl (fun s e =>
    let low (b : LoadBlock) : List Nat := b.lines.filter fun l => blockMeets a n l && !b.filled.contains l
    if decide (e.2.core = core) && e.2.blocks.any fun b => b.2.complete && !(low b.2).isEmpty then
      setTeam s e.1 { teamOf s e.1 with
        blocks := (teamOf s e.1).blocks.map fun b => (b.1, if b.2.complete then { b.2 with filled := b.2.filled ++ low b.2 } else b.2) }
    else s) s

/-- Bytes at a place: device, host or peer memory, or a core's scratchpad. -/
def spaceRead (s : State) (core f : Nat) (sp : Space) (a n : Nat) : List Byte :=
  if sp = .spad then memRead (coreOf s core).sp a n else bytesAt s sp (placeKey s f sp a) n

/-- Bytes written at a place by a core, with their poison: the Polder lines that hold them are recalled first (R204), and other cores'
load-block lines go (R207). -/
def spaceWrite (s : State) (core f : Nat) (sp : Space) (a : Nat) (bytes : List Byte) (poison : Bool) : State :=
  match sp with
  | .spad =>
    let c := coreOf s core
    setCore s core { c with sp := memWrite c.sp a bytes, spPoison := poisonAfter c.spPoison a bytes.length poison }
  | .dev | .host | .peer =>
    let s := rawWrite (recallRange s sp (placeKey s f sp a) bytes.length true) f sp a bytes poison
    if sp = .dev then invalidateBlocks s core a bytes.length else s

/-! ## The walk (R195-R197, R356) -/

/-- The end of a walk: a frame for the byte, an address whose page is missing with the level the walk stopped at, or a denial. -/
inductive Xlate where
  | ok (f : Frame)
  | missing (va level : Nat) (host : Bool)
  | denied
  deriving DecidableEq, Repr

/-- The page that an address with no translation lies in: 4 KiB of a host page, else 64 KiB, the smallest (R195, R198). -/
def missPage (host : Bool) (va : Nat) : Nat := if host then va / 4096 * 4096 else va / 2 ^ 16 * 2 ^ 16

/-- The rights an access needs. -/
structure Need where
  rd : Bool
  w : Bool
  deriving DecidableEq, Repr

/-- The rights of a frame allow an access in a mode (R197, R199). -/
def rightsOk (f : Frame) (n : Need) (sup : Bool) : Bool :=
  (!n.rd || f.rd) && (!n.w || f.w) && (!f.sup || sup)

/-- The levels of R195 from an entry down: shift and width of the index, alignment of the next table, and of a leaf's page. -/
def walkLevels : List (Nat × Nat × Nat × Nat) :=
  [(39, 13, 4096, 1), (30, 9, 4096, 2 ^ 30), (21, 9, 256, 2 ^ 21), (16, 5, 1, 2 ^ 16)]

/-- A leaf's frame for a virtual address (R196), before rights are judged. A host page that ATS does not translate is missing whatever the
leaf's rights; one that it does has the rights that the leaf and the translation both give (DESIGN CHOICE, log 44). -/
def leafFrame (s : State) (f asid va e at_ page : Nat) : Xlate :=
  let rd := bits e 2 1 = 1
  let w := bits e 3 1 = 1
  let sup := bits e 4 1 = 1
  let mt := bits e 48 2 = 1
  if bits e 7 1 = 1 then
    match s.ats.find? fun x => decide (x.func = f ∧ x.asid = asid ∧ x.page = va / 4096) with
    | none => .missing va 3 true
    | some x => .ok { space := .host, pa := x.addr + va % 4096, rd := rd && x.rd, w := w && x.w, sup := sup,
                      uncached := mt, leaf := some at_, span := page }
  else
    let base := bits e 8 40 * 256
    if base % page ≠ 0 then .denied
    else
      let pa := base + va % page
      .ok { space := if bits pa 44 4 = 0xF then .peer else .dev, pa := pa, rd := rd, w := w, sup := sup, uncached := mt,
            leaf := some at_, span := page }

/-- A walk from a table of the given levels (R195-R197). An entry with V = 0 is a missing page whatever its reserved fields hold (DESIGN
CHOICE, log 44). -/
def walkFrom (s : State) (f asid va : Nat) : Nat → Nat → List (Nat × Nat × Nat × Nat) → Xlate
  | _, _, [] => .denied
  | table, level, (shift, width, align, page) :: rest =>
    let at_ := table + 8 * bits va shift width
    let e := leVal (devRead s at_ 8)
    if bits e 0 1 = 0 then .missing va level false
    else if bits e 50 14 ≠ 0 ∨ bits e 48 2 ≥ 2 then .denied
    else if bits e 1 1 = 1 then
      if level = 0 then .denied else leafFrame s f asid va e at_ page
    else if level = 3 then .denied
    else
      let next := bits e 8 40 * 256
      if next % align ≠ 0 then .denied else walkFrom s f asid va next (level + 1) rest

/-- A walk from the function's root table (R356). -/
def walk (s : State) (f asid va : Nat) : Xlate :=
  let x := funcOf s f
  if asid ≥ 2 ^ x.rootLog2n then .denied
  else
    let e := leVal (devRead s (x.rootAddr + 8 * asid) 8)
    if bits e 0 1 = 0 ∨ bits e 48 16 ≠ 0 ∨ bits e 1 15 ≠ 0 then .denied
    else walkFrom s f asid va (bits e 16 32 * 2 ^ 16) 0 walkLevels

/-- The addresses of the entries that a walk reads from a table down. -/
def walkTables (s : State) (va : Nat) : Nat → List (Nat × Nat × Nat × Nat) → List Nat
  | _, [] => []
  | table, (shift, width, _, _) :: rest =>
    let at_ := table + 8 * bits va shift width
    let e := leVal (devRead s at_ 8)
    at_ :: if bits e 0 1 = 0 ∨ bits e 1 1 = 1 then [] else walkTables s va (bits e 8 40 * 256) rest

/-- The addresses of the entries that a walk reads. -/
def walkEntries (s : State) (f asid va : Nat) : List Nat :=
  let x := funcOf s f
  let root := x.rootAddr + 8 * asid
  let e := leVal (devRead s root 8)
  if va ≥ 2 ^ 52 ∨ asid ≥ 2 ^ x.rootLog2n then []
  else root :: if bits e 0 1 = 0 then [] else walkTables s va (bits e 16 32 * 2 ^ 16) walkLevels

/-- A walk's reads: the MMU is an agent (R241), and dirty Polder lines that hold an entry are recalled (R204). -/
def walkReads (s : State) (f asid va : Nat) : State :=
  (walkEntries s f asid va).foldl (fun s a => recallRange s .dev (0, a) 8 false) s

/-! ## TLBs (R198) -/

/-- A TLB's frame for a virtual address. -/
def tlbFind (t : List TlbEntry) (f asid va : Nat) : Option Frame :=
  match t.find? fun e => decide (e.func = f ∧ e.asid = asid ∧ e.page ≤ va ∧ va < e.page + e.size) with
  | none => none
  | some e => some { e.frame with pa := e.frame.pa + (va - e.page) }

/-- Translation of a virtual address for a core before rights are judged (R197, R198): core TLB, die TLB, walk. -/
def xlateRaw (s : State) (core f asid va : Nat) : Xlate :=
  if va ≥ 2 ^ 52 then .denied
  else match tlbFind (coreOf s core).tlb f asid va with
    | some fr => .ok fr
    | none => match tlbFind (dieOf s (dieOfCore core)).tlb f asid va with
      | some fr => .ok fr
      | none => walk s f asid va

/-- Translation of a virtual address for an access (R197): the rights are judged for the mode, and a peer page by its window (R363). A
non-canonical address is denied. -/
def xlate (s : State) (core f asid va : Nat) (n : Need) (sup : Bool) : Xlate :=
  match xlateRaw s core f asid va with
  | .ok fr =>
    if !rightsOk fr n sup then .denied
    else if fr.space = .peer && pwinDenied s f fr.pa then .denied
    else .ok fr
  | r => r

/-- The size of the page that a frame translates: 4 KiB for a host page, else the leaf's (R195, R198). -/
def frameSize (fr : Frame) : Nat := if fr.space = .host then 4096 else fr.span

/-- A TLB with an entry added, the oldest one leaving when it is full (R198). Log 14. -/
def tlbAdd (t : List TlbEntry) (cap : Nat) (e : TlbEntry) : List TlbEntry :=
  (t ++ [e]).drop (t.length + 1 - cap)

/-- A and, for a write, D set in the leaf of a frame: an atomic OR at system scope (R196, R197). -/
def setAD (s : State) (fr : Frame) (write : Bool) : State :=
  match fr.leaf with
  | none => s
  | some a =>
    let b := devByte s a
    let b' := b ||| (if write then 0x60 else 0x20)
    if b = b' then s else spaceWrite s noCore 0 .dev a [b'] false

/-- Whether a translation for a core needs a walk (R198). -/
def tlbMiss (s : State) (core f asid va : Nat) : Bool :=
  (tlbFind (coreOf s core).tlb f asid va).isNone && (tlbFind (dieOf s (dieOfCore core)).tlb f asid va).isNone

/-- The state after a successful translation: its walk has read its entries (R204), the TLBs hold the page, and its leaf has A, and D for a
write (R197, R198). -/
def touchPage (s : State) (core f asid va : Nat) (fr : Frame) (write : Bool) : State :=
  let s := if tlbMiss s core f asid va then walkReads s f asid va else s
  let s := setAD s fr write
  let size := frameSize fr
  let e : TlbEntry :=
    { asid := asid, func := f, page := va / size * size, size := size, frame := { fr with pa := fr.pa - va % size } }
  let c := coreOf s core
  let s := if (tlbFind c.tlb f asid va).isSome then s else setCore s core { c with tlb := tlbAdd c.tlb 256 e }
  let d := dieOf s (dieOfCore core)
  if (tlbFind d.tlb f asid va).isSome then s
  else setDie s (dieOfCore core) { d with tlb := tlbAdd d.tlb 16384 e }

/-- Translation of every byte of a range that may cross pages: the frames of its first byte and of each page after it. -/
def xlateRange (s : State) (core f asid va n : Nat) (need : Need) (sup : Bool) : List (Nat × Xlate) :=
  let first := va / 4096
  let last := (va + n - 1) / 4096
  (List.range (last - first + 1)).map fun i =>
    let a := if i = 0 then va else (first + i) * 4096
    (a, xlate s core f asid a need sup)

end Sys2Proof.Machine
end

