-- ==== Sys2Proof/Machine/Memory.lean ====
section
/-!
DEFINITION. Memory accesses of groups: judging and translating them (R118, R199, R204, R215-R218), the scratchpad and Polder lines,
tensor records (R209-R212), and performing outstanding operations (R219-R232).
-/

namespace Sys2Proof.Machine

/-! ## Judging one access -/

/-- A judged access: the element, its page's frame where it has one, whether it went through translation (so the TLBs and the A and D
bits are touched), and whether it writes. -/
structure Access where
  elem : Elem
  frame : Option Frame
  translated : Bool
  write : Bool
  deriving DecidableEq, Repr

/-- The outcome of judging an access: allowed, an address whose page is missing, or a trap with its cause. -/
inductive Acc where
  | ok (a : Access)
  | missing (va level : Nat) (host polder : Bool)
  | trap (code : Nat)
  deriving DecidableEq, Repr

/-- The access word of EINFO (R310). -/
def accessWord (addr lsz kind : Nat) (spad prf : Bool) : DWord :=
  BitVec.ofNat 64 (addr % 2 ^ 52 + lsz * 2 ^ 52 + kind * 2 ^ 56 + (if spad then 2 ^ 59 else 0) + if prf then 2 ^ 60 else 0)

/-- Who makes an access: the group's team, its core, function and address space, and the mode of the bundle. -/
structure Who where
  team : Nat
  core : Nat
  func : Nat
  asid : Nat
  sup : Bool
  deriving DecidableEq, Repr

/-- The accessor that a group is. -/
def whoOf (s : State) (gid : Nat) : Who :=
  let g := groupOf s gid
  let t := teamOf s g.team
  { team := g.team, core := t.core, func := t.func, asid := t.asid, sup := g.super }

/-- An access of `n` bytes at a team scratchpad offset, Polder ranges included (R15, R203, R204, R140). -/
def spadAcc (s : State) (w : Who) (lane off n : Nat) (write : Bool) : Acc :=
  let t := teamOf s w.team
  let a := t.spBase + off
  let e : Elem := { lane := lane, space := .spad, addr := a, va := off, size := n }
  if off + n > t.kd.spkb * 1024 then .trap 2
  else
    match tget (coreOf s w.core).pmap (a / 512) with
    | none => .ok { elem := e, frame := none, translated := false, write := write }
    | some m =>
      match tget (coreOf s w.core).lines (a / 128) with
      | some l =>
        if write && !rightsOk l.frame { rd := false, w := true } w.sup then .trap 6
        else .ok { elem := e, frame := some l.frame, translated := false, write := write }
      | none =>
        match xlate s w.core m.func m.asid (m.va + a % 512) { rd := true, w := write } w.sup with
        | .ok fr => .ok { elem := e, frame := some fr, translated := true, write := write }
        | .missing p l h => .missing p l h true
        | .denied => .trap 6

/-- An access of `n` bytes at a virtual address (R197, R199). -/
def virtualAcc (s : State) (w : Who) (lane va n : Nat) (need : Need) : Acc :=
  match xlate s w.core w.func w.asid va need w.sup with
  | .ok fr =>
    .ok { elem := { lane := lane, space := fr.space, addr := fr.pa, va := va, size := n }, frame := some fr, translated := true,
          write := need.w }
  | .missing p l h => .missing p l h false
  | .denied => .trap 6

/-- An access of `n` bytes at an offset of a window (R199). -/
def windowAcc (s : State) (w : Who) (win : Window) (lane off n : Nat) (need : Need) : Acc :=
  if off + n ≤ win.limit then
    let pa := win.frame.pa + off
    if !rightsOk win.frame need w.sup then .trap 6
    else if win.frame.space = .peer && pwinDenied s w.func pa then .trap 6
    else .ok { elem := { lane := lane, space := win.frame.space, addr := pa, va := win.base + off, size := n }
               frame := some win.frame, translated := false, write := need.w }
  else virtualAcc s w lane (win.base + off) n need

/-- An access through a `w` latch reference (R217): 0-7 a window of the half, 8 the scratchpad. -/
def refAcc (s : State) (gid half : Nat) (w : Who) (ref lane off n : Nat) (need : Need) : Acc :=
  if ref = 8 then spadAcc s w lane off n need.w
  else windowAcc s w (wget (groupOf s gid) half ref) lane off n need

/-- The address an access through a reference is named by: a virtual address, or a scratchpad offset (R310). -/
def refAddr (s : State) (gid half ref off : Nat) : Nat :=
  if ref = 8 then off else (wget (groupOf s gid) half ref).base + off

/-! ## Plans: what a trigger's accesses come to -/

/-- An access of a bundle to a missing page: the address, the fields of its request (R213) and the trap that a failed response becomes (R315). -/
structure Miss where
  va : Nat
  level : Nat
  host : Bool
  kind : Nat
  srck : Nat
  func : Nat
  asid : Nat
  info : TrapInfo
  deriving DecidableEq, Repr

/-- What the accesses of a trigger or scalar operation come to: the traps they show, the pages they miss, and, where they show neither,
the accesses, the reads of records and lists, and the operation's elements. -/
structure Plan where
  traps : List TrapInfo := []
  miss : List Miss := []
  accs : List Access := []
  reads : List Access := []
  tensor : List TElem := []
  deriving DecidableEq, Repr

/-- Two plans side by side. -/
def planJoin (a b : Plan) : Plan :=
  { traps := a.traps ++ b.traps, miss := a.miss ++ b.miss, accs := a.accs ++ b.accs, reads := a.reads ++ b.reads, tensor := a.tensor ++ b.tensor }

/-- Several plans side by side. -/
def planAll (ps : List Plan) : Plan := ps.foldr planJoin {}

/-- The page-request kind of an access (R213): write, atomic or read. -/
def reqKind (need : Need) : Nat := if need.rd && need.w then 3 else if need.w then 1 else 0

/-- The plan of one judged access. `srck` is the request's source kind, `word` the access word without PRF. -/
def accPlan (w : Who) (need : Need) (srck slot : Nat) (lane : Option Nat) (word : DWord) (a : Acc) : Plan :=
  match a with
  | .ok x => { accs := [x] }
  | .trap c => { traps := [{ code := c, info := if c = 2 then BitVec.ofNat 64 (word.toNat % 2 ^ 52) else word, slot := slot, lane := lane }] }
  | .missing p l h polder =>
    { miss := [{ va := p, level := l, host := h, kind := reqKind need, srck := if polder then 5 else srck, func := w.func
                 asid := w.asid
                 info := { code := 6, info := word ||| BitVec.ofNat 64 (2 ^ 60), slot := slot, lane := lane } }] }

/-- A trap of a misaligned address (R215). -/
def misaligned (align addr slot : Nat) (lane : Option Nat) (word : DWord) : Plan :=
  if addr % align ≠ 0 then { traps := [{ code := 5, info := word, slot := slot, lane := lane }] } else {}

/-- The plan of one lane's plain access of `n` bytes at an offset (R217, R218). -/
def lanePlan (s : State) (gid half : Nat) (w : Who) (ref lane off n : Nat) (need : Need) (kind slot : Nat) : Plan :=
  let addr := refAddr s gid half ref off
  let word := accessWord addr (Nat.log2 n) kind (decide (ref = 8)) false
  planJoin (misaligned n addr slot (some lane) word)
    (accPlan w need 0 slot (some lane) word (refAcc s gid half w ref lane off n need))

/-! ## Scratchpad and Polder bytes (R203-R205) -/

/-- A Polder line filled from its global address, with the poison of what it holds (R204, R369); a peer that refuses sets FEVENT.LINK
(R363). -/
def fillLine (s : State) (core n f : Nat) (fr : Frame) : State :=
  let fr := { fr with pa := fr.pa / 128 * 128 }
  let s := recallRange s fr.space (placeKey s f fr.space fr.pa) 128 false
  let s := if fr.space = .peer then peerSend s f fr.pa else s
  let bytes := spaceRead s core f fr.space fr.pa 128
  let bad := (List.range 4).filter fun i => spacePoison s core f fr.space (fr.pa + 32 * i) 32
  let s := if fr.space = .peer && s.peerRefuses.contains (peerTarget s f fr.pa).1 then setEvent s 0 7 else s
  let c := coreOf s core
  setCore s core { c with
    sp := memWrite c.sp (128 * n) bytes
    spPoison := (c.spPoison.filter fun g => !decide (4 * n ≤ g ∧ g < 4 * n + 4)) ++ bad.map fun i => 4 * n + i
    lines := tset c.lines n { frame := fr, func := f, exclusive := false, dirty := false } }

/-- The frame that the absent line of a scratchpad address would be filled from: its granule is mapped and its page can be read (R204). -/
def fillFrame (s : State) (core a : Nat) : Option (PMapEntry × Frame) :=
  let c := coreOf s core
  match tget c.pmap (a / 512), tget c.lines (a / 128) with
  | some m, none =>
    match xlate s core m.func m.asid (m.va + a % 512) { rd := true, w := false } true with
    | .ok fr => some (m, fr)
    | .missing _ _ _ | .denied => none
  | _, _ => none

/-- The line of a scratchpad address present, where its granule is mapped and its page can be read (R204). -/
def ensureLine (s : State) (core a : Nat) : State :=
  match fillFrame s core a with
  | some (m, fr) => fillLine (touchPage s core m.func m.asid (m.va + a % 512) fr false) core (a / 128) m.func fr
  | none => s

/-- The addresses of the lines that a range touches. -/
def lineAddrs (a n : Nat) : List Nat := if n = 0 then [] else (List.range ((a + n - 1) / 128 - a / 128 + 1)).map fun i => 128 * (a / 128 + i)

/-- Every line that a scratchpad range touches present. -/
def ensureRange (s : State) (core a n : Nat) : State := (lineAddrs a n).foldl (fun s x => ensureLine s core x) s

/-- Every other Polder line of a line's address recalled (R204). -/
def recallOthers (s : State) (core n : Nat) (l : PolderLine) : State :=
  let k := placeKey s l.func l.frame.space l.frame.pa
  s.cores.foldl (fun s e =>
    dropLines s e.1 ((linesMeeting s e.2 l.frame.space k 128 true).filter fun i => !decide (e.1 = core ∧ i = n))) s

/-- The line of a scratchpad address held exclusive and dirty, where its granule is a Polder range: its page has D (R196, R197), and no
load-block unit keeps the line (R207). -/
def dirtyLine (s : State) (core a : Nat) : State :=
  match tget (coreOf s core).lines (a / 128) with
  | none => s
  | some l =>
    let s := setAD (recallOthers s core (a / 128) l) l.frame true
    let s := if l.frame.space = .dev then invalidateBlocks s noCore l.frame.pa 128 else s
    let c := coreOf s core
    setCore s core { c with lines := tset c.lines (a / 128) { l with exclusive := true, dirty := true } }

/-- Bytes written to a core's scratchpad with their poison, Polder lines filled first (R204, R224, R369). -/
def spadPut (s : State) (core a : Nat) (bytes : List Byte) (poison : Bool) : State :=
  if bytes.isEmpty then s
  else
    let s := ensureRange s core a bytes.length
    let s := (lineAddrs a bytes.length).foldl (fun s x => dirtyLine s core x) s
    spaceWrite s core 0 .spad a bytes poison

/-- Bytes of a core's scratchpad, Polder lines filled first. -/
def spadGet (s : State) (core a n : Nat) : List Byte × State :=
  let s := ensureRange s core a n
  (memRead (coreOf s core).sp a n, s)

/-- Bytes at a place, their poison, and the state after the read; a peer that refuses sets FEVENT.LINK (R363). -/
def placeGet (s : State) (core f : Nat) (sp : Space) (a n : Nat) : List Byte × Bool × State :=
  match sp with
  | .spad =>
    let (b, s) := spadGet s core a n
    (b, spacePoison s core f .spad a n, s)
  | .dev =>
    let s := refillBlocks (recallRange s .dev (0, a) n false) core a n
    (spaceRead s core f .dev a n, spacePoison s core f .dev a n, s)
  | .host =>
    let s := recallRange s .host (0, a) n false
    (spaceRead s core f .host a n, spacePoison s core f .host a n, s)
  | .peer =>
    let s := peerSend (recallRange s .peer (peerTarget s f a) n false) f a
    (spaceRead s core f .peer a n, spacePoison s core f .peer a n,
      if s.peerRefuses.contains (peerTarget s f a).1 then setEvent s 0 7 else s)

/-- Bytes written at a place with their poison. -/
def placePut (s : State) (core f : Nat) (sp : Space) (a : Nat) (bytes : List Byte) (poison : Bool) : State :=
  match sp with
  | .spad => spadPut s core a bytes poison
  | .peer => spaceWrite (peerSend s f a) core f .peer a bytes poison
  | .dev | .host => spaceWrite s core f sp a bytes poison

/-! ## Operations in flight -/

/-- The location that an element names (R242): through a Polder line the global one, for a peer its remote one (R363). -/
def elemPlace (s : State) (core f : Nat) (e : Elem) : Space × Nat × Nat :=
  if e.space = .spad then
    match tget (coreOf s core).lines (e.addr / 128), fillFrame s core e.addr with
    | some l, _ => let k := placeKey s l.func l.frame.space l.frame.pa; (l.frame.space, k.1, k.2 + e.addr % 128)
    | none, some (m, fr) => let k := placeKey s m.func fr.space fr.pa; (fr.space, k.1, k.2)
    | none, none => (.spad, 0, e.addr)
  else (e.space, placeKey s f e.space e.addr)

/-- Whether two elements of a core share a byte. -/
def elemsMeet (s : State) (core f : Nat) (a b : Elem) : Bool :=
  let x := elemPlace s core f a
  let y := elemPlace s core f b
  decide (x.1 = y.1 ∧ x.2.1 = y.2.1 ∧ x.2.2 < y.2.2 + b.size ∧ y.2.2 < x.2.2 + a.size)

/-- Every element of an operation, those of tensor operations included. -/
def allElems (op : MemOp) : List Elem :=
  op.elems ++ op.tensor.flatMap fun t => t.place ++ t.scale ++ t.positions.flatten

/-- The elements of an operation that are still to be performed. -/
def opElems (op : MemOp) : List Elem := (allElems op).filter fun e => e.got.isNone

/-- Whether two operations of a core share a byte. -/
def opsMeet (s : State) (core f : Nat) (a b : MemOp) : Bool := (opElems a).any fun x => (opElems b).any (elemsMeet s core f x)

/-- The bank of a scratchpad byte address (R203). -/
def bankOf (a : Nat) : Nat := bits a 4 6

/-- Whether a scratchpad range touches a bank that another command than `owner` holds (R252). -/
def rangeLocked (c : Core) (owner : Option Nat) (a n : Nat) : Bool :=
  c.locks.any fun l => decide (some l.owner ≠ owner) && (List.range n).any fun i => l.banks.contains (bankOf (a + i))

/-- Whether a peer address has a port up to go by (R363). -/
def peerUp (s : State) (f a : Nat) : Bool := !(windowPorts s f a).isEmpty

/-- Whether a peer's bytes at an address of a function can be reached: it has a port up to go by, and no dirty Polder line but `own` holds
them back (R204, R363). -/
def peerOpen (s : State) (f a n : Nat) (own : Option (Nat × Nat)) : Bool :=
  peerUp s f a && !recallBlocked s .peer (peerTarget s f a) n own

/-- Whether an element of a core waits: for a locked bank, its whole line where a Polder fill comes first (R252), for a port to the peer that
its line would be filled from, or for one that another Polder line of that place has to be written back by (R204, R363). -/
def elemWaits (s : State) (core : Nat) (e : Elem) : Bool :=
  let c := coreOf s core
  decide (e.space = .spad) &&
    match fillFrame s core e.addr with
    | some (m, fr) =>
      rangeLocked c none (e.addr / 128 * 128) 128 || (decide (fr.space = .peer) && !peerOpen s m.func (fr.pa / 128 * 128) 128 none)
    | none => rangeLocked c none e.addr e.size || match tget c.lines (e.addr / 128) with
      | some l => decide (l.frame.space = .peer) &&
          recallBlocked s .peer (placeKey s l.func .peer l.frame.pa) 128 (some (core, e.addr / 128))
      | none => false

/-- Whether an access of a function's core can be made as far as locks and ports go (R252, R363). -/
def elemOpen (s : State) (core f : Nat) (e : Elem) : Bool :=
  !elemWaits s core e && (decide (e.space ≠ .peer) || peerOpen s f e.addr e.size none)

/-- Whether an operation gives a value to a port or register. -/
def givesValue (k : MemKind) : Bool :=
  match k with
  | .load _ | .scalarLoad _ _ _ | .tensorLoad _ _ => true
  | .store op => (portsWritten (.st op)).1
  | .scalarStore | .prefetch | .tensorStore _ | .multicast => false

/-- Whether a release or a fence of a scope waits for an earlier operation (R131, R246): at scope group a store is performed from its issue
on, since the group's own later loads see it (R242, R244). -/
def scopeWaits (scope : Nat) (x : MemOp) : Bool := decide (scope ≠ 0) || givesValue x.kind

/-- Whether everything that a fence waits for is performed (R131). -/
def fenceOver (g : Group) (f : Fence) : Bool := g.ops.all fun o => decide (f.id ≤ o.id) || !scopeWaits f.scope o

/-- Whether an outstanding operation may be performed now: the group's own order to one location (R219, R242), earlier acquires (R247),
fences (R131, R249), its own release (R246), and bank locks (R252). -/
def opReady (s : State) (gid : Nat) (op : MemOp) : Bool :=
  let g := groupOf s gid
  let t := teamOf s g.team
  let before := g.ops.filter fun x => decide (x.id < op.id)
  before.all (fun x => !x.acquire && !opsMeet s t.core t.func x op) &&
    (g.fences.all fun f => decide (op.id < f.id)) &&
    (!op.release || before.all fun x => !scopeWaits op.scope x) &&
    !((opElems op).any (elemWaits s t.core))

/-- An operation done on its in-flight counters: each counter falls when every earlier entry of its path is done (R208). -/
def pathDone (es : List PathEntry) (id : Nat) : List PathEntry :=
  (es.map fun e => if e.id = id then { e with done := true } else e).dropWhile fun e => e.done

/-- Whether a part of an operation counts on a path (R208): the scratchpad lanes on P2, the window lanes on the others. -/
def partPath (part path : Nat) : Bool := decide (part = 0) || (decide (part = 2) == decide (path % 8 = 2))

/-- An operation, or a part of one, leaves a group: it is no longer outstanding, and its counters fall in their order. -/
def opDone (g : Group) (id part : Nat) : Group :=
  { g with
    ops := g.ops.filter fun o => !decide (o.id = id ∧ o.part = part)
    paths := g.paths.map fun e => (e.1, if partPath part e.1 then pathDone e.2 id else e.2) }

/-- The result of an operation in either image filled with values and delivered in the lanes of a mask (R220). -/
def fillResults (id : Nat) (m : Mask) (o x : Lanes) (poison : Mask) (rs : List Result) : List Result :=
  rs.map fun r =>
    if r.id = id then
      { r with o := laneMerge r.o o m, x := laneMerge r.x x m, poison := r.poison ||| (poison &&& m), filled := r.filled ||| (r.mask &&& m) }
    else r

/-- The lanes that an operation delivers to: those of its elements where it is a part of one, else every lane. -/
def opLanes (op : MemOp) : Mask := if op.part = 0 then 0xFFFFFFFF else maskOf fun l => op.elems.any fun e => decide (e.lane = l)

/-- An operation's port values delivered. -/
def deliverOp (g : Group) (op : MemOp) (o x : Lanes) (poison : Mask) : Group :=
  let f (im : Image) := settle { im with results := fillResults op.id (opLanes op) o x poison im.results }
  { g with image := f g.image, user := g.user.map f }

/-- The words o and x that a load gives (R220). -/
def loadWords (op : LdOp) (v : Nat) : Word × Word :=
  match op with
  | .lb => ((BitVec.ofNat 8 v).signExtend 32, 0)
  | .lh => ((BitVec.ofNat 16 v).signExtend 32, 0)
  | _ => (BitVec.ofNat 32 v, BitVec.ofNat 32 (v / 2 ^ 32))

/-- An element read: its value and poison, which it has already where it was performed before the others (R245). -/
def readElem (s : State) (core f : Nat) (e : Elem) : (Nat × Bool) × State :=
  match e.got with
  | some r => (r, s)
  | none => let (b, p, s) := placeGet s core f e.space e.addr e.size; ((leVal b, p), s)

/-- The reads of a load's elements in lane order: per element its lane, value and poison. -/
def readElems (s : State) (core f : Nat) : List Elem → List (Nat × Nat × Bool) × State
  | [] => ([], s)
  | e :: r =>
    let (v, s) := readElem s core f e
    let (vs, s) := readElems s core f r
    ((e.lane, v) :: vs, s)

/-- The value and poison of a lane among reads. -/
def readOf (rs : List (Nat × Nat × Bool)) (l : Nat) : Nat × Bool :=
  match rs.find? fun e => decide (e.1 = l) with
  | some e => e.2
  | none => (0, false)

/-- The bytes of an element's store data. -/
def elemBytes (e : Elem) : List Byte := leBytes e.size e.data

/-- The poison cleared by one store of several elements, in the granules that those of them performed together rewrite whole (R369). -/
def clearElems (s : State) (core f : Nat) (es : List Elem) : State :=
  [Space.dev, .host, .peer, .spad].foldl (fun s sp =>
    clearPoison s core f sp ((es.filter fun e => decide (e.space = sp)).flatMap fun e => (List.range e.size).map fun i => e.addr + i)) s

/-- Elements not performed before the others of their operation. -/
def undone (es : List Elem) : List Elem := es.filter fun e => e.got.isNone

/-- Plain stores in element order (R219), then the poison they clear (R369). -/
def writeElems (s : State) (core f : Nat) (es : List Elem) : State :=
  clearElems ((undone es).foldl (fun s e => placePut s core f e.space e.addr (elemBytes e) false) s) core f (undone es)

/-- The AtomicOp that an atomic on a host page is sent as (R226, R353). -/
def hostAtomic (op : StOp) : TlpKind :=
  match op with
  | .aadd => .fetchAdd
  | .axch => .swap
  | .acas => .cas
  | _ => .write

/-- An atomic's new word written: on a host page by its AtomicOp. -/
def putWord (s : State) (core f : Nat) (op : StOp) (e : Elem) (w : Word) (poison : Bool) : State :=
  if e.space = .host then
    hostSend (recallRange s .host (0, e.addr) e.size true) f e.addr (hostAtomic op) (leBytes 4 w.toNat) poison
  else placePut s core f e.space e.addr (leBytes 4 w.toNat) poison

/-- One atomic or reducing store (R226, R227): the old word and its poison. -/
def rmwElem (s : State) (core f : Nat) (op : StOp) (e : Elem) : (Nat × Bool) × State :=
  match e.got with
  | some r => (r, s)
  | none =>
    let (b, p, s) := placeGet s core f e.space e.addr e.size
    let old := BitVec.ofNat 32 (leVal b)
    ((old.toNat, p), putWord s core f op e (atomicNew op old (BitVec.ofNat 32 e.data) (BitVec.ofNat 32 e.cmp)) p)

/-- Atomics and reducing stores in lane order (R219, R226, R227): per element its lane, old word and poison. -/
def rmwElems (s : State) (core f : Nat) (op : StOp) : List Elem → List (Nat × Nat × Bool) × State
  | [] => ([], s)
  | e :: r =>
    let (v, s) := rmwElem s core f op e
    let (vs, s) := rmwElems s core f op r
    ((e.lane, v) :: vs, s)

/-- Whether a store operation reads the word it writes. -/
def stAtomic (op : StOp) : Bool :=
  match op with
  | .aadd | .afadd | .amin | .amax | .aminu | .amaxu | .aand | .aor | .axor | .axch | .acas | .radd | .rfadd => true
  | .sb | .sh | .sw | .sd | .swo | .sdo | .tst | .mcst => false

/-! ## Tensor elements (R209-R212, R231, R232) -/

/-- A tensor shape record's fields (R209). -/
structure Shape where
  base : Nat
  spad : Bool
  ndim : Nat
  fmt : Nat
  permit : Bool
  ext : List Nat
  sstr : Nat
  str : List Nat
  hem : Word
  soff : Int
  perm : Nat
  deriving DecidableEq, Repr

/-- Word `n` of a record's bytes. -/
def wordAt (b : List Byte) (n : Nat) : Nat := leVal ((b.drop (8 * n)).take 8)

/-- The record in 64 bytes. -/
def shapeOf (b : List Byte) : Shape :=
  let w0 := wordAt b 0
  let e := leVal ((b.drop 8).take 24)
  let t := leVal ((b.drop 32).take 24)
  let w7 := wordAt b 7
  { base := bits w0 0 52, spad := bits w0 52 1 = 1, ndim := bits w0 53 3, fmt := bits w0 56 4, permit := bits w0 60 1 = 1
    ext := (List.range 7).map fun i => bits e (24 * i) 24
    sstr := bits e 168 8
    str := 0 :: (List.range 6).map fun i => bits t (32 * i) 32
    hem := BitVec.ofNat 32 (bits w7 0 32), soff := signedOf 24 (bits w7 32 24), perm := bits w7 56 3 }

/-- T8B32 and T6B32 (R209). -/
def fmtBlock (fmt : Nat) : Bool := fmt == 5 || fmt == 6

/-- T6 and T6B32: three bytes for four elements. -/
def fmtT6 (fmt : Nat) : Bool := fmt == 4 || fmt == 6

/-- The bytes BASE and strides are multiples of (R210). -/
def fmtAlign (fmt : Nat) : Nat :=
  match fmt with
  | 0 => 4
  | 1 => 2
  | 2 => 2
  | 3 => 1
  | 4 => 3
  | 5 => 32
  | 6 => 24
  | _ => 4

/-- Bytes of an element, or of a group of four codes. -/
def fmtBytes (fmt : Nat) : Nat :=
  match fmt with
  | 0 => 4
  | 1 => 2
  | 2 => 2
  | 3 => 1
  | 4 => 3
  | 5 => 1
  | 6 => 3
  | _ => 4

/-- A malformed record (R210). -/
def shapeBad (b : List Byte) : Bool :=
  let x := shapeOf b
  let e := leVal ((b.drop 8).take 24)
  let w7 := wordAt b 7
  decide (bits (wordAt b 0) 61 3 ≠ 0) || decide (bits e 176 16 ≠ 0) || decide (bits w7 59 5 ≠ 0) ||
    decide (x.fmt ≥ 8) || decide (x.ndim = 0) ||
    ((List.range 7).any fun i => if i < x.ndim then decide (x.ext.getD i 0 = 0) else decide (x.ext.getD i 0 ≠ 0)) ||
    ((List.range 7).any fun i => decide (x.ndim ≤ i ∧ x.str.getD i 0 ≠ 0)) ||
    decide (x.perm ≠ 0 ∧ x.spad = false) || decide (x.perm = 7) ||
    (if fmtBlock x.fmt then decide (x.sstr = 0) else decide (x.sstr ≠ 0)) ||
    decide (x.base % fmtAlign x.fmt ≠ 0) || x.str.any fun t => decide (t % fmtAlign x.fmt ≠ 0)

/-- The first dimension in which coordinates are out of range (R211). -/
def outDim (x : Shape) (c : List Int) : Option Nat :=
  (List.range 7).find? fun i =>
    let ci := c.getD i 0
    if i < x.ndim then decide (ci < 0 ∨ (x.ext.getD i 0 : Int) ≤ ci) else decide (ci ≠ 0)

/-- The bank permutation of a team offset (R211). -/
def permute (x : Shape) (a : Nat) : Nat :=
  if x.spad && x.perm > 0 then setBits a 4 6 (bits a 4 6 ^^^ (bits a 10 6 % 2 ^ x.perm)) else a

/-- Byte offset from BASE of the element (or group) at coordinates in range (R211). -/
def elemOffset (x : Shape) (c : List Int) : Nat :=
  let c0 := (c.getD 0 0).toNat
  let d0 := if fmtT6 x.fmt then 3 * (c0 / 4) else c0 * fmtBytes x.fmt
  (List.range 6).foldl (fun a i => a + x.str.getD (i + 1) 0 * (c.getD (i + 1) 0).toNat) d0

/-- The scale byte's address, from BASE (R211). -/
def scaleAddr (x : Shape) (off : Nat) : Int :=
  (x.base : Int) + 256 * x.soff + ((off / fmtAlign x.fmt * x.sstr : Nat) : Int)

/-- Judging of one tensor byte range: a virtual address or a team offset (R211, R230). -/
def tensorAcc (s : State) (w : Who) (x : Shape) (lane : Nat) (a : Int) (n : Nat) (need : Need) : Acc :=
  if a < 0 then .trap (if x.spad then 2 else 6)
  else if x.spad then spadAcc s w lane a.toNat n need.w
  else virtualAcc s w lane a.toNat n need

/-- The plan and the elements of one tensor byte range; a T6 group's three bytes are taken one by one. -/
def tensorPlace (s : State) (w : Who) (x : Shape) (lane : Nat) (a : Int) (n : Nat) (need : Need) (slot : Nat) : Plan × List Elem :=
  let pieces := if n = 3 then [(a, 1), (a + 1, 1), (a + 2, 1)] else [(a, n)]
  let ps := pieces.map fun p =>
    accPlan w need 0 slot (some lane) (accessWord p.1.toNat (Nat.log2 p.2) 4 x.spad false) (tensorAcc s w x lane p.1 p.2 need)
  let plan := planAll ps
  (plan, plan.accs.map fun y => y.elem)

/-- Coordinates with dimension 0 replaced. -/
def setC0 (c : List Int) (v : Int) : List Int := v :: c.tail

/-- Coordinates of a block's positions. -/
def blockCoords (c : List Int) : List (List Int) :=
  let c0 := c.getD 0 0
  let b := c0 - c0 % 32
  (List.range 32).map fun (i : Nat) => setC0 c (b + i)

/-- The address of the element (or group) at coordinates. -/
def elemAddr (x : Shape) (c : List Int) : Nat := permute x (x.base + elemOffset x c)

/-- One lane of a tensor operation (R211, R212, R231, R232): its traps and missing pages, and its element. -/
def tensorLane (s : State) (w : Who) (x : Shape) (recAddr lane : Nat) (c : List Int) (store : Bool) (data : Word) (slot : Nat) : Plan :=
  let need : Need := { rd := !store, w := store }
  match outDim x c with
  | some d =>
    if !x.permit then
      { traps := [{ code := 7, info := BitVec.ofNat 64 (recAddr % 2 ^ 52 + d * 2 ^ 56), slot := slot, lane := some lane }] }
    else if store || !fmtBlock x.fmt then { tensor := [{ lane := lane }] }
    else
      match (blockCoords c).find? fun k => (outDim x k).isNone with
      | none => { tensor := [{ lane := lane }] }
      | some k =>
        let (p, es) := tensorPlace s w x lane (scaleAddr x (elemOffset x k)) 1 need slot
        planJoin p { tensor := [{ lane := lane, scale := es }] }
  | none =>
    let off := elemOffset x c
    let (p, es) := tensorPlace s w x lane (elemAddr x c) (fmtBytes x.fmt) need slot
    let sub := (c.getD 0 0).toNat % 4
    let pos := (c.getD 0 0).toNat % 32
    if !fmtBlock x.fmt then planJoin p { tensor := [{ lane := lane, place := es, sub := sub, data := data }] }
    else
      let (q, sc) := tensorPlace s w x lane (scaleAddr x off) 1 need slot
      if !store then planJoin (planJoin p q) { tensor := [{ lane := lane, place := es, sub := sub, scale := sc, pos := pos }] }
      else
        let ks := (blockCoords c).map fun k =>
          if (outDim x k).isSome then (({} : Plan), ([] : List Elem))
          else tensorPlace s w x lane (elemAddr x k) (fmtBytes x.fmt) need slot
        planJoin (planJoin q (planAll (ks.map fun k => k.1)))
          { tensor := [{ lane := lane, place := es, sub := sub, scale := sc, positions := ks.map fun k => k.2, pos := pos, data := data }] }

/-- The bytes of a list of elements, their poison, and the state after the reads. -/
def bytesOf (s : State) (core f : Nat) (es : List Elem) : List Byte × Bool × State :=
  es.foldl (fun (b, p, s) e =>
    let (b', p', s) := placeGet s core f e.space e.addr e.size
    (b ++ b', p || p', s)) ([], false, s)

/-- The bytes that a load's list of elements gives, those read before the others among them (R243). -/
def bytesSeen (s : State) (core f : Nat) (es : List Elem) : List Byte × Bool × State :=
  es.foldl (fun (b, p, s) e => let (v, s) := readElem s core f e; (b ++ leBytes e.size v.1, p || v.2, s)) ([], false, s)

/-- Bytes written over a list of elements in order; one that has been written before the others stays (R243). -/
def bytesPut (s : State) (core f : Nat) : List Elem → List Byte → State
  | [], _ => s
  | e :: r, b =>
    bytesPut (if e.got.isSome then s else placePut s core f e.space e.addr (b.take e.size) false) core f r (b.drop e.size)

/-- The 6-bit code of a place in a 3-byte group. -/
def t6Get (g sub : Nat) : Nat := bits g (6 * sub) 6

/-- HEM truncated to an element (R212). -/
def hemValue (fmt : Nat) (hem : Word) : Word :=
  match fmt with
  | 1 => BitVec.ofNat 32 (hem.toNat % 2 ^ 16)
  | 2 => BitVec.ofNat 32 (hem.toNat % 2 ^ 16)
  | 3 => BitVec.ofNat 32 (hem.toNat % 2 ^ 8)
  | 4 => BitVec.ofNat 32 (hem.toNat % 2 ^ 6)
  | 5 => BitVec.ofNat 32 (hem.toNat % 2 ^ 8)
  | 6 => BitVec.ofNat 32 (hem.toNat % 2 ^ 6)
  | _ => hem

/-- What tld delivers in one lane (R231). -/
def tldLane (s : State) (core f fmt : Nat) (hem : Word) (t : TElem) : Word × Bool × State :=
  let (b, p, s) := bytesSeen s core f t.place
  let (sc, q, s) := bytesSeen s core f t.scale
  let code : Nat := if t.place.isEmpty then (hemValue fmt hem).toNat else if fmtT6 fmt then t6Get (leVal b) t.sub else leVal b
  let v := if fmtBlock fmt then code % 256 + 256 * leVal sc else code
  (BitVec.ofNat 32 v, p || q, s)

/-- What tld delivers in every lane. -/
def tldLanes (s : State) (core f fmt : Nat) (hem : Word) : List TElem → List (Nat × Nat × Bool) × State
  | [] => ([], s)
  | t :: r =>
    let (v, p, s) := tldLane s core f fmt hem t
    let (vs, s) := tldLanes s core f fmt hem r
    ((t.lane, v.toNat, p) :: vs, s)

/-- The code of a T6 group's element that a store of it does not name: as it stands, or as it stood when the store issued, which is free
where they differ (R232). Log 10. -/
def neighbourCode (before now sub draw : Nat) : Nat :=
  if t6Get before sub = t6Get now sub then t6Get now sub else if Config.freeBit draw then t6Get before sub else t6Get now sub

/-- A T6 group with the elements that a trigger does not name settled: `mine` are the places that it names. -/
def settleGroup (before now : Nat) (mine : List Nat) (draw : Nat) : Nat :=
  (List.range 4).foldl (fun v i => if mine.contains i then v else setBits v (6 * i) 6 (neighbourCode before now i (draw + i))) now

/-- The elements of a tst with the group of one. -/
def sameGroup (a b : TElem) : Bool := a.place.map (fun e => (e.space, e.addr)) == b.place.map fun e => (e.space, e.addr)

/-- The T6 groups of a tst settled before its codes are written (R232). -/
def settleGroups (s : State) (core f : Nat) (ts : List TElem) : State :=
  ts.foldl (fun s t =>
    let (b, _, s) := bytesOf s core f t.place
    let v := settleGroup t.before (leVal b) ((ts.filter (sameGroup t)).map fun x => x.sub) s.free
    if v = leVal b then s else { bytesPut s core f t.place (leBytes 3 v) with free := s.free + 4 }) s

/-- One code written over its place: a T6 code rewrites its group (R232). -/
def putCode (s : State) (core f fmt : Nat) (place : List Elem) (sub code : Nat) : State :=
  if fmtT6 fmt then
    let (b, _, s) := bytesOf s core f place
    bytesPut s core f place (leBytes 3 (setBits (leVal b) (6 * sub) 6 code))
  else bytesPut s core f place (leBytes ((place.map fun e => e.size).sum) code)

/-- The tensor elements of a block, keyed by its scale byte's place. -/
def sameBlock (a b : TElem) : Bool := a.scale.map (fun e => (e.space, e.addr)) == b.scale.map fun e => (e.space, e.addr)

/-- The value that the lanes of a block leave at a position: +0 where none names it, and one of theirs, which is free, where several do
(R9, R232). Log 10. The choice is made once for the operation, whose bytes may be written at different moments. -/
def positionValue (mine : List TElem) (i draw : Nat) : Word :=
  let cs := mine.filter fun x => decide (x.pos = i)
  ((cs[if cs.length ≤ 1 then 0 else Config.freeNat (draw + i) % cs.length]?).map fun x => x.data).getD 0

/-- One block written by a tst (R232): the positions' values, the scale under R70, the codes and the scale byte; and the flags. -/
def putBlock (s : State) (core f fmt draw : Nat) (ts : List TElem) (t : TElem) : State × Flags :=
  let b := if fmt = 5 then 7 else 5
  let mine := ts.filter (sameBlock t)
  let value (i : Nat) : Word := positionValue mine i draw
  let live := (List.range 32).filter fun i => !((t.positions.getD i []).isEmpty)
  let sc := blockScale (live.map fun i => fRead fp32 (value i).toNat)
  let step (acc : State × Flags) (i : Nat) : State × Flags :=
    let r := encT b sc (fRead fp32 (value i).toNat)
    (putCode acc.1 core f fmt (t.positions.getD i []) (i % 4) r.bits, acc.2 ||| r.flags)
  let (s, fl) := live.foldl step (s, 0)
  (bytesPut s core f t.scale (leBytes 1 (scaleByte sc)), fl)

/-- The elements of a tst that name the first lane of each block. -/
def blockHeads : List TElem → List TElem → List TElem
  | _, [] => []
  | seen, t :: r => if seen.any (sameBlock t) then blockHeads seen r else t :: blockHeads (t :: seen) r

/-- A tst performed (R232): the state and the flags it raises; its elements written before the others stay (R243). Block `k` chooses among
lanes that name one position from `draw + 32 * k` on. -/
def tstPerform (s : State) (core f fmt draw : Nat) (ts : List TElem) : State × Flags :=
  let ts := ts.filter fun t => !t.place.isEmpty
  let written := undone (ts.flatMap fun t => t.place ++ t.positions.flatten ++ t.scale)
  if fmtBlock fmt then
    let (s, fl) := (blockHeads [] ts).zipIdx.foldl (fun (s, fl) t =>
      let (s, x) := putBlock s core f fmt (draw + 32 * t.2) ts t.1; (s, fl ||| x)) (s, 0)
    (clearElems s core f written, fl)
  else
    let s := if fmtT6 fmt then settleGroups s core f ts else s
    let s := ts.foldl (fun s t =>
      let n := (t.place.map fun e => e.size).sum
      putCode s core f fmt t.place t.sub (t.data.toNat % (if fmtT6 fmt then 64 else 256 ^ n))) s
    (clearElems s core f written, 0)

/-! ## Barrier arrivals that waited for earlier accesses (R129, R246) -/

/-- Completions of a barrier object's phases (R129), at most COUNT of them. -/
def barrierRoll : Nat → Barrier → Barrier
  | 0, b => b
  | n + 1, b =>
    if b.count ≥ b.expect ∧ b.expect ≠ 0 then
      barrierRoll n { b with count := b.count - b.expect, phase := (b.phase + 1) % 2 ^ 32, expect := b.nextexp }
    else b

/-- An arrival of a weight on an object, with a new expectation (R129). -/
def barrierArrive (b : Barrier) (w : Nat) (next : Option Nat) : Barrier :=
  let b := match next with
    | some x => { b with nextexp := x, expect := if b.count = 0 then x else b.expect }
    | none => b
  let b := { b with count := b.count + w }
  barrierRoll b.count b

/-- A team's barrier object. -/
def barrierOf (t : Team) (i : Nat) : Barrier :=
  let e := (if t.kd.lw then 2 else 1) * t.kd.ngrp
  tgetD t.barriers i { expect := e, nextexp := e }

/-- One arrival made by a group. -/
def makeArrival (s : State) (gid : Nat) (a : Arrival) : State :=
  let g := groupOf s gid
  let t := teamOf s g.team
  let b := barrierOf t a.bar
  let s := setGroup s gid { g with ap := tset g.ap (32 * a.half + a.bar) b.phase }
  setTeam s g.team { t with barriers := tset t.barriers a.bar (barrierArrive b a.weight a.nextexp) }

/-- Whether an arrival's release lets it be made: every earlier access is performed. -/
def arrivalReady (g : Group) (a : Arrival) : Bool := !a.release || g.ops.all fun o => decide (a.id < o.id)

/-- The arrivals at the head of a group's list that may be made, made in order. -/
def settleArrivals : Nat → State → Nat → State
  | 0, s, _ => s
  | n + 1, s, gid =>
    let g := groupOf s gid
    match g.arrivals with
    | [] => s
    | a :: r =>
      if arrivalReady g a then settleArrivals n (makeArrival (setGroup s gid { g with arrivals := r }) gid a) gid
      else s

/-- The arrivals of a group after one of its accesses has been performed. -/
def afterOp (s : State) (gid : Nat) : State := settleArrivals (groupOf s gid).arrivals.length s gid

/-! ## Performing an operation -/

/-- Every live lane killed by a scalar load of poisoned data is judged by the caller; here the lanes' flags of a tst go to FSTAT. -/
def tstFlags (g : Group) (half : Nat) (f : Flags) : Group :=
  { g with fstat := g.fstat ||| fstatPlace g (16 * half) f }

/-- An outstanding operation performed: its bytes are read and written, its port is filled and its counters fall (R208, R219-R232). A
poisoned scalar load is returned as `true`. -/
def performOp (s : State) (gid : Nat) (op : MemOp) : State × Bool :=
  let g := groupOf s gid
  let t := teamOf s g.team
  let sent := s.tlps.length
  let finish (s : State) (o x : Lanes) (poison : Mask) : State :=
    let s := if op.release && decide (op.scope = 5) then sendOrdered sent s else s
    afterOp (setGroup s gid (opDone (deliverOp (groupOf s gid) op o x poison) op.id op.part)) gid
  match op.kind with
  | .load k =>
    let (rs, s) := readElems s t.core t.func op.elems
    (finish s (laneFill fun l => (loadWords k (readOf rs l).1).1) (laneFill fun l => (loadWords k (readOf rs l).1).2)
      (maskOf fun l => (readOf rs l).2), false)
  | .store k =>
    if stAtomic k then
      let (rs, s) := rmwElems s t.core t.func k op.elems
      (finish s (laneFill fun l => BitVec.ofNat 32 (readOf rs l).1) [] (maskOf fun l => (readOf rs l).2), false)
    else (finish (writeElems s t.core t.func op.elems) [] [] 0, false)
  | .multicast => (finish (writeElems s t.core t.func op.elems) [] [] 0, false)
  | .scalarLoad half sd quad =>
    let (rs, s) := readElems s t.core t.func op.elems
    let v := (readOf rs 0).1
    let g := sput (groupOf s gid) half sd (BitVec.ofNat 64 v)
    let g := if quad then sput g half (sd + 1) (BitVec.ofNat 64 (v / 2 ^ 64)) else g
    (finish (setGroup s gid g) [] [] 0, (readOf rs 0).2)
  | .scalarStore => (finish (writeElems s t.core t.func op.elems) [] [] 0, false)
  | .prefetch => (finish (readElems s t.core t.func op.elems).2 [] [] 0, false)
  | .tensorLoad fmt hem =>
    let (rs, s) := tldLanes s t.core t.func fmt hem op.tensor
    (finish s (laneFill fun l => BitVec.ofNat 32 (readOf rs l).1) [] (maskOf fun l => (readOf rs l).2), false)
  | .tensorStore fmt =>
    let (s, fl) := tstPerform s t.core t.func fmt op.draw op.tensor
    (finish (setGroup s gid (tstFlags (groupOf s gid) op.half fl)) [] [] 0, false)

/-! ## Some elements before the others (R243, R245) -/

/-- Whether an operation stores without reading. -/
def plainStore (k : MemKind) : Bool :=
  match k with
  | .store op => !stAtomic op
  | .multicast | .scalarStore => true
  | .load _ | .scalarLoad _ _ _ | .prefetch | .tensorLoad _ _ | .tensorStore _ => false

/-- One element of a load, store, atomic or multicast performed by itself: it notes what it read. -/
def runElem (s : State) (core f : Nat) (k : MemKind) (e : Elem) : Elem × State :=
  match e.got, k with
  | none, .load _ | none, .tensorLoad _ _ => let (v, s) := readElem s core f e; ({ e with got := some v }, s)
  | none, .store op =>
    if stAtomic op then let (v, s) := rmwElem s core f op e; ({ e with got := some v }, s)
    else ({ e with got := some (0, false) }, placePut s core f e.space e.addr (elemBytes e) false)
  | none, .multicast => ({ e with got := some (0, false) }, placePut s core f e.space e.addr (elemBytes e) false)
  | _, _ => (e, s)

/-- The elements of a list that stand at the named places, counted from `n`, performed in their order. -/
def runElems (s : State) (core f : Nat) (k : MemKind) (ks : List Nat) : Nat → List Elem → List Elem × State
  | _, [] => ([], s)
  | n, e :: r =>
    let (e, s) := if ks.contains n then runElem s core f k e else (e, s)
    let (r, s) := runElems s core f k ks (n + 1) r
    (e :: r, s)

/-- The named elements of a tensor load read. -/
def runTensor (s : State) (core f : Nat) (k : MemKind) (ks : List Nat) : Nat → List TElem → List TElem × State
  | _, [] => ([], s)
  | n, t :: r =>
    let (p, s) := runElems s core f k ks n t.place
    let (q, s) := runElems s core f k ks (n + p.length) t.scale
    let (r, s) := runTensor s core f k ks (n + p.length + q.length + t.positions.flatten.length) r
    ({ t with place := p, scale := q } :: r, s)

/-- The elements of a tensor operation that a test names marked as performed. -/
def markTensor (p : Elem → Bool) (ts : List TElem) : List TElem :=
  let mark (e : Elem) : Elem := if e.got.isNone && p e then { e with got := some (0, false) } else e
  ts.map fun t => { t with place := t.place.map mark, scale := t.scale.map mark, positions := t.positions.map fun es => es.map mark }

/-- The elements of an operation at the named places among all of them, where they are still to be performed. -/
def chosenElems (op : MemOp) (ks : List Nat) : List Elem := undone (ks.filterMap fun k => (allElems op)[k]?)

/-- Whether no element that comes before a chosen one and is still to be performed meets it: the lanes of a trigger access one location in
lane order (R219). -/
def chosenFirst (s : State) (core f : Nat) (op : MemOp) (ks : List Nat) : Bool :=
  let es := op.elems
  (List.range es.length).all fun j => !ks.contains j || (List.range j).all fun i =>
    ks.contains i || match es[i]?, es[j]? with
      | some a, some b => a.got.isSome || b.got.isSome || !elemsMeet s core f a b
      | _, _ => true

/-- Some elements of an outstanding operation performed before the others, where they may be (R243, R245): lanes of a trigger, destinations
of a multicast, single bytes of a T6 group or a block. The operation stays outstanding for the rest. -/
def performSome (s : State) (gid : Nat) (op : MemOp) (ks : List Nat) : State :=
  let t := groupTeam s gid
  let es := chosenElems op ks
  if !opReady s gid { op with elems := es, tensor := [] } || !(es.all (elemOpen s t.core t.func)) || !chosenFirst s t.core t.func op ks then s
  else
    let sent := s.tlps.length
    let hit (e : Elem) : Bool := es.any fun x => decide (x.space = e.space ∧ x.addr = e.addr)
    let (op', s) := match op.kind with
      | .tensorLoad _ _ => let (ts, s) := runTensor s t.core t.func op.kind ks 0 op.tensor; ({ op with tensor := ts }, s)
      | .tensorStore fmt =>
        ({ op with tensor := markTensor hit op.tensor },
          (tstPerform s t.core t.func fmt op.draw (markTensor (fun e => !hit e) op.tensor)).1)
      | .load _ | .store _ | .multicast | .scalarLoad _ _ _ | .scalarStore | .prefetch =>
        let (es, s) := runElems s t.core t.func op.kind ks 0 op.elems; ({ op with elems := es }, s)
    let s := if plainStore op.kind then clearElems s t.core t.func es else s
    let s := if op.release && decide (op.scope = 5) then sendOrdered sent s else s
    let g := groupOf s gid
    setGroup s gid { g with ops := g.ops.map fun o => if o.id = op.id ∧ o.part = op.part then op' else o }

/-- Some elements of a group's operation, named by its number and part, performed before the others. -/
def performElements (s : State) (gid id part : Nat) (ks : List Nat) : State :=
  match (groupOf s gid).ops.find? fun o => decide (o.id = id ∧ o.part = part) && !o.replay with
  | some op => performSome s gid op ks
  | none => s

end Sys2Proof.Machine
end

