-- ==== Sys2Proof/Machine/Pages.lean ====
section
/-!
DEFINITION. Page requests (R213, R214, R358) and accesses by virtual address of agents other than lanes: engines, dispatchers, the
copy engine (R238, R377, R34). Engines translate in user mode and dispatchers in supervisor mode (log 15).
-/

namespace Sys2Proof.Machine

/-! ## The device fault queue (R213, R358) -/

/-- A fault queue entry's 32 bytes (R213). -/
def faultEntry (f : Nat) (r : PageReq) : List Byte :=
  leBytes 8 r.va ++
  leBytes 8 (r.asid + f * 2 ^ 20 + r.kind * 2 ^ 25 + r.level * 2 ^ 27 + r.srck * 2 ^ 29 + r.tag * 2 ^ 32) ++
  leBytes 16 0

/-- Entries of a function's fault queue. -/
def fqSize (x : Func) : Nat := 2 ^ (x.fqLog2n + 4)

/-- Whether the fault queue is full (R358). -/
def fqFull (x : Func) : Bool := decide ((x.fqTail + 2 ^ 16 - x.fqHead) % 2 ^ 16 = fqSize x)

/-- A device request written into the fault queue: the entry, then TAIL, then the message (R358). -/
def writeFault (s : State) (f : Nat) (r : PageReq) : State :=
  let x := funcOf s f
  let n := s.tlps.length
  let s := sendOrdered n (hostSend s f (x.fqbase * 4096 + 32 * (x.fqTail % fqSize x)) .write (faultEntry f r) false)
  sendMsix (setFunc s f { x with fqTail := (x.fqTail + 1) % 2 ^ 16 }) f x.fqVec

/-- The first request of a function that waits for the fault queue. -/
def waitingReq (x : Func) : Option PageReq := x.reqs.find? fun r => r.queued

/-- Waiting requests written while the fault queue has room (R358). -/
def pumpFaults : Nat → State → Nat → State
  | 0, s, _ => s
  | n + 1, s, f =>
    let x := funcOf s f
    match waitingReq x with
    | none => s
    | some r =>
      if fqFull x then s
      else
        let reqs := x.reqs.map fun q => if q.tag = r.tag then { q with queued := false } else q
        pumpFaults n (writeFault (setFunc s f { x with reqs := reqs }) f r) f

/-- A tag that no outstanding request of a function holds. -/
def freeTag (x : Func) : Nat → Nat → Nat
  | 0, t => t % 2 ^ 16
  | n + 1, t => if x.reqs.any fun r => decide (r.tag = t % 2 ^ 16) then freeTag x n (t + 1) else t % 2 ^ 16

/-- A page request raised (R213): its tag and the state. A host page is a PRI request; a device page goes to the fault queue, or waits
while that is full, which sets FEVENT.FQOVF (R358). -/
def raiseReq (s : State) (f asid va level : Nat) (host : Bool) (kind srck : Nat) (who : List Requester) : Nat × State :=
  let x := funcOf s f
  let tag := freeTag x (x.reqs.length + 1) x.nextTag
  let full := !host && (fqFull x || (waitingReq x).isSome)
  let r : PageReq :=
    { tag := tag, host := host, asid := asid, va := va, kind := kind, level := level, srck := srck, who := who, queued := full }
  let s := setFunc s f { x with reqs := x.reqs ++ [r], nextTag := (tag + 1) % 2 ^ 16 }
  (tag, if full then setEvent s f 8 else if host then s else writeFault s f r)

/-! ## Ranges of virtual memory -/

/-- A piece of a range that lies in one page. -/
structure Piece where
  va : Nat
  n : Nat
  frame : Frame
  deriving DecidableEq, Repr

/-- A missing page: the first address met in it, the level its walk stopped at, whether it is a host page, and whether it is to be
written. -/
structure PageMiss where
  va : Nat
  level : Nat
  host : Bool
  write : Bool
  deriving DecidableEq, Repr

/-- Whether two misses are of one page. -/
def samePage (a b : PageMiss) : Bool := decide (missPage a.host a.va = missPage b.host b.va)

/-- A miss added to a list: one per page, which is to be written where any of its misses is. -/
def addMiss (ms : List PageMiss) (m : PageMiss) : List PageMiss :=
  if ms.any (samePage m) then ms.map fun k => if samePage m k then { k with write := k.write || m.write } else k else ms ++ [m]

/-- The request kind of a missing page (R213): write or read. -/
def missKind (m : PageMiss) : Nat := if m.write then 1 else 0

/-- What translating a range comes to: pieces, missing pages, and the first denied address. -/
structure RangeX where
  pieces : List Piece := []
  missing : List PageMiss := []
  denied : Option Nat := none
  deriving DecidableEq, Repr

/-- Translation of a range page by page (R197, R198). -/
def rangeX (s : State) (core f asid va n : Nat) (need : Need) (sup : Bool) : RangeX :=
  if n = 0 then {}
  else
    (xlateRange s core f asid va n need sup).foldl (fun r p =>
      let next := min (va + n) ((p.1 / 4096 + 1) * 4096)
      match p.2 with
      | .ok fr => { r with pieces := r.pieces ++ [{ va := p.1, n := next - p.1, frame := fr }] }
      | .missing pg l h => { r with missing := addMiss r.missing { va := pg, level := l, host := h, write := need.w } }
      | .denied => { r with denied := r.denied.orElse fun _ => some p.1 }) {}

/-- Two translations side by side. -/
def rangeJoin (a b : RangeX) : RangeX :=
  { pieces := a.pieces ++ b.pieces
    missing := b.missing.foldl addMiss a.missing
    denied := a.denied.orElse fun _ => b.denied }

/-- The pages of pieces touched in the TLBs, with A and D (R197). -/
def touchPieces (s : State) (core f asid : Nat) (ps : List Piece) (write : Bool) : State :=
  ps.foldl (fun s p => touchPage s core f asid p.va p.frame write) s

/-- The bytes of pieces, their poison, and the state after the reads. -/
def readPieces (s : State) (core f : Nat) : List Piece → List Byte × Bool × State
  | [] => ([], false, s)
  | p :: r =>
    let (b, q, s) := placeGet s core f p.frame.space p.frame.pa p.n
    let (bs, qs, s) := readPieces s core f r
    (b ++ bs, q || qs, s)

/-- Bytes written over pieces by an agent that is no context, with their poison: no load-block unit keeps them (R207). -/
def writePieces (s : State) (core f : Nat) (poison : Bool) : List Piece → List Byte → State
  | [], _ => s
  | p :: r, b =>
    let k := if p.frame.space = .spad then core else noCore
    writePieces (placePut s k f p.frame.space p.frame.pa (b.take p.n) poison) core f poison r (b.drop p.n)

/-- Whether every piece that lies with a peer can be reached (R363). -/
def piecesOpen (s : State) (f : Nat) (ps : List Piece) : Bool :=
  ps.all fun p => decide (p.frame.space ≠ .peer) || peerOpen s f p.frame.pa p.n none

/-- The bytes at a virtual range that translates, with the poison. -/
def virtRead (s : State) (core f asid va n : Nat) (sup : Bool) : List Byte × Bool × State :=
  let x := rangeX s core f asid va n { rd := true, w := false } sup
  readPieces (touchPieces s core f asid x.pieces false) core f x.pieces

/-- Bytes written at a virtual range, where it translates. -/
def virtWrite (s : State) (core f asid va : Nat) (bytes : List Byte) (sup : Bool) : State :=
  let x := rangeX s core f asid va bytes.length { rd := false, w := true } sup
  writePieces (touchPieces s core f asid x.pieces true) core f false x.pieces bytes

/-- Requests raised for missing pages, whose walks have read their entries (R204): the waits of the requester, and the state. -/
def raiseAll (s : State) (f asid : Nat) (kind : PageMiss → Nat) (srck : Nat) (who : List Requester) : List PageMiss → List PageWait × State
  | [] => ([], s)
  | m :: r =>
    let (tag, s) := raiseReq (walkReads s f asid m.va) f asid m.va m.level m.host (kind m) srck who
    let (ws, s) := raiseAll s f asid kind srck who r
    ({ tag := tag } :: ws, s)

/-- The Polder lines of a scratchpad range that are not present, with the global range each would be filled from. -/
def absentLines (s : State) (core a n : Nat) : List (Nat × PMapEntry × Nat) :=
  if n = 0 then []
  else
    let c := coreOf s core
    ((List.range ((a + n - 1) / 128 - a / 128 + 1)).map fun i => a / 128 + i).filterMap fun l =>
      match tget c.pmap (l / 4), tget c.lines l with
      | some m, none => some (l, m, m.va + 128 * (l % 4))
      | _, _ => none

/-- What an engine's use of a scratchpad range needs of the pages behind Polder ranges (R377): fills need RD, writes W. -/
def spadX (s : State) (core a n : Nat) (write : Bool) : RangeX :=
  let c := coreOf s core
  let fills := (absentLines s core a n).foldl (fun r (_, m, va) =>
    rangeJoin r (rangeX s core m.func m.asid va 128 { rd := true, w := write } false)) ({} : RangeX)
  if !write || n = 0 then fills
  else
    ((List.range ((a + n - 1) / 128 - a / 128 + 1)).map fun i => a / 128 + i).foldl (fun r l =>
      match tget c.pmap (l / 4), tget c.lines l with
      | some m, some x =>
        if rightsOk x.frame { rd := false, w := true } false then r
        else { r with denied := r.denied.orElse fun _ => some (m.va + 128 * (l % 4)) }
      | _, _ => r) fills

end Sys2Proof.Machine
end

