-- ==== Sys2Proof/Machine/Tile.lean ====
section
/-!
DEFINITION. Tile geometry, the command word and what each tile operation computes (spec 19_tile_engine, R262-R279).
-/

namespace Sys2Proof.Machine

/-! ## Stream geometry (R262, R263) -/

/-- The tile geometry of a stream: format, scale format, scale stride, rows and columns. -/
structure Geo where
  fmt : Nat
  sfmt : Nat
  sstr : Nat
  rows : Nat
  cols : Nat
  deriving DecidableEq, Repr

/-- The geometry in a QW0. -/
def geoOf (q : DWord) : Geo :=
  let x := q.toNat
  { fmt := bits x 42 4, sfmt := bits x 46 2, sstr := bits x 48 8, rows := bits x 28 7 + 1, cols := bits x 35 7 + 1 }

/-- CAP. -/
def qCap (q : DWord) : Nat := bits q.toNat 20 8

/-- BASE. -/
def qBase (q : DWord) : Nat := bits q.toNat 0 20

/-- Quarter bytes of an element (R263). -/
def quarterBytes (fmt : Nat) : Nat :=
  match fmt with
  | 0 => 16
  | 1 => 8
  | 2 => 8
  | 3 => 4
  | 5 => 4
  | 4 => 3
  | 6 => 3
  | _ => 16

/-- RSTR (R263). -/
def rowStride (g : Geo) : Nat := 16 * ((g.cols * quarterBytes g.fmt + 63) / 64)

/-- TBYTES (R263). -/
def tileBytes (g : Geo) : Nat := 256 * ((g.rows * rowStride g + g.rows * g.sstr + 255) / 256)

/-- The team offset of the slot of tile number `n` (R263). -/
def slotOff (q : DWord) (n : Nat) : Nat := qBase q + n % qCap q * tileBytes (geoOf q)

/-- The cause of a QW0 write that fails a check of R264. -/
def qw0Check (t : Team) (v : DWord) : Option Nat :=
  let g := geoOf v
  if bits v.toNat 56 8 ≠ 0 ∨ g.sfmt ≥ 2 then some 1
  else if g.fmt ≥ 7 ∨ qBase v % 256 ≠ 0 ∨ (g.sfmt = 1 ∧ !fmtBlock g.fmt) ∨ (g.sfmt = 0 ∧ fmtBlock g.fmt) ∨
      (g.sfmt = 1 ∧ g.sstr < (g.cols + 31) / 32) ∨ (g.sfmt = 0 ∧ g.sstr ≠ 0) ∨
      (fmtBlock g.fmt ∧ g.cols % 32 ≠ 0) ∨ (g.fmt = 4 ∧ g.cols % 4 ≠ 0) ∨
      qBase v + qCap v * tileBytes g > t.kd.spkb * 1024 then some 2
  else none

/-- A QW1 value whose occupancy exceeds CAP (R264). -/
def qw1Bad (x : Stream) (v : DWord) : Bool :=
  decide ((bits v.toNat 32 32 + 2 ^ 32 - bits v.toNat 0 32) % 2 ^ 32 > qCap x.qw0)

/-! ## The command word (R268, R269) -/

/-- ACC. -/
def cAcc (lo : DWord) : Nat := bits lo.toNat 0 5
/-- ACC2. -/
def cAcc2 (lo : DWord) : Nat := bits lo.toNat 5 5
/-- ACC3. -/
def cAcc3 (lo : DWord) : Nat := bits lo.toNat 10 5
/-- QA. -/
def cQA (lo : DWord) : Nat := bits lo.toNat 15 4
/-- QB. -/
def cQB (lo : DWord) : Nat := bits lo.toNat 19 4
/-- QO. -/
def cQO (lo : DWord) : Nat := bits lo.toNat 23 4
/-- M. -/
def cM (lo : DWord) : Nat := bits lo.toNat 27 7 + 1
/-- N. -/
def cN (lo : DWord) : Nat := bits lo.toNat 34 7 + 1
/-- CLR. -/
def cCLR (lo : DWord) : Bool := lo.getLsbD 41
/-- TA. -/
def cTA (lo : DWord) : Bool := lo.getLsbD 42
/-- TB. -/
def cTB (lo : DWord) : Bool := lo.getLsbD 43
/-- KEEPA. -/
def cKeepA (lo : DWord) : Bool := lo.getLsbD 44
/-- KEEPB. -/
def cKeepB (lo : DWord) : Bool := lo.getLsbD 45
/-- SB. -/
def cSB (lo : DWord) : Bool := lo.getLsbD 46
/-- SIG. -/
def cSIG (lo : DWord) : Bool := lo.getLsbD 47
/-- BAR. -/
def cBAR (lo : DWord) : Nat := bits lo.toNat 48 5
/-- RFLG of operand 0 (A), 1 (B) or 2 (C). -/
def cRflg (lo : DWord) (i : Nat) : Nat := bits lo.toNat (53 + 2 * i) 2

/-- RSC, SCL or XLO: the FP32 pattern in the low half of the high word. -/
def hRSC (hi : DWord) : Nat := bits hi.toNat 0 32
/-- Team offset of the bias vector. -/
def hBias (hi : DWord) : Nat := 16 * bits hi.toNat 32 16
/-- BE. -/
def hBE (hi : DWord) : Bool := hi.getLsbD 48
/-- AE. -/
def hAE (hi : DWord) : Bool := hi.getLsbD 49
/-- QE. -/
def hQE (hi : DWord) : Bool := hi.getLsbD 50
/-- TAB of TOUT. -/
def hTab (hi : DWord) : Nat := bits hi.toNat 51 3
/-- TBL of TFILL. -/
def hTBL (hi : DWord) : Bool := hi.getLsbD 59
/-- W of a table load. -/
def hW (hi : DWord) : Int := signedOf 8 (bits hi.toNat 32 8)
/-- TAB of a table load. -/
def hLoadTab (hi : DWord) : Nat := bits hi.toNat 40 3
/-- Team offset of a table load's entries. -/
def hLoadOff (hi : DWord) : Nat := 16 * bits hi.toNat 43 16

/-- A TFILL that loads a table. -/
def isTableLoad (op : MxOp) (hi : DWord) : Bool := op == .tfill && hTBL hi

/-- Whether TEW takes its operand B from a stream. -/
def tewStream (op : MxOp) (lo : DWord) : Bool := (op == .tewadd || op == .tewmul) && !cSB lo

/-- The fields of bits 63:0 that an opcode uses, besides RFLG and SIG (R269): (position, width). -/
def usedFields (op : MxOp) (lo hi : DWord) : List (Nat × Nat) :=
  let region := [(27, 7), (34, 7)]
  match op with
  | .tmma => [(0, 5), (15, 4), (19, 4), (41, 1), (42, 1), (43, 1), (44, 1), (45, 1)] ++ region
  | .tout => [(0, 5), (23, 4)] ++ region
  | .tfill => if hTBL hi then [] else [(0, 5), (15, 4), (44, 1)] ++ region
  | .tzero => [(0, 5)] ++ region
  | .tewadd | .tewmul => [(0, 5), (5, 5), (46, 1)] ++ region ++ if cSB lo then [(10, 5)] else [(45, 1), (19, 4)]
  | .tewscale | .ttrn => [(0, 5), (5, 5)] ++ region
  | .tredrow | .tredcol => [(0, 5), (5, 5), (41, 1)] ++ region
  | .mxfence | .qadv => []

/-- A field of bits 63:0 that the opcode does not use is nonzero (R267, R269). -/
def loBad (op : MxOp) (lo hi : DWord) : Bool :=
  let always := if isTableLoad op hi then [] else [(53, 6), (47, 1)] ++ if cSIG lo then [(48, 5)] else []
  decide ((usedFields op lo hi ++ always).foldl (fun x f => setBits x f.1 f.2 0) lo.toNat ≠ 0)

/-- A reserved bit of bits 127:64 is nonzero (R268). -/
def hiBad (op : MxOp) (hi : DWord) : Bool :=
  match op with
  | .tout => decide (bits hi.toNat 54 10 ≠ 0)
  | .tewscale => decide (bits hi.toNat 32 32 ≠ 0)
  | .tfill => decide (bits hi.toNat 60 4 ≠ 0) || (!hTBL hi && decide (bits hi.toNat 0 59 ≠ 0))
  | .tmma | .tzero | .tewadd | .tewmul | .tredrow | .tredcol | .ttrn | .mxfence | .qadv => decide (hi ≠ 0)

/-- The operand streams a command names, with whether each is popped (R265). -/
def popStreams (op : MxOp) (lo hi : DWord) : List (Nat × Bool) :=
  match op with
  | .tmma => [(cQA lo, !cKeepA lo), (cQB lo, !cKeepB lo)]
  | .tfill => if hTBL hi then [] else [(cQA lo, !cKeepA lo)]
  | .tewadd | .tewmul => if cSB lo then [] else [(cQB lo, !cKeepB lo)]
  | .tout | .tzero | .tewscale | .tredrow | .tredcol | .ttrn | .mxfence | .qadv => []

/-- The output stream of a command. -/
def pushStream (op : MxOp) (lo : DWord) : Option Nat := if op = .tout then some (cQO lo) else none

/-- Every stream a command names. -/
def namedStreams (op : MxOp) (lo hi : DWord) : List Nat := (popStreams op lo hi).map Prod.fst ++ (pushStream op lo).toList

/-- FP16 and BF16 (R270). -/
def fmtWide (fmt : Nat) : Bool := fmt == 1 || fmt == 2

/-- T8, T6, T8B32 and T6B32 (R270). -/
def fmtNarrow (fmt : Nat) : Bool := fmt == 3 || fmt == 4 || fmt == 5 || fmt == 6

/-- Kt of a TMMA from A's geometry. -/
def tmmaK (lo : DWord) (a : Geo) : Nat := if cTA lo then a.rows else a.cols

/-- Geometry and formats that an opcode requires (R269, R270): the stream at fault, 0 where none is concerned. -/
def geoCheck (t : Team) (op : MxOp) (lo hi : DWord) : Option Nat :=
  let q (n : Nat) : DWord := (streamOf t n).qw0
  let a := geoOf (q (cQA lo))
  let b := geoOf (q (cQB lo))
  let o := geoOf (q (cQO lo))
  let m := cM lo
  let n := cN lo
  match (namedStreams op lo hi).find? fun x => decide (qCap (q x) = 0) with
  | some x => some x
  | none =>
    match op with
    | .tmma =>
      let k := tmmaK lo a
      if cQA lo = cQB lo then some (cQB lo)
      else if (if cTA lo then a.cols else a.rows) ≠ m ∨ (k ≠ 32 ∧ k ≠ 64 ∧ k ≠ 96 ∧ k ≠ 128) ∨
          !((fmtWide a.fmt && fmtWide b.fmt) || (fmtNarrow a.fmt && fmtNarrow b.fmt)) then some (cQA lo)
      else if (if cTB lo then b.cols else b.rows) ≠ k ∨ (if cTB lo then b.rows else b.cols) ≠ n then some (cQB lo)
      else none
    | .tout => if o.rows = m ∧ o.cols = n then none else some (cQO lo)
    | .tfill => if hTBL hi ∨ (a.rows = m ∧ a.cols = n) then none else some (cQA lo)
    | .tewadd | .tewmul => if cSB lo ∨ (b.rows = m ∧ b.cols = n) then none else some (cQB lo)
    | .tzero | .tewscale | .tredrow | .tredcol | .ttrn | .mxfence | .qadv => none

/-! ## Reading tiles (R65, R69-R72, R272) -/

/-- The code of element (i, j) of a tile at an address. -/
def codeAt (v : Nat → Byte) (base : Nat) (g : Geo) (i j : Nat) : Nat :=
  let row := base + i * rowStride g
  let le (a n : Nat) : Nat := leVal ((List.range n).map fun k => v (a + k))
  match g.fmt with
  | 0 => le (row + 4 * j) 4
  | 1 => le (row + 2 * j) 2
  | 2 => le (row + 2 * j) 2
  | 3 => le (row + j) 1
  | 5 => le (row + j) 1
  | _ => bits (le (row + 3 * (j / 4)) 3) (6 * (j % 4)) 6

/-- The scale byte of the block of element (i, j) (R263). -/
def scaleAt (v : Nat → Byte) (base : Nat) (g : Geo) (i j : Nat) : Nat :=
  (v (base + g.rows * rowStride g + i * g.sstr + j / 32)).toNat

/-- The body width of a tapered format. -/
def bodyWidth (fmt : Nat) : Nat := if fmt = 3 ∨ fmt = 5 then 7 else 5

/-- The block scale of an element: 0 where its format has none, none for the block NaR. -/
def elemScale (v : Nat → Byte) (base : Nat) (g : Geo) (i j : Nat) : Option Int :=
  if fmtBlock g.fmt then scaleOf (scaleAt v base g i j) else some 0

/-- The operand value of an element: an unscaled value and its block scale (R70, R72). -/
def elemVal (v : Nat → Byte) (base : Nat) (g : Geo) (i j : Nat) : FVal × Int :=
  let c := codeAt v base g i j
  match g.fmt with
  | 0 => (fRead fp32 c, 0)
  | 1 => (fRead fp16 c, 0)
  | 2 => (fRead bf16 c, 0)
  | _ =>
    match elemScale v base g i j, decT (bodyWidth g.fmt) c with
    | some s, .fin n m e => (.fin n m e, s)
    | _, _ => (.nan false, 0)

/-- An element converted to FP32 (R71, R272). -/
def elemFill (v : Nat → Byte) (base : Nat) (g : Geo) (i j : Nat) : FRes :=
  let c := codeAt v base g i j
  match g.fmt with
  | 0 => { bits := c, flags := 0 }
  | 1 => { bits := (fConvert fp16 fp32 .rn c).bits, flags := 0 }
  | 2 => { bits := (fConvert bf16 fp32 .rn c).bits, flags := 0 }
  | _ =>
    match elemScale v base g i j with
    | some s => decTTo fp32 (bodyWidth g.fmt) s c
    | none => { bits := qnan fp32, flags := fINV }

/-! ## Writing tiles (R66, R70, R276) -/

/-- A value rounded to an IEEE format; a NaN gives the canonical NaN and no flag. -/
def ieeeOf (f : Fmt) (v : FVal) : FRes :=
  match v with
  | .nan _ => { bits := qnan f, flags := 0 }
  | .inf n => { bits := fSigned f n (fmtInf f), flags := 0 }
  | .fin n m e => if m = 0 then { bits := fSigned f n 0, flags := 0 } else roundMag f .rn n m e false

/-- The codes of one row in a format, its scale bytes, and the flags. -/
def encodeRow (fmt : Nat) (ys : List FVal) : List Nat × List Nat × Flags :=
  let plain (f : FVal → FRes) : List Nat × List Nat × Flags :=
    let rs := ys.map f
    (rs.map fun r => r.bits, [], rs.foldl (fun a r => a ||| r.flags) 0)
  match fmt with
  | 0 => plain (ieeeOf fp32)
  | 1 => plain (ieeeOf fp16)
  | 2 => plain (ieeeOf bf16)
  | 3 => plain (encT 7 0)
  | 4 => plain (encT 5 0)
  | _ =>
    let blocks := (List.range ((ys.length + 31) / 32)).map fun b => (ys.drop (32 * b)).take 32
    let scales := blocks.map blockScale
    let rs := (blocks.zip scales).flatMap fun b => b.1.map (encT (bodyWidth fmt) b.2)
    (rs.map fun r => r.bits, scales.map scaleByte, rs.foldl (fun a r => a ||| r.flags) 0)

/-- Codes packed in a row's bytes (R65). -/
def packCodes (fmt : Nat) (cs : List Nat) : List Byte :=
  match fmt with
  | 0 => cs.flatMap (leBytes 4)
  | 1 => cs.flatMap (leBytes 2)
  | 2 => cs.flatMap (leBytes 2)
  | 3 => cs.flatMap (leBytes 1)
  | 5 => cs.flatMap (leBytes 1)
  | _ =>
    (List.range ((cs.length + 3) / 4)).flatMap fun k =>
      leBytes 3 ((List.range 4).foldl (fun a i => a + cs.getD (4 * k + i) 0 * 2 ^ (6 * i)) 0)

/-- Bytes with their addresses. -/
def addrBytes (a : Nat) (b : List Byte) : List (Nat × Byte) := (List.range b.length).zip b |>.map fun p => (a + p.1, p.2)

/-- A tile's rows written at an address: the bytes and the flags. -/
def encodeTile (base : Nat) (g : Geo) (rows : List (List FVal)) : List (Nat × Byte) × Flags :=
  ((List.range rows.length).zip rows).foldl (fun acc p =>
    let (cs, ss, f) := encodeRow g.fmt p.2
    (acc.1 ++ addrBytes (base + p.1 * rowStride g) (packCodes g.fmt cs) ++
        addrBytes (base + g.rows * rowStride g + p.1 * g.sstr) (ss.flatMap (leBytes 1)),
      acc.2 ||| f)) ([], 0)

/-! ## Accumulators (R206) -/

/-- A tile as a team sees it: +0 everywhere where another team wrote it last. -/
def accTile (c : Core) (team i : Nat) : Table Word :=
  let a := tgetD c.acc i {}
  if a.owner = some team then a.elems else []

/-- The elements of a tile that hold an uncorrectable error, as a team sees it (R206, R368). -/
def accErrors (c : Core) (team i : Nat) : List Nat :=
  let a := tgetD c.acc i {}
  if a.owner = some team then a.poison else []

/-- An element of an accumulator. -/
def accAt (t : Table Word) (i j : Nat) : Word := tgetD t (128 * i + j) 0

/-- Elements written to an accumulator; +0 is not listed. -/
def accPut (t : Table Word) (ws : List (Nat × Word)) : Table Word :=
  ws.foldl (fun t w => if w.2 = 0 then tdel t w.1 else tset t w.1 w.2) t

/-- An accumulator owned by a team, other contents reset (R206). -/
def accTake (c : Core) (team i : Nat) : Core :=
  { c with acc := tset c.acc i { owner := some team, elems := accTile c team i, poison := accErrors c team i } }

/-- Elements of an accumulator written by a team. -/
def accWrite (c : Core) (team i : Nat) (ws : List (Nat × Word)) : Core :=
  let t : AccTile :=
    { owner := some team, elems := accPut (accTile c team i) ws
      poison := (accErrors c team i).filter fun k => ws.all fun w => decide (w.1 ≠ k) }
  { c with acc := tset c.acc i t }

/-- The pairs (i, j) of a region, row by row. -/
def regionOf (m n : Nat) : List (Nat × Nat) := (List.range m).flatMap fun i => (List.range n).map fun j => (i, j)

/-! ## Activation tables (R277, R278) -/

/-- An FP32 value of a table: 4 x entry + 0 FA, 1 FB, 2 DA, 3 DB; +0 for another team's table. -/
def actVal (t : ActTable) (team entry k : Nat) : Nat :=
  if t.owner = some team then (tgetD t.vals (4 * entry + k) 0).toNat else 0

/-- floor of an exact value times 2^-w, saturated to 0-255. -/
def actFloor (v : Option (Bool × Nat × Int)) (w : Int) : Nat :=
  match v with
  | none => 0
  | some (neg, m, e) =>
    if neg then 0
    else
      let e := e - w
      min 255 (if e ≥ 0 then m * 2 ^ (min e 2048).toNat else m / 2 ^ (-e).toNat)

/-- The entry of a table for a value that is no NaN (R277). -/
def actIndex (t : ActTable) (team : Nat) (x : FVal) : Nat :=
  let own := decide (t.owner = some team)
  match x, fRead fp32 (if own then t.xlo.toNat else 0) with
  | .inf n, _ => if n then 0 else 255
  | .fin n m e, .fin n2 m2 e2 => actFloor (exactSum n m e (!n2) m2 e2) (if own then t.w else 0)
  | _, _ => 0

/-- act(t, x), or act'(t, x) with `d` (R277, R279). -/
def actApply (t : ActTable) (team : Nat) (d : Bool) (x : Nat) : FRes :=
  let v := fRead fp32 x
  if fNaN v then { bits := qnan fp32, flags := 0 }
  else
    let i := actIndex t team v
    let a := fRead fp32 (actVal t team i (if d then 2 else 0))
    let b := fRead fp32 (actVal t team i (if d then 3 else 1))
    if fNaN a || fNaN b then { bits := qnan fp32, flags := 0 }
    else match exactProduct a v with
      | none => fAddVal fp32 .rn (.fin false 0 0) b
      | some p => fAddVal fp32 .rn p b

/-! ## What a tile operation computes (R271-R278) -/

/-- The effect of a tile operation: elements of its destination accumulator, bytes of the scratchpad by address, a table, and flags. -/
structure TileRes where
  acc : Option (Nat × List (Nat × Word)) := none
  bytes : List (Nat × Byte) := []
  table : Option (Nat × ActTable) := none
  flags : Flags := 0
  deriving DecidableEq, Repr

/-- Elements with their flags. -/
def elemsRes (acc : Nat) (rs : List (Nat × FRes)) : TileRes :=
  { acc := some (acc, rs.map fun r => (r.1, BitVec.ofNat 32 r.2.bits)), flags := rs.foldl (fun f r => f ||| r.2.flags) 0 }

/-- The chunks of K (R270): start and length. -/
def kChunks (narrow : Bool) (k : Nat) : List (Nat × Nat) :=
  let n := if narrow then 64 else 32
  (List.range ((k + n - 1) / n)).map fun i => (n * i, min n (k - n * i))

/-- A sum of products by chunks (R271, R299). -/
def chunkSum (acc : Nat) (chunks : List (Nat × Nat)) (p : Nat → PVal) : FRes :=
  chunks.foldl (fun r c =>
    let x := chunkRes r.bits ((List.range c.2).map fun i => p (c.1 + i))
    { bits := x.bits, flags := r.flags ||| x.flags }) { bits := acc, flags := 0 }

/-- The product of two operand values with their scales. -/
def operandProduct (a b : FVal × Int) : PVal := chunkProduct a.1 b.1 (a.2 + b.2)

/-- A value as a product by itself. -/
def plainProduct (a : Nat) : PVal := chunkProduct (fRead fp32 a) (.fin false 1 0) 0

/-- What an engine command reads: bytes of the scratchpad by core address, the core's accumulators and tables, and the slot addresses
of its operand streams. -/
structure TileView where
  byte : Nat → Byte
  core : Core
  team : Nat
  tm : Team
  slot : Nat → Nat

/-- TMMA (R271). -/
def tmmaRes (v : TileView) (lo : DWord) : TileRes :=
  let ga := geoOf (streamOf v.tm (cQA lo)).qw0
  let gb := geoOf (streamOf v.tm (cQB lo)).qw0
  let pa := v.slot (cQA lo)
  let pb := v.slot (cQB lo)
  let c := accTile v.core v.team (cAcc lo)
  let ks := kChunks (fmtNarrow ga.fmt) (tmmaK lo ga)
  let a (i k : Nat) := if cTA lo then elemVal v.byte pa ga k i else elemVal v.byte pa ga i k
  let b (k j : Nat) := if cTB lo then elemVal v.byte pb gb j k else elemVal v.byte pb gb k j
  elemsRes (cAcc lo) ((regionOf (cM lo) (cN lo)).map fun p =>
    (128 * p.1 + p.2, chunkSum (if cCLR lo then 0 else (accAt c p.1 p.2).toNat) ks fun k => operandProduct (a p.1 k) (b k p.2)))

/-- Operand B of TEW.ADD and TEW.MUL (R274). -/
def tewB (v : TileView) (lo : DWord) (i j : Nat) : FRes :=
  if cSB lo then { bits := (accAt (accTile v.core v.team (cAcc3 lo)) i j).toNat, flags := 0 }
  else elemFill v.byte (v.slot (cQB lo)) (geoOf (streamOf v.tm (cQB lo)).qw0) i j

/-- TEW (R274). -/
def tewRes (v : TileView) (op : MxOp) (lo hi : DWord) : TileRes :=
  let a2 := accTile v.core v.team (cAcc2 lo)
  elemsRes (cAcc lo) ((regionOf (cM lo) (cN lo)).map fun p =>
    let x := (accAt a2 p.1 p.2).toNat
    let b := if op = .tewscale then { bits := hRSC hi, flags := 0 } else tewB v lo p.1 p.2
    let r := if op = .tewadd then chunkRes x [plainProduct b.bits]
      else chunkRes 0 [chunkProduct (fRead fp32 x) (fRead fp32 b.bits) 0]
    (128 * p.1 + p.2, { r with flags := r.flags ||| b.flags }))

/-- TRED (R275). -/
def tredRes (v : TileView) (op : MxOp) (lo : DWord) : TileRes :=
  let a2 := accTile v.core v.team (cAcc2 lo)
  let c := accTile v.core v.team (cAcc lo)
  let row := op == .tredrow
  let outer := if row then cM lo else cN lo
  let inner := if row then cN lo else cM lo
  elemsRes (cAcc lo) ((List.range outer).map fun i =>
    let key := if row then 128 * i else i
    let x (k : Nat) := if row then accAt a2 i k else accAt a2 k i
    (key, chunkSum (if cCLR lo then 0 else (tgetD c key 0).toNat) (kChunks false inner) fun k => plainProduct (x k).toNat))

/-- The chain of TOUT on one element (R276): the value to encode and the flags. -/
def toutChain (v : TileView) (hi : DWord) (bias : Nat → Nat) (x j : Nat) : FVal × Flags :=
  let r1 : FRes := if hBE hi then chunkRes x [plainProduct (bias j)] else { bits := x, flags := 0 }
  let r2 : FRes := if hAE hi then actApply (tgetD v.core.tables (hTab hi) {}) v.team false r1.bits else { bits := r1.bits, flags := 0 }
  let f := r1.flags ||| r2.flags
  let y := fRead fp32 r2.bits
  if hQE hi then
    match exactProduct y (fRead fp32 (hRSC hi)) with
    | none => (.nan false, f ||| fINV)
    | some p => (p, f)
  else (y, f)

/-- TOUT (R276): the output tile's bytes. -/
def toutRes (v : TileView) (lo hi : DWord) : TileRes :=
  let c := accTile v.core v.team (cAcc lo)
  let g := geoOf (streamOf v.tm (cQO lo)).qw0
  let bias (j : Nat) : Nat := leVal ((List.range 4).map fun k => v.byte (v.tm.spBase + hBias hi + 4 * j + k))
  let rows := (List.range (cM lo)).map fun i => (List.range (cN lo)).map fun j => toutChain v hi bias (accAt c i j).toNat j
  let f := rows.foldl (fun a r => r.foldl (fun a e => a ||| e.2) a) 0
  let (b, f2) := encodeTile (v.slot (cQO lo)) g (rows.map fun r => r.map Prod.fst)
  { bytes := b, flags := f ||| f2 }

/-- A table load (R278). -/
def tableRes (v : TileView) (hi : DWord) : TileRes :=
  let word (k : Nat) : Word := BitVec.ofNat 32 (leVal ((List.range 4).map fun i => v.byte (v.tm.spBase + hLoadOff hi + 4 * k + i)))
  let vals := ((List.range 1024).map fun k => (k, word k)).filter fun p => decide (p.2 ≠ 0)
  { table := some (hLoadTab hi, { owner := some v.team, xlo := BitVec.ofNat 32 (hRSC hi), w := hW hi, vals := vals }) }

/-- What a tile opcode computes. -/
def tileRes (v : TileView) (op : MxOp) (lo hi : DWord) : TileRes :=
  match op with
  | .tmma => tmmaRes v lo
  | .tout => toutRes v lo hi
  | .tfill =>
    if hTBL hi then tableRes v hi
    else
      let g := geoOf (streamOf v.tm (cQA lo)).qw0
      elemsRes (cAcc lo) ((regionOf (cM lo) (cN lo)).map fun p => (128 * p.1 + p.2, elemFill v.byte (v.slot (cQA lo)) g p.1 p.2))
  | .tzero => { acc := some (cAcc lo, (regionOf (cM lo) (cN lo)).map fun p => (128 * p.1 + p.2, 0)) }
  | .tewadd | .tewmul | .tewscale => tewRes v op lo hi
  | .tredrow | .tredcol => tredRes v op lo
  | .ttrn =>
    let a2 := accTile v.core v.team (cAcc2 lo)
    { acc := some (cAcc lo, (regionOf (cM lo) (cN lo)).map fun p => (128 * p.2 + p.1, accAt a2 p.1 p.2)) }
  | .mxfence | .qadv => {}

end Sys2Proof.Machine
end

