-- ==== Sys2Proof/Machine/Matrix.lean ====
section
/-!
DEFINITION. The matrix engine (spec 19_tile_engine R261, R265-R286, R377) and what it logs (spec 21_record_reverse R291-R296):
submission checks, acceptance, starting, retiring, batches.
-/

namespace Sys2Proof.Machine

/-! ## The Lining's entries (R292-R296, R302) -/

/-- A segment is open. -/
def segmentOpen (t : Team) : Bool := t.lnSt == 1

/-- A REVERSE is unfinished. -/
def reversing (t : Team) : Bool := t.lnSt == 3

/-- An accumulator's descriptor without FLAG (R296). -/
def descAcc (i rows cols : Nat) : Nat := 2 ^ 61 + i * 2 ^ 56 + (cols - 1) * 2 ^ 35 + (rows - 1) * 2 ^ 28

/-- A stream tile's descriptor without FLAG and OFF. -/
def descStream (g : Geo) : Nat :=
  g.fmt * 2 ^ 52 + g.sfmt * 2 ^ 50 + g.sstr * 2 ^ 42 + (g.cols - 1) * 2 ^ 35 + (g.rows - 1) * 2 ^ 28

/-- The bias vector's descriptor without FLAG: N FP32 values in one row. -/
def descBias (off n : Nat) : Nat := (n - 1) * 2 ^ 35 + off

/-- Operands A, B, C of a command without FLAG and without the OFF of stream tiles (R292, R296); 0 for one the opcode lacks. -/
def operandDescs (t : Team) (op : MxOp) (lo hi : DWord) : List Nat :=
  let m := cM lo
  let n := cN lo
  let st (q : Nat) := descStream (geoOf (streamOf t q).qw0)
  let acc := descAcc (cAcc lo) m n
  match op with
  | .tmma => [st (cQA lo), st (cQB lo), acc]
  | .tout => [acc, if hBE hi then descBias (hBias hi) n else 0, st (cQO lo)]
  | .tfill => [st (cQA lo), 0, acc]
  | .tzero => [0, 0, acc]
  | .tewadd | .tewmul => [descAcc (cAcc2 lo) m n, if cSB lo then descAcc (cAcc3 lo) m n else st (cQB lo), acc]
  | .tewscale | .tredrow | .tredcol => [descAcc (cAcc2 lo) m n, 0, acc]
  | .ttrn => [descAcc (cAcc2 lo) m n, 0, descAcc (cAcc lo) n m]
  | .mxfence | .qadv => [0, 0, 0]

/-- Which of A and B the adjoint needs (R292). -/
def neededOperands (op : MxOp) (hi : DWord) : Bool × Bool :=
  match op with
  | .tmma => (true, true)
  | .tout => (hAE hi, hAE hi && hBE hi)
  | .tewmul => (true, true)
  | .tfill | .tzero | .tewadd | .tewscale | .tredrow | .tredcol | .ttrn | .mxfence | .qadv => (false, false)

/-- Payload bytes of a saved operand (R294). -/
def payloadBytes (t : Team) (op : MxOp) (lo : DWord) (b : Bool) : Nat :=
  let st (q : Nat) := tileBytes (geoOf (streamOf t q).qw0)
  let region := 4 * cM lo * cN lo
  match op, b with
  | .tmma, false => st (cQA lo)
  | .tmma, true => st (cQB lo)
  | .tout, false => region
  | .tout, true => 4 * cN lo
  | .tfill, _ => st (cQA lo)
  | .tewadd, true | .tewmul, true => if cSB lo then region else st (cQB lo)
  | _, _ => region

/-- The size z of an entry in 64-byte units (R294). -/
def entrySize (t : Team) (op : MxOp) (lo : DWord) : Nat :=
  let u (b : Bool) := (payloadBytes t op lo b + 63) / 64
  1 + (if cRflg lo 0 = 1 then u false else 0) + if cRflg lo 1 = 1 then u true else 0

/-- Forward cycles of an entry as R302 counts a re-execution (R261). -/
def forwardCycles (op : MxOp) (k : Nat) (narrow : Bool) : Nat :=
  match op with
  | .tmma => (if narrow then 16 else 32) * (k / 32)
  | .tzero => 32
  | _ => 128

/-- ACYC and MCYC of an entry (R302). -/
def adjointCycles (op : MxOp) (k : Nat) (narrow : Bool) : Nat × Nat :=
  match op with
  | .tmma => let n := if narrow then k else 2 * k; (n, n)
  | .tzero => (32, 0)
  | _ => (128, 0)

/-- The mx operation of a tile opcode (R106). -/
def tileOpOf (n : Nat) : Option MxOp :=
  [MxOp.tmma, .tout, .tfill, .tzero, .tewadd, .tewmul, .tewscale, .tredrow, .tredcol, .ttrn][n]?

/-- The number of a tile opcode. -/
def tileOpNum (op : MxOp) : Nat :=
  match op with
  | .tmma => 0
  | .tout => 1
  | .tfill => 2
  | .tzero => 3
  | .tewadd => 4
  | .tewmul => 5
  | .tewscale => 6
  | .tredrow => 7
  | .tredcol => 8
  | .ttrn => 9
  | .mxfence => 10
  | .qadv => 11

/-- K and narrowness of a logged TMMA from its descriptor of A. -/
def descK (lo : DWord) (a : Nat) : Nat × Bool :=
  (if cTA lo then bits a 28 7 + 1 else bits a 35 7 + 1, fmtNarrow (bits a 52 4))

/-- The last of some writes' byte at a virtual address. -/
def lateByte (ws : List LateWrite) (a : Nat) : Option Byte :=
  (ws.reverse.find? fun w => decide (w.va ≤ a ∧ a < w.va + w.bytes.length)).map fun w => w.bytes.getD (a - w.va) 0

/-- The Lining bytes that a team's commands have yet to perform, oldest first (R255). -/
def lateWrites (t : Team) : List LateWrite := (t.batches.flatMap fun b => b.lining) ++ t.openBatch.lining

/-- Lining bytes as the engine reads them: as memory holds them, with what the team's earlier commands wrote (R255); and their poison. -/
def lnRead (s : State) (t : Team) (off n : Nat) : List Byte × Bool :=
  let a := t.lnBase + 64 * off
  let (b, p, _) := virtRead s t.core t.func t.asid a n false
  let ws := lateWrites t
  ((List.range b.length).map fun i => (lateByte ws (a + i)).getD (b.getD i 0),
    p || ws.any fun w => w.poison && decide (w.va < a + n ∧ a < w.va + w.bytes.length))

/-- The words of a Lining entry's header (R295). -/
def lnHeader (s : State) (t : Team) (off : Nat) : List DWord :=
  let b := (lnRead s t off 64).1
  (List.range 8).map fun i => BitVec.ofNat 64 (wordAt b i)

/-- The header of the preceding entry of the next command logged (R293): the one last accepted, or, after a write of LNHEAD, the one
that stands in the Lining at CUR. -/
def precedingHeader (s : State) (t : Team) : Option (List DWord) :=
  if t.lnHead = 0 then none else if t.lnFresh then some (lnHeader s t t.lnCur) else t.lnPrev

/-- Whether operand `b` may be flagged recompute (R293): the preceding entry can be re-executed to give it. -/
def recomputeOk (t : Team) (op : MxOp) (lo hi : DWord) (b : Bool) (prev : Option (List DWord)) : Bool :=
  match prev with
  | none => false
  | some h =>
    let pop := tileOpOf (bits (h.getD 0 0).toNat 0 8)
    let plo := h.getD 1 0
    let phi := h.getD 2 0
    let mine := (operandDescs t op lo hi).getD (if b then 1 else 0) 0
    let dest := (h.getD 5 0).toNat
    let flag (i : Nat) := bits (h.getD (3 + i) 0).toNat 62 2
    let ok (i : Nat) := flag i == 1 || flag i == 2
    match pop with
    | none => false
    | some p =>
      let inputs := match p with
        | .tmma => cCLR plo && ok 0 && ok 1
        | .tewmul => ok 0 && ok 1
        | .tout => hAE phi && ok 0 && (!hBE phi || ok 1)
        | _ => false
      let place :=
        if p = .tout then
          decide (bits mine 61 1 = 0) && (popStreams op lo hi).any fun q =>
            decide (q.1 = cQO plo ∧ q.1 = if b then cQB lo else cQA lo)
        else decide (bits mine 56 6 = bits dest 56 6)
      inputs && place && decide (bits mine 28 28 = bits dest 28 28)

/-- RFLG of a logged command fails R292 or R293. -/
def rflgBad (s : State) (t : Team) (op : MxOp) (lo hi : DWord) : Bool :=
  let (na, nb) := neededOperands op hi
  let fa := cRflg lo 0
  let fb := cRflg lo 1
  let prev := precedingHeader s t
  decide (na ≠ decide (fa ≠ 0)) || decide (nb ≠ decide (fb ≠ 0)) || decide (cRflg lo 2 ≠ 0) ||
    (fa == 3 && !recomputeOk t op lo hi false prev) || (fb == 3 && !recomputeOk t op lo hi true prev)

/-! ## Submission checks (R267) -/

/-- A trap of a slot with no lane. -/
def slotTrap (code info slot : Nat) : List TrapInfo := [{ code := code, info := BitVec.ofNat 64 info, slot := slot }]

/-- A trap where a test holds. -/
def trapIf (c : Bool) (code info slot : Nat) : List TrapInfo := if c then slotTrap code info slot else []

/-- Live lanes of the issuing half, or of the group, that are not active in the split (R26, R267): a lane that has exited is one. -/
def absentLanes (g : Group) (sid : Nat) : Mask :=
  liveMask g &&& halfMask g (halfOf g sid) &&& ~~~(splitOf g sid).mask

/-- The token check and the convergence check of an mx trigger. -/
def mxCommonTraps (s : State) (gid sid slot : Nat) : List TrapInfo :=
  let g := groupOf s gid
  let t := teamOf s g.team
  trapIf (decide (t.token ≠ some gid)) 2 0 slot ++
    trapIf (decide (absentLanes g sid ≠ 0)) 3 (absentLanes g sid).toNat slot

/-- The checks of a tile command that need its high word alone (R268, R278). -/
def hiTraps (t : Team) (slot : Nat) (op : MxOp) (hi : DWord) : List TrapInfo :=
  trapIf (hiBad op hi) 1 0 slot ++
  trapIf (isTableLoad op hi && (segmentOpen t || reversing t || decide (hLoadOff hi + 4096 > t.kd.spkb * 1024))) 2 (hLoadOff hi) slot ++
  trapIf (isTableLoad op hi && decide (bits hi.toNat 23 8 = 255)) 2 (hRSC hi) slot

/-- The checks of a tile command's word (R267, R278, R292-R294). -/
def tileTraps (s : State) (gid slot : Nat) (op : MxOp) (lo hi : DWord) : List TrapInfo :=
  let t := groupTeam s gid
  let z := entrySize t op lo
  let room := t.kd.spkb * 1024
  trapIf (loBad op lo hi || (!segmentOpen t && bits lo.toNat 53 6 != 0)) 1 0 slot ++
  trapIf (geoCheck t op lo hi).isSome 2 ((geoCheck t op lo hi).getD 0) slot ++
  trapIf (cSIG lo && decide (cBAR lo ≥ t.kd.nbar)) 2 (cBAR lo) slot ++
  trapIf (decide (op = .tout) && hBE hi && decide (hBias hi + 4 * cN lo > room)) 2 (hBias hi) slot ++
  hiTraps t slot op hi ++
  trapIf (segmentOpen t && !isTableLoad op hi && rflgBad s t op lo hi) 2 (bits lo.toNat 53 6) slot ++
  trapIf (segmentOpen t && decide (t.lnHead + z > t.lnSize)) 8 z slot

/-- The checks of QADV (R280). -/
def qadvTraps (t : Team) (slot : Nat) (v : DWord) : List TrapInfo :=
  let q := bits v.toNat 0 4
  let cnt := bits v.toNat 8 8
  let x := streamOf t q
  let cap := qCap x.qw0
  trapIf (decide (bits v.toNat 17 47 ≠ 0 ∨ bits v.toNat 4 4 ≠ 0)) 1 0 slot ++
  trapIf (decide (cnt = 0)) 2 cnt slot ++
  trapIf (decide (cap = 0)) 2 q slot ++
  trapIf (if v.getLsbD 16 then decide (occupancy x < cnt) else decide (occupancy x + cnt > cap)) 2 cnt slot

/-- The checks of MXFENCE (R267, R281, R282). -/
def mxfenceTraps (t : Team) (slot : Nat) (v : DWord) : List TrapInfo :=
  let k := bits v.toNat 0 12
  trapIf (decide (k ≥ 2048)) 1 0 slot ++
  trapIf (decide (k < 2048 ∧ k ≠ 0 ∧ 16 * k + 16 > t.kd.spkb * 1024)) 2 (16 * k) slot ++
  trapIf (decide (t.batchLast + 1 ≥ 2 ^ 32)) 2 t.batchLast slot

/-- Every check of an mx trigger: `lo` is latch a, none where it is empty (R267). -/
def mxTraps (s : State) (gid sid slot : Nat) (op : MxOp) (lo : Option DWord) (v : DWord) : List TrapInfo :=
  let t := groupTeam s gid
  mxCommonTraps s gid sid slot ++
  match op with
  | .qadv => qadvTraps t slot v
  | .mxfence => mxfenceTraps t slot v
  | _ =>
    match lo with
    | none => slotTrap 9 9 slot ++ hiTraps t slot op v
    | some lo => tileTraps s gid slot op lo v

/-- Unstarted commands of a team (R267). -/
def unstarted (t : Team) : Nat := (t.engine.filter fun i => !i.started).length

/-- An mx trigger stalls before it issues: the engine holds 32 accepted, unstarted commands of the team. -/
def mxStalls (t : Team) (op : MxOp) : Bool := op != .qadv && op != .mxfence && decide (unstarted t ≥ 32)

/-! ## Acceptance (R267, R280, R281, R294) -/

/-- The preceding ACYC, MCYC and SEQ that the next entry goes on from: the header's at CUR after a write of LNHEAD, zero at the first
entry. -/
def cycleBase (s : State) (t : Team) : Nat × Nat × Nat :=
  if t.lnHead = 0 then (0, 0, 0)
  else if t.lnFresh then
    let h := lnHeader s t t.lnCur
    (bits (h.getD 6 0).toNat 0 32, bits (h.getD 6 0).toNat 32 32, bits (h.getD 7 0).toNat 0 32 + 1)
  else (t.lnAcyc, t.lnMcyc, t.lnSeq)

/-- Cycles that the recompute flags of a command add (R302). -/
def recomputeCycles (lo : DWord) (prev : Option (List DWord)) : Nat × Nat :=
  match prev with
  | none => (0, 0)
  | some h =>
    let p := (tileOpOf (bits (h.getD 0 0).toNat 0 8)).getD .tzero
    let (k, nar) := descK (h.getD 1 0) (h.getD 3 0).toNat
    let c := forwardCycles p k nar
    let times := (if cRflg lo 0 = 3 then 1 else 0) + if cRflg lo 1 = 3 then 1 else 0
    (times * c, if p = .tmma then times * c else 0)

/-- The header words of an entry (R295) with given descriptors. -/
def headerWords (op : MxOp) (lo hi : DWord) (e : LogEntry) (descs : List DWord) : List DWord :=
  [BitVec.ofNat 64 (tileOpNum op + (if e.first then 2 ^ 8 else 0) + e.prev * 2 ^ 16 + (e.size - 1) * 2 ^ 48), lo, hi] ++ descs ++
    [BitVec.ofNat 64 (e.acyc + e.mcyc * 2 ^ 32), BitVec.ofNat 64 e.seq]

/-- Descriptors with their flags. -/
def flaggedDescs (t : Team) (op : MxOp) (lo hi : DWord) : List DWord :=
  let d := operandDescs t op lo hi
  (List.range 3).map fun i => BitVec.ofNat 64 (d.getD i 0 + if i < 2 then cRflg lo i * 2 ^ 62 else 0)

/-- A tile command accepted (R267): it joins the engine order and the open batch, and takes its place in the Lining while a segment is
open (R294). -/
def mxAccept (s : State) (gid opId : Nat) (op : MxOp) (lo hi : DWord) : State :=
  let g := groupOf s gid
  let t := teamOf s g.team
  let item : EngineItem := { id := s.nextId, op := .tile op lo hi, gid := gid, opId := opId }
  let t' := { t with openBatch := { t.openBatch with left := t.openBatch.left + 1 } }
  let s' := { s with nextId := s.nextId + 1 }
  if segmentOpen t then
    let prev := precedingHeader s t
    let (a0, m0, q0) := cycleBase s t
    let ga := geoOf (streamOf t (cQA lo)).qw0
    let (a1, m1) := adjointCycles op (tmmaK lo ga) (fmtNarrow ga.fmt)
    let (a2, m2) := recomputeCycles lo prev
    let cap (n : Nat) := min n (2 ^ 32 - 1)
    let first := decide (t.lnHead = 0)
    let z := entrySize t op lo
    let e : LogEntry :=
      { off := t.lnHead, size := z, prev := if first then 0 else t.lnCur, first := first, seq := q0 % 2 ^ 32
        acyc := cap (a0 + a1 + a2), mcyc := cap (m0 + m1 + m2) }
    let d := flaggedDescs t op lo hi
    setTeam s' g.team { t' with
      engine := t'.engine ++ [{ item with log := some e, descs := d }]
      lnCur := t.lnHead, lnHead := t.lnHead + z, lnSeq := q0 + 1, lnAcyc := e.acyc, lnMcyc := e.mcyc, lnFresh := false
      lnPrev := some (headerWords op lo hi e d) }
  else setTeam s' g.team { t' with engine := t'.engine ++ [item] }

/-- QADV (R280), with the accesses of the holder that come before it (R283). -/
def qadvApply (t : Team) (gid opId : Nat) (v : DWord) : Team :=
  let q := bits v.toNat 0 4
  let cnt := bits v.toNat 8 8
  let x := streamOf t q
  let x := if v.getLsbD 16 then { x with head := (x.head + cnt) % 2 ^ 32 } else { x with tail := (x.tail + cnt) % 2 ^ 32 }
  { t with streams := tset t.streams q x, qadvOps := tset t.qadvOps gid opId }

/-- The open batch closed as number BATCHLAST + 1 (R281, R297). -/
def closeBatch (t : Team) (record : Nat) (reverse : Bool) : Team :=
  let n := t.batchLast + 1
  { t with
    batchLast := n
    engine := t.engine.map fun i => if i.batch = 0 then { i with batch := n } else i
    batches := t.batches ++ [{ t.openBatch with num := n, record := record, reverse := reverse }]
    openBatch := {} }

/-- An mx trigger that passed its checks: the state, and the value of port o where it has one. -/
def mxApply (s : State) (gid opId : Nat) (op : MxOp) (lo v : DWord) : State × Option Nat :=
  let g := groupOf s gid
  let t := teamOf s g.team
  match op with
  | .qadv => (setTeam s g.team (qadvApply t gid opId v), none)
  | .mxfence =>
    let t := closeBatch t (bits v.toNat 0 12) false
    (setTeam s g.team t, some t.batchLast)
  | _ => (mxAccept s gid opId op lo v, none)

/-! ## Engine requests and locks -/

/-- Ranges of the scratchpad that a command reads: (core address, bytes). -/
def tileSources (t : Team) (op : MxOp) (lo hi : DWord) : List (Nat × Nat) :=
  (popStreams op lo hi).map (fun q =>
    let x := streamOf t q.1
    (t.spBase + slotOff x.qw0 x.head, tileBytes (geoOf x.qw0))) ++
  (if op = .tout ∧ hBE hi then [(t.spBase + hBias hi, 4 * cN lo)] else []) ++
  if isTableLoad op hi then [(t.spBase + hLoadOff hi, 4096)] else []

/-- The slot a command writes. -/
def tileTarget (t : Team) (op : MxOp) (lo : DWord) : List (Nat × Nat) :=
  match pushStream op lo with
  | none => []
  | some q => let x := streamOf t q; [(t.spBase + slotOff x.qw0 x.tail, tileBytes (geoOf x.qw0))]

/-- The banks of ranges. -/
def banksOf (rs : List (Nat × Nat)) : List Nat :=
  (List.range 64).filter fun b => rs.any fun r => decide (r.2 > 0) && (List.range (min 64 (r.2 / 16 + 2))).any fun i =>
    decide (bankOf (r.1 / 16 * 16 + 16 * i) = b ∧ r.1 / 16 * 16 + 16 * i < r.1 + r.2)

/-- Whether another command holds a bank of ranges (R252). -/
def banksHeld (c : Core) (owner : Nat) (rs : List (Nat × Nat)) : Bool :=
  let bs := banksOf rs
  c.locks.any fun l => decide (l.owner ≠ owner) && l.banks.any fun b => bs.contains b

/-- Banks locked for a command. -/
def lockBanks (c : Core) (owner : Nat) (rs : List (Nat × Nat)) : Core :=
  if rs.isEmpty then c else { c with locks := c.locks ++ [{ owner := owner, banks := banksOf rs }] }

/-- A command's locks released. -/
def unlockBanks (c : Core) (owner : Nat) : Core := { c with locks := c.locks.filter fun l => decide (l.owner ≠ owner) }

/-- Whether what a group made before an operation number is done as far as the engine waits for it: its scratchpad and Polder accesses
are performed, and so are its acquires, whose stores the engine is to see (R254, R283). -/
def spadDone (s : State) (gid id : Nat) : Bool :=
  let g := groupOf s gid
  (g.ops.all fun o => decide (id ≤ o.id) || (!o.acquire && (opElems o).all fun e => decide (e.space ≠ .spad))) &&
    g.fences.all fun f => decide (id ≤ f.id)

/-- Whether the streams of a command let it start (R265). -/
def streamsReady (t : Team) (op : MxOp) (lo hi : DWord) : Bool :=
  ((popStreams op lo hi).all fun q => decide (occupancy (streamOf t q.1) ≥ 1)) &&
    match pushStream op lo with
    | none => true
    | some q => decide (occupancy (streamOf t q) < qCap (streamOf t q).qw0)

/-- The entry's Lining range: virtual address and bytes. -/
def lnRange (t : Team) (e : LogEntry) : Nat × Nat := (t.lnBase + 64 * e.off, 64 * e.size)

/-- What a command needs of global pages (R377). -/
def tileX (s : State) (t : Team) (op : MxOp) (lo hi : DWord) (log : Option LogEntry) : RangeX :=
  let a := (tileSources t op lo hi).foldl (fun r p => rangeJoin r (spadX s t.core p.1 p.2 false)) {}
  let b := (tileTarget t op lo).foldl (fun r p => rangeJoin r (spadX s t.core p.1 p.2 true)) a
  match log with
  | none => b
  | some e => let (va, n) := lnRange t e; rangeJoin b (rangeX s t.core t.func t.asid va n { rd := false, w := true } false)

/-- The bytes of ranges as they stand, by address. -/
def snapRanges (c : Core) (rs : List (Nat × Nat)) : List (Nat × Byte) :=
  rs.flatMap fun r => (List.range r.2).map fun i => (r.1 + i, memGet c.sp (r.1 + i))

/-- The first item of a team's engine order. -/
def engineHead (t : Team) : Option EngineItem := t.engine.head?

/-- A team with the first item of its engine order replaced. -/
def setEngineHead (t : Team) (i : EngineItem) : Team := { t with engine := i :: t.engine.drop 1 }

/-- The source operands of an item noted at its start, or at the start of an entry (R284). -/
def noteOperands (c : Core) (i : EngineItem) (rs : List (Nat × Nat)) : EngineItem :=
  let b := snapRanges c rs
  { i with ranges := rs, snap := b, base := b }

/-- The first index and value of an address among noted bytes. -/
def snapFind : List (Nat × Byte) → Nat → Nat → Option (Nat × Byte)
  | [], _, _ => none
  | (b, x) :: r, k, a => if b = a then some (k, x) else snapFind r (k + 1) a

/-- The byte an item reads at an address: where another agent than an engine command changed it meanwhile, old or new (R284, log 10). -/
def engineByte (c : Core) (i : EngineItem) (draw a : Nat) : Byte :=
  let now := memGet c.sp a
  match snapFind i.snap 0 a, snapFind i.base 0 a with
  | some (k, old), some (_, b) => if b = now then old else drawByte old now (draw + k)
  | some (_, old), none => old
  | none, _ => now

/-- One operand of an item after an engine command has written bytes of it under its bank lock: all of them are read from before the
command or all from after it (R284). -/
def settleOperand (before after : Core) (draw : Nat) (wrote : Nat → Bool) (take : Bool) (i : EngineItem) (r : Nat × Nat) : EngineItem :=
  let hit (a : Nat) : Bool := wrote a && decide (r.1 ≤ a ∧ a < r.1 + r.2)
  { i with
    snap := i.snap.map fun e => if hit e.1 then (e.1, if take then memGet after.sp e.1 else engineByte before i draw e.1) else e
    base := i.base.map fun e => if hit e.1 then (e.1, memGet after.sp e.1) else e }

/-- The operands of the items that run on a core after another engine command has written bytes under its bank lock: while that command
runs they are read as they were; once it ends, each one is read from before it or from after it (R284, log 10). An item with bytes of its
result written has read its operands. -/
def settleReaders (before : State) (s : State) (core owner : Nat) (ends : Bool) (wrote : Nat → Bool) : State :=
  s.teams.foldl (fun s e =>
    match e.2.engine with
    | [] => s
    | i :: _ =>
      if decide (e.2.core = core ∧ i.started ∧ i.id ≠ owner ∧ i.shown = []) && i.snap.any fun b => wrote b.1 then
        let n := i.ranges.length
        let i' := ((List.range n).zip i.ranges).foldl (fun j r =>
          settleOperand (coreOf before core) (coreOf s core) (s.free + n) wrote (ends && Config.freeBit (s.free + r.1)) j r.2) i
        { setTeam s e.1 (setEngineHead (teamOf s e.1) i') with free := s.free + n + i.snap.length }
      else s) s

/-! ## Starting and retiring a tile command (R261, R265, R284, R377) -/

/-- Whether the first item of a team may start, pages apart. -/
def tileReady (s : State) (tid : Nat) (i : EngineItem) (op : MxOp) (lo hi : DWord) : Bool :=
  let t := teamOf s tid
  let c := coreOf s t.core
  !i.started && i.waits.isEmpty && (i.denied.isSome || (streamsReady t op lo hi && spadDone s i.gid i.opId &&
    (t.qadvOps.all fun q => spadDone s q.1 q.2) &&
    !banksHeld c i.id (tileSources t op lo hi ++ tileTarget t op lo)))

/-- A command that meets a denied page or a failed response starts as failed (R377); its access word is KIND 7. -/
def startDenied (s : State) (tid : Nat) (i : EngineItem) (word : DWord) : State :=
  let t := teamOf s tid
  setTeam s tid (setEngineHead t { i with started := true, denied := some word })

/-- MX_COMMAND_START of a tile command (R265, R377): its pages are prepared, or it waits for them, or it fails; the source bytes and the
tile numbers are noted, and its target banks are locked (R252). -/
def startTile (s : State) (tid : Nat) (i : EngineItem) (op : MxOp) (lo hi : DWord) : State :=
  let t := teamOf s tid
  if !tileReady s tid i op lo hi then s
  else
    match i.denied with
    | some w => startDenied s tid i w
    | none =>
      let x := tileX s t op lo hi i.log
      match x.denied, x.missing with
      | some va, _ => startDenied s tid i (accessWord va (Config.accessLsz va).val 7 false false)
      | none, _ :: _ =>
        let (ws, s) := raiseAll s t.func t.asid missKind 4 [.engine tid] x.missing
        setTeam s tid (setEngineHead (teamOf s tid) { i with waits := ws })
      | none, [] =>
        if !piecesOpen s t.func x.pieces then s
        else
          let rs := tileSources t op lo hi
          let tg := tileTarget t op lo
          let s := (rs ++ tg).foldl (fun s r => ensureRange s t.core r.1 r.2) s
          let s := match i.log with
            | none => s
            | some e =>
              let (va, n) := lnRange t e
              touchPieces s t.core t.func t.asid (rangeX s t.core t.func t.asid va n { rd := false, w := true } false).pieces true
          let c := coreOf s t.core
          let nums := ((popStreams op lo hi).map fun q => (q.1, (streamOf t q.1).head)) ++
            (pushStream op lo).toList.map fun q => (q, (streamOf t q).tail)
          let s := setCore s t.core (lockBanks c i.id tg)
          setTeam s tid (setEngineHead (teamOf s tid) { noteOperands c i rs with
            started := true, heads := nums, table := if op = .tout then some (tgetD c.tables (hTab hi) {}) else none })

/-- The tile number a command noted for a stream. -/
def itemHead (i : EngineItem) (q : Nat) : Nat := match i.heads.find? fun h => decide (h.1 = q) with
  | some h => h.2
  | none => 0

/-- What the first item of a team reads. -/
def viewOf (s : State) (tid : Nat) (i : EngineItem) : TileView :=
  let t := teamOf s tid
  let c := coreOf s t.core
  { byte := engineByte c i s.free, core := match i.op, i.table with
      | .tile _ _ hi, some x => { c with tables := tset c.tables (hTab hi) x }
      | _, _ => c
    team := tid, tm := t
    slot := fun q => t.spBase + slotOff (streamOf t q).qw0 (itemHead i q) }

/-- Elements and bytes of a poisoned command: each one old or from a failing sum (R286, log 10). -/
def poisonRes (s : State) (tid : Nat) (r : TileRes) : TileRes :=
  let c := coreOf s (teamOf s tid).core
  let n := match r.acc with
    | some a => a.2.length
    | none => 0
  { r with
    acc := r.acc.map fun a => (a.1, ((List.range a.2.length).zip a.2).map fun e =>
      (e.2.1, if Config.freeBit (s.free + e.1) then Config.freeWord (s.free + e.1) else accAt (accTile c tid a.1) 0 e.2.1))
    bytes := ((List.range r.bytes.length).zip r.bytes).map fun e =>
      (e.2.1, if Config.freeBit (s.free + n + e.1) then (Config.freeWord (s.free + n + e.1)).setWidth 8 else memGet c.sp e.2.1) }

/-- Single bytes of a scratchpad written by an engine. -/
def pokeBytes (s : State) (core : Nat) (bs : List (Nat × Byte)) : State :=
  clearPoison (bs.foldl (fun s b => spadPut s core b.1 [b.2] false) s) core 0 .spad (bs.map Prod.fst)

/-- Single bytes written to a core's scratchpad by an engine command that holds their banks, at its end; those at `shown` it has written
already (R252, R253, R284, R369). -/
def putBytes (s : State) (core owner : Nat) (shown : List Nat) (bs : List (Nat × Byte)) : State :=
  if bs.isEmpty then s
  else
    settleReaders s (pokeBytes s core (bs.filter fun b => !shown.contains b.1)) core owner true fun a => bs.any fun b => decide (b.1 = a)

/-- Some bytes of a running command's result written before the others: a recall of a Polder line takes each byte as old or new (R253). What
the result rests on has then been read. -/
def showBytes (s : State) (tid : Nat) (i : EngineItem) (ks : List Nat) (bs : List (Nat × Byte)) : State :=
  let k := (teamOf s tid).core
  let c := coreOf s k
  let new := (ks.filterMap fun k => bs[k]?).filter fun b => !i.shown.contains b.1
  if new.isEmpty then s
  else
    let j := { i with
      snap := i.snap.map fun b => (b.1, engineByte c i s.free b.1), base := [], shown := i.shown ++ new.map Prod.fst }
    let u := settleReaders s (pokeBytes s k new) k i.id false fun a => new.any fun b => decide (b.1 = a)
    { setTeam u tid (setEngineHead (teamOf u tid) j) with free := u.free + i.snap.length }

/-- The tiles a command reads or writes. -/
def usedTiles (op : MxOp) (lo hi : DWord) : List Nat :=
  (usedFields op lo hi).filterMap fun f =>
    if f = (0, 5) then some (cAcc lo) else if f = (5, 5) then some (cAcc2 lo) else if f = (10, 5) then some (cAcc3 lo) else none

/-- Tiles taken over where another team wrote them last (R206). -/
def takeTiles (c : Core) (tid : Nat) (tiles : List Nat) : Core := tiles.foldl (fun c i => accTake c tid i) c

/-- Whether a tile of a team holds an uncorrectable error (R368). -/
def accPoisoned (c : Core) (tid i : Nat) : Bool :=
  let a := tgetD c.acc i {}
  decide (a.owner = some tid) && !a.poison.isEmpty

/-- Whether an item consumes poisoned data (R322, R369): of its noted operands, or of some tiles. -/
def itemPoisoned (s : State) (tid : Nat) (i : EngineItem) (tiles : List Nat) : Bool :=
  let c := coreOf s (teamOf s tid).core
  (i.ranges.any fun r => (granulesOf r.1 r.2).any fun g => c.spPoison.contains g) || tiles.any (accPoisoned c tid)

/-- A tile result written. -/
def writeTile (s : State) (tid owner : Nat) (shown : List Nat) (op : MxOp) (lo hi : DWord) (r : TileRes) : State :=
  let k := (teamOf s tid).core
  let c := takeTiles (coreOf s k) tid (usedTiles op lo hi)
  let c := match r.acc with
    | some a => accWrite c tid a.1 a.2
    | none => c
  let c := match r.table with
    | some t => { c with tables := tset c.tables t.1 t.2 }
    | none => c
  putBytes (setCore s k c) k owner shown r.bytes

/-- The payload bytes of a saved operand, as the operation read it (R294). -/
def payloadOf (v : TileView) (op : MxOp) (lo hi : DWord) (b : Bool) : List Byte :=
  let tile (q : Nat) : List Byte := (List.range (tileBytes (geoOf (streamOf v.tm q).qw0))).map fun k => v.byte (v.slot q + k)
  let acc (a : Nat) : List Byte := (regionOf (cM lo) (cN lo)).flatMap fun p => leBytes 4 (accAt (accTile v.core v.team a) p.1 p.2).toNat
  match op, b with
  | .tmma, false => tile (cQA lo)
  | .tmma, true => tile (cQB lo)
  | .tout, false => acc (cAcc lo)
  | .tout, true => (List.range (4 * cN lo)).map fun k => v.byte (v.tm.spBase + hBias hi + k)
  | .tfill, _ => tile (cQA lo)
  | .tewadd, true | .tewmul, true => if cSB lo then acc (cAcc3 lo) else tile (cQB lo)
  | _, _ => acc (cAcc2 lo)

/-- Bytes filled up to whole 64-byte units. -/
def padUnits (b : List Byte) : List Byte := b ++ List.replicate ((64 - b.length % 64) % 64) 0

/-- The stream slot of a descriptor of a stream tile: OFF is the slot read, or for TOUT's C the slot written (R296). -/
def descOff (v : TileView) (op : MxOp) (lo : DWord) (i : Nat) : Nat :=
  let off (q : Nat) := v.slot q - v.tm.spBase
  match op, i with
  | .tmma, 0 => off (cQA lo)
  | .tmma, 1 => off (cQB lo)
  | .tout, 2 => off (cQO lo)
  | .tfill, 0 => off (cQA lo)
  | .tewadd, 1 | .tewmul, 1 => if cSB lo then 0 else off (cQB lo)
  | _, _ => 0

/-- The bytes of a Lining entry (R295). -/
def entryBytes (v : TileView) (op : MxOp) (lo hi : DWord) (e : LogEntry) (descs : List DWord) : List Byte :=
  let ds := (List.range 3).map fun i => descs.getD i 0 + BitVec.ofNat 64 (descOff v op lo i)
  (headerWords op lo hi e ds).flatMap (fun w => leBytes 8 w.toNat) ++
    (if cRflg lo 0 = 1 then padUnits (payloadOf v op lo hi false) else []) ++
    if cRflg lo 1 = 1 then padUnits (payloadOf v op lo hi true) else []

/-- Stream pointers moved at retirement (R265). -/
def moveStreams (t : Team) (op : MxOp) (lo hi : DWord) : Team :=
  let t := (popStreams op lo hi).foldl (fun t q =>
    if q.2 then let x := streamOf t q.1; { t with streams := tset t.streams q.1 { x with head := (x.head + 1) % 2 ^ 32 } } else t) t
  match pushStream op lo with
  | none => t
  | some q => let x := streamOf t q; { t with streams := tset t.streams q { x with tail := (x.tail + 1) % 2 ^ 32 } }

/-- The batch that holds an item, updated. -/
def noteBatch (t : Team) (batch : Nat) (f : Batch → Batch) : Team :=
  if batch = 0 then { t with openBatch := f t.openBatch }
  else { t with batches := t.batches.map fun b => if b.num = batch then f b else b }

/-- An item's end noted in its batch (R279, R286, R377). -/
def itemEnds (flags : Flags) (poisoned : Bool) (denied : Option DWord) (revFail : Option Nat) (b : Batch) : Batch :=
  { b with left := b.left - 1, flags := b.flags ||| flags, poison := b.poison || poisoned, fault := b.fault.orElse fun _ => denied
           revFail := b.revFail.orElse fun _ => revFail }

/-- A barrier signal at retirement: an arrival of weight 1 (R128, R281). -/
def signalBarrier (t : Team) (lo : DWord) : Team :=
  if cSIG lo then { t with barriers := tset t.barriers (cBAR lo) (barrierArrive (barrierOf t (cBAR lo)) 1 none) } else t

/-- The late part of bytes written over pieces (R255). -/
def lateOf (poison : Bool) : List Piece → List Byte → List LateWrite
  | [], _ => []
  | p :: r, b => { va := p.va, space := p.frame.space, addr := p.frame.pa, bytes := b.take p.n, poison := poison } ::
      lateOf poison r (b.drop p.n)

/-- Late writes of an engine performed: no load-block unit keeps them (R207). -/
def performLate (s : State) (f : Nat) (ws : List LateWrite) : State :=
  ws.foldl (fun s w => placePut s noCore f w.space w.addr w.bytes w.poison) s

/-- Whether late writes can go to their peers (R363). -/
def lateOpen (s : State) (f : Nat) (ws : List LateWrite) : Bool :=
  ws.all fun w => decide (w.space ≠ .peer) || peerOpen s f w.addr w.bytes.length none

/-- A Lining entry written by a command of a batch: until that batch completes each byte that another agent sees is old or new (R255,
log 10). -/
def writeLining (s : State) (tid batch va : Nat) (bytes : List Byte) (poison : Bool) : State :=
  let t := teamOf s tid
  let ps := (rangeX s t.core t.func t.asid va bytes.length { rd := false, w := true } false).pieces
  let (old, _, _) := readPieces s t.core t.func ps
  let mixed := (List.range bytes.length).map fun i => drawByte (old.getD i 0) (bytes.getD i 0) (s.free + i)
  let s := writePieces (touchPieces s t.core t.func t.asid ps true) t.core t.func poison ps mixed
  { setTeam s tid (noteBatch (teamOf s tid) batch fun b => { b with lining := b.lining ++ lateOf poison ps bytes }) with
    free := s.free + bytes.length }

/-- Some bytes of the tile that a running command writes are written before it retires (R253); not of one that reads poisoned data. -/
def showResult (s : State) (tid : Nat) (i : EngineItem) (op : MxOp) (lo hi : DWord) (ks : List Nat) : State :=
  if i.started && i.denied.isNone && !itemPoisoned s tid i (usedTiles op lo hi) &&
      piecesOpen s (teamOf s tid).func (tileX s (teamOf s tid) op lo hi i.log).pieces then
    showBytes s tid i ks (tileRes (viewOf s tid i) op lo hi).bytes
  else s

/-- MX_COMMAND_RETIRE of a tile command (R261, R265, R281, R286, R322, R377). -/
def retireTile (s : State) (tid : Nat) (i : EngineItem) (op : MxOp) (lo hi : DWord) (poisoned : Bool) : State :=
  if !i.started || (i.denied.isNone && !piecesOpen s (teamOf s tid).func (tileX s (teamOf s tid) op lo hi i.log).pieces) then s
  else
    let t := teamOf s tid
    let v := viewOf s tid i
    let r := tileRes v op lo hi
    let draws := i.snap.length
    let dirty := itemPoisoned s tid i (usedTiles op lo hi)
    let poisoned := poisoned || dirty
    let (s, flags) := if i.denied.isSome then (s, 0)
      else
        let s1 := writeTile s tid i.id i.shown op lo hi (if poisoned then poisonRes { s with free := s.free + draws } tid r else r)
        let s1 := match i.log with
          | none => s1
          | some e => writeLining s1 tid i.batch (t.lnBase + 64 * e.off) (entryBytes v op lo hi e i.descs) dirty
        ({ s1 with free := s1.free + draws + (match r.acc with
            | some a => a.2.length
            | none => 0) + r.bytes.length }, r.flags)
    let s := setCore s t.core (unlockBanks (coreOf s t.core) i.id)
    let t := teamOf s tid
    let t := { t with engine := t.engine.drop 1 }
    let t := signalBarrier (moveStreams t op lo hi) lo
    setTeam s tid (noteBatch t i.batch (itemEnds flags (poisoned && i.denied.isNone) i.denied none))

/-! ## Batches (R281, R282, R132) -/

/-- The status record of a batch (R282). -/
def statusRecord (b : Batch) (now : Nat) : List Byte :=
  leBytes 8 (b.num % 2 ^ 32 + b.flags.toNat * 2 ^ 32 + (if b.fault.isSome then 2 ^ 37 else 0) + if b.poison then 2 ^ 40 else 0) ++
    leBytes 8 now

/-- The report of a completed batch, with the lowest cause it has (R132). -/
def batchReport (b : Batch) : Option Report :=
  match b.revFail, b.fault, b.poison with
  | some off, _, _ => some { num := b.num, code := 2, info := BitVec.ofNat 64 off }
  | none, some w, _ => some { num := b.num, code := 6, info := w }
  | none, none, true => some { num := b.num, code := 0x0A, info := BitVec.ofNat 64 (2 ^ 32 + b.num) }
  | none, none, false => none

/-- A team's first batch ends (R281, R255): its Lining bytes are performed, and BATCHDONE covers it. -/
def endBatch (s : State) (tid : Nat) (b : Batch) : State :=
  let t := teamOf s tid
  let s := performLate s t.func b.lining
  setTeam s tid { teamOf s tid with batches := t.batches.drop 1, batchDone := b.num, reports := t.reports ++ (batchReport b).toList }

/-- BATCH_COMPLETE: the team's first batch, once its items have retired, writes its record, and BATCHDONE covers it. The record's Polder
line is prepared first: it waits for missing pages, and a denied one leaves it unwritten and sets FAULT (R282, R377). -/
def completeBatch (s : State) (tid : Nat) : State :=
  let t := teamOf s tid
  match t.batches with
  | [] => s
  | b :: rest =>
    if b.left ≠ 0 ∨ !b.waits.isEmpty ∨ !lateOpen s t.func b.lining then s
    else if b.record = 0 then endBatch s tid b
    else
      let a := t.spBase + 16 * b.record
      let x := spadX s t.core a 16 true
      match b.fault.isSome && b.failed, x.denied, x.missing with
      | true, _, _ => endBatch s tid b
      | false, some va, _ =>
        endBatch s tid { b with fault := b.fault.orElse fun _ => some (accessWord va (Config.accessLsz va).val 7 false false) }
      | false, none, _ :: _ =>
        let (ws, s) := raiseAll s t.func t.asid missKind 4 [.batch tid] x.missing
        setTeam s tid { teamOf s tid with batches := { b with waits := ws } :: rest }
      | false, none, [] =>
        if rangeLocked (coreOf s t.core) none a 16 || !piecesOpen s t.func x.pieces then s else endBatch (spadPut s t.core a (statusRecord b s.gtime) false) tid b

end Sys2Proof.Machine
end

