-- ==== Sys2Proof/Machine/Record.lean ====
section
/-!
DEFINITION. Record and Reverse (spec 21_record_reverse, R287-R305): segments, the gradient map, and the reverse walk.
-/

namespace Sys2Proof.Machine

/-! ## Lining register writes (R288, R289) -/

/-- A GMAP value that breaks R289. -/
def gmapBad (n : Nat) (v : DWord) : Bool :=
  let x := v.toNat
  if n ≤ 3 then (List.range 8).any fun e => decide (bits x (8 * e + 5) 2 ≠ 0)
  else if n ≤ 5 then (List.range 8).any fun e => decide (bits x (8 * e + 4) 3 ≠ 0)
  else if n = 6 then decide (bits x 8 56 ≠ 0 ∨ bits x 5 2 ≠ 0)
  else decide (x ≠ 0)

/-- The checks of a Lining write that compare with LNHEAD or LNSIZE (R288). -/
def liningStateBad (t : Team) (reg : Nat) (v : DWord) : Bool :=
  let x := v.toNat
  if reg = 0x21 then decide ((t.lnSt = 1 ∨ t.lnSt = 2) ∧ bits x 0 26 < t.lnHead)
  else if reg = 0x22 then
    decide (bits x 62 2 = 3) || decide (bits x 0 26 > t.lnSize) || decide (bits x 0 26 ≠ 0 ∧ bits x 26 26 ≥ bits x 0 26)
  else false

/-- The cause of a Lining write that fails a check (R288). -/
def liningCheck (t : Team) (reg : Nat) (v : DWord) : Option Nat :=
  let x := v.toNat
  if reg = 0x20 then (if bits x 52 12 ≠ 0 then some 1 else if bits x 0 6 ≠ 0 then some 2 else none)
  else if reg = 0x21 then (if bits x 26 38 ≠ 0 then some 1 else if liningStateBad t reg v then some 2 else none)
  else if reg = 0x22 then (if bits x 52 10 ≠ 0 then some 1 else if liningStateBad t reg v then some 2 else none)
  else if gmapBad (reg - 0x23) v then some 1 else none

/-- A Lining write's effect (R287, R288). -/
def liningApply (t : Team) (reg : Nat) (v : DWord) : Team :=
  let x := v.toNat
  if reg = 0x20 then { t with lnBase := bits x 0 52 }
  else if reg = 0x21 then { t with lnSize := bits x 0 26 }
  else if reg = 0x22 then { t with lnHead := bits x 0 26, lnCur := bits x 26 26, lnSt := bits x 62 2, lnFresh := true }
  else { t with gmap := tset t.gmap (reg - 0x23) v }

/-! ## RECBEG, RECEND, REVERSE acceptance (R290, R291, R297) -/

/-- RECBEG (R291). -/
def recordBegin (t : Team) : Team := { t with lnSt := 1, lnHead := 0, lnCur := 0, lnFresh := false, lnPrev := none }

/-- RECEND (R291). -/
def recordEnd (t : Team) : Team := { t with lnSt := 2 }

/-- Traps of RECBEG, RECEND and REVERSE (R290, R15, R136). -/
def recordTraps (t : Team) (gid : Nat) (which : Nat) : List TrapInfo :=
  trapIf (decide (t.token ≠ some gid)) 2 0 6 ++
  match which with
  | 0 => trapIf (!t.kd.recOk || decide (t.lnSt = 1 ∨ t.lnSt = 3) || decide (t.lnSize = 0)) 2 0 6
  | 1 => trapIf (decide (t.lnSt ≠ 1)) 2 0 6
  | _ => trapIf (decide (t.lnSt = 0 ∨ t.lnSt = 3)) 2 0 6 ++ trapIf (decide (t.batchLast + 1 ≥ 2 ^ 32)) 2 t.batchLast 6

/-- REVERSE accepted (R297): the state and the batch number. -/
def reverseAccept (s : State) (gid opId : Nat) : State × Nat :=
  let g := groupOf s gid
  let t := teamOf s g.team
  let item : EngineItem := { id := s.nextId, op := .reverse, gid := gid, opId := opId }
  let t := { t with lnSt := 3, engine := t.engine ++ [item], openBatch := { t.openBatch with left := t.openBatch.left + 1 } }
  let t := closeBatch t 0 true
  (setTeam { s with nextId := s.nextId + 1 } g.team t, t.batchLast)

/-! ## The gradient map (R289) -/

/-- The gradient accumulator of a forward accumulator. -/
def gradAcc (t : Team) (a : Nat) : Option Nat :=
  let e := bits (tgetD t.gmap (a / 8) 0).toNat (8 * (a % 8)) 8
  if e ≥ 128 then some (e % 32) else none

/-- The gradient stream of a forward stream. -/
def gradStream (t : Team) (q : Nat) : Option Nat :=
  let e := bits (tgetD t.gmap (4 + q / 8) 0).toNat (8 * (q % 8)) 8
  if e ≥ 128 then some (e % 16) else none

/-- The accumulator of bias gradients. -/
def gradBias (t : Team) : Option Nat :=
  let e := bits (tgetD t.gmap 6 0).toNat 0 8
  if e ≥ 128 then some (e % 32) else none

/-! ## Entries (R295, R296) -/

/-- A Lining entry as read. -/
structure Entry where
  off : Nat
  op : MxOp
  lo : DWord
  hi : DWord
  first : Bool
  prev : Nat
  npay : Nat
  descs : List Nat
  acyc : Nat
  mcyc : Nat
  deriving DecidableEq, Repr

/-- The entry that header words hold; none where OP is no tile opcode. -/
def entryOf (off : Nat) (h : List DWord) : Option Entry :=
  let w0 := (h.getD 0 0).toNat
  match tileOpOf (bits w0 0 8) with
  | none => none
  | some op =>
    some { off := off, op := op, lo := h.getD 1 0, hi := h.getD 2 0, first := bits w0 8 1 = 1, prev := bits w0 16 26
           npay := bits w0 48 16, descs := (List.range 3).map fun i => (h.getD (3 + i) 0).toNat
           acyc := bits (h.getD 6 0).toNat 0 32, mcyc := bits (h.getD 6 0).toNat 32 32 }

/-- A header with a nonzero reserved field (R303). -/
def headerBad (h : List DWord) : Bool :=
  let w0 := (h.getD 0 0).toNat
  decide (bits w0 9 7 ≠ 0 ∨ bits w0 42 6 ≠ 0 ∨ bits (h.getD 7 0).toNat 32 32 ≠ 0) ||
    ((List.range 3).any fun i => decide (bits (h.getD (3 + i) 0).toNat 20 8 ≠ 0)) ||
    match tileOpOf (bits w0 0 8) with
    | none => true
    | some op => loBad op (h.getD 1 0) (h.getD 2 0) || hiBad op (h.getD 2 0)

/-- The geometry in a descriptor. -/
def descGeo (d : Nat) : Geo :=
  { fmt := bits d 52 4, sfmt := bits d 50 2, sstr := bits d 42 8, rows := bits d 28 7 + 1, cols := bits d 35 7 + 1 }

/-- FLAG of operand 0 (A) or 1 (B). -/
def descFlag (e : Entry) (i : Nat) : Nat := bits (e.descs.getD i 0) 62 2

/-- Whether operand `i` of an entry is a stream tile; the bias vector is no tile. -/
def descTile (e : Entry) (i : Nat) : Bool :=
  decide (bits (e.descs.getD i 0) 61 1 = 0) && !(e.op == .tout && i == 1)

/-- Bytes of operand `i` as a payload (R294). -/
def descBytes (e : Entry) (i : Nat) : Nat :=
  let g := descGeo (e.descs.getD i 0)
  if descTile e i then tileBytes g else 4 * g.rows * g.cols

/-- The team offset of operand `i`. -/
def descOffset (e : Entry) (i : Nat) : Nat := bits (e.descs.getD i 0) 0 20

/-- The pushes of an entry's adjoint (R300): forward stream and the operand whose geometry the tile has. -/
def entryPushes (e : Entry) : List (Nat × Nat) :=
  match e.op with
  | .tmma => [(cQA e.lo, 0), (cQB e.lo, 1)]
  | .tfill => [(cQA e.lo, 0)]
  | .tewadd | .tewmul => if cSB e.lo then [] else [(cQB e.lo, 1)]
  | .tout | .tzero | .tewscale | .tredrow | .tredcol | .ttrn | .mxfence | .qadv => []

/-- The gradient stream an entry's adjoint pops: that of QO for TOUT. -/
def entryPops (e : Entry) : List (Nat × Nat) := if e.op = .tout then [(cQO e.lo, 2)] else []

/-- The forward accumulators whose gradient tiles an entry uses. -/
def entryAccs (e : Entry) : List Nat :=
  match e.op with
  | .tmma | .tout | .tfill | .tzero => [cAcc e.lo]
  | .tewadd | .tewmul => [cAcc e.lo, cAcc2 e.lo] ++ if cSB e.lo then [cAcc3 e.lo] else []
  | .tewscale | .tredrow | .tredcol | .ttrn => [cAcc e.lo, cAcc2 e.lo]
  | .mxfence | .qadv => []

/-- A gradient stream that does not fit its forward tile (R303). -/
def gradStreamBad (t : Team) (e : Entry) (p : Nat × Nat) : Bool :=
  match gradStream t p.1 with
  | none => true
  | some q =>
    let x := (streamOf t q).qw0
    let g := geoOf x
    let f := descGeo (e.descs.getD p.2 0)
    decide (qCap x = 0) || decide (g.rows ≠ f.rows) || decide (g.cols ≠ f.cols)

/-- Operand `i` referenced in the scratchpad passes SPKB (R303). -/
def refPasses (t : Team) (e : Entry) (i : Nat) : Bool :=
  decide (descFlag e i = 2) && decide (bits (e.descs.getD i 0) 61 1 = 0) &&
    decide (descOffset e i + descBytes e i > t.kd.spkb * 1024)

/-- The check of an entry (R303). -/
def entryBad (t : Team) (h : List DWord) : Bool :=
  headerBad h || match entryOf 0 h with
  | none => true
  | some e =>
    ((entryAccs e).any fun a => (gradAcc t a).isNone) ||
      (e.op == .tout && hBE e.hi && (gradBias t).isNone) ||
      ((entryPushes e ++ entryPops e).any (gradStreamBad t e)) ||
      refPasses t e 0 || refPasses t e 1

/-! ## Operands of the adjoint (R298) -/

/-- A forward operand: the values a product takes, FP32 patterns, and the flags that converting an element to its pattern raises (R279). -/
structure RevOperand where
  val : Nat → Nat → FVal × Int
  word : Nat → Nat → Nat
  flags : Nat → Nat → Flags := fun _ _ => 0

/-- A stream tile held in bytes. -/
def tileOperand (g : Geo) (b : List Byte) : RevOperand :=
  let v (a : Nat) : Byte := b.getD a 0
  { val := elemVal v 0 g, word := fun i j => (elemFill v 0 g i j).bits, flags := fun i j => (elemFill v 0 g i j).flags }

/-- FP32 patterns by row and column. -/
def wordOperand (f : Nat → Nat → Nat) : RevOperand := { val := fun i j => (fRead fp32 (f i j), 0), word := f }

/-- An FP32 region held in bytes, row-major. -/
def regionOperand (cols : Nat) (b : List Byte) : RevOperand :=
  wordOperand fun i j => leVal ((b.drop (4 * (cols * i + j))).take 4)

/-- The payload bytes of operand `i` of an entry: A's come first (R295). -/
def payloadBytesOf (s : State) (t : Team) (e : Entry) (i : Nat) : List Byte :=
  let a := if descFlag e 0 = 1 then (descBytes e 0 + 63) / 64 else 0
  let unit := e.off + 1 + if i = 0 then 0 else a
  (lnRead s t unit (descBytes e i)).1

/-- A saved or referenced operand of an entry (R298); `rd` reads a byte of the scratchpad (R284). -/
def directOperand (s : State) (tid : Nat) (rd : Nat → Byte) (e : Entry) (i : Nat) : RevOperand :=
  let t := teamOf s tid
  let c := coreOf s t.core
  let d := e.descs.getD i 0
  let g := descGeo d
  let held (b : List Byte) : RevOperand := if descTile e i then tileOperand g b else regionOperand g.cols b
  if descFlag e i = 1 then held (payloadBytesOf s t e i)
  else if bits d 61 1 = 1 then
    let a := accTile c tid (bits d 56 5)
    wordOperand fun r k => (accAt a r k).toNat
  else held ((List.range (descBytes e i)).map fun k => rd (t.spBase + descOffset e i + k))

/-- The destination of an entry's forward operation run again from its logged inputs (R293, R298). -/
def rerunEntry (s : State) (tid : Nat) (rd : Nat → Byte) (e : Entry) : RevOperand :=
  let t := teamOf s tid
  let a := directOperand s tid rd e 0
  let b := directOperand s tid rd e 1
  let g := descGeo (e.descs.getD 0 0)
  match e.op with
  | .tmma =>
    let ks := kChunks (fmtNarrow g.fmt) (if cTA e.lo then g.rows else g.cols)
    wordOperand fun i j => (chunkSum 0 ks fun k => operandProduct (if cTA e.lo then a.val k i else a.val i k)
      (if cTB e.lo then b.val j k else b.val k j)).bits
  | .tewmul => wordOperand fun i j => chunk 0 [chunkProduct (fRead fp32 (a.word i j)) (fRead fp32 (b.word i j)) 0]
  | _ =>
    let o := descGeo (e.descs.getD 2 0)
    let v : TileView := { byte := fun _ => 0, core := coreOf s t.core, team := tid, tm := t, slot := fun _ => 0 }
    let rows := (List.range o.rows).map fun i => (List.range o.cols).map fun j =>
      (toutChain v e.hi (fun k => b.word 0 k) (a.word i j) j).1
    let bs := (encodeTile 0 o rows).1
    tileOperand o ((List.range (tileBytes o)).map fun k => match bs.find? fun p => decide (p.1 = k) with
      | some p => p.2
      | none => 0)

/-- An operand of an entry, by its flag; `p` is the preceding entry. -/
def revOperand (s : State) (tid : Nat) (rd : Nat → Byte) (p : Option Entry) (e : Entry) (i : Nat) : RevOperand :=
  if descFlag e i = 3 then
    match p with
    | some p => rerunEntry s tid rd p
    | none => wordOperand fun _ _ => 0
  else directOperand s tid rd e i

/-! ## The adjoint of an entry (R299, R300) -/

/-- What the adjoint has done so far: the core, the gradient streams pushed to, the accumulator elements and scratchpad bytes written,
and flags. -/
structure RevOut where
  core : Core
  pushed : List Nat := []
  written : List (Nat × Nat) := []
  bytes : List (Nat × Byte) := []
  flags : Flags := 0

/-- Elements of a gradient accumulator written. -/
def revWrite (o : RevOut) (tid acc : Nat) (ws : List (Nat × FRes)) : RevOut :=
  { o with
    core := accWrite o.core tid acc (ws.map fun w => (w.1, BitVec.ofNat 32 w.2.bits))
    written := o.written ++ ws.map fun w => (acc, w.1)
    flags := ws.foldl (fun f w => f ||| w.2.flags) o.flags }

/-- x := chunk(x, [p]) over a region of a gradient accumulator. -/
def revAdd (o : RevOut) (tid acc : Nat) (keys : List (Nat × Nat)) (p : Nat → Nat → PVal) : RevOut :=
  let a := accTile o.core tid acc
  revWrite o tid acc (keys.map fun k => (128 * k.1 + k.2, chunkRes (accAt a k.1 k.2).toNat [p k.1 k.2]))

/-- How often a stream stands in a list. -/
def timesIn (q : Nat) (qs : List Nat) : Nat := (qs.filter fun x => decide (x = q)).length

/-- A tile pushed to the gradient stream of a forward stream (R299, R301): the tile numbered TAIL, which then rises. -/
def revPush (o : RevOut) (t : Team) (q : Nat) (rows cols : Nat) (f : Nat → Nat → FRes) : RevOut :=
  match gradStream t q with
  | none => o
  | some gq =>
    let x := streamOf t gq
    let rs := (List.range rows).map fun i => (List.range cols).map fun j => f i j
    let (b, fl) := encodeTile (t.spBase + slotOff x.qw0 (x.tail + timesIn gq o.pushed)) (geoOf x.qw0)
      (rs.map fun r => r.map fun e => fRead fp32 e.bits)
    { o with pushed := o.pushed ++ [gq], bytes := o.bytes ++ b, flags := rs.foldl (fun a r => r.foldl (fun a e => a ||| e.flags) a) (o.flags ||| fl) }

/-- The destination region of an entry in the forward accumulator, by row and column (R299). -/
def destKeys (e : Entry) : List (Nat × Nat) :=
  match e.op with
  | .tredrow => (List.range (cM e.lo)).map fun i => (i, 0)
  | .tredcol => (List.range (cN e.lo)).map fun j => (0, j)
  | .ttrn => regionOf (cN e.lo) (cM e.lo)
  | _ => regionOf (cM e.lo) (cN e.lo)

/-- Whether the forward operation overwrote its destination (R299). -/
def overwrites (e : Entry) : Bool :=
  match e.op with
  | .tfill | .tzero | .tewadd | .tewmul | .tewscale | .ttrn => true
  | .tmma | .tredrow | .tredcol => cCLR e.lo
  | .tout | .mxfence | .qadv => false

/-- A value of Gd as a product with an operand value. -/
def gdTimes (gd : Nat) (x : FVal × Int) : PVal := operandProduct (fRead fp32 gd, 0) x

/-- TMMA's pushes (R300). -/
def adjointTmma (t : Team) (e : Entry) (gd : Nat → Nat → Nat) (a b : RevOperand) (o : RevOut) : RevOut :=
  let ga := descGeo (e.descs.getD 0 0)
  let gb := descGeo (e.descs.getD 1 0)
  let av (i k : Nat) := if cTA e.lo then a.val k i else a.val i k
  let bv (k j : Nat) := if cTB e.lo then b.val j k else b.val k j
  let da (i k : Nat) := chunkSum 0 (kChunks (fmtNarrow gb.fmt) (cN e.lo)) fun j => gdTimes (gd i j) (bv k j)
  let db (k j : Nat) := chunkSum 0 (kChunks (fmtNarrow ga.fmt) (cM e.lo)) fun i => gdTimes (gd i j) (av i k)
  let o := revPush o t (cQA e.lo) ga.rows ga.cols fun r c => if cTA e.lo then da c r else da r c
  revPush o t (cQB e.lo) gb.rows gb.cols fun r c => if cTB e.lo then db c r else db r c

/-- TOUT's contributions (R300). -/
def adjointTout (tid : Nat) (t : Team) (e : Entry) (dy : Nat → Nat → FRes) (a b : RevOperand) (o : RevOut) : RevOut :=
  let tab := tgetD o.core.tables (hTab e.hi) {}
  let step (r : FRes) (p : PVal) : FRes := let x := chunkRes 0 [p]; { bits := x.bits, flags := r.flags ||| x.flags }
  let gy (i j : Nat) : FRes :=
    let g : FRes := dy i j
    let g := if hQE e.hi then step g (chunkProduct (fRead fp32 g.bits) (fRead fp32 (hRSC e.hi)) 0) else g
    if hAE e.hi then
      let u : FRes := if hBE e.hi then chunkRes (a.word i j) [plainProduct (b.word 0 j)] else { bits := a.word i j, flags := 0 }
      let d := actApply tab tid true u.bits
      let r := step g (chunkProduct (fRead fp32 g.bits) (fRead fp32 d.bits) 0)
      { r with flags := r.flags ||| u.flags ||| d.flags }
    else g
  let m := cM e.lo
  let n := cN e.lo
  match gradAcc t (cAcc e.lo) with
  | none => o
  | some ga =>
    let fl := (regionOf m n).foldl (fun f k => f ||| (gy k.1 k.2).flags) o.flags
    let o := revAdd { o with flags := fl } tid ga (regionOf m n) fun i j => plainProduct (gy i j).bits
    if hBE e.hi then
      match gradBias t with
      | none => o
      | some gb =>
        let c := accTile o.core tid gb
        revWrite o tid gb ((List.range n).map fun j =>
          (j, chunkSum (accAt c 0 j).toNat (kChunks false m) fun i => plainProduct (gy i j).bits))
    else o

/-- The contributions of TEW.ADD and TEW.MUL (R300). -/
def adjointTew (tid : Nat) (t : Team) (e : Entry) (gd : Nat → Nat → Nat) (a b : RevOperand) (o : RevOut) : RevOut :=
  let keys := regionOf (cM e.lo) (cN e.lo)
  let mul := e.op == .tewmul
  let forA (i j : Nat) : PVal := if mul then chunkProduct (fRead fp32 (gd i j)) (fRead fp32 (b.word i j)) 0 else plainProduct (gd i j)
  let forB (i j : Nat) : PVal := if mul then chunkProduct (fRead fp32 (gd i j)) (fRead fp32 (a.word i j)) 0 else plainProduct (gd i j)
  let o := if mul then { o with flags := keys.foldl (fun f k => f ||| b.flags k.1 k.2) o.flags } else o
  let o := match gradAcc t (cAcc2 e.lo) with
    | none => o
    | some g => revAdd o tid g keys forA
  if cSB e.lo then
    match gradAcc t (cAcc3 e.lo) with
    | none => o
    | some g => revAdd o tid g keys forB
  else revPush o t (cQB e.lo) (cM e.lo) (cN e.lo) fun i j => if mul then chunkRes 0 [forB i j] else { bits := gd i j, flags := 0 }

/-- The accumulators that an entry's operand reads where it is referenced there. -/
def operandTiles (e : Entry) : List Nat :=
  [0, 1].filterMap fun i =>
    let d := e.descs.getD i 0
    if descFlag e i = 2 ∧ bits d 61 1 = 1 then some (bits d 56 5) else none

/-- Every accumulator that the processing of an entry reads or writes (R206). -/
def entryTiles (t : Team) (p : Option Entry) (e : Entry) : List Nat :=
  operandTiles e ++ (if descFlag e 0 = 3 ∨ descFlag e 1 = 3 then (p.toList.flatMap operandTiles) else []) ++
    (entryAccs e).filterMap (gradAcc t) ++ if e.op = .tout ∧ hBE e.hi then (gradBias t).toList else []

/-- The adjoint of one entry (R299, R300). -/
def adjoint (s : State) (tid : Nat) (rd : Nat → Byte) (p : Option Entry) (e : Entry) : RevOut :=
  let t := teamOf s tid
  let c := takeTiles (coreOf s t.core) tid (entryTiles t p e)
  let a := revOperand s tid rd p e 0
  let b := revOperand s tid rd p e 1
  let gacc := gradAcc t (cAcc e.lo)
  let tile := match gacc with
    | some g => accTile c tid g
    | none => []
  let gd (i j : Nat) : Nat := (accAt tile i j).toNat
  let o : RevOut := { core := c }
  let o := match gacc with
    | some g => if overwrites e then revWrite o tid g ((destKeys e).map fun k => (128 * k.1 + k.2, { bits := 0, flags := 0 })) else o
    | none => o
  let keys := regionOf (cM e.lo) (cN e.lo)
  let onto (f : Nat → Nat → PVal) : RevOut := match gradAcc t (cAcc2 e.lo) with
    | none => o
    | some g => revAdd o tid g keys f
  match e.op with
  | .tmma => adjointTmma t e gd a b o
  | .tout =>
    let dy (i j : Nat) : FRes := match gradStream t (cQO e.lo) with
      | none => { bits := 0, flags := 0 }
      | some q =>
        let x := streamOf t q
        elemFill rd (t.spBase + slotOff x.qw0 x.head) (geoOf x.qw0) i j
    adjointTout tid t e dy a b o
  | .tfill => revPush o t (cQA e.lo) (cM e.lo) (cN e.lo) fun i j => { bits := gd i j, flags := 0 }
  | .tzero => o
  | .tewadd | .tewmul => adjointTew tid t e gd a b o
  | .tewscale => onto fun i j => chunkProduct (fRead fp32 (hRSC e.hi)) (fRead fp32 (gd i j)) 0
  | .tredrow => onto fun i _ => plainProduct (gd i 0)
  | .tredcol => onto fun _ j => plainProduct (gd 0 j)
  | .ttrn => onto fun i j => plainProduct (gd j i)
  | .mxfence | .qadv => o

/-! ## The walk (R298, R301-R304, R377) -/

/-- The scratchpad ranges of an entry's referenced operands. -/
def entryRefs (t : Team) (x : Entry) : List (Nat × Nat) :=
  [0, 1].filterMap fun i =>
    if descFlag x i = 2 ∧ bits (x.descs.getD i 0) 61 1 = 0 then some (t.spBase + descOffset x i, descBytes x i) else none

/-- The gradient streams that an entry pushes to, in order. -/
def pushedTo (t : Team) (e : Entry) : List Nat := (entryPushes e).filterMap fun p => gradStream t p.1

/-- The slots that an entry's pushes write: each push raises TAIL (R299). -/
def pushSlots (t : Team) (qs : List Nat) : List (Nat × Nat) :=
  (List.range qs.length).map fun k =>
    let q := qs.getD k 0
    let x := streamOf t q
    (t.spBase + slotOff x.qw0 (x.tail + timesIn q (qs.take k)), tileBytes (geoOf x.qw0))

/-- The tile of dY that an entry pops. -/
def popSlots (t : Team) (e : Entry) : List (Nat × Nat) :=
  (entryPops e).filterMap fun p => (gradStream t p.1).map fun q =>
    let x := streamOf t q
    (t.spBase + slotOff x.qw0 x.head, tileBytes (geoOf x.qw0))

/-- The preceding entry, where an operand is to be computed again from it. -/
def rerunOf (e : Entry) (h : List DWord) : Option Entry :=
  if descFlag e 0 = 3 ∨ descFlag e 1 = 3 then entryOf e.prev h else none

/-- The scratchpad ranges that the processing of an entry reads. -/
def entryReads (t : Team) (p : Option Entry) (e : Entry) : List (Nat × Nat) :=
  entryRefs t e ++ (p.toList.flatMap (entryRefs t)) ++ popSlots t e

/-- What an entry needs of global pages: its Lining bytes, those of a preceding entry to be run again, referenced operands, the popped
tile and the pushed slots (R377). -/
def entryX (s : State) (tid : Nat) (p : Option Entry) (e : Entry) : RangeX :=
  let t := teamOf s tid
  let ln (off n : Nat) := rangeX s t.core t.func t.asid (t.lnBase + 64 * off) n { rd := true, w := false } false
  let again := if descFlag e 0 = 3 ∨ descFlag e 1 = 3 then ln e.prev (64 * ((p.map fun p => p.npay).getD 0 + 1)) else {}
  let spad (write : Bool) (rs : List (Nat × Nat)) (x : RangeX) : RangeX :=
    rs.foldl (fun x r => rangeJoin x (spadX s t.core r.1 r.2 write)) x
  spad true (pushSlots t (pushedTo t e)) (spad false (entryReads t p e) (rangeJoin (ln e.off (64 * (e.npay + 1))) again))

/-- Whether the gradient streams let an entry run (R301): a tile to pop, and a free slot for each push. -/
def entryStreamsReady (t : Team) (e : Entry) : Bool :=
  ((entryPops e).all fun p => match gradStream t p.1 with
    | some q => decide (occupancy (streamOf t q) ≥ 1)
    | none => true) &&
  (pushedTo t e).all fun q => decide (occupancy (streamOf t q) + timesIn q (pushedTo t e) ≤ qCap (streamOf t q).qw0)

/-- Gradient stream pointers moved after an entry (R300, R301). -/
def entryMoves (t : Team) (e : Entry) : Team :=
  let t := (entryPops e).foldl (fun t p => match gradStream t p.1 with
    | some q => let x := streamOf t q; { t with streams := tset t.streams q { x with head := (x.head + 1) % 2 ^ 32 } }
    | none => t) t
  (entryPushes e).foldl (fun t p => match gradStream t p.1 with
    | some q => let x := streamOf t q; { t with streams := tset t.streams q { x with tail := (x.tail + 1) % 2 ^ 32 } }
    | none => t) t

/-- The walk ends with the entry at CUR unprocessed (R303, R377): ST closed. -/
def walkStops (t : Team) (i : EngineItem) (revFail : Option Nat) (denied : Option DWord) : Team :=
  let t := noteBatch t i.batch fun b => { b with revFail := b.revFail.orElse fun _ => revFail, fault := b.fault.orElse fun _ => denied }
  setEngineHead { t with lnSt := 2 } { i with walkDone := true, stopped := true }

/-- Elements of a poisoned entry: each one old or from a failing sum (R286, R303). Log 10. -/
def poisonRev (s : State) (tid : Nat) (old : Core) (o : RevOut) : RevOut :=
  let n := o.written.length
  let core := ((List.range n).zip o.written).foldl (fun c e =>
    let v := if Config.freeBit (s.free + e.1) then Config.freeWord (s.free + e.1) else accAt (accTile old tid e.2.1) 0 e.2.2
    accWrite c tid e.2.1 [(e.2.2, v)]) o.core
  { o with
    core := core
    bytes := ((List.range o.bytes.length).zip o.bytes).map fun e =>
      (e.2.1, if Config.freeBit (s.free + n + e.1) then (Config.freeWord (s.free + n + e.1)).setWidth 8 else memGet old.sp e.2.1) }

/-- One entry processed: all of it (R298-R301). -/
def runEntry (s : State) (tid : Nat) (i : EngineItem) (p : Option Entry) (e : Entry) (poisoned : Bool) : State :=
  let t := teamOf s tid
  let old := coreOf s t.core
  let draws := i.snap.length
  let o := adjoint s tid (engineByte old i s.free) p e
  let poisoned := poisoned || itemPoisoned s tid i (entryTiles t p e) || (lnRead s t e.off (64 * (e.npay + 1))).2
  let o := if poisoned then poisonRev { s with free := s.free + draws } tid old o else o
  let n := draws + o.written.length + o.bytes.length
  let s := putBytes (setCore { s with free := s.free + n } t.core o.core) t.core i.id i.shown o.bytes
  let s := setCore s t.core (unlockBanks (coreOf s t.core) i.id)
  let t := entryMoves (teamOf s tid) e
  let t := noteBatch t i.batch fun b => { b with flags := b.flags ||| o.flags, poison := b.poison || poisoned }
  let i := { i with entry := false, ranges := [], snap := [], base := [], descs := [], shown := [] }
  setTeam s tid (if e.first then setEngineHead t { i with walkDone := true } else setEngineHead { t with lnCur := e.prev } i)

/-- The processing of an entry begins (R252, R284, R298, R377): every line it uses is present, its operands are noted, and the banks of
the slots it pushes into are locked. -/
def beginEntry (s : State) (tid : Nat) (i : EngineItem) (h hp : List DWord) (p : Option Entry) (e : Entry) (x : RangeX) : State :=
  let t := teamOf s tid
  let rs := entryReads t p e
  let ws := pushSlots t (pushedTo t e)
  let s := touchPieces s t.core t.func t.asid x.pieces false
  let s := (virtRead s t.core t.func t.asid (t.lnBase + 64 * e.off) (64 * (e.npay + 1)) false).2.2
  let s := (rs ++ ws).foldl (fun s r => ensureRange s t.core r.1 r.2) s
  let c := coreOf s t.core
  let s := setCore s t.core (lockBanks c i.id ws)
  setTeam s tid (setEngineHead (teamOf s tid) { noteOperands c i rs with entry := true, descs := h ++ hp })

/-- REVERSE_ENTRY while an entry is being processed: it is finished. -/
def finishEntry (s : State) (tid : Nat) (i : EngineItem) (poisoned : Bool) : State :=
  match entryOf (teamOf s tid).lnCur (i.descs.take 8) with
  | none => s
  | some e =>
    let p := rerunOf e (i.descs.drop 8)
    if piecesOpen s (teamOf s tid).func (entryX s tid p e).pieces then runEntry s tid i p e poisoned else s

/-- Some bytes of the tiles that the entry being processed pushes are written before it is finished (R253); not of one that reads poisoned
data. -/
def showEntry (s : State) (tid : Nat) (i : EngineItem) (ks : List Nat) : State :=
  let t := teamOf s tid
  match entryOf t.lnCur (i.descs.take 8) with
  | none => s
  | some e =>
    let p := rerunOf e (i.descs.drop 8)
    if i.entry && !itemPoisoned s tid i (entryTiles t p e) && !(lnRead s t e.off (64 * (e.npay + 1))).2 &&
        piecesOpen s t.func (entryX s tid p e).pieces then
      showBytes s tid i ks (adjoint s tid (engineByte (coreOf s t.core) i s.free) p e).bytes
    else s

/-- Some bytes of what the first item of a team's engine order writes are written before it ends (R253). -/
def showTile (s : State) (tid : Nat) (ks : List Nat) : State :=
  match engineHead (teamOf s tid) with
  | none => s
  | some i =>
    match i.op with
    | .tile op lo hi => showResult s tid i op lo hi ks
    | .reverse => showEntry s tid i ks

/-- The walk at an entry that is not yet being processed (R298, R301, R303, R377, R283): it begins the entry, waits, or ends. -/
def reachEntry (s : State) (tid : Nat) (i : EngineItem) : State :=
  let t := teamOf s tid
  let hx := rangeX s t.core t.func t.asid (t.lnBase + 64 * t.lnCur) 64 { rd := true, w := false } false
  let h := lnHeader s t t.lnCur
  let hp (e : Entry) : List DWord := lnHeader s t e.prev
  let x := match entryOf t.lnCur h with
    | none => hx
    | some e => if hx.denied.isSome || !hx.missing.isEmpty || entryBad t h then hx else entryX s tid (rerunOf e (hp e)) e
  match x.denied, x.missing with
  | some va, _ => setTeam s tid (walkStops t i none (some (accessWord va (Config.accessLsz va).val 7 false false)))
  | none, _ :: _ =>
    let (ws, s) := raiseAll s t.func t.asid missKind 4 [.engine tid] x.missing
    setTeam s tid (setEngineHead (teamOf s tid) { i with waits := ws })
  | none, [] =>
    if entryBad t h then setTeam s tid (walkStops t i (some t.lnCur) none)
    else match entryOf t.lnCur h with
      | none => s
      | some e =>
        let p := rerunOf e (hp e)
        if !entryStreamsReady t e || !(t.qadvOps.all fun q => spadDone s q.1 q.2) ||
            banksHeld (coreOf s t.core) i.id (entryReads t p e ++ pushSlots t (pushedTo t e)) || !piecesOpen s t.func x.pieces then s
        else beginEntry s tid i h (hp e) p e x

/-- REVERSE_ENTRY (R298, R301, R303, R377): the walk enters an entry, finishes the one it is at, waits, or ends. -/
def walkEntry (s : State) (tid : Nat) (i : EngineItem) (poisoned : Bool) : State :=
  let t := teamOf s tid
  if !i.started || i.walkDone || t.suspended || !i.waits.isEmpty then s
  else if i.entry then finishEntry s tid i poisoned
  else
    match i.denied with
    | some w => setTeam s tid (walkStops t i none (some w))
    | none => if t.lnHead = 0 then setTeam s tid (setEngineHead t { i with walkDone := true }) else reachEntry s tid i

/-- REVERSE_SUSPEND (R304): a running REVERSE is suspended between entries, or a suspended one goes on. -/
def suspendWalk (s : State) (tid : Nat) : State :=
  let t := teamOf s tid
  match engineHead t with
  | some i =>
    if i.op = .reverse ∧ i.started ∧ ¬ i.walkDone ∧ ¬ i.entry then setTeam s tid { t with suspended := !t.suspended } else s
  | none => s

/-- The intensity and length a REVERSE declares (R302), from the entry at CUR. -/
def reversePhase (t : Team) (h : List DWord) : Nat × Nat :=
  let a := bits (h.getD 6 0).toNat 0 32
  let m := bits (h.getD 6 0).toNat 32 32
  if t.lnHead = 0 ∨ a = 0 then (0, max 1 (min 4095 ((a + 1899) / 1900)))
  else ((16 * m + a - 1) / a, max 1 (min 4095 ((a + 1899) / 1900)))

/-- MX_COMMAND_START of a REVERSE (R297, R302): it starts, declaring its power phase. -/
def startReverse (s : State) (tid : Nat) (i : EngineItem) : State :=
  let t := teamOf s tid
  if i.started || !i.waits.isEmpty then s
  else
    let x : RangeX := if t.lnHead = 0 ∨ i.denied.isSome then {}
      else rangeX s t.core t.func t.asid (t.lnBase + 64 * t.lnCur) 64 { rd := true, w := false } false
    match x.missing with
    | _ :: _ =>
      let (ws, s) := raiseAll s t.func t.asid missKind 4 [.engine tid] x.missing
      setTeam s tid (setEngineHead (teamOf s tid) { i with waits := ws })
    | [] =>
      let h := if x.pieces.isEmpty then [] else lnHeader s t t.lnCur
      let (n, us) := reversePhase { t with lnHead := if h.isEmpty then 0 else t.lnHead } h
      let s := declareHint s i.gid s.gtime n us false
      setTeam s tid (setEngineHead (teamOf s tid) { i with started := true })

/-- A REVERSE retires: its walk ended at its failing entry, or at the end of the segment, and then ST is none (R298, R303). `fault` is the
access word where its status record could not be written. -/
def reverseEnds (s : State) (tid : Nat) (i : EngineItem) (fault : Option DWord) : State :=
  let t := teamOf s tid
  let t := { t with engine := t.engine.drop 1, suspended := false }
  let t := if i.stopped then t else { t with lnSt := 0, lnHead := 0, lnCur := 0 }
  setTeam s tid (noteBatch t i.batch (itemEnds 0 false fault none))

/-- The Lining bytes of every command before a REVERSE performed (R255): its status record comes after them. -/
def flushLining (s : State) (tid : Nat) : State :=
  let t := teamOf s tid
  let s := performLate s t.func (lateWrites t)
  let t := teamOf s tid
  setTeam s tid { t with batches := t.batches.map fun b => { b with lining := [] }, openBatch := { t.openBatch with lining := [] } }

/-- MX_COMMAND_RETIRE of a REVERSE whose walk has ended (R298, R303, R377): one that reached the end of the segment writes its status
record at LNBASE, whose page it waits for; where that page is denied the record stays unwritten and FAULT is set (log 45). -/
def retireReverse (s : State) (tid : Nat) (i : EngineItem) : State :=
  let t := teamOf s tid
  if !i.started || !i.walkDone || !i.waits.isEmpty then s
  else if i.stopped then reverseEnds s tid i none
  else
    let x := rangeX s t.core t.func t.asid t.lnBase 16 { rd := false, w := true } false
    match i.denied, x.denied, x.missing with
    | some w, _, _ => reverseEnds s tid i (some w)
    | none, some va, _ => reverseEnds s tid i (some (accessWord va (Config.accessLsz va).val 7 false false))
    | none, none, _ :: _ =>
      let (ws, s) := raiseAll s t.func t.asid missKind 4 [.engine tid] x.missing
      setTeam s tid (setEngineHead (teamOf s tid) { i with waits := ws })
    | none, none, [] =>
      if !piecesOpen s t.func x.pieces || !lateOpen s t.func (lateWrites t) then s
      else
        let b := (t.batches.find? fun b => decide (b.num = i.batch)).getD {}
        reverseEnds (virtWrite (flushLining s tid) t.core t.func t.asid t.lnBase (statusRecord b s.gtime) false) tid i none

/-- MX_COMMAND_START (R261, R265): the first item of the team's engine order starts. -/
def engineStart (s : State) (tid : Nat) : State :=
  match engineHead (teamOf s tid) with
  | none => s
  | some i =>
    match i.op with
    | .tile op lo hi => startTile s tid i op lo hi
    | .reverse => startReverse s tid i

/-- MX_COMMAND_RETIRE (R261). -/
def engineRetire (s : State) (tid : Nat) (poisoned : Bool) : State :=
  match engineHead (teamOf s tid) with
  | none => s
  | some i =>
    match i.op with
    | .tile op lo hi => retireTile s tid i op lo hi poisoned
    | .reverse => retireReverse s tid i

/-- REVERSE_ENTRY. -/
def engineEntry (s : State) (tid : Nat) (poisoned : Bool) : State :=
  match engineHead (teamOf s tid) with
  | none => s
  | some i => if i.op = .reverse then walkEntry s tid i poisoned else s

end Sys2Proof.Machine
end

