-- ==== Sys2Proof/Machine/Sha256.lean ====
section
/-!
DEFINITION. SHA-256 (FIPS 180-4), which R373 extends the measurement registers with and R348 names cache entries with, and the measurement
registers' extension.
-/

namespace Sys2Proof.Machine

/-! ## Constants: 32 bits of the fraction of a prime's root -/

/-- The primes below 312, the first 64 of them. -/
def shaPrimes : List Nat := (List.range 312).filter fun n => decide (2 ≤ n) && (List.range n).all fun d => decide (d < 2 ∨ n % d ≠ 0)

/-- The floor of the `k`-th root of a number, where it has at most `n` bits. -/
def rootFloor (k x n : Nat) : Nat := (List.range n).foldl (fun r i => let t := r + 2 ^ (n - 1 - i); if t ^ k ≤ x then t else r) 0

/-- The first 32 bits of the fraction of the `k`-th root of a prime below 512. -/
def rootWord (k p : Nat) : Word := BitVec.ofNat 32 (rootFloor k (p * 2 ^ (32 * k)) 37)

/-- The 64 constants of the rounds, from cube roots. -/
def roundWords : List Word := shaPrimes.map (rootWord 3)

/-! ## A block -/

/-- The working variables: the last four values of a, newest first (so a, b, c, d), and the last four of e (e, f, g, h). -/
structure ShaVars where
  upper : List Word
  lower : List Word

/-- The variables of a chaining value of eight words. -/
def varsOf (h : List Word) : ShaVars := { upper := h.take 4, lower := (h.drop 4).take 4 }

/-- The start value, from the square roots of the first eight primes. -/
def chainStart : List Word := (shaPrimes.take 8).map (rootWord 2)

/-- Three words XORed: two rotations of a word and a third. -/
def spin (x : Word) (i j : Nat) (z : Word) : Word := x.rotateRight i ^^^ x.rotateRight j ^^^ z

/-- A round, for the sum of its constant and its schedule word. -/
def turn (v : ShaVars) (kw : Word) : ShaVars :=
  let up (i : Nat) : Word := v.upper.getD i 0
  let low (i : Nat) : Word := v.lower.getD i 0
  let choice := (low 0 &&& low 1) ||| (~~~(low 0) &&& low 2)
  let vote := (up 0 &&& up 1) ||| (up 2 &&& (up 0 ||| up 1))
  let t := low 3 + spin (low 0) 6 11 ((low 0).rotateRight 25) + choice + kw
  { upper := (t + spin (up 0) 2 13 ((up 0).rotateRight 22) + vote) :: v.upper.take 3, lower := (up 3 + t) :: v.lower.take 3 }

/-- The rounds of a block: `win` holds the schedule's next sixteen words, the next one first. -/
def turns : List Word → ShaVars → List Word → ShaVars
  | [], v, _ => v
  | k :: ks, v, win =>
    let w (i : Nat) : Word := win.getD i 0
    let next := w 0 + spin (w 1) 7 18 (w 1 >>> 3) + w 9 + spin (w 14) 17 19 (w 14 >>> 10)
    turns ks (turn v (k + w 0)) (win.drop 1 ++ [next])

/-- The word of four bytes, the first most significant. -/
def bigWord (b : List Byte) : Word := BitVec.ofNat 32 (leVal (b.take 4).reverse)

/-- A chaining value after a block of 64 bytes. -/
def chainBlock (h : List Word) (b : List Byte) : List Word :=
  let v := turns roundWords (varsOf h) ((List.range 16).map fun i => bigWord (b.drop (4 * i)))
  List.zipWith (fun x y => x + y) h (v.upper ++ v.lower)

/-! ## A message -/

/-- A message with its padding: a 1 bit, zeros, and the bit count in 64 bits, to whole blocks. -/
def padMessage (b : List Byte) : List Byte :=
  let zeros := (64 * ((b.length + 72) / 64)) - (b.length + 9)
  b ++ [0x80] ++ List.replicate zeros 0 ++ (leBytes 8 (8 * b.length)).reverse

/-- SHA-256 of bytes. -/
def sha256 (b : List Byte) : List Byte :=
  let m := padMessage b
  let h := (List.range (m.length / 64)).foldl (fun h i => chainBlock h ((m.drop (64 * i)).take 64)) chainStart
  h.flatMap fun w => (leBytes 4 w.toNat).reverse

/-- A digest as one value, its first byte the most significant. -/
def digestVal (b : List Byte) : BitVec 256 := BitVec.ofNat 256 (leVal b.reverse)

/-- The 32 bytes of a digest. -/
def digestBytes (x : BitVec 256) : List Byte := (leBytes 32 x.toNat).reverse

/-! ## Measurement (R373) -/

/-- A measurement register. -/
def measureOf (s : State) (i : Nat) : BitVec 256 := tgetD s.measure i 0

/-- A measurement register extended by an item. -/
def extendMeasure (s : State) (i : Nat) (item : List Byte) : State :=
  { s with measure := tset s.measure i (digestVal (sha256 (digestBytes (measureOf s i) ++ sha256 item))) }

end Sys2Proof.Machine
end

