-- ==== Sys2Proof/Machine/Copy.lean ====
section
/-!
DEFINITION. The block-transfer engine (spec 15_memory_instructions R233-R240), overlay loads (R139) and the collective engine
(spec 29_boundaries R365-R367).
-/

namespace Sys2Proof.Machine

/-! ## Control words (R233, R236) -/

/-- Channel. -/
def kCH (c : DWord) : Nat := bits c.toNat 0 3
/-- SPS. -/
def kSPS (c : DWord) : Bool := c.getLsbD 3
/-- SPD. -/
def kSPD (c : DWord) : Bool := c.getLsbD 4
/-- LEN of copy1, mcast and fill. -/
def kLEN (c : DWord) : Nat := bits c.toNat 8 30
/-- ROWS of copy2. -/
def kROWS (c : DWord) : Nat := bits c.toNat 8 12 + 1
/-- Row bytes of copy2. -/
def kROWB (c : DWord) : Nat := 16 * bits c.toNat 20 12
/-- Source row stride of copy2. -/
def kSSTR (c : DWord) : Nat := 16 * bits c.toNat 32 16
/-- Destination row stride of copy2. -/
def kDSTR (c : DWord) : Nat := 16 * bits c.toNat 48 16

/-- A reserved bit, or SPS or SPD where R236 forbids it (R233). -/
def ctlBad (op : CpOp) (c : DWord) : Bool :=
  let x := c.toNat
  decide (bits x 5 3 ≠ 0) ||
  match op with
  | .copy1 => decide (bits x 38 26 ≠ 0)
  | .copy2 => false
  | .mcast => decide (bits x 38 26 ≠ 0) || kSPD c
  | .fill => decide (bits x 38 26 ≠ 0) || kSPS c
  | .copyt | .coll | .ovl => decide (bits x 8 56 ≠ 0) || kSPS c || kSPD c

/-- A length or count of 0 (R233). -/
def ctlZero (op : CpOp) (c : DWord) : Bool :=
  match op with
  | .copy1 | .mcast | .fill => kLEN c == 0
  | .copy2 => kROWB c == 0
  | .copyt | .coll | .ovl => false

/-- The scratchpad bytes from an operand's offset that a command spans. -/
def spanOfCmd (op : CpOp) (c : DWord) (dst : Bool) : Nat :=
  match op with
  | .copy2 => (kROWS c - 1) * (if dst then kDSTR c else kSSTR c) + kROWB c
  | _ => kLEN c

/-- The alignment of an operand (R236): of `a`, or of `b` with `dst`. -/
def cmdAlign (op : CpOp) (dst : Bool) : Nat :=
  match op, dst with
  | .copy2, _ => 16
  | .copyt, _ => 64
  | .mcast, true => 64
  | .ovl, false => 256
  | _, _ => 1

/-- Whether an operand is an address: of `a`, or of `b` with `dst`. -/
def cmdAddress (op : CpOp) (dst : Bool) : Bool :=
  match op, dst with
  | .fill, false => false
  | .ovl, true => false
  | _, _ => true

/-- The misaligned and permission traps of one operand (R233, R310 KIND 7). -/
def cmdAddrTraps (op : CpOp) (c v : DWord) (dst : Bool) (slot : Nat) : List TrapInfo :=
  let spad := if dst then kSPD c else kSPS c
  let al := cmdAlign op dst
  let word := accessWord v.toNat (Nat.log2 al) 7 spad false
  if !cmdAddress op dst then []
  else
    (if v.toNat % al ≠ 0 then [{ code := 5, info := word, slot := slot }] else []) ++
    if !spad ∧ v.toNat ≥ 2 ^ 52 then [{ code := 6, info := word, slot := slot }] else []

/-- The scratchpad range of one operand passes SPKB (R233, R15). -/
def cmdSpadTraps (t : Team) (op : CpOp) (c v : DWord) (dst : Bool) (slot : Nat) : List TrapInfo :=
  let spad := if dst then kSPD c else kSPS c
  trapIf (spad && decide (v.toNat + spanOfCmd op c dst > t.kd.spkb * 1024)) 2 v.toNat slot

/-- Whether a context may load any overlay slot: supervisor mode that is not delegated (R312, R314). -/
def slotsFree (g : Group) : Bool := g.super && !g.deleg

/-- Every check of a cp trigger (R233, R234): latches a, b, c, none where empty, and the control word. -/
def cpTraps (s : State) (gid slot : Nat) (op : CpOp) (a b c : Option DWord) (ctl : DWord) : List TrapInfo :=
  let g := groupOf s gid
  let t := teamOf s g.team
  let empty (l : Option DWord) (n : Nat) : List TrapInfo := if l.isNone then slotTrap 9 (10 + 16 * n) slot else []
  empty a 0 ++ empty b 1 ++ empty c 2 ++
  trapIf (ctlBad op ctl) 1 0 slot ++
  trapIf (ctlZero op ctl) 2 0 slot ++
  trapIf (decide ((tgetD t.channels (kCH ctl) {}).last + 1 ≥ 2 ^ 32)) 2 (kCH ctl) slot ++
  (match a with
    | none => []
    | some v => cmdSpadTraps t op ctl v false slot ++ cmdAddrTraps op ctl v false slot) ++
  match b with
  | none => []
  | some v =>
    if op = .ovl then
      trapIf (decide (v.toNat > 7)) 2 v.toNat slot ++
      trapIf (decide (v.toNat ≤ 7) && !slotsFree g && !t.ovmask.getLsbD v.toNat) 0x0C 0 slot
    else cmdSpadTraps t op ctl v true slot ++ cmdAddrTraps op ctl v true slot

/-- A cp trigger stalls before it issues: the buffer of 64 commands is full (R234). A command that has started holds no entry of it any more
(DESIGN CHOICE, log 44). -/
def cpStalls (c : Core) : Bool := decide ((c.copies.filter fun x => decide (x.state = .buffered)).length ≥ 64)

/-- A cp trigger accepted (R234): the state, and the transfer identifier. -/
def cpApply (s : State) (gid half opId : Nat) (op : CpOp) (a b c ctl : DWord) : State × Nat :=
  let g := groupOf s gid
  let t := teamOf s g.team
  let ch := tgetD t.channels (kCH ctl) {}
  let n := ch.last + 1
  let cmd : CopyCmd :=
    { id := s.nextId, op := op, team := g.team, gid := gid, half := half, opId := opId, channel := kCH ctl, num := n
      a := a, b := b, time := c, ctl := ctl, sup := false }
  let k := coreOf s t.core
  let s := setTeam s g.team { t with channels := tset t.channels (kCH ctl) { ch with last := n } }
  (setCore { s with nextId := s.nextId + 1 } t.core { k with copies := k.copies ++ [cmd] }, n)

/-! ## Command bytes (R236, R238) -/

/-- A source operand. -/
def srcAt (spad : Bool) (a : Nat) : CSrc := if spad then .spad a else .glob a

/-- A source some bytes further on. -/
def srcDrop (c : CSrc) (k : Nat) : CSrc :=
  match c with
  | .glob va => .glob (va + k)
  | .spad off => .spad (off + k)
  | .const b => .const (b.drop k)

/-- The first bytes of a source. -/
def srcTake (c : CSrc) (k : Nat) : CSrc :=
  match c with
  | .const b => .const (b.take k)
  | .glob _ | .spad _ => c

/-- The bytes of a source left in its granule of 32 bytes. -/
def srcRoom (c : CSrc) (n : Nat) : Nat :=
  match c with
  | .glob va => 32 - va % 32
  | .spad off => 32 - off % 32
  | .const _ => n

/-- A move cut into moves that each lie within one ECC granule of the source and one of the destination (R369), and so within one line of
each; `fuel` is at least its length. -/
def cutMove : Nat → CMove → List CMove
  | 0, _ => []
  | fuel + 1, m =>
    if m.n = 0 then []
    else
      let k := min m.n (min (32 - m.dst % 32) (srcRoom m.src m.n))
      { m with n := k, src := srcTake m.src k } ::
        cutMove fuel { m with pos := m.pos + k, src := srcDrop m.src k, dst := m.dst + k, n := m.n - k }

/-- The moves of a command granule by granule; a 6-bit code's move is not cut. -/
def cutMoves (ms : List CMove) : List CMove := ms.flatMap fun m => if m.code.isSome then [m] else cutMove m.n m

/-- A 64-byte record or list read by an engine: its bytes, or why it cannot be read. -/
inductive RecRead where
  | ok (b : List Byte)
  | missing (m : PageMiss)
  | denied
  deriving DecidableEq, Repr

/-- Bytes of a record at a virtual address. -/
def readRecord (s : State) (t : Team) (va n : Nat) (sup : Bool) : RecRead :=
  let x := rangeX s t.core t.func t.asid va n { rd := true, w := false } sup
  match x.denied, x.missing with
  | some _, _ => .denied
  | none, m :: _ => .missing m
  | none, [] => .ok (readPieces s t.core t.func x.pieces).1

/-- A destination list (R228): its addresses, none where it is malformed. -/
def listOf (b : List Byte) : Option (List Nat) :=
  let w0 := wordAt b 0
  let n := bits w0 0 3
  let ok := decide (n ≠ 0) && decide (bits w0 3 61 = 0) && (List.range 7).all fun i =>
    if i < n then decide (bits (wordAt b (i + 1)) 52 12 = 0) else decide (wordAt b (i + 1) = 0)
  if ok then some ((List.range n).map fun i => wordAt b (i + 1)) else none

/-- Every coordinate of extents, dimension 0 fastest. -/
def coordsOf : List Nat → List (List Int)
  | [] => [[]]
  | e :: r => (coordsOf r).flatMap fun c => (List.range e).map fun (i : Nat) => (i : Int) :: c

/-- Coordinates filled up to seven. -/
def pad7 (c : List Int) : List Int := c ++ List.replicate (7 - c.length) 0

/-- A move of a copyt's code or element at a coordinate, from command byte `pos` on; the codes of a T6 group share the group's bytes. -/
def copytCode (src dst : Shape) (out : Bool) (pos : Nat) (c : List Int) : CMove :=
  let n := fmtBytes dst.fmt
  let sub := (c.getD 0 0).toNat % 4
  { pos := pos
    src := if out then .const (leBytes n ((hemValue src.fmt src.hem).toNat * if fmtT6 src.fmt then 2 ^ (6 * sub) else 1))
      else srcAt src.spad (elemAddr src c)
    dstSpad := dst.spad, dst := elemAddr dst c, n := n, code := if fmtT6 dst.fmt then some (sub, sub) else none }

/-- One coordinate's moves of a copyt from command byte `pos` on, and the command byte after them (R236), with the failure cause of a
coordinate that cannot be copied: 0x07 of a source coordinate out of range under PERMIT = 0, 0x06 of a scale byte below address 0. A block's
scale byte comes before its codes. -/
def copytMoves (src dst : Shape) (pos : Nat) (c : List Int) : List CMove × Nat × Option Nat :=
  let out := (outDim src c).isSome
  let c0 := (c.getD 0 0).toNat
  let head := fmtBlock dst.fmt && c0 % 32 = 0
  let sa := scaleAddr src (elemOffset src c)
  let da := scaleAddr dst (elemOffset dst c)
  let n := fmtBytes dst.fmt
  let same := fmtT6 dst.fmt && decide (c0 % 4 ≠ 0)
  let at_ := if same then pos - n else pos + if head then 1 else 0
  let bad := if out ∧ !src.permit then some 7
    else if head && (decide (da < 0) || (!out && decide (sa < 0))) then some 6 else none
  let scale : List CMove := if head then
      [{ pos := pos, src := if out then .const [0] else srcAt src.spad sa.toNat, dstSpad := dst.spad, dst := da.toNat, n := 1 }]
    else []
  (if bad.isSome then [] else scale ++ [copytCode src dst out at_ c], at_ + n, bad)

/-- The moves of a list of coordinates, and the first of them that fails: its command byte and cause. The coordinates after it stand in the
moves too: their bytes end old or new (R238, R239). -/
def copytAll (src dst : Shape) : Nat → List (List Int) → List CMove × Option (Nat × Nat)
  | _, [] => ([], none)
  | pos, c :: r =>
    let (ms, next, bad) := copytMoves src dst pos c
    let (rest, e) := copytAll src dst next r
    (ms ++ rest, match bad with
      | some k => some (pos, k)
      | none => e)

/-- A command's moves in command-byte order, with the command byte and cause of a failure that stands in its operands; or a record that
cannot be read. -/
inductive CmdPlan where
  | moves (ms : List CMove) (fail : Option (Nat × Nat))
  | missing (m : PageMiss)
  deriving DecidableEq, Repr

/-- The destination bytes of a copyt (R236): a row's codes, T6 ones in groups of three bytes, and its blocks' scale bytes. -/
def copytBytes (x : Shape) : Nat :=
  let e0 := x.ext.headD 0
  let row := (if fmtT6 x.fmt then 3 * ((e0 + 3) / 4) else e0 * fmtBytes x.fmt) + if fmtBlock x.fmt then (e0 + 31) / 32 else 0
  ((x.ext.take x.ndim).drop 1).foldl (· * ·) row

/-- The moves of a copyt's records (R236). A destination of 2^30 bytes or more fails the command with cause 0x01, like a malformed record: R239
names none for it (DESIGN CHOICE, log 44). -/
def copytPlan (ra rb : List Byte) : CmdPlan :=
  let sa := shapeOf ra
  let sb := shapeOf rb
  if shapeBad ra ∨ shapeBad rb ∨ sa.fmt ≠ sb.fmt ∨ copytBytes sb ≥ 2 ^ 30 then .moves [] (some (0, 1))
  else
    let (ms, e) := copytAll sa sb 0 ((coordsOf (sb.ext.take sb.ndim)).map pad7)
    .moves ms e

/-- The moves of a command (R236, R239). -/
def cmdPlan (s : State) (x : CopyCmd) : CmdPlan :=
  let t := teamOf s x.team
  let a := x.a.toNat
  let b := x.b.toNat
  match x.op with
  | .copy1 => .moves [{ pos := 0, src := srcAt (kSPS x.ctl) a, dstSpad := kSPD x.ctl, dst := b, n := kLEN x.ctl }] none
  | .copy2 =>
    .moves ((List.range (kROWS x.ctl)).map fun r =>
      { pos := r * kROWB x.ctl, src := srcAt (kSPS x.ctl) (a + r * kSSTR x.ctl), dstSpad := kSPD x.ctl, dst := b + r * kDSTR x.ctl
        n := kROWB x.ctl }) none
  | .fill =>
    .moves [{ pos := 0, src := .const ((List.range (kLEN x.ctl)).map fun j => BitVec.ofNat 8 (a / 256 ^ (j % 8)))
              dstSpad := kSPD x.ctl, dst := b, n := kLEN x.ctl }] none
  | .mcast =>
    match readRecord s t b 64 x.sup with
    | .missing m => .missing m
    | .denied => .moves [] (some (0, 6))
    | .ok r =>
      match listOf r with
      | none => .moves [] (some (0, 1))
      | some ds => .moves ((List.range ds.length).map fun k =>
          { pos := k * kLEN x.ctl, src := srcAt (kSPS x.ctl) a, dstSpad := false, dst := ds.getD k 0, n := kLEN x.ctl }) none
  | .copyt =>
    match readRecord s t a 64 x.sup, readRecord s t b 64 x.sup with
    | .missing m, _ => .missing m
    | .denied, _ => .moves [] (some (0, 6))
    | .ok _, .missing m => .missing m
    | .ok _, .denied => .moves [] (some (0, 6))
    | .ok ra, .ok rb => copytPlan ra rb
  | .coll | .ovl => .moves [] none

/-- How a command fails at a byte: on a page, or for a cause that stands in its operands. -/
inductive CFault where
  | missing (m : PageMiss)
  | denied
  | cause (code : Nat)
  deriving DecidableEq, Repr

/-- The first byte of a global range that fails. -/
def globFault (s : State) (x : CopyCmd) (va n : Nat) (write : Bool) : Option (Nat × CFault) :=
  let t := teamOf s x.team
  if n = 0 then none
  else
    (xlateRange s t.core t.func t.asid va n { rd := !write, w := write } x.sup).findSome? fun p =>
      match p.2 with
      | .ok _ => none
      | .missing pg l h => some (p.1 - va, .missing { va := pg, level := l, host := h, write := write })
      | .denied => some (p.1 - va, .denied)

/-- The first byte of a scratchpad range whose Polder line cannot be used, or which passes SPKB. -/
def spadFault (s : State) (x : CopyCmd) (off n : Nat) (write : Bool) : Option (Nat × CFault) :=
  let t := teamOf s x.team
  if n = 0 then none
  else if off + n > t.kd.spkb * 1024 then some (t.kd.spkb * 1024 - off, .denied)
  else
    let a := t.spBase + off
    (lineAddrs a n).findSome? fun l =>
      let lo := max a l
      let r := spadX s t.core lo 1 write
      match r.denied, r.missing with
      | some _, _ => some (lo - a, .denied)
      | none, m :: _ => some (lo - a, .missing m)
      | none, [] => none

/-- The earlier of two failures. -/
def firstFault (a b : Option (Nat × CFault)) : Option (Nat × CFault) :=
  match a, b with
  | none, r => r
  | r, none => r
  | some p, some q => if p.1 ≤ q.1 then some p else some q

/-- The first byte of a move that fails. -/
def moveFault (s : State) (x : CopyCmd) (m : CMove) : Option (Nat × CFault) :=
  let src := match m.src with
    | .glob va => globFault s x va m.n false
    | .spad off => spadFault s x off m.n false
    | .const _ => none
  firstFault src (if m.dstSpad then spadFault s x m.dst m.n true else globFault s x m.dst m.n true)

/-- The first command byte from `at_` on whose source or destination fails (R238). -/
def planFault (s : State) (x : CopyCmd) (at_ : Nat) : List CMove → Option (Nat × CFault)
  | [] => none
  | m :: r =>
    if m.pos + m.n ≤ at_ then planFault s x at_ r
    else match moveFault s x m with
      | some (k, f) => some (max at_ (m.pos + k), f)
      | none => planFault s x at_ r

/-- What a move's source and destination need of pages. -/
def moveX (s : State) (x : CopyCmd) (m : CMove) : RangeX :=
  let t := teamOf s x.team
  let sx : RangeX := match m.src with
    | .glob va => rangeX s t.core t.func t.asid va m.n { rd := true, w := false } x.sup
    | .spad off => spadX s t.core (t.spBase + off) m.n false
    | .const _ => {}
  rangeJoin sx (if m.dstSpad then spadX s t.core (t.spBase + m.dst) m.n true
    else rangeX s t.core t.func t.asid m.dst m.n { rd := false, w := true } x.sup)

/-- Every page of a command: mcast checks them all first (R238). -/
def planPages (s : State) (x : CopyCmd) (ms : List CMove) : RangeX := ms.foldl (fun r m => rangeJoin r (moveX s x m)) {}

/-! ## Bytes of a command -/

/-- The source bytes of a move as they stand, and their poison. -/
def moveRead (s : State) (x : CopyCmd) (m : CMove) : List Byte × Bool × State :=
  let t := teamOf s x.team
  match m.src with
  | .glob va => virtRead s t.core t.func t.asid va m.n x.sup
  | .spad off =>
    let (b, s) := spadGet s t.core (t.spBase + off) m.n
    (b, spacePoison s t.core t.func .spad (t.spBase + off) m.n, s)
  | .const b => (b, false, s)

/-- The places of a move's destination. -/
def moveSpots (s : State) (x : CopyCmd) (m : CMove) : List Piece :=
  let t := teamOf s x.team
  if m.dstSpad then
    [{ va := m.dst, n := m.n, frame := { space := .spad, pa := t.spBase + m.dst, rd := true, w := true, sup := false, uncached := false } }]
  else (rangeX s t.core t.func t.asid m.dst m.n { rd := false, w := true } x.sup).pieces

/-- Bytes written at a move's destination, with the poison they carry (R369). -/
def moveWrite (s : State) (x : CopyCmd) (m : CMove) (b : List Byte) (poison : Bool) : State :=
  let t := teamOf s x.team
  let ps := moveSpots s x m
  let s := if m.dstSpad then s else touchPieces s t.core t.func t.asid ps true
  writePieces s t.core t.func poison ps b

/-- The bytes at a move's destination. -/
def moveOld (s : State) (x : CopyCmd) (m : CMove) : List Byte × State :=
  let t := teamOf s x.team
  let (b, _, s) := readPieces s t.core t.func (moveSpots s x m)
  (b, s)

/-- The bytes a move writes: with `code`, one 6-bit code placed in the destination's group. -/
def moveBytes (m : CMove) (old src : List Byte) : List Byte :=
  match m.code with
  | none => src
  | some (i, j) => leBytes 3 (setBits (leVal old) (6 * j) 6 (bits (leVal src) (6 * i) 6))

/-- The free choice of a source byte's line (R251): as it stood at the start, or as it stands at the end. -/
def srcKey (m : CMove) (i : Nat) : Nat :=
  match m.src with
  | .glob va => 2 * ((va + i) / 128)
  | .spad off => 2 * ((off + i) / 128)
  | .const _ => 0

/-- The free choice of a destination byte: written at the command's start or at its end, a global line whole (R251), a scratchpad byte by
itself, since only a recall of another core can tell (R253). -/
def dstKey (m : CMove) (i : Nat) : Nat := 2 * (if m.dstSpad then m.dst + i else (m.dst + i) / 128) + 1

/-- More than any choice of a command. -/
def keyRoom (ms : List CMove) : Nat := ms.foldl (fun n m => max n (max (srcKey m m.n) (dstKey m m.n) + 1)) 0

/-- Whether a byte of a move is written at its command's start, not at its end; which is not predictable (R235, R251, R253). Log 10. -/
def early (x : CopyCmd) (m : CMove) (i : Nat) : Bool := Config.freeBit (x.draw + dstKey m i)

/-- Whether a source line is read at the command's start: it is chosen so, or some byte written then takes its value (R251: a line is read
once). -/
def readEarly (x : CopyCmd) (key : Nat) : Bool :=
  !Config.freeBit (x.draw + key) || x.moves.any fun m => (List.range m.n).any fun i => decide (srcKey m i = key) && early x m i

/-- The bytes a move reads: each source line as it stood at the start or as it stands (R237, R251, log 10). -/
def chooseBytes (x : CopyCmd) (m : CMove) (first now : List Byte) : List Byte :=
  if first.isEmpty || first = now then now
  else (List.range now.length).map fun i => if readEarly x (srcKey m i) then first.getD i 0 else now.getD i 0

/-- When a command's bytes are written. -/
inductive CopyPart where
  | start | finish | whole
  deriving DecidableEq, Repr

/-- Whether a byte of a move is written in a part. -/
def inPart (x : CopyCmd) (part : CopyPart) (m : CMove) (i : Nat) : Bool :=
  match part with
  | .start => early x m i
  | .finish => !early x m i
  | .whole => true

/-- One move performed from command byte `at_` on: its bytes of a part are written, the others stay. `first` are its source bytes at the
start, where they are to be chosen from. -/
def runMove (s : State) (x : CopyCmd) (part : CopyPart) (at_ : Nat) (m : CMove) (first : List Byte) : State :=
  let put (i : Nat) : Bool := decide (at_ ≤ m.pos + i) && inPart x part m i
  if (List.range m.n).all fun i => !put i then s
  else
    let (now, p, s) := moveRead s x m
    let (old, s) := moveOld s x m
    let new := moveBytes m old (chooseBytes x m first now)
    moveWrite s x m ((List.range new.length).map fun i => if put i then new.getD i 0 else old.getD i 0) p

/-- The moves of a command performed from command byte `at_` on, in order. -/
def runMoves (s : State) (x : CopyCmd) (part : CopyPart) (at_ : Nat) : List CMove → List (List Byte) → State
  | [], _ => s
  | m :: r, fs =>
    runMoves (if m.pos + m.n ≤ at_ then s else runMove s x part at_ m (fs.headD [])) x part at_ r fs.tail

/-- The command bytes written at the command's start. -/
def earlyBytes (x : CopyCmd) (at_ : Nat) (ms : List CMove) : Nat :=
  (ms.map fun m => if m.code.isSome && decide ((m.code.getD (0, 0)).2 ≠ 0) then 0
    else ((List.range m.n).filter fun i => decide (at_ ≤ m.pos + i) && early x m i).length).sum

/-- The moves that come before command byte `q`. -/
def movesBefore (q : Nat) (ms : List CMove) : List CMove :=
  ms.filterMap fun m =>
    if m.pos + m.n ≤ q then some m
    else if m.pos ≥ q ∨ m.code.isSome then none
    else some { m with n := q - m.pos, src := srcTake m.src (q - m.pos) }

/-- Bytes of a command from a fault on: old or new byte by byte where they can be reached (R238, log 10); those of `part` that were written
at the command's start stay. -/
def blurMoves (s : State) (x : CopyCmd) (part : CopyPart) (q : Nat) : List CMove → State
  | [] => s
  | m :: r =>
    if m.pos + m.n ≤ q ∨ (moveFault s x m).isSome then blurMoves s x part q r
    else
      let (b, p, s) := moveRead s x m
      let (old, s) := moveOld s x m
      let new := moveBytes m old b
      let mixed := (List.range new.length).map fun i =>
        if m.pos + i < q || !inPart x part m i then old.getD i 0 else drawByte (old.getD i 0) (new.getD i 0) (s.free + m.pos + i)
      blurMoves (moveWrite s x m mixed p) x part q r

/-- The length of a plan in command bytes. -/
def planLength (ms : List CMove) : Nat := ms.foldl (fun n m => max n (m.pos + m.n)) 0

/-- The poison cleared in the granules that a command's moves have wholly rewritten with sound bytes (R369). -/
def clearMoves (s : State) (x : CopyCmd) (ms : List CMove) : State :=
  let t := teamOf s x.team
  let ps := (ms.filter fun m => !(moveRead s x m).2.1).flatMap (moveSpots s x)
  [Space.dev, .host, .peer, .spad].foldl (fun s sp =>
    clearPoison s t.core t.func sp ((ps.filter fun p => decide (p.frame.space = sp)).flatMap fun p => (List.range p.n).map fun i => p.frame.pa + i)) s

/-! ## Overlay loads (R139, R316) -/

/-- An overlay load begins: OVRES clears (R139). A load into slot 7 takes the place of the supplied routine (R314). -/
def overlayBegin (s : State) (core slot va asid func : Nat) (sup : Bool) (cmd : Option Nat) (after : Option (Nat × Nat)) : State :=
  let c := coreOf s core
  setCore { s with nextId := s.nextId + 1 } core { c with
    ovres := c.ovres &&& ~~~(1#8 <<< slot)
    supplied := c.supplied && decide (slot ≠ 7)
    loads := c.loads ++ [{ id := s.nextId, slot := slot, va := va, asid := asid, func := func, sup := sup, cmd := cmd, after := after }] }

/-- Slot bytes: 64 KiB. -/
def slotBytes : Nat := 65536

/-- A load ends: where it succeeded and no other load into the slot remains, OVRES sets. -/
def overlayEnd (s : State) (core : Nat) (l : OvLoad) (ok : Bool) : State :=
  let c := coreOf s core
  let rest := c.loads.filter fun x => decide (x.id ≠ l.id)
  let more := rest.any fun x => decide (x.slot = l.slot)
  setCore s core { c with loads := rest, ovres := if ok && !more then c.ovres ||| (1#8 <<< l.slot) else c.ovres }

/-- Instruction-memory bytes of a slot after a failed load: each byte earlier or loaded (R139, log 10). -/
def overlayBlur (s : State) (core : Nat) (l : OvLoad) (ps : List Piece) : State :=
  ps.foldl (fun s p =>
    let (b, _, s) := readPieces s core l.func [p]
    let base := slotBytes * l.slot + (p.va - l.va)
    let c := coreOf s core
    let mixed := (List.range b.length).map fun i => drawByte (memGet c.imem (base + i)) (b.getD i 0) (s.free + base + i)
    setCore s core { c with imem := memWrite c.imem base mixed }) s

/-- A slot's bytes from an offset on written, with the poison of each granule (R369). -/
def imagePut (c : Core) (a : Nat) (b : List Byte) (poison : Bool) : Core :=
  { c with imem := memWrite c.imem a b, imemPoison := poisonAfter c.imemPoison a b.length poison }

/-- The pieces of a load's source copied to its slot. -/
def imageCopy (s : State) (core : Nat) (l : OvLoad) (ps : List Piece) : State :=
  ps.foldl (fun s p =>
    let (b, bad, s) := readPieces (touchPieces s core l.func l.asid [p] false) core l.func [p]
    let base := slotBytes * l.slot + (p.va - l.va)
    let s := setCore s core (imagePut (coreOf s core) base b false)
    if bad then
      let gs := (granulesOf p.frame.pa p.n).filter fun g => spacePoison s core l.func p.frame.space (32 * g) 32
      let c := coreOf s core
      setCore s core { c with imemPoison := poisonAdd c.imemPoison (gs.map fun g => base / 32 + (g - p.frame.pa / 32)) }
    else s) s

/-- The first load into a slot. -/
def slotLoad (c : Core) (slot : Nat) : Option OvLoad := c.loads.find? fun l => decide (l.slot = slot)

/-! ## Channels (R234, R239) -/

/-- A command completes: DONE, the first failure, P3 and its locks (R234, R239, R208). -/
def cmdEnds (s : State) (core : Nat) (x : CopyCmd) (cause : Option Nat) : State :=
  let t := teamOf s x.team
  let ch := tgetD t.channels x.channel {}
  let fail := match ch.fail, cause with
    | none, some c => some (x.num, c)
    | f, _ => f
  let s := setTeam s x.team { t with
    channels := tset t.channels x.channel { ch with done := x.num, fail := fail, pend := false, prog := 0 } }
  let g := groupOf s x.gid
  let s := setGroup s x.gid { g with paths := g.paths.map fun e => (e.1, pathDone e.2 x.opId) }
  let c := coreOf s core
  setCore s core { unlockBanks c x.id with copies := c.copies.filter fun y => decide (y.id ≠ x.id) }

/-- A command's record in its core replaced. -/
def setCmd (s : State) (core : Nat) (x : CopyCmd) : State :=
  let c := coreOf s core
  setCore s core { c with copies := c.copies.map fun y => if y.id = x.id then x else y }

/-- PROG and PEND of a command's channel (R234, R238). -/
def setProg (s : State) (x : CopyCmd) (prog : Nat) (pend : Bool) : State :=
  let t := teamOf s x.team
  let ch := tgetD t.channels x.channel {}
  setTeam s x.team { t with channels := tset t.channels x.channel { ch with prog := prog, pend := pend } }

/-- A command stopped on page requests at command byte `q` (R238). -/
def cmdStops (s : State) (core : Nat) (x : CopyCmd) (q : Nat) (pages : List PageMiss) : State :=
  let t := teamOf s x.team
  let (ws, s) := raiseAll s t.func t.asid missKind 3 [.copy core x.id] pages
  setProg (setCmd s core { x with state := .stopped q, waits := ws, resumeAt := q }) x q true

/-- A command's target ranges in the scratchpad (R252). -/
def cmdTargets (t : Team) (ms : List CMove) : List (Nat × Nat) :=
  (ms.filter fun m => m.dstSpad).map fun m => (t.spBase + m.dst, m.n)

/-- Whether a scratchpad address is among a command's targets. -/
def targetsHold (t : Team) (ms : List CMove) (a : Nat) : Bool :=
  (cmdTargets t ms).any fun r => decide (r.1 ≤ a ∧ a < r.1 + r.2)

/-- The source bytes of each move as they stand. -/
def snapMoves (s : State) (x : CopyCmd) (ms : List CMove) : List (List Byte) :=
  ms.map fun m => match m.src with
    | .const _ => []
    | .glob _ | .spad _ => (moveRead s x m).1

/-- What an mcast writes at its end, with the places that its check has found (R238); a granule of 32 bytes lies in one line, so it is written
early or late as a whole. -/
def lateMoves (s : State) (x : CopyCmd) : List CMove → List (List Byte) → List LateWrite
  | [], _ => []
  | m :: r, fs =>
    (if early x m 0 then [] else lateOf (moveRead s x m).2.1 (moveSpots s x m) (fs.headD [])) ++ lateMoves s x r fs.tail

/-- The pages of an mcast's late writes touched. -/
def touchLate (s : State) (x : CopyCmd) (ms : List CMove) : State :=
  let t := teamOf s x.team
  (ms.filter fun m => !early x m 0).foldl (fun s m => touchPieces s t.core t.func t.asid (moveSpots s x m) true) s

/-- A command with moves and no fault in them runs from a command byte: its source bytes are noted, and the bytes that it writes at its
start are written and counted in PROG (R234, R237, R251, R253). -/
def cmdOpens (s : State) (core : Nat) (x : CopyCmd) (at_ : Nat) (ms : List CMove) : State :=
  let x := { x with state := .running, resumeAt := at_, moves := ms, snap := snapMoves s x ms, draw := s.free }
  let s := setProg (setCmd { s with free := s.free + keyRoom ms } core x) x (at_ + earlyBytes x at_ ms) false
  let u := runMoves s x .start at_ ms x.snap
  let u := if x.op = .mcast then touchLate (setCmd u core { x with late := lateMoves s x ms x.snap }) x ms else u
  settleReaders s u core x.id false (targetsHold (teamOf s x.team) ms)

/-- The records of a command read: dirty Polder lines that hold them are recalled (R204). -/
def readOperands (s : State) (x : CopyCmd) : State :=
  let t := teamOf s x.team
  let get (s : State) (a : DWord) : State := (virtRead s t.core t.func t.asid a.toNat 64 x.sup).2.2
  match x.op with
  | .mcast => get s x.b
  | .copyt => get (get s x.a) x.b
  | .copy1 | .copy2 | .fill | .coll | .ovl => s

/-- A command that stops or fails at command byte `q`: the bytes of a part before it are written, those from it on are old or new (R238,
R239), and running readers of its targets take each operand from before it or from after it (R284). -/
def cmdHalts (s : State) (core : Nat) (x : CopyCmd) (part : CopyPart) (at_ q : Nat) (ms : List CMove) : State :=
  let u := runMoves s x part at_ (movesBefore q ms) x.snap
  let u := { blurMoves u x part q ms with free := s.free + planLength ms }
  settleReaders s u core x.id true (targetsHold (teamOf s x.team) ms)

/-- A command goes on from a command byte: it runs, stops on a page, or fails (R238, R239). Its target banks are locked from its start
on (R252). -/
def cmdRun (s : State) (core : Nat) (x : CopyCmd) (at_ : Nat) : State :=
  match cmdPlan s x with
  | .missing m => cmdStops s core x at_ [m]
  | .moves ms fail =>
    let s := readOperands s x
    let s := setCore s core (lockBanks (unlockBanks (coreOf s core) x.id) x.id (cmdTargets (teamOf s x.team) ms))
    let ms := cutMoves ms
    let x := { x with moves := [], snap := [] }
    let pages := planPages s x ms
    if x.op = .mcast ∧ pages.denied.isSome then cmdEnds s core x (some 6)
    else if x.op = .mcast ∧ !pages.missing.isEmpty then cmdStops s core x 0 pages.missing
    else
      match firstFault (planFault s x at_ ms) (fail.map fun e => (e.1, .cause e.2)) with
      | some (q, .missing m) => cmdStops (cmdHalts s core x .whole at_ q ms) core x q [m]
      | some (q, .denied) => cmdEnds (cmdHalts s core x .whole at_ q ms) core x (some 6)
      | some (q, .cause c) => cmdEnds (cmdHalts s core x .whole at_ q ms) core x (some c)
      | none => cmdOpens s core x at_ ms

/-! ## Starting, resuming and completing (R235, R237, R238) -/

/-- Whether a buffered command's conditions hold (R235). -/
def cmdReady (s : State) (x : CopyCmd) : Bool :=
  decide (x.state = .buffered) && decide (x.time.toNat ≤ s.gtime) &&
    decide (x.num = (tgetD (teamOf s x.team).channels x.channel {}).done + 1)

/-- Whether a command starts before another (R235): by issue time, then by buffer entry. -/
def cmdBefore (a b : CopyCmd) : Bool := decide (a.time.toNat < b.time.toNat) || (decide (a.time = b.time) && decide (a.id < b.id))

/-- A command of a core. -/
def findCmd (c : Core) (id : Nat) : Option CopyCmd := c.copies.find? fun x => decide (x.id = id)

/-- Whether a command waits for its group's FENCE of die scope in an earlier bundle, whose stores it is to read (R237). -/
def fenceHolds (s : State) (gid opId : Nat) : Bool := (groupOf s gid).fences.any fun f => decide (f.scope ≥ 3 ∧ f.id < opId)

/-- Whether moves must wait: for banks that another command holds (R252, R284), or for a port to a peer (R363). -/
def movesBlocked (s : State) (core : Nat) (x : CopyCmd) (ms : List CMove) : Bool :=
  let t := teamOf s x.team
  let srcs := ms.filterMap fun m => match m.src with
    | .spad off => some (t.spBase + off, m.n)
    | .glob _ | .const _ => none
  banksHeld (coreOf s core) x.id (cmdTargets t ms ++ srcs) ||
    ms.any fun m => !piecesOpen s t.func (moveX s x m).pieces

/-- Whether a record at an address must wait for a port to a peer (R363). -/
def recordBlocked (s : State) (t : Team) (a n : Nat) (sup : Bool) : Bool :=
  !piecesOpen s t.func (rangeX s t.core t.func t.asid a n { rd := true, w := false } sup).pieces

/-- Whether the records of a command's operands must wait for a port to a peer (R363). -/
def operandsBlocked (s : State) (x : CopyCmd) : Bool :=
  let t := teamOf s x.team
  match x.op with
  | .mcast => recordBlocked s t x.b.toNat 64 x.sup
  | .copyt => recordBlocked s t x.a.toNat 64 x.sup || recordBlocked s t x.b.toNat 64 x.sup
  | .copy1 | .copy2 | .fill | .coll | .ovl => false

/-- Whether a command must wait before it starts or goes on. -/
def cmdBlocked (s : State) (core : Nat) (x : CopyCmd) : Bool :=
  fenceHolds s x.gid x.opId || operandsBlocked s x || match cmdPlan s x with
  | .missing _ => false
  | .moves ms _ => movesBlocked s core x ms

/-- COPY_START (R235). -/
def copyStarts (s : State) (core id : Nat) : State :=
  let c := coreOf s core
  match findCmd c id with
  | none => s
  | some x =>
    if !cmdReady s x || (c.copies.any fun y => cmdReady s y && cmdBefore y x) || cmdBlocked s core x then s
    else
      let t := teamOf s x.team
      match x.op with
      | .ovl => overlayBegin (setCmd s core { x with state := .running, started := s.gtime }) core x.b.toNat x.a.toNat t.asid t.func
          x.sup (some x.id) none
      | .coll => setCmd s core { x with state := .collective, started := s.gtime }
      | _ => cmdRun s core { x with started := s.gtime } 0

/-- COPY_RESUME (R238, R239): after its responses a stopped command goes on at q, or fails where one failed. -/
def copyResumes (s : State) (core id : Nat) : State :=
  match findCmd (coreOf s core) id with
  | none => s
  | some x =>
    match x.state with
    | .stopped q =>
      if !x.waits.isEmpty then s
      else if x.failed then cmdEnds s core x (some 6)
      else if x.op = .coll then setProg (setCmd s core { x with state := .collective }) x 0 false
      else if cmdBlocked s core x then s
      else cmdRun s core { x with state := .running } q
    | .buffered | .running | .collective => s

/-- COPY_COMPLETE (R237): the bytes not written at the start are written and DONE advances; on a page that has gone meanwhile the command
stops or fails (R238, R239), but an mcast, which has passed its check, meets no further fault. -/
def copyCompletes (s : State) (core id : Nat) : State :=
  match findCmd (coreOf s core) id with
  | none => s
  | some x =>
    if x.state ≠ .running ∨ x.op = .ovl then s
    else if x.op = .mcast then
      let f := (teamOf s x.team).func
      if lateOpen s f x.late then cmdEnds (clearMoves (performLate s f x.late) x x.moves) core x none else s
    else if movesBlocked s core x x.moves then s
    else
      match planFault s x x.resumeAt x.moves with
      | none =>
        let u := clearMoves (runMoves s x .finish x.resumeAt x.moves x.snap) x x.moves
        cmdEnds (settleReaders s u core x.id true (targetsHold (teamOf s x.team) x.moves)) core x none
      | some (q, f) =>
        let s := cmdHalts s core x .finish x.resumeAt q x.moves
        match f with
        | .missing m => cmdStops s core x q [m]
        | .denied => cmdEnds s core x (some 6)
        | .cause c => cmdEnds s core x (some c)

/-- An overlay load that has read every byte: the slot holds them, and an image in slot 7 is measured (R139, R373). -/
def overlayFills (s : State) (core : Nat) (l : OvLoad) (ps : List Piece) : State :=
  let s := imageCopy s core l ps
  if l.slot = 7 then extendMeasure s 1 (memRead (coreOf s core).imem supervisorPc slotBytes) else s

/-- The pages that an overlay load waits for: OVLOAD asks for all that are missing, an ovl command for the first one it meets (R238). -/
def overlayMisses (l : OvLoad) (ms : List PageMiss) : List PageMiss := if l.cmd.isSome then ms.take 1 else ms

/-- An ovl command stopped at a missing page, its bytes before that page written; or its load (R139, R238). -/
def overlayStops (s : State) (core : Nat) (l : OvLoad) (x : RangeX) : State :=
  let ms := overlayMisses l x.missing
  let (ws, s) := raiseAll s l.func l.asid (fun _ => 2) 3 [.overlay core l.id] ms
  let c := coreOf s core
  let s := setCore s core { c with loads := c.loads.map fun y => if y.id = l.id then { y with waits := ws } else y }
  match l.cmd, ms with
  | some id, m :: _ =>
    match findCmd (coreOf s core) id with
    | none => s
    | some c => setProg (imageCopy s core l (x.pieces.filter fun p => decide (p.va < m.va))) c (m.va - l.va) true
  | _, _ => s

/-- Whether an overlay load fails on a denied page: one that it meets, in byte order, before every missing page (R139, R238). -/
def overlayDenied (x : RangeX) : Bool :=
  match x.denied with
  | some d => x.missing.all fun m => decide (d < m.va)
  | none => false

/-- OVERLAY_LOAD_COMPLETE (R139, R238, R239): the oldest load into a slot ends, waits for pages, or fails. It reads its source once the
group's FENCE of die scope is complete, and a peer's bytes by a port that is up (R363). -/
def overlayStep (s : State) (core slot : Nat) : State :=
  match slotLoad (coreOf s core) slot with
  | none => s
  | some l =>
    let x := rangeX s core l.func l.asid l.va slotBytes { rd := true, w := false } l.sup
    if !l.waits.isEmpty || ((l.after.map fun o => fenceHolds s o.1 o.2).getD false) || !piecesOpen s l.func x.pieces then s
    else
      let finish (s : State) (ok : Bool) : State :=
        let s := overlayEnd s core l ok
        match l.cmd with
        | none => s
        | some id => match findCmd (coreOf s core) id with
          | none => s
          | some c => cmdEnds s core c (if ok then none else some 6)
      if l.failed || overlayDenied x then
        let s' := overlayBlur s core l x.pieces
        finish { s' with free := s.free + 8 * slotBytes } false
      else if !x.missing.isEmpty then overlayStops s core l x
      else finish (overlayFills s core l x.pieces) true

/-! ## Collectives (R365-R367) -/

/-- A collective descriptor's fields (R365). -/
structure Coll where
  op : Nat
  fmt : Nat
  red : Nat
  wire : Bool
  rank : Nat
  nrank : Nat
  root : Nat
  src : Nat
  count : Nat
  tree : Bool
  group : Nat
  seq : Nat
  rtab : Nat
  deriving DecidableEq, Repr

/-- The descriptor in 64 bytes. -/
def collOf (b : List Byte) : Coll :=
  let w := wordAt b 0
  { op := bits w 0 4, fmt := bits w 4 4, red := bits w 8 2, wire := bits w 10 1 = 1, rank := bits w 12 12, nrank := bits w 24 12
    root := bits w 36 12, src := bits (wordAt b 1) 0 52, count := bits (wordAt b 2) 0 40, tree := bits w 11 1 = 1
    group := wordAt b 3, seq := bits (wordAt b 4) 0 32, rtab := bits (wordAt b 5) 0 52 }

/-- A malformed descriptor (R365). -/
def collBad (b : List Byte) : Bool :=
  let c := collOf b
  decide (bits (wordAt b 0) 48 16 ≠ 0) || decide (bits (wordAt b 1) 52 12 ≠ 0) || decide (bits (wordAt b 2) 40 24 ≠ 0) ||
  decide (bits (wordAt b 4) 32 32 ≠ 0) || decide (bits (wordAt b 5) 52 12 ≠ 0) || decide (wordAt b 6 ≠ 0) || decide (wordAt b 7 ≠ 0) ||
  decide (c.op > 6) || !(c.fmt == 0 || c.fmt == 2 || c.fmt == 5 || c.fmt == 6 || c.fmt == 7) || decide (c.red = 3) ||
  decide (c.nrank < 2) || (fmtBlock c.fmt && (decide (c.op < 4) || decide (c.count % 32 ≠ 0)))

/-- Bytes of n elements, scale bytes after block data. -/
def collBytes (fmt n : Nat) : Nat :=
  match fmt with
  | 0 => 4 * n
  | 2 => 2 * n
  | 5 => n + n / 32
  | 6 => 3 * n / 4 + n / 32
  | _ => 4 * n

/-- Source bytes of a rank (R366). -/
def collSource (c : Coll) (rank : Nat) : Nat :=
  let n := collBytes c.fmt c.count
  match c.op with
  | 0 => n
  | 1 => n * c.nrank
  | 2 => n
  | 3 => if rank = c.root then n else 0
  | 4 => n
  | 5 => if rank = c.root then n * c.nrank else 0
  | _ => n * c.nrank

/-- The fields on which ranks must agree (R367), from word 0 and COUNT. -/
def collAgree (w : DWord) (count : Nat) : List Nat :=
  [bits w.toNat 0 4, bits w.toNat 4 4, bits w.toNat 8 2, bits w.toNat 10 1, bits w.toNat 24 12, bits w.toNat 36 12, count]

/-- wire(x) (R366): an element's pattern on the wire. -/
def wireOf (c : Coll) (x : Nat) : Nat :=
  if c.fmt = 7 then x
  else
    let src := if c.fmt = 2 then bf16 else fp32
    if c.wire then (if c.fmt = 2 then x else (fConvert fp32 bf16 .rn x).bits) else if src = fp32 then x else (fConvert bf16 fp32 .rn x).bits

/-- One reduction step (R366). -/
def reduceStep (c : Coll) (acc x : Nat) : Nat :=
  if c.fmt = 7 then
    match c.red with
    | 0 => (acc + x) % 2 ^ 32
    | 1 => if signedOf 32 x < signedOf 32 acc then x else acc
    | _ => if signedOf 32 x > signedOf 32 acc then x else acc
  else
    let f := if c.wire then bf16 else fp32
    match c.red with
    | 0 => (fAddVal f .rn (fRead f acc) (fRead f x)).bits
    | 1 => (fMinMax f false acc x).bits
    | _ => (fMinMax f true acc x).bits

/-- acc in FMT (R366). -/
def reduceOut (c : Coll) (acc : Nat) : Nat :=
  if c.fmt = 7 then acc
  else
    let f := if c.wire then bf16 else fp32
    let d := if c.fmt = 2 then bf16 else fp32
    if f = d then (if fNaN (fRead f acc) then qnan f else acc) else (fConvert f d .rn acc).bits

/-- Element bytes of a reducible format. -/
def collElem (fmt : Nat) : Nat := if fmt = 2 then 2 else 4

/-- The reduction of element i of the ranks' blocks, ranks in rising order (R366). -/
def reduceElem (c : Coll) (srcs : List (List Byte)) (i : Nat) : Nat :=
  let n := collElem c.fmt
  let v (b : List Byte) : Nat := wireOf c (leVal ((b.drop (n * i)).take n))
  match srcs with
  | [] => 0
  | b :: r => reduceOut c (r.foldl (fun a x => reduceStep c a (v x)) (v b))

/-- The reduction of the ranks' blocks. -/
def reduceBlock (c : Coll) (srcs : List (List Byte)) : List Byte :=
  (List.range c.count).flatMap fun i => leBytes (collElem c.fmt) (reduceElem c srcs i)

/-- How an operation places its data (R366): what a rank's destination receives of the sources of ranks 0, 1, ..., given how their blocks are
reduced. -/
def collPlace {α : Type} (c : Coll) (reduce : List (List α) → List α) (srcs : List (List α)) : List α :=
  let n := collBytes c.fmt c.count
  let block (b : List α) (r : Nat) : List α := (b.drop (n * r)).take n
  let root := srcs.getD c.root []
  match c.op with
  | 0 => reduce srcs
  | 1 => reduce (srcs.map fun b => block b c.rank)
  | 2 => srcs.flatten
  | 3 => root
  | 4 => if c.rank = c.root then srcs.flatten else []
  | 5 => block root c.rank
  | _ => srcs.flatMap fun b => block b c.rank

/-- What a rank's destination receives (R366). -/
def collResult (c : Coll) (srcs : List (List Byte)) : List Byte := collPlace c (reduceBlock c) srcs

/-- Which bytes of a rank's destination are poisoned: an element is where one of the bytes that it is made from is (R369). -/
def collBadBytes (c : Coll) (bad : List (List Bool)) : List Bool :=
  let n := collElem c.fmt
  collPlace c (fun bs => (List.range c.count).flatMap fun i =>
    List.replicate n (bs.any fun b => ((b.drop (n * i)).take n).any id)) bad

/-- The ranks of a call among those the event brings: those of equal GROUP and SEQ (R365). -/
def callRanks (c : Coll) (rs : List CollRank) : List CollRank := rs.filter fun x => decide (x.group = c.group ∧ x.seq = c.seq)

/-- The source of a rank among those of a call. -/
def rankOf (rs : List CollRank) (r : Nat) : Option CollRank := rs.find? fun x => decide (x.rank = r)

/-- A rank table with a nonzero reserved field (R365, R8). -/
def rtabBad (c : Coll) (b : List Byte) : Bool := (List.range c.nrank).any fun r => decide (wordAt b r ≥ 2 ^ 14)

/-- Whether some rank of a call lies on another module (R365). -/
def callRemote (s : State) (c : Coll) (b : List Byte) : Bool := (List.range c.nrank).any fun r => decide (bits (wordAt b r) 0 12 ≠ s.modid)

/-- The ports that are up. -/
def upPorts (s : State) : List Nat := (List.range 12).filter fun p => (portOf s p).up

/-- Bytes of a chunk of a collective (R367). -/
def collChunk : Nat := 65536

/-- Collective data sent as flits of TYPE 3 on ports that are up; which ports, and so the ring or tree that the engine forms, is not
predictable (R364, R367; log 18). -/
def collSends : Nat → State → State
  | 0, s => s
  | n + 1, s =>
    match upPorts s with
    | [] => s
    | ps => collSends n (sendFlit { s with free := s.free + 1 } (ps.getD (Config.freeNat s.free % ps.length) 0) 3)

/-- Bytes written at a destination by granules, each poisoned where one of its bytes is (R369). -/
def writeMixed : Nat → State → CopyCmd → Nat → List Byte → List Bool → State
  | 0, s, _, _, _, _ => s
  | fuel + 1, s, x, dst, b, bad =>
    if b.isEmpty then s
    else
      let k := min b.length (32 - dst % 32)
      let m : CMove := { pos := 0, src := .const (b.take k), dstSpad := false, dst := dst, n := k }
      writeMixed fuel (moveWrite s x m (b.take k) ((bad.take k).any id)) x (dst + k) (b.drop k) (bad.drop k)

/-- The chunks of a call's destination written from the first unacknowledged one on, how many is not predictable; with the last of them
the command completes (R366, R367). -/
def collWrites (s : State) (core : Nat) (x : CopyCmd) (remote : Bool) (out : List Byte) (bad : List Bool) : State :=
  let chunks := (out.length + collChunk - 1) / collChunk
  let left := chunks - x.acked
  let (k, s) := if left ≤ 1 then (left, s) else (1 + Config.freeNat s.free % left, { s with free := s.free + 1 })
  let at_ := collChunk * x.acked
  let part := (out.drop at_).take (collChunk * k)
  let s := if remote then collSends ((part.length + 239) / 240) s else s
  let s := writeMixed part.length s x (x.b.toNat + at_) part (bad.drop at_)
  if k = left then cmdEnds s core x none
  else
    let y := { x with acked := x.acked + k }
    setProg (setCmd s core y) y (collChunk * y.acked) false

/-- A call whose sources are known (R366, R239): its destination's pages are checked, and its result is written, to a peer by a port that is
up (R363). -/
def collRuns (s : State) (core : Nat) (x : CopyCmd) (c : Coll) (remote : Bool) (srcs : List (List Byte × List Bool)) : State :=
  let t := teamOf s x.team
  let out := collResult c (srcs.map Prod.fst)
  let dx := rangeX s t.core t.func t.asid x.b.toNat out.length { rd := false, w := true } x.sup
  match dx.denied, dx.missing with
  | some _, _ => cmdEnds s core x (some 6)
  | none, m :: r => cmdStops s core x 0 (m :: r)
  | none, [] => if piecesOpen s t.func dx.pieces then collWrites s core x remote out (collBadBytes c (srcs.map Prod.snd)) else s

/-- The descriptor of a command, where it can be read and is well formed. -/
def collDesc (s : State) (x : CopyCmd) : Option (List Byte) :=
  match readRecord s (teamOf s x.team) x.a.toNat 64 x.sup with
  | .ok b => if collBad b || decide (x.a.toNat % 64 ≠ 0) then none else some b
  | .missing _ | .denied => none

/-- The commands of this module's cores that take part in a call: those of equal GROUP and SEQ (R365), with their descriptors. -/
def collMembers (s : State) (group seq : Nat) : List (Nat × CopyCmd × List Byte) :=
  s.cores.flatMap fun e => (e.2.copies.filter fun x => decide (x.op = .coll ∧ x.state = .collective)).filterMap fun x =>
    match collDesc s x with
    | some b => if (collOf b).group = group ∧ (collOf b).seq = seq then some (e.1, x, b) else none
    | none => none

/-- What a rank brings to a call: its descriptor fields, the tick at which it joined, its source bytes and which of them are poisoned. -/
structure RankPart where
  desc0 : DWord
  count : Nat
  joined : Nat
  src : List Byte
  bad : List Bool
  deriving DecidableEq, Repr

/-- Bytes by granules of 32 that a list names. -/
def granuleBits (n : Nat) (gs : List Nat) : List Bool := (List.range n).map fun i => gs.contains (i / 32)

/-- The source of a rank of this module, read through its own command's translation; none while it cannot be read. -/
def memberPart (s : State) (x : CopyCmd) (b : List Byte) : Option RankPart :=
  let t := teamOf s x.team
  let c := collOf b
  let sx := rangeX s t.core t.func t.asid c.src (collSource c c.rank) { rd := true, w := false } x.sup
  if sx.denied.isSome || !sx.missing.isEmpty || !piecesOpen s t.func sx.pieces then none
  else some {
    desc0 := BitVec.ofNat 64 (wordAt b 0), count := c.count, joined := x.started
    src := (readPieces s t.core t.func sx.pieces).1
    bad := sx.pieces.flatMap fun p => (List.range p.n).map fun i => spacePoison s t.core t.func p.frame.space (p.frame.pa + i) 1 }

/-- What each rank of a call brings (R365): a rank of this module, as the rank table has it, is its command here; one of another module is
what the event names. None while some rank has not joined. -/
def rankParts (s : State) (c : Coll) (rt : List Byte) (ranks : List CollRank) : List (Option RankPart) :=
  let ms := collMembers s c.group c.seq
  (List.range c.nrank).map fun r =>
    if bits (wordAt rt r) 0 12 = s.modid then
      match ms.find? fun e => decide ((collOf e.2.2).rank = r) with
      | some e => memberPart s e.2.1 e.2.2
      | none => none
    else (rankOf (callRanks c ranks) r).map fun k =>
      { desc0 := k.desc0, count := k.count, joined := k.joined, src := k.src, bad := granuleBits k.src.length k.poison }

/-- Ticks of 100 ms (R367). -/
def joinTicks : Nat := 100000000

/-- Whether ranks that joined at these ticks are more than 100 ms apart (R367). -/
def joinLate (ps : List RankPart) : Bool := ps.any fun a => ps.any fun b => decide (a.joined + joinTicks ≤ b.joined)

/-- Whether the ranks of a call disagree (R367). -/
def ranksDiffer (ps : List RankPart) : Bool :=
  ps.any fun a => ps.any fun b => collAgree a.desc0 a.count != collAgree b.desc0 b.count

/-- A call fails with 0x06 on every rank of this module (R367). -/
def collFails (s : State) (c : Coll) : State :=
  (collMembers s c.group c.seq).foldl (fun s e => cmdEnds s e.1 e.2.1 (some 6)) s

/-- Every rank has joined: each one of this module notes the sources of all, so that every rank receives identical bits (R366). The sources
of its own ranks are read here. -/
def collGathers (s : State) (c : Coll) (ps : List RankPart) : State :=
  (collMembers s c.group c.seq).foldl (fun s e =>
    let t := teamOf s e.2.1.team
    let d := collOf e.2.2
    let sx := rangeX s t.core t.func t.asid d.src (collSource d d.rank) { rd := true, w := false } e.2.1.sup
    let s := (readPieces (touchPieces s t.core t.func t.asid sx.pieces false) t.core t.func sx.pieces).2.2
    setCmd s e.1 { e.2.1 with sources := some (ps.map fun p => (p.src, p.bad)) }) s

/-- A call whose descriptor and rank table have been read (R365-R367): it fails, waits for ranks or for the pages of its own source, or runs. -/
def collJoins (s : State) (core : Nat) (x : CopyCmd) (c : Coll) (rt : List Byte) (ranks : List CollRank) : State :=
  let t := teamOf s x.team
  let remote := callRemote s c rt
  match x.sources with
  | some srcs => collRuns s core x c remote srcs
  | none =>
    let sx := rangeX s t.core t.func t.asid c.src (collSource c c.rank) { rd := true, w := false } x.sup
    match sx.denied, sx.missing with
    | some _, _ => cmdEnds s core x (some 6)
    | none, m :: r => cmdStops s core x 0 (m :: r)
    | none, [] =>
      let ps := rankParts s c rt ranks
      let all := ps.filterMap id
      if ps.any fun p => p.isNone then s
      else if ranksDiffer all || joinLate all || (remote && (upPorts s).isEmpty) then collFails s c
      else collRuns (collGathers s c all) core { x with sources := some (all.map fun p => (p.src, p.bad)) } c remote (all.map fun p => (p.src, p.bad))

/-- COLL_CALL (R365-R367, R239): the call of a command with what the ranks of other modules brought. -/
def collCalls (s : State) (core id : Nat) (ranks : List CollRank) : State :=
  match findCmd (coreOf s core) id with
  | none => s
  | some x =>
    let t := teamOf s x.team
    if x.state ≠ .collective || recordBlocked s t x.a.toNat 64 x.sup then s
    else match readRecord s t x.a.toNat 64 x.sup with
      | .missing m => cmdStops s core x 0 [m]
      | .denied => cmdEnds s core x (some 6)
      | .ok b =>
        let c := collOf b
        if collBad b || decide (x.a.toNat % 64 ≠ 0) then cmdEnds s core x (some 1)
        else if recordBlocked s t c.rtab (8 * c.nrank) x.sup then s
        else match readRecord s t c.rtab (8 * c.nrank) x.sup with
          | .missing m => cmdStops s core x 0 [m]
          | .denied => cmdEnds s core x (some 6)
          | .ok rt => if rtabBad c rt then cmdEnds s core x (some 1) else collJoins s core x c rt ranks

/-- The calls under way when a port goes down (R367): each forms its ring or tree anew and goes on with its first unacknowledged chunk, or
fails where no port is left to reach a rank of another module. -/
def collReform (s : State) : State :=
  if !(upPorts s).isEmpty then s
  else
    s.cores.foldl (fun s e => (e.2.copies.filter fun x => decide (x.state = .collective) && x.sources.isSome).foldl (fun s x =>
      let t := teamOf s x.team
      match readRecord s t x.a.toNat 64 x.sup with
      | .missing _ | .denied => s
      | .ok b => match readRecord s t (collOf b).rtab (8 * (collOf b).nrank) x.sup with
        | .missing _ | .denied => s
        | .ok rt => if callRemote s (collOf b) rt then cmdEnds s e.1 x (some 6) else s) s) s

/-- The cause of a call that has waited 100 ms for its ranks (R239, R365, R367): 0x01 where its descriptor or rank table is malformed, none
where all its ranks are on this module and have joined. -/
def timeoutCause (s : State) (x : CopyCmd) : Option Nat :=
  let t := teamOf s x.team
  match readRecord s t x.a.toNat 64 x.sup with
  | .missing _ | .denied => some 6
  | .ok b =>
    let c := collOf b
    if collBad b || decide (x.a.toNat % 64 ≠ 0) then some 1
    else match readRecord s t c.rtab (8 * c.nrank) x.sup with
      | .missing _ | .denied => some 6
      | .ok rt => if rtabBad c rt then some 1 else if (rankParts s c rt []).all fun p => p.isSome then none else some 6

/-- COLL_JOIN_TIMEOUT (R367): the call fails on this rank. -/
def collTimesOut (s : State) (core id : Nat) : State :=
  match findCmd (coreOf s core) id with
  | none => s
  | some x =>
    if x.state = .collective ∧ x.sources = none ∧ x.started + joinTicks ≤ s.gtime then
      match timeoutCause s x with
      | some k => cmdEnds s core x (some k)
      | none => s
    else s

end Sys2Proof.Machine
end

