-- ==== Sys2Proof/Machine/Team.lean ====
section
/-!
DEFINITION. Whole-context and whole-team operations: register pools (R17), switching out (R317-R319), page faults of a group (R315),
committing and discarding tile steps (R256, R257), and lanes killed by uncorrectable errors (R26, R321).
-/

namespace Sys2Proof.Machine

/-! ## Clusters and pools (R17, R39) -/

/-- The cluster a group is resident on. -/
def clusterOfGroup (g : Group) : Option Nat :=
  match g.place with
  | .resident c _ => some c
  | .admitted | .saved | .ended => none

/-- The context slot of a resident group. -/
def slotOfGroup (g : Group) : Nat :=
  match g.place with
  | .resident _ k => k
  | .admitted | .saved | .ended => 0

/-- The groups resident on a cluster. -/
def residents (s : State) (cluster : Nat) : List (Nat × Group) :=
  s.groups.filter fun e => decide (clusterOfGroup e.2 = some cluster)

/-- Registers free in a cluster's pool of 1,344 (R17). -/
def poolFree (s : State) (cluster : Nat) : Nat :=
  1344 - ((residents s cluster).map fun e => e.2.regcnt).sum

/-- Whether a group runs in supervisor mode that is not delegated: its privileged accesses (R312, R314). -/
def privileged (g : Group) : Bool := g.super && !g.deleg

/-- Whether a core's Weir stops its clusters, units, seam and matrix engine now (R325). -/
def frozenCore (s : State) (core : Nat) : Bool := (coreOf s core).weir.frozen

/-- The core of a group. -/
def groupCore (s : State) (gid : Nat) : Nat := (groupTeam s gid).core

/-! ## Switching out (R317-R319, R378) -/

/-- Whether an operation is a store, atomic or reducing store. -/
def isStore (op : MemOp) : Bool :=
  match op.kind with
  | .store _ | .scalarStore | .tensorStore _ | .multicast => true
  | .load _ | .tensorLoad _ _ | .scalarLoad _ _ _ | .prefetch => false

/-- Whether a group waits in a DSYNC, a cumulative fence after every access outstanding (R130, R249). -/
def inDsync (g : Group) : Bool :=
  match g.wait with
  | some (.dsync _ _) => true
  | _ => false

/-- Whether a switch-out drops an operation to perform it again at resumption (R318): plain and tensor loads that no later store,
atomic, reducing store or release of the context follows; a BARA of team scope, a FENCE and a DSYNC are releases (R249). -/
def droppedLoad (g : Group) (op : MemOp) : Bool :=
  let plain := match op.kind with
    | .load k => k ≠ .lwo && k ≠ .ldo
    | .tensorLoad _ _ => true
    | .store _ | .scalarLoad _ _ _ | .scalarStore | .prefetch | .tensorStore _ | .multicast => false
  plain && (g.ops.all fun x => decide (x.id ≤ op.id) || (!x.release && !isStore x)) && !inDsync g &&
    (g.arrivals.all fun a => !a.release || decide (a.id ≤ op.id)) && g.fences.all fun f => decide (f.id ≤ op.id)

/-- Whether an operation is a prefetch. -/
def isPrefetch (op : MemOp) : Bool :=
  match op.kind with
  | .prefetch => true
  | .load _ | .store _ | .scalarLoad _ _ _ | .scalarStore | .tensorLoad _ _ | .tensorStore _ | .multicast => false

/-- Whether an operation goes on while its context is saved (R318): stores, reducing and multicast stores. -/
def continues (op : MemOp) : Bool :=
  match op.kind with
  | .store k => !stAtomic k || k == .radd || k == .rfadd
  | .scalarStore | .tensorStore _ | .multicast => true
  | .load _ | .tensorLoad _ _ | .scalarLoad _ _ _ | .prefetch => false

/-- Whether a switch-out has nothing left to wait for: every other load, ordered loads and atomics are performed (R318). -/
def drained (g : Group) : Bool := g.ops.all fun o => o.replay || isPrefetch o || continues o || droppedLoad g o

/-- Whether a resident group has a trap to take at its boundary, which comes before a switch-out (R323). -/
def trapDue (g : Group) : Bool := !g.pendTraps.isEmpty && !g.super && g.wait.isNone && (clusterOfGroup g).isSome

/-- Whether a group can be switched out now: its drain is over, its core is not frozen, and no trap comes first (R318, R323). -/
def switchable (s : State) (gid : Nat) : Bool :=
  drained (groupOf s gid) && !frozenCore s (groupCore s gid) && !trapDue (groupOf s gid)

/-- A group's context saved, with the marks of R53 as they stand (DESIGN CHOICE, log 27): fixed-latency results delivered, prefetches dropped, plain loads to be performed again, lookahead
counts 0 (R318, R319, R52). -/
def saveContext (g : Group) (reserve : Bool) : Group :=
  let g := deliverAll g
  let g := (g.ops.filter isPrefetch).foldl (fun g o => opDone g o.id o.part) g
  { g with
    ops := g.ops.map fun o => { o with replay := o.replay || droppedLoad g o }
    splits := g.splits.map fun e => (e.1, laZero e.2)
    place := .saved, reserve := reserve, readySince := none, yieldUntil := none }

/-- The image size of a group (R40). -/
def imageSize (g : Group) : Nat := 128 * g.regcnt + 16384

/-- Bytes of a core's park area (R378). -/
def parkBytes : Nat := 524288

/-- The park area in use on a core: the images that lie in it (R378). -/
def parkUsed (s : State) (core : Nat) : Nat :=
  ((s.groups.filter fun e => decide (e.2.place = .saved ∧ e.2.reserve = false ∧ (teamOf s e.2.team).core = core)).map fun e => imageSize e.2).sum

/-- A resident group switched out once nothing is left to wait for: its context slot and registers are free, and its image goes to the
park area, or to the save reserve where the area has no room (R378). -/
def switchOut (s : State) (gid : Nat) : State :=
  let g := groupOf s gid
  match g.place with
  | .resident cl _ =>
    if switchable s gid then
      let c := clusterOf s cl
      let drop (o : Option Nat) : Option Nat := if o = some gid then none else o
      setGroup (setCluster s cl { c with pairWith := drop c.pairWith }) gid
        (saveContext g (decide (parkUsed s (groupCore s gid) + imageSize g > parkBytes)))
    else s
  | .admitted | .saved | .ended => s

/-- The admitted teams of a core. -/
def coreTeams (s : State) (core : Nat) : List (Nat × Team) :=
  s.teams.filter fun e => decide (e.2.core = core) && decide (e.2.place ≠ .offered ∧ e.2.place ≠ .retired)

/-! ## Retired clusters (R371) -/

/-- REPLACE rises, and its event occurs once (R355, R371). -/
def raiseReplace (s : State) : State := if s.replace then s else setEvent { s with replace := true } 0 5

/-- Whether every cluster of a core is retired. -/
def coreRetired (s : State) (core : Nat) : Bool := (List.range 8).all fun i => (clusterOf s (8 * core + i)).retired

/-- A cluster retired: it issues no more, its contexts are switched out as their drains end, RETCL rises and FEVENT.RAS is set (R371). -/
def retireCluster (s : State) (cl : Nat) : State :=
  let s := setEvent { setCluster s cl { clusterOf s cl with retired := true } with retcl := s.retcl + 1 } 0 4
  let s := (residents s cl).foldl (fun s e => switchOut s e.1) s
  if s.retcl > 48 ∨ coreRetired s (cl / 8) then raiseReplace s else s

/-- A closing core's last cluster retired once no admitted team is left (R371). -/
def closeCore (s : State) (core : Nat) : State :=
  let c := coreOf s core
  if c.closing && (coreTeams s core).isEmpty then
    let s := setCore s core { c with closing := false }
    ((List.range 8).filter fun i => !(clusterOf s (8 * core + i)).retired).foldl (fun s i => retireCluster s (8 * core + i)) s
  else s

/-! ## Pending traps (R306, R321, R323) -/

/-- A trap that stands pending is taken at the boundary after the wait or the return that it waited for (R306, R321). -/
def takePending (s : State) (gid : Nat) : State :=
  let g := groupOf s gid
  match g.pendTraps with
  | [] => s
  | (t, pc, sid) :: r =>
    if g.super || g.wait.isSome then s else takeTrap (setGroup s gid { g with pendTraps := r }) gid sid t pc []

/-! ## Page faults of a group (R213, R315) -/

/-- One miss per page. -/
def distinctMiss : List Miss → List Miss
  | [] => []
  | m :: r => m :: (distinctMiss r).filter fun x => decide (missPage x.host x.va ≠ missPage m.host m.va)

/-- Requests of a group for its missing pages. -/
def raiseMisses (s : State) (gid : Nat) : List Miss → List PageWait × State
  | [] => ([], s)
  | m :: r =>
    let (tag, s) := raiseReq (walkReads s m.func m.asid m.va) m.func m.asid m.va m.level m.host m.kind m.srck [.group gid]
    let (ws, s) := raiseMisses s gid r
    ({ tag := tag } :: ws, s)

/-- A group with a page fault switched out once its drain is over (R315, R318). -/
def faultOut (s : State) (gid : Nat) : State :=
  match (groupOf s gid).pageFault with
  | none => s
  | some f =>
    if !f.out && switchable s gid then
      let s := switchOut s gid
      setGroup s gid { groupOf s gid with pageFault := some { f with out := true } }
    else s

/-- A bundle meets missing pages: it does not issue, each page is requested, and its group is switched out until they come (R315). -/
def groupFault (s : State) (gid sid : Nat) (ms : List Miss) : State :=
  let (ws, s) := raiseMisses s gid (distinctMiss ms)
  faultOut (setGroup s gid { groupOf s gid with
    pageFault := some { split := sid, waits := ws, accesses := ms.map fun m => (missPage m.host m.va, m.info), failed := [] } }) gid

/-- The trap of a fault whose requests failed (R315): the lowest lane among lane accesses, else the scalar access. -/
def failedTrap (ts : List TrapInfo) : Option TrapInfo :=
  let laned := ts.filter fun t => t.lane.isSome
  let low := laned.foldl (fun (b : Option TrapInfo) t => match b with
    | none => some t
    | some x => if t.lane.getD 32 < x.lane.getD 32 then some t else some x) none
  low.orElse fun _ => ts.head?

/-! ## Releasing a team's resources (R43, R257) -/

/-- The granules of a team's scratchpad range. -/
def teamGranules (t : Team) : List Nat := (List.range (2 * t.kd.spkb)).map fun i => t.spBase / 512 + i

/-- A byte of an unmapped granule's line that was not present: zero, its byte before the mapping, or the one it last held (R140, log 10). -/
def unmappedByte (m : PMapEntry) (now : Byte) (i draw : Nat) : Byte :=
  match Config.freeNat draw % 3 with
  | 0 => 0
  | 1 => m.before.getD i 0
  | _ => now

/-- A line of a granule that is unmapped written back and gone. -/
def flushLine (s : State) (core n : Nat) : State :=
  match tget (coreOf s core).lines n with
  | none => s
  | some l => let s := writeBack s core n l; setCore s core { coreOf s core with lines := tdel (coreOf s core).lines n }

/-- A granule's present lines written back and dropped, and its mapping removed; the bytes of lines that were not present are free
among three (R140, R205). -/
def unmapGranule (s : State) (core gr : Nat) : State :=
  let c := coreOf s core
  match tget c.pmap gr with
  | none => s
  | some m =>
    let absent := (List.range 4).filter fun i => (tget c.lines (4 * gr + i)).isNone
    let s := (List.range 4).foldl (fun s i => flushLine s core (4 * gr + i)) s
    let c := coreOf s core
    let sp := absent.foldl (fun sp i => memWrite sp (512 * gr + 128 * i) ((List.range 128).map fun k =>
      unmappedByte m (memGet sp (512 * gr + 128 * i + k)) (128 * i + k) (s.free + 128 * i + k))) c.sp
    { setCore s core { c with pmap := tdel c.pmap gr, sp := sp } with free := s.free + 512 }

/-- The Polder granules that are mapped among some. -/
def mappedAmong (c : Core) (gs : List Nat) : List Nat := gs.filter fun g => (tget c.pmap g).isSome

/-- A team's resources released: its granules are written back and unmapped and its load-block units go (R205, R207). -/
def releaseTeam (s : State) (tid : Nat) : State :=
  let t := teamOf s tid
  let s := (mappedAmong (coreOf s t.core) (teamGranules t)).foldl (fun s g => unmapGranule s t.core g) s
  setTeam s tid { teamOf s tid with place := .retired, blocks := [], streams := [], barriers := [], token := none }

/-! ## Tile steps (R32, R256, R257) -/

/-- A tile step that has not committed (R256). -/
def restartable (t : Team) : Bool := t.step && !t.committed

/-- An mx batch or copy command of the team is incomplete (R257). -/
def engineBusy (t : Team) : Bool :=
  !t.engine.isEmpty || !t.batches.isEmpty || t.channels.any fun e => decide (e.2.done < e.2.last)

/-- Every store that a group has issued performed (R257). -/
def performStores (s : State) (gid : Nat) : State :=
  (groupOf s gid).ops.foldl (fun s o => if isStore o then (performOp s gid o).1 else s) s

/-- A tile step discarded (R257): its stores are performed, its contexts and resources go, and its number waits to run again (R32). -/
def discardStep (s : State) (tid : Nat) : State :=
  let t := teamOf s tid
  let s := t.groups.foldl (fun s gid => endGroup (performStores s gid) gid) s
  let s := t.groups.foldl (fun s gid => setGroup s gid { groupOf s gid with ops := [] }) s
  let s := closeCore (releaseTeam s tid) t.core
  let x := taskOf s t.task
  setTask s t.task { x with redo := x.redo ++ [t.index], live := x.live - 1 }

/-- A tile step commits (R256). -/
def commitStep (s : State) (tid : Nat) : State :=
  let t := teamOf s tid
  if t.step then setTeam s tid { t with committed := true } else s

/-! ## Killed lanes (R26, R321) -/

/-- Lanes of a group that are neither dead nor exited. -/
def runningLanes (g : Group) : Mask := ~~~(g.dead ||| g.exited)

/-- The after-trap of lanes killed by a bundle (R307, R321). -/
def deathTrap (killed : Mask) (slot : Nat) : TrapInfo :=
  { code := 0x0A, info := killed.setWidth 64, slot := slot, lane := some ((maskLanes killed).headD 0), after := true }

/-- Lanes die at the end of a bundle that consumed poisoned values (R26, R152, R321): a restartable tile step is discarded instead;
in supervisor mode it is a double trap; with no lane left the group ends; else the 0x0A after-trap follows. While the bundle's wait
lasts the trap stands pending. -/
def lanesDie (s : State) (gid sid : Nat) (killed : Mask) (slot next : Nat) : State :=
  let g := groupOf s gid
  let t := teamOf s g.team
  if killed = 0 ∨ g.place = .ended then s
  else if g.super then killGroup s gid
  else if restartable t && !engineBusy t then discardStep s g.team
  else
    let g := { g with dead := g.dead ||| killed }
    let s := setGroup s gid g
    if runningLanes g = 0 then endGroup s gid
    else if g.wait.isSome then setGroup s gid { g with pendTraps := (deathTrap killed slot, next, sid) :: g.pendTraps }
    else takeTrap s gid sid (deathTrap killed slot) next []

end Sys2Proof.Machine
end

