-- ==== Sys2Proof/Machine/Waits.lean ====
section
/-!
DEFINITION. The waiting operations (R117): when a wait's condition holds and what its completion does (R17, R19, R129, R130, R132, R133,
R135, R136, R140, R239, R264, R288).
-/

namespace Sys2Proof.Machine

/-! ## Hardware task queues (R34, R133) -/

/-- The 8 words of 64 bytes. -/
def descWords (b : List Byte) : List DWord := (List.range 8).map fun i => BitVec.ofNat 64 (wordAt b i)

/-- A word of a task descriptor. -/
def descWord (ws : List DWord) (i : Nat) : Nat := (ws.getD i 0).toNat

/-- A task just entered in a queue (R27, R34). -/
def newTask (words : List DWord) (func asid : Nat) (src : QueueRef) : Task :=
  { words := words, func := func, asid := asid, src := src, prio := bits (descWord words 0) 60 2 }

/-- The tasks of a hardware task queue, first come first. -/
def hwQueue (s : State) (die q : Nat) : List Nat := tgetD (dieOf s die).queues q []

/-- A descriptor appended to a hardware task queue (R133): the state and the task's number. -/
def appendTask (s : State) (die q : Nat) (desc : List Byte) (func asid : Nat) : State × Nat :=
  let n := s.nextId
  let s := setTask { s with nextId := n + 1 } n (newTask (descWords desc) func asid (.hw die q))
  let d := dieOf s die
  (setDie s die { d with queues := tset d.queues q (hwQueue s die q ++ [n]) }, n)

/-- The event codes EVC, EVD, EVP of a descriptor (R27). -/
def eventCodes (w0 : Nat) : Nat × Nat × Nat := (bits w0 51 2, bits w0 49 2, bits w0 47 2)

/-- Whether a completion event of code 0b01 of a task has reached a core (R44, R133). -/
def eventReached (x : Task) (core : Nat) : Bool :=
  let (c, d, p) := eventCodes (descWord x.words 0)
  (c == 1 && x.coreReached.contains core) || (d == 1 && x.dieReached.contains (dieOfCore core)) ||
    (p == 1 && decide (x.stage = .ended))

/-! ## Domains (R19) -/

/-- Whether a half of a group still has lanes that have not exited. -/
def halfLive (g : Group) (h : Nat) : Bool := decide (g.place ≠ .ended) && decide (halfMask g h &&& ~~~g.exited &&& liveMask g ≠ 0)

/-- The groups of a domain: those of its task's teams that share its identity at a level (R18, R19). -/
def domainMembers (s : State) (task level ident : Nat) : List (Nat × Group) :=
  s.groups.filter fun e =>
    let t := teamOf s e.2.team
    decide (t.task = task) && decide (t.dom.getD (level - 3) 0 = ident)

/-- The DSYNCs that a half of a group has issued at a level. -/
def dsyncCount (g : Group) (level h : Nat) : Nat := tgetD g.dsyncs (2 * level + h) 0

/-- The halves that act as members: both in legacy width (R349). -/
def halves (g : Group) : List Nat := if g.lw then [0, 1] else [0]

/-- Whether every member has issued its DSYNC of a phase, and its earlier accesses are performed (R19, R130). -/
def domainReady (s : State) (gid level phase : Nat) : Bool :=
  let t := groupTeam s gid
  (domainMembers s t.task level (t.dom.getD (level - 3) 0)).all fun e =>
    (halves e.2).all fun h => !halfLive e.2 h ||
      (decide (phase < dsyncCount e.2 level h) || (decide (dsyncCount e.2 level h = phase) && e.2.ops.isEmpty))

/-! ## Conditions -/

/-- Whether a waiting REGCLAIM of a cluster comes before another. -/
def claimBefore (s : State) (cluster order : Nat) : Bool :=
  (residents s cluster).any fun e => match e.2.wait with
    | some (.regclaim _ k) => decide (k < order)
    | _ => false

/-- Whether a group's own arrival on an object has still to be made. -/
def arrivalPending (g : Group) (half id : Nat) : Bool := g.arrivals.any fun a => decide (a.half = half ∧ a.bar = id)

/-- Whether a claim of a group that is not resident could be met: some cluster of its core has room for its registers and those claimed
(R42, which names no pool: DESIGN CHOICE, log 42). -/
def claimRoom (s : State) (core n : Nat) : Bool := (List.range 8).any fun c => decide (poolFree s (8 * core + c) ≥ n)

/-- Whether a team's MXTAKE of an order is the earliest waiting one. -/
def takeFirst (s : State) (t : Team) (order : Nat) : Bool :=
  t.groups.all fun i => match (groupOf s i).wait with
    | some (.mxtake k) => decide (order ≤ k)
    | _ => true

/-- Whether an accepted tile command of the team names a stream (R264). -/
def streamBusy (t : Team) (q : Nat) : Bool :=
  t.engine.any fun i => match i.op with
    | .tile op lo hi => (namedStreams op lo hi).contains q
    | .reverse => false

/-- The dirty Polder lines of a range (R140). -/
def dirtyLines (c : Core) (a n : Nat) : List Nat :=
  (c.lines.filter fun e => e.2.dirty && decide (a ≤ 128 * e.1 ∧ 128 * e.1 < a + n)).map Prod.fst

/-- Whether every scratchpad access of a group has been performed. -/
def spadQuiet (g : Group) : Bool := g.ops.all fun o => (opElems o).all fun e => decide (e.space ≠ .spad)

/-- Whether a group may read at issue what an operation of a number reads: its earlier acquires, fences and accesses of the same bytes are
performed (R219, R242, R247, R249), and neither a lock nor a port holds it back (R252, R363). -/
def readReady (s : State) (gid id : Nat) (e : Elem) : Bool :=
  let g := groupOf s gid
  let t := teamOf s g.team
  (g.ops.all fun o => decide (id ≤ o.id) || (!o.acquire && !(opElems o).any (elemsMeet s t.core t.func e))) &&
    (g.fences.all fun f => decide (id ≤ f.id)) && elemOpen s t.core t.func e

/-- Whether a group's wait condition holds (R42, R117). -/
def waitMet (s : State) (gid : Nat) (w : Wait) : Bool :=
  let g := groupOf s gid
  let t := teamOf s g.team
  match w with
  | .barw half id phase _ =>
    !arrivalPending g half id && decide ((barrierOf t id).phase ≠ tgetD g.ap (32 * half + id) phase)
  | .dsync level phase => domainReady s gid level phase
  | .waitc half path n => decide ((tgetD g.paths (8 * half + path) []).length ≤ n)
  | .mxwait batch => decide (batch ≤ t.batchDone)
  | .cpwait ch id =>
    let c := tgetD t.channels ch {}
    decide (id ≤ c.done) || match c.fail with
      | some (n, _) => decide (n ≤ id)
      | none => false
  | .regclaim count order =>
    match clusterOfGroup g with
    | some cl => decide (count ≤ poolFree s cl) && !claimBefore s cl order
    | none => claimRoom s t.core (g.regcnt + count)
  | .mxtake order => (decide (t.token = some gid)) || (t.token.isNone && takeFirst s t order)
  | .pflush a n => spadQuiet g && (dirtyLines (coreOf s t.core) a n).all fun l =>
      !rangeLocked (coreOf s t.core) none (128 * l) 128 && ((tget (coreOf s t.core).lines l).map (lineGoes s)).getD true
  | .spawnRead _ _ _ _ id e => readReady s gid id e
  | .spawnRoom _ _ q _ _ => decide ((hwQueue s (dieOfCore t.core) q).length < 256)
  | .spawnEvent _ _ task => eventReached (taskOf s task) t.core
  | .streamWrite reg _ => !streamBusy t ((reg - 0x40) / 2)
  | .liningWrite _ _ => t.engine.isEmpty && lateOpen s t.func (lateWrites t)

/-! ## Completion -/

/-- An after-trap of a wait (R306): taken at the boundary that follows; in supervisor mode a double trap (R312). -/
def waitTrap (s : State) (gid : Nat) (tr : TrapInfo) : State :=
  let g := groupOf s gid
  if g.super then killGroup s gid
  else setGroup s gid { g with pendTraps := g.pendTraps ++ [(tr, (splitOf g g.waitSplit).pc, g.waitSplit)] }

/-- The lowest-numbered unreported batch that a wait covers (R132). -/
def coveredReport (t : Team) (batch : Nat) : Option Report :=
  (t.reports.filter fun r => decide (r.num ≤ batch)).foldl (fun b r => match b with
    | none => some r
    | some x => if r.num < x.num then some r else some x) none

/-- The copy word of EINFO (R310). -/
def copyWord (ch id : Nat) : DWord := BitVec.ofNat 64 (id % 2 ^ 32 + ch * 2 ^ 32 + 2 ^ 62)

/-- A stream register write takes effect (R264): a QW0 write sets HEAD and TAIL to 0. -/
def streamApply (t : Team) (reg : Nat) (v : DWord) : Team :=
  let q := (reg - 0x40) / 2
  let x := streamOf t q
  let y : Stream := if reg % 2 = 0 then { qw0 := v } else { x with head := bits v.toNat 0 32, tail := bits v.toNat 32 32 }
  { t with streams := tset t.streams q y }

/-- A wait that ended takes its effect. The wait itself is already removed. A Lining write is an acquire for the Lining bytes of the team's
commands (R288). -/
def waitEffect (s : State) (gid : Nat) (w : Wait) : State :=
  let g := groupOf s gid
  let t := teamOf s g.team
  match w with
  | .barw _ _ _ _ | .dsync _ _ | .waitc _ _ _ => s
  | .mxwait batch =>
    match coveredReport t batch with
    | none => s
    | some r =>
      waitTrap (setTeam s g.team { t with reports := t.reports.filter fun x => decide (x.num ≠ r.num) }) gid
        { code := r.code, info := r.info, slot := 6, after := true }
  | .cpwait ch id =>
    let c := tgetD t.channels ch {}
    match c.fail with
    | none => s
    | some (n, cause) =>
      if id < n then s
      else
        waitTrap (setTeam s g.team { t with channels := tset t.channels ch { c with fail := none } }) gid
          { code := cause, info := copyWord ch n, slot := 6, after := true }
  | .regclaim count _ => setGroup s gid { g with regcnt := g.regcnt + count, regclaimReady := false }
  | .mxtake _ => setTeam s g.team { t with token := some gid }
  | .pflush a n =>
    (dirtyLines (coreOf s t.core) a n).foldl (fun s l =>
      match tget (coreOf s t.core).lines l with
      | none => s
      | some x =>
        let s := writeBack s t.core l x
        let c := coreOf s t.core
        setCore s t.core { c with lines := tset c.lines l { x with dirty := false } }) s
  | .spawnRead sd half q wait _ e =>
    let (b, bad, s) := placeGet s t.core t.func e.space e.addr e.size
    if bad then lanesDie s gid g.waitSplit (runningLanes g &&& halfMask g half) 6 (splitOf g g.waitSplit).pc
    else setGroup s gid { groupOf s gid with wait := some (.spawnRoom sd half q wait b) }
  | .spawnRoom sd half q wait desc =>
    let (s, n) := appendTask s (dieOfCore t.core) q desc t.func t.asid
    let g := groupOf s gid
    let (c, d, p) := eventCodes (wordAt desc 0)
    if !wait then setGroup s gid (sput g half sd 0)
    else if c ≠ 1 ∧ d ≠ 1 ∧ p ≠ 1 then setGroup s gid (sput g half sd 2)
    else setGroup s gid { g with wait := some (.spawnEvent sd half n) }
  | .spawnEvent sd half _ => setGroup s gid (sput g half sd 0)
  | .streamWrite reg v =>
    if reg % 2 = 1 ∧ qw1Bad (streamOf t ((reg - 0x40) / 2)) v then
      waitTrap s gid { code := 2, info := BitVec.ofNat 64 reg, slot := 6, after := true }
    else setTeam s g.team (streamApply t reg v)
  | .liningWrite reg v =>
    let s := flushLining s g.team
    if liningStateBad t reg v then waitTrap s gid { code := 2, info := BitVec.ofNat 64 reg, slot := 6, after := true }
    else setTeam s g.team (liningApply (teamOf s g.team) reg v)

/-- A group's wait ends and takes its effect. -/
def waitDone (s : State) (gid : Nat) (w : Wait) : State :=
  waitEffect (setGroup s gid { groupOf s gid with wait := none }) gid w

/-- A group's wait ends if its condition holds, for a wait that a test names; a REGCLAIM or a stall of a group that is not resident
does not end before it is resident again (R42). -/
def tryWait (s : State) (gid : Nat) (p : Wait → Bool) : State :=
  let g := groupOf s gid
  match g.wait with
  | none => s
  | some w =>
    match g.place with
    | .resident _ _ => if p w && waitMet s gid w then waitDone s gid w else s
    | .admitted | .saved | .ended => s

/-- A DSYNC completes for every member that waits in its phase (R19). -/
def dsyncAll (s : State) (gid level phase : Nat) : State :=
  let t := groupTeam s gid
  if domainReady s gid level phase then
    (domainMembers s t.task level (t.dom.getD (level - 3) 0)).foldl (fun s e =>
      match (groupOf s e.1).wait with
      | some (.dsync l p) => if l = level ∧ p = phase then setGroup s e.1 { groupOf s e.1 with wait := none } else s
      | _ => s) s
  else s

/-- A group enters a wait, which ends at once where its condition holds already (R132), and a SPAWN's next one then. -/
def enterWait (s : State) (gid sid : Nat) (w : Wait) : State :=
  let s := setGroup s gid { groupOf s gid with wait := some w, waitSplit := sid, waitSince := s.gtime }
  match w with
  | .dsync level phase => dsyncAll s gid level phase
  | .spawnRead _ _ _ _ _ _ | .spawnRoom _ _ _ _ _ => tryWait (tryWait s gid fun _ => true) gid fun _ => true
  | _ => tryWait s gid fun _ => true

end Sys2Proof.Machine
end

