-- ==== Sys2Proof/Machine/Special.lean ====
section
/-!
DEFINITION. The special registers (spec 07_scalar_slot R141-R144 and the rules the table names): who may read and write each, what a read
gives, which values a write refuses, and what it does.
-/

namespace Sys2Proof.Machine

/-! ## Access (R141, R314) -/

/-- Registers shown "—" in user mode. -/
def regSupervisor (n : Nat) : Bool :=
  decide (0x100 ≤ n ∧ n ≤ 0x103) || n == 0x110 || decide (0x120 ≤ n ∧ n ≤ 0x123) || decide (0x128 ≤ n ∧ n ≤ 0x12F)

/-- Registers of scope Core, Cluster and Module. -/
def regWide (n : Nat) : Bool :=
  decide (0x008 ≤ n ∧ n ≤ 0x00B) || n == 0x071 || decide (0x080 ≤ n ∧ n ≤ 0x082) || decide (0x110 ≤ n)

/-- Registers that user mode may write. -/
def regUserWrites (n : Nat) : Bool :=
  n == 0 || n == 1 || n == 0x20 || n == 0x21 || decide (0x23 ≤ n ∧ n ≤ 0x2A) || decide (0x40 ≤ n ∧ n ≤ 0x5F) || n == 0x104

/-- Registers that supervisor mode may write besides. -/
def regSupWrites (n : Nat) : Bool :=
  n == 0x22 || n == 0x70 || n == 0x100 || n == 0x103 || n == 0x110 || n == 0x120 || n == 0x121

/-- Whether RDSR of a register is allowed (R141, R314). -/
def readAllowed (g : Group) (n : Nat) : Bool := !regSupervisor n || (g.super && !(g.deleg && regWide n))

/-- Whether WRSR of a register is allowed (R141, R314). -/
def writeAllowed (g : Group) (n : Nat) : Bool :=
  regUserWrites n || (regSupWrites n && g.super && !(g.deleg && (regWide n || n == 0x70)))

/-! ## Reads -/

/-- FEATVEC (R341). -/
def featvec : DWord := 0xFF

/-- NUMVER (R341). -/
def numver : DWord := 1

/-- MCREV (R341): reserved bits read 0, and it does not read 0 once bring-up is complete; its value is free (log 6). -/
def mcrevWord : DWord := let x := Config.mcrev &&& 0xFFFFFFFF; if x = 0 then 1 else x

/-- BFLAGS (R207). -/
def bflagsWord (t : Team) : DWord := t.bflags.setWidth 64

/-- What a special register reads as for a half of a group (R141, R349). -/
def specialValue (s : State) (gid h n : Nat) : DWord :=
  let g := groupOf s gid
  let t := teamOf s g.team
  let c := coreOf s t.core
  let cl := clusterOf s ((clusterOfGroup g).getD 0)
  let nat (x : Nat) : DWord := BitVec.ofNat 64 x
  if n = 0x000 then fstatWord g h
  else if n = 0x001 then gstatWord g h
  else if n = 0x002 then roleWord g
  else if n = 0x003 then domWord t
  else if n = 0x004 then nat g.regcnt
  else if n = 0x008 then nat s.gtime
  else if n = 0x009 then pstateWord c
  else if n = 0x00A then nat cl.portwait
  else if n = 0x00B then nat c.weir.frzcnt
  else if n = 0x00C then nat g.undecl
  else if n = 0x010 then nat t.batchLast
  else if n = 0x011 then nat t.batchDone
  else if n = 0x012 then mxtokWord s gid t
  else if 0x018 ≤ n ∧ n ≤ 0x01F then chdoneWord (tgetD t.channels (n - 0x018) {})
  else if n = 0x020 then nat t.lnBase
  else if n = 0x021 then nat t.lnSize
  else if n = 0x022 then lnheadWord t
  else if 0x023 ≤ n ∧ n ≤ 0x02A then tgetD t.gmap (n - 0x023) 0
  else if 0x040 ≤ n ∧ n ≤ 0x05F then
    let x := streamOf t ((n - 0x040) / 2)
    if n % 2 = 0 then x.qw0 else qw1Word x
  else if n = 0x060 then bflagsWord t
  else if n = 0x070 then t.ovmask.setWidth 64
  else if n = 0x071 then c.ovres.setWidth 64
  else if n = 0x080 then featvec
  else if n = 0x081 then mcrevWord
  else if n = 0x082 then numver
  else if n = 0x100 then g.epc
  else if n = 0x101 then g.ecause
  else if n = 0x102 then g.einfo
  else if n = 0x103 then g.escratch
  else if n = 0x104 then g.tvec
  else if n = 0x110 then nat c.swapth
  else if n = 0x120 then ilimWord c
  else if n = 0x121 then cl.clkpat.setWidth 64
  else if n = 0x122 then nat s.pcap
  else if n = 0x123 then effcapWord s
  else if 0x128 ≤ n ∧ n ≤ 0x12F then nat (tgetD s.pfloor (n - 0x128) 0)
  else 0

/-! ## Checks of a write -/

/-- The cause of a value that a register refuses (R59, R264, R288, R309, R314, R327, R329). A reserved read-only bit of GSTAT, OVMASK or SWAPTH
that the value sets has no effect and no trap (DEDUCED from RO, log 19). -/
def writeCheck (g : Group) (t : Team) (n : Nat) (v : DWord) : Option Nat :=
  let x := v.toNat
  if n = 0x000 then (if fstatIllegal g x then some 1 else none)
  else if 0x020 ≤ n ∧ n ≤ 0x02A then liningCheck t n v
  else if 0x040 ≤ n ∧ n ≤ 0x05F then
    (if n % 2 = 0 then qw0Check t v else if qw1Bad (streamOf t ((n - 0x040) / 2)) v then some 2 else none)
  else if n = 0x100 then
    (if bits x 30 33 ≠ 0 ∨ bits x 0 5 ≠ 0 ∨ (bits x 19 1 = 1 ∧ bits x 21 9 > 318) then some 1 else none)
  else if n = 0x104 then (if bits x 33 30 ≠ 0 ∨ bits x 0 5 ≠ 0 then some 1 else none)
  else if n = 0x120 then
    (if bits x 43 21 ≠ 0 then some 1
     else if bits x 38 5 = 0 ∨ bits x 32 6 = 0 ∨ bits x 0 16 < 128 ∨ bits x 16 16 > bits x 0 16 then some 2 else none)
  else if n = 0x121 then (if bits x 32 32 ≠ 0 then some 1 else if bits x 0 32 = 0 then some 2 else none)
  else none

/-- The traps of an RDSR (R141). -/
def rdsrTraps (g : Group) (n : Nat) : List TrapInfo := trapIf (!readAllowed g n) 0x0C n 6

/-- The traps of a WRSR (R141); a refused range names the value written. -/
def wrsrTraps (g : Group) (t : Team) (n : Nat) (v : DWord) : List TrapInfo :=
  trapIf (!writeAllowed g n) 0x0C n 6 ++
  match writeCheck g t n v with
  | none => []
  | some c => slotTrap c (if c = 2 then v.toNat else 0) 6

/-! ## Effects of a write -/

/-- WRSR of GSTAT (R142): W1C of the half's own dead-source bit (R350); DELEG set by a 1 in supervisor mode. -/
def gstatWrite (g : Group) (h : Nat) (v : DWord) : Group :=
  { g with
    deadSrc := g.deadSrc && !(v.getLsbD 0 && ownsDead g h false)
    deadSrcH := g.deadSrcH && !(v.getLsbD 1 && ownsDead g h true)
    deleg := g.deleg || (g.super && v.getLsbD 4) }

/-- A register write of the group or context: FSTAT, GSTAT, EPC, ESCRATCH, TVEC (R60, R142, R309, R310, R314). -/
def groupWrite (g : Group) (h n : Nat) (v : DWord) : Group :=
  if n = 0x000 then fstatWrite g h v
  else if n = 0x001 then gstatWrite g h v
  else if n = 0x100 then { g with epc := v }
  else if n = 0x103 then { g with escratch := v }
  else if n = 0x104 then { g with tvec := v }
  else g

/-- ILIM's fields (R327). -/
def ilimOf (v : DWord) : Ilim :=
  { fduty := bits v.toNat 38 5, frz2 := bits v.toNat 32 6, soft := bits v.toNat 16 16, hard := bits v.toNat 0 16 }

/-- A WRSR that passed its checks (R141): registers that wait enter their wait (R264, R288), the others are written. -/
def specialWrite (s : State) (gid sid n : Nat) (v : DWord) : State :=
  let g := groupOf s gid
  let t := teamOf s g.team
  let c := coreOf s t.core
  if 0x020 ≤ n ∧ n ≤ 0x02A then enterWait s gid sid (.liningWrite n v)
  else if 0x040 ≤ n ∧ n ≤ 0x05F then enterWait s gid sid (.streamWrite n v)
  else if n = 0x070 then setTeam s g.team { t with ovmask := v.setWidth 8 }
  else if n = 0x110 then setCore s t.core { c with swapth := bits v.toNat 0 32 }
  else if n = 0x120 then setCore s t.core { c with ilim := ilimOf v }
  else if n = 0x121 then
    match clusterOfGroup g with
    | none => s
    | some k => setCluster s k { clusterOf s k with clkpat := v.setWidth 32 }
  else setGroup s gid (groupWrite g (halfOf g sid) n v)

end Sys2Proof.Machine
end

