-- ==== Sys2Proof/Machine/Trigger.lean ====
section
/-!
DEFINITION. Triggers (R87, R88, R148, R178, R217): what each checks before its bundle issues, and what it does when it fires. The group in
the state already holds its latches as the bundle's moves leave them (R86).
-/

namespace Sys2Proof.Machine

/-- A trigger of a bundle about to fire: its slot, its contributing lanes, the value of each lane, the uniform value (R83), and the
values that replace its access (R313). -/
structure Fire where
  slot : Nat
  op : Trigger
  lanes : Mask
  val : Lanes
  uval : DWord
  inj : Option Inject
  deriving DecidableEq, Repr

/-- A latch of the firing unit. -/
def fireLatch (g : Group) (f : Fire) (l : LatchName) : Latch := latchOf' g.image (triggerUnit f.op) l

/-- A latch's value in a lane. -/
def fireVal (g : Group) (f : Fire) (l : LatchName) (lane : Nat) : Word := laneGet (fireLatch g f l).val lane

/-- A latch's value in the lowest lane of C: a uniform value (R217). -/
def fireUni (g : Group) (f : Fire) (l : LatchName) : Word := fireVal g f l (lowestLane f.lanes)

/-- The trigger value in the lowest lane of C. -/
def fireUniVal (f : Fire) : Word := laneGet f.val (lowestLane f.lanes)

/-- The reference of a lane's `w` latch: 0-7 a window, 8 the scratchpad. -/
def fireRef (g : Group) (f : Fire) (lane : Nat) : Nat := (fireVal g f .w lane).toNat

/-- The operands of a lane in order: latches, then the trigger value (R88, R147). -/
def fireOps (g : Group) (f : Fire) (lane : Nat) : List Word :=
  ((latchesRead f.op).map fun l => fireVal g f l lane) ++ [laneGet f.val lane]

/-- The order operand of an ordered operation (R103). -/
def fireOrder (f : Fire) : Nat := (fireUniVal f).toNat

/-- Lanes of C that use windows. -/
def windowLanes (g : Group) (f : Fire) : List Nat := (maskLanes f.lanes).filter fun l => decide (fireRef g f l ≠ 8)

/-- Lanes of C that use the scratchpad. -/
def spadLanes (g : Group) (f : Fire) : List Nat := (maskLanes f.lanes).filter fun l => decide (fireRef g f l = 8)

/-! ## Plain, ordered and atomic accesses (R217, R220-R227) -/

/-- Bytes of a load. -/
def ldSize (op : LdOp) : Nat :=
  match op with
  | .lb | .lbz => 1
  | .lh | .lhz => 2
  | .lw | .lwo => 4
  | .ld | .ldo => 8
  | .tld | .lblk | .pf => 0

/-- Bytes of a store. -/
def stSize (op : StOp) : Nat :=
  match op with
  | .sb => 1
  | .sh => 2
  | .sd | .sdo => 8
  | .sw | .swo | .tst | .mcst | .aadd | .afadd | .amin | .amax | .aminu | .amaxu | .aand | .aor | .axor | .axch | .acas
  | .radd | .rfadd => 4

/-- The offset of a load: latch a of an ordered one, else the trigger value. -/
def ldOffset (g : Group) (f : Fire) (op : LdOp) (lane : Nat) : Nat :=
  match op with
  | .lwo | .ldo => (fireVal g f .a lane).toNat
  | .lb | .lbz | .lh | .lhz | .lw | .ld | .tld | .lblk | .pf => (laneGet f.val lane).toNat

/-- The data of a store (R216, R224-R227). -/
def stData (g : Group) (f : Fire) (op : StOp) (lane : Nat) : Nat :=
  let b := (fireVal g f .b lane).toNat
  match op with
  | .sb | .sh | .sw => (laneGet f.val lane).toNat
  | .sd => b + 2 ^ 32 * (laneGet f.val lane).toNat
  | .sdo => b + 2 ^ 32 * (fireVal g f .c lane).toNat
  | .swo | .tst | .mcst | .aadd | .afadd | .amin | .amax | .aminu | .amaxu | .aand | .aor | .axor | .axch | .acas
  | .radd | .rfadd => b

/-- EINFO.KIND of a store (R310). -/
def stKind (op : StOp) : Nat :=
  match op with
  | .sb | .sh | .sw | .sd => 1
  | .swo | .sdo => 2
  | .tst => 4
  | .aadd | .afadd | .amin | .amax | .aminu | .amaxu | .aand | .aor | .axor | .axch | .acas | .radd | .rfadd | .mcst => 3

/-- The rights a store needs (R224, R226, R227). -/
def stNeed (op : StOp) : Need := { rd := stAtomic op && op ≠ .radd && op ≠ .rfadd, w := true }

/-- A store operation that a host page refuses (R226, R227). -/
def hostRefuses (op : StOp) : Bool := stAtomic op && op ≠ .aadd && op ≠ .axch && op ≠ .acas

/-- A plan whose accesses of host pages are denied where a test says so. -/
def denyHost (p : Plan) (no : Bool) (slot kind : Nat) : Plan :=
  if no && (p.accs.any fun a => decide (a.elem.space = .host)) then
    { p with
      accs := []
      traps := p.traps ++ ((p.accs.filter fun a => decide (a.elem.space = .host)).map fun a =>
        { code := 6, info := accessWord a.elem.va (Nat.log2 a.elem.size) kind false false, slot := slot, lane := some a.elem.lane }) }
  else p

/-- A plain, ordered or atomic load or store of the lanes of C, lane by lane; `no` refuses host pages. -/
def lanesPlan (s : State) (gid half : Nat) (f : Fire) (ks : List Nat) (n kind : Nat) (need : Need) (no : Bool) (off : Nat → Nat) : Plan :=
  let w := whoOf s gid
  let g := groupOf s gid
  planAll (ks.map fun l => denyHost (lanePlan s gid half w (fireRef g f l) l (off l) n need kind f.slot) no f.slot kind)

/-- A load's plan. -/
def ldPlain (s : State) (gid half : Nat) (f : Fire) (op : LdOp) : Plan :=
  let g := groupOf s gid
  lanesPlan s gid half f (maskLanes f.lanes) (ldSize op) (if op = .lwo ∨ op = .ldo then 2 else 0) { rd := true, w := false } false
    (ldOffset g f op)

/-- A store's plan, each element with its data and compare word. -/
def stPlain (s : State) (gid half : Nat) (f : Fire) (op : StOp) : Plan :=
  let g := groupOf s gid
  let p := lanesPlan s gid half f (maskLanes f.lanes) (stSize op) (stKind op) (stNeed op) (hostRefuses op) fun l => (fireVal g f .a l).toNat
  { p with accs := p.accs.map fun a =>
      { a with elem := { a.elem with data := stData g f op a.elem.lane, cmp := (fireVal g f .c a.elem.lane).toNat } } }

/-! ## Records and lists (R210, R228, R230) -/

/-- A 64-byte record read through the `w` of the lowest lane: its plan, whose one access is a read, its address, and its bytes where it can be
read. Its offset
(R229) and its address (R215) are multiples of 64. -/
def recordPlan (s : State) (gid half : Nat) (f : Fire) (off kind : Nat) : Plan × Nat × Option (List Byte) :=
  let g := groupOf s gid
  let w := whoOf s gid
  let l := lowestLane f.lanes
  let ref := fireRef g f l
  let addr := refAddr s gid half ref off
  let word := accessWord addr 6 kind (decide (ref = 8)) false
  let p := planJoin (if off % 64 ≠ 0 then misaligned 64 off f.slot (some l) word else misaligned 64 addr f.slot (some l) word)
    (accPlan w { rd := true, w := false } 0 f.slot (some l) word (refAcc s gid half w ref l off 64 { rd := true, w := false }))
  match p.traps, p.accs with
  | [], a :: _ => ({ p with accs := [], reads := p.accs }, addr, some (placeGet s w.core w.func a.elem.space a.elem.addr 64).1)
  | _, _ => ({ p with accs := [] }, addr, none)

/-- The trap of a malformed record or list (R307). -/
def malformed (addr slot lane : Nat) : Plan :=
  { traps := [{ code := 1, info := BitVec.ofNat 64 (addr % 2 ^ 52), slot := slot, lane := some lane }] }

/-- Accesses in lane order (R219). -/
def byLane (as : List Access) : List Access := lanes.flatMap fun l => as.filter fun a => decide (a.elem.lane = l)

/-- A multicast store's plan (R229): misaligned addresses by lane, denials by destination then lane; the words are written lane by lane
(R219). -/
def mcstPlan (s : State) (gid half : Nat) (f : Fire) : Plan :=
  let g := groupOf s gid
  let w := whoOf s gid
  let (p, addr, rec) := recordPlan s gid half f (fireUniVal f).toNat 3
  match rec with
  | none => p
  | some b =>
    match listOf b with
    | none => planJoin p (malformed addr f.slot (lowestLane f.lanes))
    | some ds =>
      let ls := maskLanes f.lanes
      let va (d l : Nat) : Nat := d + (fireVal g f .a l).toNat
      let mis := planAll (ls.map fun l => planAll (ds.map fun d =>
        misaligned 4 (va d l) f.slot (some l) (accessWord (va d l) 2 3 false false)))
      let acc := planAll (ds.map fun d => planAll (ls.map fun l =>
        accPlan w { rd := false, w := true } 0 f.slot (some l) (accessWord (va d l) 2 3 false false)
          (virtualAcc s w l (va d l) 4 { rd := false, w := true })))
      let acc := { acc with accs := (byLane acc.accs).map fun a =>
        { a with elem := { a.elem with data := (fireVal g f .b a.elem.lane).toNat } } }
      planJoin p (planJoin mis acc)

/-- The coordinates of a lane (R230): c0, c1, then s-registers from KREG on; 0 at and above NDIM. -/
def tensorCoords (g : Group) (half ndim kreg : Nat) (c0 c1 : Word) : List Int :=
  (List.range 7).map fun i =>
    if i ≥ ndim then 0
    else if i = 0 then c0.toInt
    else if i = 1 then c1.toInt
    else ((sget g half (kreg + i - 2)).setWidth 32).toInt

/-- A tensor load's or store's plan (R230-R232): the record through the lowest lane of C, the elements of the lanes `ls`. A KREG other than 0
under an NDIM of 2 or less is ignored: the spec names no outcome of it (DESIGN CHOICE, log 44). -/
def tensorPlan (s : State) (gid half : Nat) (f : Fire) (store : Bool) (ls : Mask) : Plan :=
  let g := groupOf s gid
  let w := whoOf s gid
  let sel := (fireUni g f .a).toNat
  let (p, addr, rec) := recordPlan s gid half f (bits sel 6 26 * 64) 4
  match rec with
  | none => p
  | some b =>
    if shapeBad b then planJoin p (malformed addr f.slot (lowestLane f.lanes))
    else
      let x := shapeOf b
      let k := bits sel 0 6
      if x.ndim > 2 ∧ (k = 0 ∨ k + x.ndim - 3 > 62) then
        planJoin p { traps := [{ code := 2, info := BitVec.ofNat 64 k, slot := f.slot, lane := none }] }
      else
        planJoin p (planAll ((maskLanes ls).map fun l =>
          let c1 := if store then fireVal g f .c l else laneGet f.val l
          tensorLane s w x addr l (tensorCoords g half x.ndim k (fireVal g f .b l) c1) store (laneGet f.val l) f.slot))

/-- The record of a tensor trigger that passed its checks: its bytes read again. -/
def tensorRecord (s : State) (gid half : Nat) (f : Fire) : Shape :=
  let sel := (fireUni (groupOf s gid) f .a).toNat
  shapeOf ((recordPlan s gid half f (bits sel 6 26 * 64) 4).2.2.getD [])

/-! ## Load-block units and prefetches (R207, R222, R223) -/

/-- The lines of an lblk. -/
def lblkLines (f : Fire) : Nat := bits (fireUniVal f).toNat 0 6 + 1

/-- An lblk whose word has a nonzero reserved field (R223). -/
def lblkTraps (f : Fire) : List TrapInfo :=
  let v := (fireUniVal f).toNat
  trapIf (decide (bits v 12 20 ≠ 0 ∨ bits v 6 2 ≠ 0)) 2 v f.slot

/-- An lblk's plan (R223). -/
def lblkPlan (s : State) (gid half : Nat) (f : Fire) : Plan :=
  let g := groupOf s gid
  let w := whoOf s gid
  let l := lowestLane f.lanes
  let ref := fireRef g f l
  let off := (fireUni g f .a).toNat
  let word (o lsz : Nat) : DWord := accessWord (refAddr s gid half ref o) lsz 0 (decide (ref = 8)) false
  if !(lblkTraps f).isEmpty then { traps := lblkTraps f }
  else
    let mis := misaligned 128 off f.slot (some l) (word off 7)
    if ref = 8 then planJoin mis { traps := [{ code := 6, info := word off 7, slot := f.slot, lane := some l }] }
    else planJoin mis (planAll ((List.range (lblkLines f)).map fun i =>
      accPlan w { rd := true, w := false } 0 f.slot (some l) (word (off + 128 * i) 7)
        (windowAcc s w (wget g half ref) l (off + 128 * i) 128 { rd := true, w := false })))

/-- The accesses of the lines that a prefetch can fetch (R222): a dropped one gives none. -/
def pfAccs (s : State) (gid half : Nat) (f : Fire) : List Access :=
  let g := groupOf s gid
  let w := whoOf s gid
  (windowLanes g f).filterMap fun l =>
    let off := (laneGet f.val l).toNat
    match windowAcc s w (wget g half (fireRef g f l)) l off 1 { rd := true, w := false } with
    | .ok a => some a
    | .missing _ _ _ _ | .trap _ => none

/-- The lines that a prefetch fetches. -/
def pfElems (s : State) (gid half : Nat) (f : Fire) : List Elem :=
  (pfAccs s gid half f).map fun a => { a.elem with addr := a.elem.addr / 128 * 128, size := 128 }

/-! ## What a trigger's checks come to -/

/-- The uniform latch of mx or cp, none where it is empty. -/
def uniLatch (g : Group) (half : Nat) (u : FUnit) (l : LatchName) : Option DWord :=
  let x := tgetD g.image.uniform (uniformKey u half l) {}
  if x.full then some x.val else none

/-- The checks of an sm trigger (R187). EINFO holds the whole target word (DESIGN CHOICE, log 20). -/
def smPlan (s : State) (gid : Nat) (f : Fire) : Plan :=
  let g := groupOf s gid
  let b := fireUni g f .b
  if f.lanes = 0 then {}
  else { traps := trapIf (seamTargetBad (teamOf s g.team).kd.ngrp b) 2 b.toNat f.slot }

/-- The plan of a trigger: its traps, its missing pages and its accesses. A replaced access is none (R313). -/
def firePlan (s : State) (gid sid : Nat) (f : Fire) : Plan :=
  let g := groupOf s gid
  let h := halfOf g sid
  if f.inj.isSome then {}
  else
    match f.op with
    | .ia _ _ | .lg _ | .fm _ _ | .sf _ => {}
    | .xl op => if g.lw && (op == .blk8 || op == .blk6) then { traps := slotTrap 1 0 f.slot } else {}
    | .sm _ => smPlan s gid f
    | .ld op =>
      if f.lanes = 0 then {}
      else match op with
        | .tld => tensorPlan s gid h f false f.lanes
        | .lblk => lblkPlan s gid h f
        | .pf => {}
        | .lb | .lbz | .lh | .lhz | .lw | .ld | .lwo | .ldo => ldPlain s gid h f op
    | .st op =>
      if f.lanes = 0 then {}
      else match op with
        | .tst => tensorPlan s gid h f true f.lanes
        | .mcst => mcstPlan s gid h f
        | .sb | .sh | .sw | .sd | .swo | .sdo | .aadd | .afadd | .amin | .amax | .aminu | .amaxu | .aand | .aor | .axor
        | .axch | .acas | .radd | .rfadd => stPlain s gid h f op
    | .mx op => { traps := mxTraps s gid sid f.slot op (uniLatch g h .mx .a) f.uval }
    | .cp op => { traps := cpTraps s gid f.slot op (uniLatch g h .cp .a) (uniLatch g h .cp .b) (uniLatch g h .cp .c) f.uval }

/-- The in-flight counters that a trigger raises (R208). -/
def firePaths (g : Group) (f : Fire) : List Nat :=
  if f.lanes = 0 ∨ f.inj.isSome then []
  else
    let window (p : Nat) : List Nat := if (windowLanes g f).isEmpty then [] else [p]
    let spad : List Nat := if (spadLanes g f).isEmpty then [] else [2]
    match f.op with
    | .ia _ _ | .lg _ | .fm _ _ | .sf _ | .xl _ | .sm _ | .mx _ => []
    | .ld op =>
      match op with
      | .tld => [5]
      | .lblk => [4]
      | .pf => window 0
      | .lb | .lbz | .lh | .lhz | .lw | .ld | .lwo | .ldo => window 0 ++ spad
    | .st op =>
      match op with
      | .tst | .mcst => [1]
      | .sb | .sh | .sw | .sd | .swo | .sdo | .aadd | .afadd | .amin | .amax | .aminu | .amaxu | .aand | .aor | .axor
      | .axch | .acas | .radd | .rfadd => window 1 ++ spad
    | .cp _ => [3]

/-- Whether a trigger reads a record or list at issue (R228, R230). -/
def readsRecord (f : Fire) : Bool :=
  match f.op with
  | .ld .tld | .st .tst | .st .mcst => decide (f.lanes ≠ 0) && f.inj.isNone
  | _ => false

/-- Whether an operation of the group still has to be performed before memory can be read at issue: a store, an acquire or a fence. -/
def memPending (g : Group) : Bool :=
  !g.fences.isEmpty || g.ops.any fun o => o.acquire || match o.kind with
    | .store _ | .scalarStore | .tensorStore _ | .multicast => true
    | .load _ | .scalarLoad _ _ _ | .tensorLoad _ _ | .prefetch => false

/-- Whether the triggers of a bundle would raise a counter past 255 (R208). -/
def countersFull (g : Group) (h : Nat) (fs : List Fire) : Bool :=
  let ps := fs.flatMap (firePaths g)
  ps.any fun p => decide ((tgetD g.paths (8 * h + p) []).length + ps.count p > 255)

/-- The sm trigger that still waits for room in the seam queue (R189): its split stands at its bundle. -/
def seamHeld (g : Group) : Option SeamWait := g.seamWait.filter fun w => decide (((tget g.splits w.split).map fun x => x.pc) = some w.pc)

/-- Whether an sm trigger of a split waits: the queue is full, or another split's trigger comes first (R189). -/
def seamBars (g : Group) (sid : Nat) : Bool := decide (g.seam.length ≥ 8) || ((seamHeld g).map fun w => decide (w.split ≠ sid)).getD false

/-- Whether a trigger cannot issue yet (R189, R234, R267). -/
def fireStalls (s : State) (gid sid : Nat) (f : Fire) : Bool :=
  let g := groupOf s gid
  let t := teamOf s g.team
  (readsRecord f && memPending g) ||
  match f.op with
  | .sm _ => decide (f.lanes ≠ 0) && seamBars g sid
  | .mx op => mxStalls t op
  | .cp _ => cpStalls (coreOf s t.core)
  | .ia _ _ | .lg _ | .fm _ _ | .sf _ | .xl _ | .ld _ | .st _ => false

/-! ## Firing -/

/-- A latch consumed in some lanes: a value that is not held goes (R87). -/
def consumeLatch (im : Image) (u : FUnit) (l : LatchName) (m : Mask) : Image :=
  let x := latchOf' im u l
  { im with latches := tset im.latches (latchKey u l) { x with full := x.full &&& ~~~(m &&& ~~~x.hold) } }

/-- A uniform latch consumed. -/
def consumeUniform (im : Image) (u : FUnit) (h : Nat) (l : LatchName) : Image :=
  let k := uniformKey u h l
  let x := tgetD im.uniform k {}
  { im with uniform := tset im.uniform k { x with full := x.full && x.hold } }

/-- The image after a trigger has consumed its latches. -/
def consumeFor (g : Group) (sid : Nat) (f : Fire) : Image :=
  let u := triggerUnit f.op
  if unitUniform u then (latchesRead f.op).foldl (fun im l => consumeUniform im u (halfOf g sid) l) g.image
  else (latchesRead f.op).foldl (fun im l => consumeLatch im u l f.lanes) g.image

/-- Whether every lane of C reads through the scratchpad (R84). A tld goes by the space of its record's `w`, wherever its elements lie, of which
the spec says nothing (DESIGN CHOICE, log 44). -/
def spadOnly (g : Group) (f : Fire) : Bool := (windowLanes g f).isEmpty

/-- Whether the units check a trigger's results by residues (R152, R370). -/
def residueChecked (t : Trigger) : Bool :=
  match t with
  | .ia _ _ | .sf _ => true
  | .fm _ op => op != .neg && op != .abs && op != .csgn
  | .lg _ | .xl _ | .sm _ | .ld _ | .st _ | .mx _ | .cp _ => false

/-- The result of a trigger, before its values are known (R89). -/
def blankResult (g : Group) (f : Fire) (id : Nat) : Result :=
  let p := portsWritten f.op
  { id := id, unit := triggerUnit f.op, due := g.image.count + latency f.op (spadOnly g f), mask := f.lanes, hasO := p.1, hasX := p.2
    o := [], x := [], filled := 0, flags := [], dead := 0, poison := 0, residue := residueChecked f.op }

/-- What a lane computes of an operation of ia, lg, fm or sf (R147, R151). -/
def laneResult (g : Group) (f : Fire) (lane : Nat) : LaneRes :=
  let v := fireOps g f lane
  let a := v.getD 0 0
  let b := v.getD 1 0
  let c := v.getD 2 0
  match f.op with
  | .ia _ op => iaLane op a b c
  | .lg op => lgLane op (if g.lw then lane % 16 else lane) a b c
  | .fm _ op => fmLane op a b c
  | .sf op => sfLane op a b
  | .xl _ | .sm _ | .ld _ | .st _ | .mx _ | .cp _ => { o := 0 }

/-- The result of a lane-local trigger (R148). -/
def laneFire (g : Group) (f : Fire) (id : Nat) : Result :=
  let rs := lanes.map fun l => if f.lanes.getLsbD l then laneResult g f l else { o := 0 }
  { blankResult g f id with
    o := rs.map fun r => r.o, x := rs.map fun r => r.x.getD 0, flags := rs.map fun r => r.flags }

/-- The result of an xl trigger (R178). -/
def xlFire (g : Group) (f : Fire) (op : XlOp) (id : Nat) : Result :=
  let r := xlGroup g.lw op g.dead f.lanes (fireLatch g f .a).val f.val
  { blankResult g f id with o := r.o, x := r.x, flags := r.flags, dead := r.deadSrc }

/-- A result added to the group's image, unless no lane takes part. -/
def addResult (g : Group) (r : Result) : Group :=
  if r.mask = 0 then g else { g with image := { g.image with results := g.image.results ++ [r] } }

/-- An operation entered on its in-flight counters (R208). -/
def raisePaths (g : Group) (half id : Nat) (ps : List Nat) : Group :=
  { g with paths := ps.foldl (fun t p =>
      tset t (8 * half + p) (tgetD t (8 * half + p) [] ++ [{ id := id, done := false }])) g.paths }

/-- The pages of judged accesses touched: TLBs, A and D, Polder lines filled (R197, R204). -/
def touchAccs (s : State) (gid : Nat) (as : List Access) : State :=
  let t := groupTeam s gid
  as.foldl (fun s a =>
    let s := if a.elem.space = .spad then ensureRange s t.core a.elem.addr a.elem.size
      else match a.translated, a.frame with
        | true, some fr => touchPage s t.core t.func t.asid a.elem.va fr a.write
        | _, _ => s
    match a.write, a.frame with
    | true, some fr => setAD s fr true
    | _, _ => s) s

/-- An outstanding operation added to a group. -/
def addOp (s : State) (gid : Nat) (op : MemOp) : State :=
  let g := groupOf s gid
  setGroup s gid { g with ops := g.ops ++ [op] }

/-- An ld or st operation outstanding: where its lanes use windows and the scratchpad and no two of them meet, each path's lanes are a part of
their own (R208). -/
def addLanes (s : State) (gid : Nat) (op : MemOp) : State :=
  let t := groupTeam s gid
  let win := op.elems.filter fun e => decide (e.space ≠ .spad)
  let spad := op.elems.filter fun e => decide (e.space = .spad)
  if win.isEmpty || spad.isEmpty || win.any fun x => spad.any (elemsMeet s t.core t.func x) then addOp s gid op
  else addOp (addOp s gid { op with part := 1, elems := win }) gid { op with part := 2, elems := spad }

/-- The records and lists that a plan reads, read: dirty Polder lines that hold them are recalled (R204, R363). -/
def readRecords (s : State) (gid : Nat) (as : List Access) : State :=
  let t := groupTeam s gid
  as.foldl (fun s a => (placeGet s t.core t.func a.elem.space a.elem.addr a.elem.size).2.2) s

/-- The pages of a trigger's accesses touched, and its records and lists read. -/
def touchPlan (s : State) (gid : Nat) (p : Plan) : State := touchAccs (readRecords (touchAccs s gid p.reads) gid p.reads) gid p.accs

/-- A T6 store's elements with their groups' bytes as they stand when it issues (R232). -/
def withBefore (s : State) (core f : Nat) (fmt : Nat) (ts : List TElem) : List TElem :=
  if fmt = 4 then ts.map fun t => { t with before := leVal (bytesOf s core f t.place).1 } else ts

/-- A commit event of R256 in a store trigger: an atomic or reducing store through a window, or a release at core scope or wider. -/
def storeCommits (g : Group) (f : Fire) (op : StOp) : Bool :=
  !(windowLanes g f).isEmpty &&
    (stAtomic op || ((op == .swo || op == .sdo) && decide (fireOrder f % 4 = 2 ∧ fireOrder f / 4 ≥ 2)))

/-- The outstanding operation of an ld or st trigger (R219). -/
def fireMemOp (s : State) (gid half : Nat) (f : Fire) (plan : Plan) (id : Nat) (kind : MemKind) (ordered : Bool) : MemOp :=
  let o := fireOrder f
  { id := id, half := half, kind := kind, elems := plan.accs.map fun a => a.elem, tensor := plan.tensor
    acquire := ordered && decide (o % 2 = 1), release := ordered && decide (o % 4 ≥ 2), scope := if ordered then o / 4 else 0
    sup := (groupOf s gid).super }

/-- An lblk fires (R207): the unit held under its flag goes, bfN clears, and the new unit fills. -/
def lblkFire (s : State) (gid half : Nat) (f : Fire) (plan : Plan) (id : Nat) : State :=
  let g := groupOf s gid
  let t := teamOf s g.team
  let n := bits (fireUniVal f).toNat 8 4
  let s := match tget t.blocks n with
    | none => s
    | some b => let y := groupOf s b.gid; setGroup s b.gid { y with paths := y.paths.map fun e => (e.1, pathDone e.2 b.op) }
  let b : LoadBlock :=
    { lines := plan.accs.map fun a => a.elem.addr, filled := [], gid := gid, half := half, op := id, complete := false }
  setTeam s g.team { t with blocks := tset t.blocks n b, bflags := t.bflags &&& ~~~(1#16 <<< n) }

/-- Whether the target of a send has ended (R188). -/
def seamEnded (s : State) (gid : Nat) (b : Word) : Bool :=
  match (groupTeam s gid).groups.find? fun i => decide ((groupOf s i).gix = seamGix b) with
  | some k => decide ((groupOf s k).place = .ended)
  | none => true

/-- A send accepted into the seam queue, also one with no delivery (R188, R189). A sendb's DEADSRC or DEADSRCH is set here, at issue, unless
its target has ended by then (DESIGN CHOICE, log 44). -/
def smFire (s : State) (gid : Nat) (f : Fire) (op : SmOp) : State :=
  let g := groupOf s gid
  if f.lanes = 0 then s
  else
    let b := fireUni g f .b
    let (m, v, dead) := seamDeliveries g.lw op g.dead f.lanes f.val (fireUni g f .c)
    let upper := g.lw && decide (lowestLane f.lanes ≥ 16)
    let dead := dead && !seamEnded s gid b
    setGroup s gid { g with
      deadSrc := g.deadSrc || (dead && !upper), deadSrcH := g.deadSrcH || (dead && upper)
      seam := g.seam ++ [{ gix := seamGix b, slot := seamSlot b, lanes := m, val := v }] }

/-- The result that replaces an injected access (R313). -/
def injectFire (s : State) (gid : Nat) (f : Fire) (i : Inject) (id : Nat) : State :=
  let g := groupOf s gid
  let r := blankResult g f id
  let hasX := r.hasX && i.x.isSome
  setGroup s gid (if r.hasO then addResult g { r with hasX := hasX, o := i.o, x := i.x.getD [], filled := r.mask } else g)

/-- A trigger fires (R148, R178, R217): its latches are consumed and its operation starts. -/
def fireRun (s : State) (gid sid : Nat) (f : Fire) (plan : Plan) (id : Nat) : State :=
  let g := groupOf s gid
  let h := halfOf g sid
  let tid := g.team
  let im := consumeFor g sid f
  let paths := firePaths g f
  let place (s : State) : State :=
    let y := groupOf s gid
    setGroup s gid (raisePaths { y with image := { y.image with
      latches := im.latches, uniform := im.uniform } } h id paths)
  match f.inj with
  | some i => place (injectFire s gid f i id)
  | none =>
    match f.op with
    | .ia _ _ | .lg _ | .fm _ _ | .sf _ => place (setGroup s gid (addResult g (laneFire g f id)))
    | .xl op => place (setGroup s gid (if f.lanes = 0 then g else addResult g (xlFire g f op id)))
    | .sm op => place (smFire s gid f op)
    | .ld op =>
      if f.lanes = 0 then s
      else
        let r := blankResult g f id
        match op with
        | .tld =>
          let x := tensorRecord s gid h f
          let s := touchPlan (place (setGroup s gid (addResult g r))) gid plan
          addOp s gid (fireMemOp s gid h f { plan with accs := [] } id (.tensorLoad x.fmt x.hem) false)
        | .lblk => lblkFire (touchPlan (place s) gid plan) gid h f plan id
        | .pf =>
          let es := pfElems s gid h f
          let s := touchAccs (place s) gid (pfAccs s gid h f)
          if paths.isEmpty then s
          else addOp s gid { id := id, half := h, kind := .prefetch, elems := es, sup := g.super }
        | .lb | .lbz | .lh | .lhz | .lw | .ld | .lwo | .ldo =>
          let s := touchPlan (place (setGroup s gid (addResult g r))) gid plan
          addLanes s gid (fireMemOp s gid h f plan id (.load op) (op == .lwo || op == .ldo))
    | .st op =>
      if f.lanes = 0 then s
      else
        let s := if storeCommits g f op then commitStep s tid else s
        match op with
        | .tst =>
          let x := tensorRecord s gid h f
          let s := touchPlan (place s) gid plan
          let t := teamOf s tid
          let ts := withBefore s t.core t.func x.fmt plan.tensor
          addOp { s with free := s.free + (if fmtBlock x.fmt then 1024 else 0) } gid
            { fireMemOp s gid h f { plan with accs := [], tensor := ts } id (.tensorStore x.fmt) false with draw := s.free }
        | .mcst => addOp (touchPlan (place s) gid plan) gid (fireMemOp s gid h f plan id .multicast false)
        | .sb | .sh | .sw | .sd | .swo | .sdo | .aadd | .afadd | .amin | .amax | .aminu | .amaxu | .aand | .aor | .axor
        | .axch | .acas | .radd | .rfadd =>
          let r := blankResult g f id
          let s := touchPlan (place (if r.hasO then setGroup s gid (addResult g r) else s)) gid plan
          addLanes s gid (fireMemOp s gid h f plan id (.store op)
            (op != .sb && op != .sh && op != .sw && op != .sd))
    | .mx op =>
      let s := if segmentOpen (teamOf s tid) && op != .qadv && op != .mxfence then commitStep s tid else s
      let (s, n) := mxApply (place s) gid id op ((uniLatch g h .mx .a).getD 0) f.uval
      match n with
      | none => s
      | some n =>
        setGroup s gid (addResult (groupOf s gid) { blankResult g f id with o := laneFill fun _ => BitVec.ofNat 32 n })
    | .cp op =>
      let s := if op = .coll then commitStep s tid else s
      let l (x : LatchName) : DWord := (uniLatch g h .cp x).getD 0
      let (s, n) := cpApply (place s) gid h id op (l .a) (l .b) (l .c) f.uval
      setGroup s gid (addResult (groupOf s gid) { blankResult g f id with o := laneFill fun _ => BitVec.ofNat 32 n })

end Sys2Proof.Machine
end

