-- ==== Sys2Proof/Machine/Scalar.lean ====
section
/-!
DEFINITION. The scalar slot (spec 07_scalar_slot, R117-R145): what each operation checks, and what it does. Operands are those the group
held before the bundle (R86); the state already holds what the bundle's moves and triggers did.
-/

namespace Sys2Proof.Machine

/-! ## Integer operations (R119) -/

/-- The two-operand operations. -/
def aluResult (op : AluOp) (a t : DWord) : DWord :=
  let sh := bits t.toNat 0 6
  match op with
  | .add => a + t
  | .sub => a - t
  | .mul => a * t
  | .mulh => BitVec.ofInt 64 (a.toInt * t.toInt / 2 ^ 64)
  | .and => a &&& t
  | .or => a ||| t
  | .xor => a ^^^ t
  | .shl => a <<< sh
  | .shr => a >>> sh
  | .sar => a.sshiftRight sh
  | .min => if a.toInt ≤ t.toInt then a else t
  | .max => if a.toInt ≥ t.toInt then a else t
  | .minu => if a.toNat ≤ t.toNat then a else t
  | .maxu => if a.toNat ≥ t.toNat then a else t
  | .ceq => if a = t then 1 else 0
  | .clt => if a.toInt < t.toInt then 1 else 0
  | .cltu => if a.toNat < t.toNat then 1 else 0

/-! ## Addresses (R118, R123) -/

/-- The address of the bundle after one (R309: PC has 19 bits). -/
def nextPc (pc : Nat) : Nat := (pc + 32) % 2 ^ 19

/-- A scalar access of `n` bytes at a 64-bit address (R118, R120): the plan. -/
def scalarAccess (s : State) (gid : Nat) (a : DWord) (n lsz : Nat) (need : Need) : Plan :=
  let w := whoOf s gid
  let top := bits a.toNat 52 12
  let off := bits a.toNat 0 52
  let word := accessWord off lsz 6 (decide (top = 0xFFF)) false
  let acc : Acc := if top = 0 then virtualAcc s w 0 off n need
    else if top = 0xFFF then spadAcc s w 0 off n need.w
    else .trap 6
  planJoin (misaligned n off 6 none word) (accPlan w need 1 6 none word acc)

/-- A computed branch target (R123). -/
def targetTraps (v : DWord) : List TrapInfo :=
  trapIf (decide (bits v.toNat 19 45 ≠ 0)) 1 0 6 ++
  if bits v.toNat 0 5 ≠ 0 then [{ code := 5, info := accessWord v.toNat 5 5 false false, slot := 6 }] else []

/-- A branch address field outside instruction memory (R96). -/
def branchTraps {n : Nat} (pc : Nat) (off : BitVec n) : List TrapInfo := trapIf (branchTo pc off).isNone 1 0 6

/-- An address of SPAWN, OVLOAD or PMAP that is not virtual (R118). -/
def virtualOnly (a : DWord) (lsz : Nat) : List TrapInfo :=
  if bits a.toNat 52 12 ≠ 0 then
    [{ code := 6, info := accessWord (bits a.toNat 0 52) lsz 6 (decide (bits a.toNat 52 12 = 0xFFF)) false, slot := 6 }] else []

/-- A trap of a misaligned operand. -/
def alignTraps (v al lsz : Nat) (spad : Bool) : List TrapInfo :=
  if v % al ≠ 0 then [{ code := 5, info := accessWord v lsz 6 spad false, slot := 6 }] else []

/-! ## Checks -/

/-- BASEW's translation (R122): a malformed walk traps, and rights are not judged. -/
def basewPlan (s : State) (gid : Nat) (a : DWord) : Plan :=
  let w := whoOf s gid
  let va := a.toNat
  let word := accessWord va (Config.accessLsz va).val 6 false false
  let acc : Acc := match xlateRaw s w.core w.func w.asid va with
    | .ok fr => .ok { elem := { lane := 0, space := fr.space, addr := fr.pa, va := va, size := 1 }, frame := some fr, translated := true, write := false }
    | .missing p l h => .missing p l h false
    | .denied => .trap 6
  accPlan w { rd := true, w := false } 2 6 none word acc

/-- PMAP's checks (R118, R140). -/
def pmapPlan (s : State) (gid : Nat) (off a t : DWord) : Plan :=
  let w := whoOf s gid
  let tm := teamOf s w.team
  let al := alignTraps off.toNat 512 9 true ++ alignTraps a.toNat 512 9 false ++ alignTraps t.toNat 512 9 false ++
    if t = 0 then [{ code := 5, info := accessWord a.toNat 9 6 false false, slot := 6 }] else []
  let p : Plan := { traps := trapIf (decide (off.toNat + t.toNat > tm.kd.spkb * 1024)) 2 off.toNat 6 ++ al ++ virtualOnly a 9 }
  if !p.traps.isEmpty || a = 0 then p
  else
    let need : Need := { rd := true, w := false }
    planJoin p (planAll ((xlateRange s w.core w.func w.asid a.toNat t.toNat need w.sup).map fun e =>
      let acc : Acc := match e.2 with
        | .ok fr => .ok { elem := { lane := 0, space := fr.space, addr := fr.pa, va := e.1, size := 1 }, frame := some fr, translated := true, write := false }
        | .missing p l h => .missing p l h false
        | .denied => .trap 6
      accPlan w need 1 6 none (accessWord e.1 9 6 false false) acc))

/-- PFLUSH's checks (R140). -/
def pflushTraps (t : Team) (off n : DWord) : List TrapInfo :=
  trapIf (decide (off.toNat + n.toNat > t.kd.spkb * 1024)) 2 off.toNat 6 ++
  alignTraps off.toNat 512 9 true ++ alignTraps n.toNat 512 9 true ++
    if n = 0 then [{ code := 5, info := accessWord off.toNat 9 6 true false, slot := 6 }] else []

/-- OVLOAD's checks (R118, R139). -/
def ovloadTraps (g : Group) (t : Team) (a slot : DWord) : List TrapInfo :=
  trapIf (decide (slot.toNat ≤ 7) && !slotsFree g && !t.ovmask.getLsbD slot.toNat) 0x0C 0 6 ++
  trapIf (decide (slot.toNat > 7)) 2 slot.toNat 6 ++ alignTraps a.toNat 256 8 false ++ virtualOnly a 8

/-- A count of REGGIVE or REGCLAIM outside its range (R135). -/
def countBad (c t : Nat) (claim : Bool) : Bool :=
  decide (t = 0 ∨ t % 8 ≠ 0) || if claim then decide (c + t > 320) else decide (c < t + 8)

/-- PHINT's operand (R137). -/
def phintBad (t : Nat) : Bool :=
  decide (bits t 0 5 > 16) || decide (bits t 16 12 = 0) || decide (bits t 5 11 ≠ 0 ∨ bits t 28 36 ≠ 0)

/-- SPAWN's `t` outside its fields (R133). -/
def spawnBad (t : Nat) : Bool := decide (bits t 9 55 ≠ 0 ∨ bits t 6 2 ≠ 0)

/-- The split ids a BD may create (R20, R349). -/
def splitIds (g : Group) (h : Nat) : List Nat := if g.lw then [2 * h, 2 * h + 1] else [0, 1, 2, 3]

/-- The lowest free split id (R20). -/
def freeSplit (g : Group) (h : Nat) : Option Nat := (splitIds g h).find? fun i => (tget g.splits i).isNone

/-- The traps of BD (R20, R312). -/
def bdTraps (g : Group) (sid pc : Nat) (inv : Bool) (mask : BitVec 4) (target : BitVec 24) (join : BitVec 16) : List TrapInfo :=
  let a := activeMask g sid
  let t := condLanes g sid inv mask
  branchTraps pc target ++ branchTraps pc join ++
  trapIf (g.super || (decide (t ≠ 0 ∧ a &&& ~~~t ≠ 0) && (freeSplit g (halfOf g sid)).isNone &&
    decide ((splitOf g sid).stack.length ≥ 4))) 4 0 6

/-- The traps of BU (R124). -/
def buTraps (g : Group) (sid pc : Nat) (inv : Bool) (mask : BitVec 4) (target : BitVec 24) : List TrapInfo :=
  let t := condLanes g sid inv mask
  branchTraps pc target ++ trapIf (decide (t ≠ 0 ∧ t ≠ activeMask g sid)) 3 t.toNat 6

/-- The plan of a scalar operation: its traps, missing pages and accesses. -/
def scalarPlan (s : State) (gid sid pc : Nat) (op : ScalarOp) : Plan :=
  let g := groupOf s gid
  let t := teamOf s g.team
  let h := halfOf g sid
  let ld (n : Nat) (sa sb : BitVec 6) (imm : BitVec 22) : Plan :=
    scalarAccess s gid (scalarAddr g h sa sb imm) n (Nat.log2 n) { rd := true, w := false }
  let store (n : Nat) (sd sa sb : BitVec 6) (imm : BitVec 22) : Plan :=
    let p := scalarAccess s gid (scalarAddr g h sa sb imm) n (Nat.log2 n) { rd := false, w := true }
    let v := (sget g h sd.toNat).toNat + if n = 16 then 2 ^ 64 * (sget g h (sd.toNat + 1)).toNat else 0
    { p with accs := p.accs.map fun a => { a with elem := { a.elem with data := v } } }
  match op with
  | .alu _ _ _ _ _ | .mrd _ _ | .mwr _ _ _ _ | .exit | .li _ _ | .liz _ _ | .lih _ _ | .fence _ | .waitc _ _ | .mxwait _ | .cpwait _ _
  | .mxtake | .sys _ | .trap _ => {}
  | .sld _ sa sb imm => ld 8 sa sb imm
  | .sldq _ sa sb imm => ld 16 sa sb imm
  | .sst sd sa sb imm => store 8 sd sa sb imm
  | .sstq sd sa sb imm => store 16 sd sa sb imm
  | .basew _ sa _ _ => basewPlan s gid (sget g h sa.toNat)
  | .reggive sb imm => let c := (scalarT g h sb imm).toNat; { traps := trapIf (countBad g.regcnt c false) 2 c 6 }
  | .regclaim sb imm => let c := (scalarT g h sb imm).toNat; { traps := trapIf (countBad g.regcnt c true) 2 c 6 }
  | .ret sa => { traps := targetTraps (sget g h sa.toNat) }
  | .ovcall sa sb imm => { traps := targetTraps (scalarAddr g h sa sb imm) }
  | .recbeg => { traps := recordTraps t gid 0 }
  | .recend => { traps := recordTraps t gid 1 }
  | .reverse _ => { traps := recordTraps t gid 2 }
  | .spawn _ sa sb imm =>
    let a := sget g h sa.toNat
    let al := alignTraps a.toNat 64 6 false
    if !al.isEmpty || spawnBad (scalarT g h sb imm).toNat then { traps := al }
    else if bits a.toNat 52 12 ≠ 0 then { traps := virtualOnly a 6 }
    else let p := scalarAccess s gid a 64 6 { rd := true, w := false }; { p with accs := [], reads := p.accs }
  | .pmap sd sa sb imm => pmapPlan s gid (sget g h sd.toNat) (sget g h sa.toNat) (scalarT g h sb imm)
  | .pflush sa sb imm => { traps := pflushTraps t (sget g h sa.toNat) (scalarT g h sb imm) }
  | .ovload sa sb imm => { traps := ovloadTraps g t (sget g h sa.toNat) (scalarT g h sb imm) }
  | .phint _ sb imm => let v := (scalarT g h sb imm).toNat; { traps := trapIf (phintBad v) 2 v 6 }
  | .bd inv mask target join => { traps := bdTraps g sid pc inv mask target join }
  | .bu inv mask target => { traps := buTraps g sid pc inv mask target }
  | .call target => { traps := branchTraps pc target }
  | .loop target _ => { traps := branchTraps pc target }
  | .bara _ sb id _ =>
    { traps := trapIf (decide (id.toNat ≥ t.kd.nbar)) 2 id.toNat 6 ++
        trapIf (decide (sb ≠ 0 ∧ bits (sget g h sb.toNat).toNat 0 16 = 0)) 2 0 6 }
  | .barw id _ => { traps := trapIf (decide (id.toNat ≥ t.kd.nbar)) 2 id.toNat 6 }
  | .dsync scope => { traps := trapIf (decide (t.dom.getD (scope.toNat - 2) 0 = 0)) 2 (scope.toNat + 1) 6 }
  | .mxgive => { traps := trapIf (decide (t.token ≠ some gid)) 2 0 6 }
  | .rdsr _ reg => { traps := rdsrTraps g reg.toNat }
  | .wrsr sa reg => { traps := wrsrTraps g t reg.toNat (sget g h sa.toNat) }
  | .eret => { traps := trapIf (!g.super) 0x0C 0 6 }

/-! ## Registers an operation touches (R86) -/

/-- The scalar registers an operation reads or writes. -/
def scalarRegs (op : ScalarOp) : List Nat :=
  match op with
  | .alu _ sd sa sb _ => [sd.toNat, sa.toNat, sb.toNat]
  | .sld sd sa sb _ | .sst sd sa sb _ => [sd.toNat, sa.toNat, sb.toNat]
  | .sldq sd sa sb _ | .sstq sd sa sb _ => [sd.toNat, sd.toNat + 1, sa.toNat, sb.toNat]
  | .mrd sd _ => [sd.toNat]
  | .mwr _ sa sb _ => [sa.toNat, sb.toNat]
  | .basew _ sa sb _ => [sa.toNat, sb.toNat]
  | .reggive sb _ | .regclaim sb _ => [sb.toNat]
  | .ret sa => [sa.toNat]
  | .reverse sd => [sd.toNat]
  | .spawn sd sa sb _ | .pmap sd sa sb _ => [sd.toNat, sa.toNat, sb.toNat]
  | .pflush sa sb _ | .ovload sa sb _ | .phint sa sb _ => [sa.toNat, sb.toNat]
  | .ovcall sa sb _ => [sa.toNat, sb.toNat, 63]
  | .li sd _ | .liz sd _ | .lih sd _ => [sd.toNat]
  | .call _ => [63]
  | .loop _ n => [n.toNat]
  | .bara sa sb _ _ => [sa.toNat, sb.toNat]
  | .waitc sa _ | .mxwait sa | .cpwait sa _ => [sa.toNat]
  | .rdsr sd _ => [sd.toNat]
  | .wrsr sa _ => [sa.toNat]
  | .exit | .recbeg | .recend | .bd _ _ _ _ | .bu _ _ _ | .barw _ _ | .dsync _ | .fence _ | .mxtake | .mxgive | .sys _ | .trap _
  | .eret => []

/-- The scalar registers an operation reads. -/
def scalarSources (op : ScalarOp) : List Nat :=
  match op with
  | .alu _ _ sa sb _ | .sld _ sa sb _ | .sldq _ sa sb _ | .mwr _ sa sb _ | .basew _ sa sb _ | .spawn _ sa sb _ | .pflush sa sb _
  | .ovload sa sb _ | .phint sa sb _ | .ovcall sa sb _ | .bara sa sb _ _ => [sa.toNat, sb.toNat]
  | .sst sd sa sb _ | .pmap sd sa sb _ => [sd.toNat, sa.toNat, sb.toNat]
  | .sstq sd sa sb _ => [sd.toNat, sd.toNat + 1, sa.toNat, sb.toNat]
  | .reggive sb _ | .regclaim sb _ => [sb.toNat]
  | .ret sa | .waitc sa _ | .mxwait sa | .cpwait sa _ | .wrsr sa _ => [sa.toNat]
  | .lih sd _ => [sd.toNat]
  | .loop _ n => [n.toNat]
  | .mrd _ _ | .exit | .li _ _ | .liz _ _ | .call _ | .recbeg | .recend | .reverse _ | .bd _ _ _ _ | .bu _ _ _ | .barw _ _ | .dsync _
  | .fence _ | .mxtake | .mxgive | .rdsr _ _ | .sys _ | .trap _ | .eret => []

/-- The mask registers a scalar operation reads (R90). -/
def scalarMasks (op : ScalarOp) : List Nat :=
  match op with
  | .mrd _ m | .bd _ m _ _ | .bu _ m _ => [m.toNat]
  | _ => []

/-- The scalar registers that an ERET with INJ = 1 reads for a scalar access (R313). -/
def eretRegs (g : Group) (op : ScalarOp) : List Nat :=
  match op with
  | .eret =>
    if g.epc.getLsbD 19 && decide (bits g.ecause.toNat 9 3 = 6) then [bits g.epc.toNat 21 9, bits g.epc.toNat 21 9 + 1] else []
  | _ => []

/-- The registers of a half that outstanding scalar loads still have to write. -/
def scalarPending (g : Group) (h : Nat) : List Nat :=
  g.ops.flatMap fun o => match o.kind with
    | .scalarLoad hh sd quad => if hh = h then (if quad then [sd, sd + 1] else [sd]) else []
    | _ => []

/-- Whether an operation uses FSTAT. -/
def usesFstat (op : ScalarOp) : Bool :=
  match op with
  | .rdsr _ reg => reg == 0
  | .wrsr _ reg => reg == 0
  | _ => false

/-- Whether a tensor store whose flags are still to come is outstanding (R60, R232). -/
def tstPending (g : Group) : Bool := g.ops.any fun o => match o.kind with
  | .tensorStore _ => true
  | _ => false

/-- Whether PMAP waits: for the group's own scratchpad accesses (R219), for a locked bank of its range (R252), or for a port that a dirty
line goes out by (R363). -/
def pmapWaits (s : State) (gid a n : Nat) : Bool :=
  let c := coreOf s (groupTeam s gid).core
  !spadQuiet (groupOf s gid) || (!c.locks.isEmpty && rangeLocked c none a n) ||
    (dirtyLines c a n).any fun l => !((tget c.lines l).map (lineGoes s)).getD true

/-- Whether a scalar operation cannot issue yet: FSTAT waits for tensor stores (R60), SPAWN's descriptor for the group's own accesses (R219),
REVERSE for room in the engine (R297). -/
def scalarStalls (s : State) (gid sid : Nat) (op : ScalarOp) : Bool :=
  let g := groupOf s gid
  let h := halfOf g sid
  (usesFstat op && tstPending g) ||
  match op with
  | .spawn _ _ _ _ => memPending g
  | .pmap sd _ sb imm => pmapWaits s gid ((groupTeam s gid).spBase + (sget g h sd.toNat).toNat) (scalarT g h sb imm).toNat
  | .reverse _ => decide (unstarted (teamOf s g.team) ≥ 32)
  | _ => false

/-! ## Effects -/

/-- A split's PC set. -/
def setPc (s : State) (gid sid pc : Nat) : State :=
  let g := groupOf s gid
  setGroup s gid (setSplit g sid { splitOf g sid with pc := pc })

/-- A scalar register of a group set. -/
def writeS (s : State) (gid h i : Nat) (v : DWord) : State := setGroup s gid (sput (groupOf s gid) h i v)

/-- MRD's value (R121, R349): m0 is the active mask; in legacy width the half's 16 bits. -/
def mrdValue (g : Group) (sid : Nat) (mask : BitVec 4) : DWord :=
  let m := if mask = 0 then activeMask g sid else mget g mask.toNat
  if g.lw then BitVec.ofNat 64 (bits m.toNat (16 * halfOf g sid) 16) else m.setWidth 64

/-- MWR (R121, R349). -/
def mwrApply (g : Group) (h : Nat) (mask : Nat) (v : DWord) : Group :=
  let old := mget g mask
  let new : Mask := if g.lw then (old &&& ~~~halfMask g h) ||| (((v.setWidth 16).setWidth 32 : Mask) <<< (16 * h)) else v.setWidth 32
  { g with m := tset g.m mask new, mPoison := tset g.mPoison mask (if g.lw then tgetD g.mPoison mask 0 &&& ~~~halfMask g h else 0), mPrev := if (tget g.mPrev mask).isSome then g.mPrev else tset g.mPrev mask old
           userPrev := if g.super then tdel g.userPrev mask else g.userPrev }

/-- The distance from an address to the end of its page (R122). -/
def pageLeft (fr : Frame) (va : Nat) : Nat := frameSize fr - va % frameSize fr

/-- BASEW (R122). -/
def basewApply (s : State) (gid h win : Nat) (a t : DWord) : State :=
  let g := groupOf s gid
  let tm := teamOf s g.team
  match xlateRaw s tm.core tm.func tm.asid a.toNat with
  | .ok fr =>
    let lim := if !fr.rd && !fr.w then 0 else min t.toNat (min (pageLeft fr a.toNat) (2 ^ 32))
    let s := touchPage s tm.core tm.func tm.asid a.toNat fr false
    setGroup s gid { groupOf s gid with
      w := tset g.w (8 * h + win) { base := a.toNat, frame := fr, limit := lim }
      wPoison := g.wPoison.filter fun k => decide (k ≠ 8 * h + win) }
  | .missing _ _ _ | .denied => s

/-- REGGIVE (R135): the highest registers leave, their contents lost. -/
def reggiveApply (g : Group) (t : Nat) : Group :=
  let c := g.regcnt - t
  { g with regcnt := c, v := g.v.filter fun e => decide (e.1 < c), vPoison := g.vPoison.filter fun e => decide (e.1 < c) }

/-- The walk of R134 over a serialisation stack whose masks hold running lanes only: the mask, PC and stack that are left. -/
def exitStack : Nat → Mask → List StackEntry → Mask × Nat × List StackEntry
  | pc, m, [] => (m, pc, [])
  | pc, m, e :: r =>
    if m ≠ 0 then (m, pc, e :: r)
    else if e.second then exitStack e.join e.mask r
    else if e.mask ≠ 0 then (e.mask, e.fall, { e with mask := 0, second := true } :: r)
    else exitStack e.join 0 r

/-- A split rid of the lanes that run no more: where none is left its stack is resolved, and it is freed (R23, R26, R134). -/
def trimSplit (g : Group) (sid : Nat) : Group :=
  let r := runningLanes g
  let sp := splitOf g sid
  let (m, pc, st) := exitStack sp.pc (sp.mask &&& r) (sp.stack.map fun e => { e with mask := e.mask &&& r })
  if m = 0 then { g with splits := tdel g.splits sid } else setSplit g sid { sp with mask := m, pc := pc, stack := st }

/-- EXIT (R134, R349). -/
def exitApply (s : State) (gid sid : Nat) : State :=
  let g := groupOf s gid
  let ls := activeMask g sid
  let drop (im : Image) : Image := { im with results := dropResults ls im.results }
  let g := { g with exited := g.exited ||| ls, image := drop g.image, user := g.user.map drop }
  let g := trimSplit g sid
  let s := setGroup s gid g
  if g.splits.isEmpty then endGroup s gid else s

/-- BD (R20). -/
def bdApply (g : Group) (sid : Nat) (t n : Mask) (target join fall : Nat) : Group :=
  let sp := splitOf g sid
  if t = 0 then setSplit g sid { sp with pc := fall }
  else if n = 0 then setSplit g sid { sp with pc := target }
  else match freeSplit g (halfOf g sid) with
    | some i =>
      let g := setSplit g sid { sp with mask := n, pc := fall, join := some join, held := none }
      setSplit g i { pc := target, mask := t, join := some join, la := sp.la }
    | none =>
      setSplit g sid { sp with mask := t, pc := target, stack := { join := join, fall := fall, mask := n, second := false } :: sp.stack }

/-- PMAP (R140): the granules are written back where mapped, then mapped; a zero address unmaps. -/
def pmapApply (s : State) (gid : Nat) (off a t : DWord) : State :=
  let g := groupOf s gid
  let tm := teamOf s g.team
  (List.range (t.toNat / 512)).foldl (fun s i =>
    let gr := (tm.spBase + off.toNat) / 512 + i
    let s := unmapGranule s tm.core gr
    if a = 0 then s
    else
      let c := coreOf s tm.core
      let m : PMapEntry :=
        { va := a.toNat + 512 * i, asid := tm.asid, func := tm.func, before := memRead c.sp (512 * gr) 512 }
      setCore s tm.core { c with pmap := tset c.pmap gr m }) s

/-- BARA (R129, R246): the arrival is made once every earlier access is performed where it is a release. -/
def baraApply (s : State) (gid h opId id w : Nat) (next : Option Nat) (release : Bool) : State :=
  let g := groupOf s gid
  let a : Arrival := { id := opId, bar := id, half := h, weight := w, nextexp := next, release := release }
  afterOp (setGroup s gid { g with arrivals := g.arrivals ++ [a] }) gid

/-- DSYNC (R19, R130). -/
def dsyncApply (s : State) (gid sid level : Nat) : State :=
  let g := groupOf s gid
  let h := halfOf g sid
  let n := dsyncCount g level h + 1
  enterWait (setGroup s gid { g with dsyncs := tset g.dsyncs (2 * level + h) n }) gid sid (.dsync level n)

/-- FENCE (R131): complete at once where nothing is outstanding. -/
def fenceApply (s : State) (gid opId scope : Nat) : State :=
  let g := groupOf s gid
  if g.ops.isEmpty then s else setGroup s gid { g with fences := g.fences ++ [{ id := opId, scope := scope }] }

/-- SPAWN (R133), which commits a tile step however it ends (R256). Its descriptor is read at once, or once the accesses of its own bundle that
come before it are performed (R219, R247). A descriptor read in error kills every lane (R321). -/
def spawnApply (s : State) (gid sid id sd : Nat) (t : Nat) (accs : List Access) : State × Bool :=
  let g := groupOf s gid
  let s := commitStep s g.team
  let h := halfOf g sid
  let tm := teamOf s g.team
  if spawnBad t then (writeS s gid h sd 3, false)
  else match accs with
    | [] => (s, false)
    | a :: _ =>
      let (b, bad, s') := placeGet s tm.core tm.func a.elem.space a.elem.addr 64
      if !readReady s gid id a.elem then (enterWait s gid sid (.spawnRead sd h (bits t 0 6) (decide (bits t 8 1 = 1)) id a.elem), false)
      else if bad then (s', true)
      else (enterWait s' gid sid (.spawnRoom sd h (bits t 0 6) (decide (bits t 8 1 = 1)) b), false)

/-- Every live lane of a split's half killed by a poisoned scalar value (R321, R349). -/
def killScalar (s : State) (gid sid next : Nat) : State :=
  let g := groupOf s gid
  lanesDie s gid sid (runningLanes g &&& halfMask g (halfOf g sid)) 6 next

/-! ### ERET (R313) -/

/-- The bundle at an instruction-memory address. -/
def bundleAt (c : Core) (pc : Nat) : Option Bundle :=
  match decodeBundle (BitVec.ofNat 256 (leVal (memRead c.imem pc 32))) with
  | .ok b => some b
  | .error _ => none

/-- EPC's fields. -/
def epcPc (e : DWord) : Nat := bits e.toNat 0 19
/-- EPC.INJ. -/
def epcInj (e : DWord) : Bool := e.getLsbD 19
/-- EPC.INJX. -/
def epcInjx (e : DWord) : Bool := e.getLsbD 20
/-- EPC.VREG. -/
def epcVreg (e : DWord) : Nat := bits e.toNat 21 9
/-- EPC.KILL. -/
def epcKill (e : DWord) : Bool := e.getLsbD 63

/-- The trigger of a move slot. -/
def slotTrigger (b : Bundle) (k : Nat) : Option Trigger :=
  match b.slots.getD k .empty with
  | .move m => match m.dst with
    | .trig t => some t
    | _ => none
  | _ => none

/-- Whether a vector register holds an uncorrectable error in an active lane of a split. -/
def lanePoison (g : Group) (sid v : Nat) : Bool := decide (activeMask g sid &&& tgetD g.vPoison v 0 ≠ 0)

/-- The replaced access of an ERET with INJ = 1, none for a double trap (R313); reading a value with an uncorrectable error is a consumption
in supervisor mode, so a double trap (R321). -/
def injectOf (s : State) (gid sid : Nat) : Option Inject :=
  let g := groupOf s gid
  let h := halfOf g sid
  let e := g.epc
  let v := epcVreg e
  let slot := bits g.ecause.toNat 9 3
  let bad (k : Nat) : Bool := g.sPoison.contains (64 * h + k)
  if bits g.ecause.toNat 0 8 ≠ 5 then none
  else
    match bundleAt (coreOf s (teamOf s g.team).core) (epcPc e) with
    | none => none
    | some b =>
      let mk (ok : Bool) (o : Lanes) (x : Option Lanes) : Option Inject :=
        if ok then some { split := sid, slot := slot, o := o, x := x, s0 := sget g h v, s1 := sget g h (v + 1) } else none
      if slot = 6 then
        match b.scalar with
        | some (.sld _ _ _ _) => mk (decide (1 ≤ v ∧ v ≤ 63) && !bad v) [] none
        | some (.sldq _ _ _ _) => mk (decide (1 ≤ v ∧ v ≤ 62) && !bad v && !bad (v + 1)) [] none
        | some (.sst _ _ _ _) | some (.sstq _ _ _ _) => mk true [] none
        | _ => none
      else
        let x := if epcInjx e then some (vget g (v + 1)) else none
        match slotTrigger b slot with
        | some (.ld _) =>
          mk (decide (v + (if epcInjx e then 1 else 0) < g.regcnt) && !lanePoison g sid v && !(epcInjx e && lanePoison g sid (v + 1)))
            (vget g v) x
        | some (.st op) => mk (!(portsWritten (.st op)).1 || !lanePoison g sid v) (vget g v) x
        | _ => none

/-- ERET (R313): the end of the group, the return, or the return with a replaced access. -/
def eretApply (s : State) (gid sid : Nat) : State :=
  let g := groupOf s gid
  if epcKill g.epc then killGroup s gid
  else if epcInj g.epc then
    match injectOf s gid sid with
    | none => killGroup s gid
    | some i => setGroup s gid { leaveSupervisor g sid (epcPc g.epc) with inject := some i }
  else setGroup s gid (leaveSupervisor g sid (epcPc g.epc))

/-! ### Every operation -/

/-- What a scalar operation leaves: the state, an after-trap of SYS or TRAP with its EPC, and whether poisoned data kills every lane. -/
structure ScalarOut where
  state : State
  trap : Option (TrapInfo × Nat) := none
  poison : Bool := false

/-- A split goes on at the next bundle. -/
def goOn (s : State) (gid sid pc : Nat) : ScalarOut := { state := setPc s gid sid (nextPc pc) }

/-- The outstanding operation of a scalar access (R120). -/
def scalarOp (s : State) (gid h id : Nat) (kind : MemKind) (accs : List Access) : State :=
  addOp (touchAccs s gid accs) gid
    { id := id, half := h, kind := kind, elems := accs.map fun a => a.elem, sup := (groupOf s gid).super }

/-- A scalar operation takes effect (R86, R117): `g0` is the group before the bundle, `accs` its judged accesses, `inj` the values that
replace its access. -/
def scalarRun (s : State) (gid sid : Nat) (g0 : Group) (id pc : Nat) (op : ScalarOp) (accs : List Access) (inj : Option Inject) : ScalarOut :=
  let h := halfOf g0 sid
  let sv (i : BitVec 6) : DWord := sget g0 h i.toNat
  let tv (sb : BitVec 6) (imm : BitVec 22) : DWord := scalarT g0 h sb imm
  let put (sd : BitVec 6) (v : DWord) : ScalarOut := goOn (writeS s gid h sd.toNat v) gid sid pc
  let wait (w : Wait) : ScalarOut := { state := enterWait (setPc s gid sid (nextPc pc)) gid sid w }
  let onGroup (f : Group → Group) : ScalarOut := goOn (setGroup s gid (f (groupOf s gid))) gid sid pc
  let tid := g0.team
  let onTeam (f : Team → Team) : ScalarOut := goOn (setTeam s tid (f (teamOf s tid))) gid sid pc
  let jump (s : State) (a : Nat) : ScalarOut := { state := setPc s gid sid a }
  let fall := nextPc pc
  match op with
  | .alu op sd sa sb imm => put sd (aluResult op (sv sa) (tv sb imm))
  | .li sd imm => put sd (imm.signExtend 64)
  | .liz sd imm => put sd (imm.setWidth 64)
  | .lih sd imm => put sd (((sv sd).setWidth 32).setWidth 64 ||| (imm.setWidth 64 <<< 32))
  | .sld sd _ _ _ =>
    match inj with
    | some i => put sd i.s0
    | none => goOn (scalarOp s gid h id (.scalarLoad h sd.toNat false) accs) gid sid pc
  | .sldq sd _ _ _ =>
    match inj with
    | some i => goOn (writeS (writeS s gid h sd.toNat i.s0) gid h (sd.toNat + 1) i.s1) gid sid pc
    | none => goOn (scalarOp s gid h id (.scalarLoad h sd.toNat true) accs) gid sid pc
  | .sst _ _ _ _ | .sstq _ _ _ _ =>
    match inj with
    | some _ => goOn s gid sid pc
    | none => goOn (scalarOp s gid h id .scalarStore accs) gid sid pc
  | .mrd sd mask => put sd (mrdValue g0 sid mask)
  | .mwr mask sa sb imm => onGroup fun g => mwrApply g h mask.toNat (sv sa + tv sb imm)
  | .basew win sa sb imm => goOn (basewApply s gid h win.toNat (sv sa) (tv sb imm)) gid sid pc
  | .reggive sb imm => onGroup fun g => reggiveApply g (tv sb imm).toNat
  | .regclaim sb imm =>
    let s' := { s with nextId := s.nextId + 1 }
    { state := enterWait (setPc s' gid sid fall) gid sid (.regclaim (tv sb imm).toNat s.nextId) }
  | .ret sa => jump s (sv sa).toNat
  | .ovcall sa sb imm => jump (writeS s gid h 63 (BitVec.ofNat 64 fall)) (sv sa + tv sb imm).toNat
  | .call target => jump (writeS s gid h 63 (BitVec.ofNat 64 fall)) ((branchTo pc target).getD fall)
  | .loop target n =>
    let v := sget g0 h n.toNat - 1
    jump (writeS s gid h n.toNat v) (if v ≠ 0 then (branchTo pc target).getD fall else fall)
  | .bu inv mask target =>
    jump s (if condLanes g0 sid inv mask ≠ 0 then (branchTo pc target).getD fall else fall)
  | .bd inv mask target join =>
    let t := condLanes g0 sid inv mask
    let n := activeMask g0 sid &&& ~~~t
    { state := setGroup s gid (bdApply (groupOf s gid) sid t n ((branchTo pc target).getD fall) ((branchTo pc join).getD fall) fall) }
  | .exit => { state := exitApply (setPc s gid sid fall) gid sid }
  | .recbeg => onTeam recordBegin
  | .recend => onTeam recordEnd
  | .reverse sd =>
    let (s, n) := reverseAccept s gid id
    goOn (writeS s gid h sd.toNat (BitVec.ofNat 64 n)) gid sid pc
  | .spawn sd _ sb imm =>
    let (s, bad) := spawnApply (setPc (touchAccs s gid accs) gid sid fall) gid sid id sd.toNat (tv sb imm).toNat accs
    { state := s, poison := bad }
  | .pmap sd sa sb imm => goOn (pmapApply (touchAccs s gid accs) gid (sv sd) (sv sa) (tv sb imm)) gid sid pc
  | .pflush sa sb imm =>
    wait (.pflush ((teamOf s tid).spBase + (sv sa).toNat) (tv sb imm).toNat)
  | .ovload sa sb imm =>
    let t := teamOf s tid
    goOn (overlayBegin s t.core (tv sb imm).toNat (sv sa).toNat t.asid t.func g0.super none (some (gid, id))) gid sid pc
  | .phint sa sb imm =>
    let v := (tv sb imm).toNat
    goOn (declareHint s gid (sv sa).toNat (bits v 0 5) (bits v 16 12) true) gid sid pc
  | .bara sa sb i scope =>
    let w := if sa = 0 then 1 else bits (sv sa).toNat 0 16
    let next := if sb = 0 then none else some (bits (sv sb).toNat 0 16)
    goOn (baraApply s gid h id i.toNat w next (decide (scope = 1))) gid sid pc
  | .barw i scope => wait (.barw h i.toNat (barrierOf (teamOf s tid) i.toNat).phase scope.toNat)
  | .dsync scope => { state := dsyncApply (setPc s gid sid fall) gid sid (scope.toNat + 1) }
  | .fence scope =>
    goOn (fenceApply (if scope.toNat ≥ 2 then commitStep s tid else s) gid id scope.toNat) gid sid pc
  | .waitc sa i => wait (.waitc h i.toNat (sv sa).toNat)
  | .mxwait sa => wait (.mxwait (sv sa).toNat)
  | .cpwait sa i => wait (.cpwait i.toNat (sv sa).toNat)
  | .mxtake =>
    let s' := { s with nextId := s.nextId + 1 }
    { state := enterWait (setPc s' gid sid fall) gid sid (.mxtake s.nextId) }
  | .mxgive => onTeam fun t => { t with token := none }
  | .rdsr sd reg => put sd (specialValue s gid h reg.toNat)
  | .wrsr sa reg => { state := specialWrite (setPc s gid sid fall) gid sid reg.toNat (sv sa) }
  | .sys code =>
    { state := setPc s gid sid fall
      trap := some ({ code := 0x0E, info := code.setWidth 64, slot := 6, after := true }, fall) }
  | .trap code =>
    { state := setPc s gid sid fall
      trap := some ({ code := 0x0D, info := code.setWidth 64, slot := 6, after := true }, pc) }
  | .eret => { state := eretApply s gid sid }

end Sys2Proof.Machine
end

