-- ==== Sys2Proof/Machine/Sched.lean ====
section
/-!
DEFINITION. Splits at a bundle boundary (R21-R25), the lookahead (R51, R52), the fetch (R123, R316), and when a bundle stalls
(R86, R89, R91).
-/

namespace Sys2Proof.Machine

/-! ## Covered operations (R51) -/

/-- Whether a covered operation is complete: its result is delivered and its counters are lowered. -/
def coveredDone (g : Group) (id : Nat) : Bool :=
  (g.image.results.all fun r => decide (r.id ≠ id) || resultFull r) &&
  ((g.user.getD {}).results.all fun r => decide (r.id ≠ id) || resultFull r) &&
  (g.ops.all fun o => decide (o.id ≠ id)) &&
  g.paths.all fun e => e.2.all fun p => decide (p.id ≠ id)

/-- A split held by an exhausted lookahead. -/
def exhausted (g : Group) (sp : Split) : Bool := sp.la.any fun c => decide (c.left = 0) && !coveredDone g c.id

/-- The windows of a split after it has issued a bundle (R51): earlier ones shrink by one, those complete go, new ones open. -/
def laAfter (g : Group) (sp : Split) (ids : List Nat) (n : Nat) : List Covered :=
  ((sp.la.filter fun c => !coveredDone g c.id).map fun c => { c with left := c.left - 1 }) ++ ids.map fun i => { id := i, left := n }

/-- The windows of two merging splits: the union, with the lesser remainder (R52). -/
def laMerge (a b : List Covered) : List Covered :=
  (a.map fun c => match b.find? fun d => decide (d.id = c.id) with
    | some d => { c with left := min c.left d.left }
    | none => c) ++ b.filter fun d => !(a.any fun c => decide (c.id = d.id))

/-! ## Boundaries (R21-R23) -/

/-- A split's serialisation stack resolved (R21). -/
def resolveStack : Nat → Split → Split
  | 0, sp => sp
  | n + 1, sp =>
    match sp.stack with
    | [] => sp
    | e :: r =>
      if sp.pc ≠ e.join then sp
      else if e.second then resolveStack n { sp with mask := sp.mask ||| e.mask, stack := r }
      else resolveStack n { sp with mask := e.mask, pc := e.fall, stack := { e with mask := sp.mask, second := true } :: r }

/-- A split resolved with fuel for every entry. -/
def resolveSplit (sp : Split) : Split := resolveStack (2 * sp.stack.length + 1) sp

/-- Whether two splits merge (R23, R349): equal PCs, empty stacks, one half. -/
def mergeable (g : Group) (i j : Nat) : Bool :=
  let a := splitOf g i
  let b := splitOf g j
  decide (a.pc = b.pc) && a.stack.isEmpty && b.stack.isEmpty && decide (halfOf g i = halfOf g j)

/-- Two splits merged: the lower id keeps the entry (R23), with its own mark of R53 (DESIGN CHOICE, log 27). -/
def mergePair (g : Group) (i j : Nat) : Group :=
  let a := splitOf g i
  let b := splitOf g j
  let g := setSplit g i { a with mask := a.mask ||| b.mask, join := none, held := none, la := laMerge a.la b.la }
  { g with splits := tdel g.splits j, seamWait := g.seamWait.map fun w => if w.split = j then { w with split := i } else w }

/-- The first pair of splits that merge. -/
def mergePairOf (g : Group) : Option (Nat × Nat) :=
  let ids := g.splits.map Prod.fst
  (ids.flatMap fun i => (ids.filter fun j => decide (i < j)).map fun j => (i, j)).find? fun p => mergeable g p.1 p.2

/-- Every merge made. -/
def mergeAll : Nat → Group → Group
  | 0, g => g
  | n + 1, g => match mergePairOf g with
    | none => g
    | some (i, j) => mergeAll n (mergePair g i j)

/-- Whether a split at its join waits for another with that join (R22, R349). -/
def holdsFor (g : Group) (sid : Nat) : Bool :=
  let sp := splitOf g sid
  decide (sp.join = some sp.pc) &&
    g.splits.any fun e => decide (e.1 ≠ sid ∧ e.2.join = sp.join ∧ halfOf g e.1 = halfOf g sid)

/-- A held split whose hold has lasted 1,024 bundles of the group goes on alone (R22). -/
def holdTimeout (g : Group) (sid : Nat) : Group :=
  let sp := splitOf g sid
  match sp.held with
  | some n => if n ≥ 1024 then setSplit g sid { sp with join := none, held := none } else g
  | none => g

/-- A split's hold begun, kept or ended (R22). -/
def markHold (g : Group) (sid : Nat) : Group :=
  let sp := splitOf g sid
  holdTimeout (setSplit g sid { sp with held := if holdsFor g sid then some (sp.held.getD 0) else none }) sid

/-- A function of a group applied at each of some splits that the group still has. -/
def eachSplit (f : Group → Nat → Group) (g : Group) (ids : List Nat) : Group :=
  ids.foldl (fun g i => if (tget g.splits i).isSome then f g i else g) g

/-- The boundary of a group in user mode: splits without running lanes go, stacks are resolved, splits merge, holds are judged. -/
def boundary (g : Group) : Group :=
  if g.super then g
  else
    let ids := g.splits.map Prod.fst
    let g := eachSplit trimSplit g ids
    let g := eachSplit (fun g i => setSplit g i (resolveSplit (splitOf g i))) g ids
    let g := mergeAll 4 g
    eachSplit markHold g ids

/-! ## Presentation (R24) -/

/-- Whether a split may be presented. -/
def eligible (g : Group) (sid : Nat) : Bool :=
  let sp := splitOf g sid
  sp.held.isNone && !exhausted g sp

/-- The split with the lowest PC, ties to the lower id. -/
def lowestPc (g : Group) : List Nat → Option Nat
  | [] => none
  | i :: r =>
    match lowestPc g r with
    | none => some i
    | some j => if (splitOf g j).pc < (splitOf g i).pc then some j else some i

/-- The split that must be presented before the one that R24 chose, whose sm trigger may not be accepted first (R189; DEDUCED, log 42). -/
def seamTurn (g : Group) : Option Nat := (seamHeld g).bind fun w => if w.turn && eligible g w.split then some w.split else none

/-- The split a group presents (R24): one that has waited 256 bundles first, the one with the lowest PC where there are several (DESIGN
CHOICE, log 42); in supervisor mode the trapping split alone (R311); the split of a replaced bundle at once (R313). -/
def present (g : Group) : Option Nat :=
  if g.super then (if (tget g.splits g.trapSplit).isSome && eligible g g.trapSplit then some g.trapSplit else none)
  else
    match g.inject with
    | some i => if exhausted g (splitOf g i.split) then none else some i.split
    | none =>
      let ids := (g.splits.map Prod.fst).filter (eligible g)
      (seamTurn g).orElse fun _ =>
        (lowestPc g (ids.filter fun i => decide ((splitOf g i).waiting ≥ 256))).orElse fun _ => lowestPc g ids

/-- The replaced access that a bundle of a split is to issue with (R313): a handler's own bundles have none. -/
def injectFor (g : Group) (sid : Nat) : Option Inject := if g.super then none else g.inject.filter fun i => decide (i.split = sid)

/-- Counters of the other splits when one of them is issued (R22, R24): the bundles that a split has waited stand where it is not eligible in
between (DESIGN CHOICE, log 42). -/
def countOthers (g : Group) (sid : Nat) : Group :=
  { g with splits := g.splits.map fun e =>
      if e.1 = sid then (e.1, { e.2 with waiting := 0 })
      else (e.1, { e.2 with held := e.2.held.map (· + 1), waiting := if eligible g e.1 then e.2.waiting + 1 else e.2.waiting }) }

/-! ## Fetch (R123, R316) -/

/-- What a fetch gives: a bundle, an illegal one with its first illegal field, an uncorrectable error, a freeze, or an overlay that is not
resident. -/
inductive Fetch where
  | bundle (i : Instr)
  | illegal (slot : Nat)
  | poisoned
  | frozen
  | absent (slot : Nat)
  | routine
  deriving DecidableEq, Repr

/-- The 32 bytes of a bundle as one value. -/
def bundleWord (c : Core) (pc : Nat) : BundleWord := BitVec.ofNat 256 (leVal (memRead c.imem pc 32))

/-- The fetch of a split (R316, R312, R314). -/
def fetch (c : Core) (sup : Bool) (pc : Nat) : Fetch :=
  let slot := pc / 65536
  if !c.ovres.getLsbD slot then
    (if (sup && slot == 7) || c.loads.any (fun l => decide (l.slot = slot)) then .frozen else .absent slot)
  else if sup && decide (pc = supervisorPc) && c.supplied then .routine
  else if c.imemPoison.contains (pc / 32) then .poisoned
  else match decode (bundleWord c pc) with
    | .ok i => .bundle i
    | .error k => .illegal k

/-! ## Moves as read (R86) -/

/-- A move of a bundle as read: its slot, the lanes in which its guard is true, and the value it carries. -/
structure Moved where
  slot : Nat
  mv : Move
  lanes : Mask
  val : Lanes
  uval : DWord
  poison : Mask
  deriving DecidableEq, Repr

/-- The moves of a bundle with their slots. -/
def bundleMoves (b : Bundle) : List (Nat × Move) :=
  ((List.range b.slots.length).zip b.slots).filterMap fun p => match p.2 with
    | .move m => some (p.1, m)
    | .empty | .lim _ => none

/-- Every move read. -/
def readMoves (s : State) (gid sid : Nat) (b : Bundle) : List Moved :=
  let g := groupOf s gid
  (bundleMoves b).map fun p =>
    let m := guardLanes g sid p.2.g
    { slot := p.1, mv := p.2, lanes := m, val := srcValue s gid sid b p.2.src
      uval := uniformValue g (halfOf g sid) b p.2.src, poison := (m &&& srcPoison g (halfOf g sid) p.2.src) ||| guardPoison g sid p.2.g }

/-- A move's effect (R79, R80, R86). -/
def moveApply (h : Nat) (g : Group) (m : Moved) : Group :=
  let ls := m.lanes &&& ~~~m.poison
  match m.mv.dst with
  | .v i => { vput g i.toNat m.val ls with vPoison := tset g.vPoison i.toNat (tgetD g.vPoison i.toNat 0 &&& ~~~ls) }
  | .latch u l hold =>
    if unitUniform u then
      if m.poison ≠ 0 then g else { g with image := { g.image with uniform := tset g.image.uniform (uniformKey u h l) { val := m.uval, full := true, hold := hold } } }
    else
      let x := latchOf' g.image u l
      let y : Latch :=
        { val := laneMerge x.val m.val ls, full := x.full ||| ls, poison := x.poison &&& ~~~ls
          hold := if hold then x.hold ||| ls else x.hold &&& ~~~ls }
      { g with image := { g.image with latches := tset g.image.latches (latchKey u l) y } }
  | .trig _ => g
  | .mask i =>
    let k := i.toNat
    let bitsNew := maskOf fun l => (laneGet m.val l).getLsbD 0
    { g with m := tset g.m k ((mget g k &&& ~~~ls) ||| (bitsNew &&& ls)), mPoison := tset g.mPoison k (tgetD g.mPoison k 0 &&& ~~~ls), userPrev := if g.super then tdel g.userPrev k else g.userPrev }
  | .e i =>
    let x := tgetD g.e i.toNat {}
    { g with e := tset g.e i.toNat { x with full := x.full &&& ~~~ls, poison := x.poison &&& ~~~ls } }
  | .fclr => if ls = 0 then g else fstatClear g h (m.uval.setWidth 13)

/-- The masks that moves write, with their values before (R90). -/
def masksWritten (g : Group) (ms : List Moved) : Table Mask :=
  ms.foldl (fun t m => match m.mv.dst with
    | .mask i => tset t i.toNat (mget g i.toNat)
    | _ => t) []

/-- The group after step 2 of R86. -/
def movesApply (h : Nat) (g : Group) (ms : List Moved) : Group :=
  ms.foldl (moveApply h) { g with mPrev := masksWritten g ms }

/-- Whether a bundle's moves use FSTAT. -/
def clearsFstat (b : Bundle) : Bool := (bundleMoves b).any fun p => p.2.dst == .fclr

/-- The lanes a bundle's move writes a latch in. -/
def latchLanes (ms : List Moved) (u : FUnit) (l : LatchName) : Mask :=
  ms.foldl (fun a m => match m.mv.dst with
    | .latch v k _ => if v = u ∧ k = l then a ||| m.lanes else a
    | _ => a) 0

/-- The lanes of an ld or st trigger whose `w` latch names a window register with an uncorrectable error (R321). -/
def windowPoison (g : Group) (h : Nat) (u : FUnit) : Mask :=
  if g.wPoison.isEmpty || !(u == .ld || u == .st) then 0
  else maskOf fun l => let k := (laneGet (latchOf' g.image u .w).val l).toNat; decide (k < 8) && g.wPoison.contains (8 * h + k)

/-- The lanes of a uniform trigger's move that consume an uncorrectable error: of its operand, or of a latch it reads (R321). -/
def uniformKill (g : Group) (h : Nat) (m : Moved) (t : Trigger) : Mask :=
  m.poison ||| if (latchesRead t).any fun l => (tgetD g.image.uniform (uniformKey (triggerUnit t) h l) {}).poison then m.lanes else 0

/-- The triggers of a bundle, ld and st first (R219), with their contributing lanes: the guard is true, no operand is poisoned. A uniform
trigger with a poisoned operand does not fire (R321). -/
def firesOf (g2 : Group) (h : Nat) (ms : List Moved) (inj : Option Inject) : List Fire :=
  let mk (m : Moved) : Option Fire := match m.mv.dst with
    | .trig t =>
      let u := triggerUnit t
      let c := if unitUniform u then m.lanes
        else (latchesRead t).foldl (fun c l => let x := latchOf' g2.image u l; c &&& x.full &&& ~~~x.poison)
          (m.lanes &&& ~~~m.poison &&& ~~~windowPoison g2 h u)
      if unitUniform u && decide (uniformKill g2 h m t ≠ 0) then none
      else some { slot := m.slot, op := t, lanes := c, val := m.val, uval := m.uval,
                  inj := inj.bind fun i => if i.slot = m.slot then some i else none }
    | _ => none
  let all := ms.filterMap mk
  let isU (u : FUnit) (f : Fire) : Bool := triggerUnit f.op == u
  all.filter (isU .ld) ++ all.filter (isU .st) ++ all.filter fun f => !(isU .ld f) && !(isU .st f)

/-- The lanes killed by a bundle, with the first slot that consumed a poisoned value (R321). -/
def killedBy (g2 : Group) (h : Nat) (ms : List Moved) : Mask × Nat :=
  ms.foldl (fun a m =>
    let k := match m.mv.dst with
      | .trig t => if unitUniform (triggerUnit t) then uniformKill g2 h m t
          else (latchesRead t).foldl (fun k l => k ||| (m.lanes &&& (latchOf' g2.image (triggerUnit t) l).poison))
            (m.poison ||| (m.lanes &&& windowPoison g2 h (triggerUnit t)))
      | _ => m.poison
    (a.1 ||| k, if a.1 = 0 ∧ k ≠ 0 then m.slot else a.2)) (0, 0)

/-- Whether a bundle's scalar operation reads an s-register or a mask with an uncorrectable error. -/
def scalarOpPoisoned (g : Group) (sid : Nat) (b : Bundle) : Bool :=
  match b.scalar with
  | none => false
  | some op => ((scalarSources op).any fun i => g.sPoison.contains (64 * halfOf g sid + i)) ||
      (scalarMasks op).any fun i => decide (activeMask g sid &&& tgetD g.mPoison i 0 ≠ 0)

/-- Whether a bundle reads an s-register, or by its scalar slot a mask, with an uncorrectable error: that kills every live lane (R321). -/
def scalarPoisoned (g : Group) (sid : Nat) (b : Bundle) : Bool :=
  ((bundleMoves b).any fun p => decide (guardLanes g sid p.2.g ≠ 0) && srcScalarPoison g (halfOf g sid) p.2.src) || scalarOpPoisoned g sid b

/-! ## Stalls (R86, R89, R91) -/

/-- Whether a move of a bundle reads an unfilled result port (R89). -/
def portStall (g : Group) (sid : Nat) (b : Bundle) : Bool :=
  (bundleMoves b).any fun p => match p.2.src with
    | .port _ _ => srcStalls g p.2.src (guardLanes g sid p.2.g)
    | _ => false

/-- Whether a bundle cannot issue yet for another reason. -/
def otherStall (s : State) (gid sid : Nat) (b : Bundle) : Bool :=
  let g := groupOf s gid
  let h := halfOf g sid
  let ms := readMoves s gid sid b
  let g2 := movesApply h g ms
  let pending := scalarPending g h
  let regs := ((bundleMoves b).flatMap fun p => srcScalars p.2.src) ++ (b.scalar.map fun op => scalarRegs op ++ eretRegs g op).getD []
  let fs := firesOf g2 h ms none
  let records := fs.any readsRecord
  ((bundleMoves b).any fun p => match p.2.src with
    | .e _ => srcStalls g p.2.src (guardLanes g sid p.2.g)
    | _ => false) ||
  (pending.any fun i => decide (i ≠ 0) && (records || regs.contains i)) ||
  (clearsFstat b && tstPending g) ||
  countersFull g2 h fs ||
  (fs.any fun f => fireStalls (setGroup s gid g2) gid sid f) ||
  match b.scalar with
  | some op => scalarStalls s gid sid op
  | none => false

end Sys2Proof.Machine
end

