-- ==== Sys2Proof/Machine/Issue.lean ====
section
/-!
DEFINITION. The issue of one bundle by one split (R86, R110, R111, R306): stalls, the reported cause, page faults, and the effects in the
order of R86.
-/

namespace Sys2Proof.Machine

/-! ## Weights and cycles (R93, R94, R324) -/

/-- A trigger's weight (R324). -/
def triggerWeight (t : Trigger) : Nat :=
  match t with
  | .ia _ _ | .lg _ | .mx _ | .cp _ => 2
  | .fm _ _ | .xl _ | .sm _ => 4
  | .sf _ | .ld _ | .st _ => 6

/-- A bundle's weight (R324). -/
def bundleWeight (b : Bundle) : Nat :=
  4 + ((bundleMoves b).map fun p => match p.2.dst with
    | .trig t => triggerWeight t
    | .v _ | .latch _ _ _ | .mask _ | .e _ | .fclr => 1).sum + if b.scalar.isSome then 2 else 0

/-- The v-registers that a bundle's moves read, once each. -/
def vReads (b : Bundle) : List Nat :=
  ((bundleMoves b).filterMap fun p => match p.2.src with
    | .v i => some i.toNat
    | _ => none).dedup

/-- The v-registers that a bundle's moves write. -/
def vWrites (b : Bundle) : List Nat :=
  (bundleMoves b).filterMap fun p => match p.2.dst with
    | .v i => some i.toNat
    | _ => none

/-- The most registers of a list that lie in one of the six banks (R93). -/
def bankLoad (rs : List Nat) : Nat :=
  (List.range 6).foldl (fun n k => max n (rs.filter fun r => decide (r % 6 = k)).length) 0

/-- The cycles a bundle takes (R93, R94). They come before the 80 cycles of R50, which a wait behind many long bundles can pass (DEDUCED, log
27). -/
def bundleCycles (b : Bundle) (level : Nat) : Nat :=
  max (if level ≥ 2 then 2 else 1) (max (bankLoad (vReads b)) (bankLoad (vWrites b)))

/-! ## The cause reported (R111, R218) -/

/-- The rank of a cause among a bundle's faults. -/
def causeRank (code : Nat) : Nat :=
  match code with
  | 0x01 => 0
  | 0x0C => 1
  | 0x02 => 2
  | 0x03 => 3
  | 0x04 => 4
  | 0x09 => 5
  | 0x08 => 6
  | 0x07 => 7
  | 0x05 => 8
  | 0x06 => 9
  | _ => 10

/-- Whether one trap is reported in preference to another found before it. -/
def trapBefore (a b : TrapInfo) : Bool :=
  decide (causeRank a.code < causeRank b.code ∨ (causeRank a.code = causeRank b.code ∧ a.slot < b.slot))

/-- The trap reported among those found. -/
def worstTrap (ts : List TrapInfo) : Option TrapInfo :=
  ts.foldl (fun b t => match b with
    | none => some t
    | some x => if trapBefore t x then some t else some x) none

/-- Register indices at or above the register count (R15), and FSTAT bits that native width lacks (R92). -/
def moveTraps (g : Group) (ms : List Moved) : List TrapInfo :=
  ms.flatMap fun m =>
    (match m.mv.dst with
      | .v i => trapIf (decide (i.toNat ≥ g.regcnt)) 2 i.toNat m.slot
      | .fclr => trapIf (fstatIllegal g m.uval.toNat) 1 0 m.slot
      | _ => []) ++
    match m.mv.src with
      | .v i => trapIf (decide (i.toNat ≥ g.regcnt)) 2 i.toNat m.slot
      | _ => []

/-- The first latch of a trigger that is empty in a lane of its guard (R87). A latch that the bundle writes counts as full, also in a lane
where the move carries poison and writes nothing: the lane dies (DESIGN CHOICE, log 43). Of several empty latches EINFO names the first in
order a, b, c (DESIGN CHOICE, log 44: R148 says any). -/
def emptyLatch (g : Group) (ms : List Moved) (f : Fire) : Option LatchName :=
  let u := triggerUnit f.op
  if unitUniform u then none
  else
    let m := ((ms.find? fun m => decide (m.slot = f.slot)).map fun m => m.lanes).getD 0
    (latchesRead f.op).find? fun l => decide (m &&& ~~~((latchOf' g.image u l).full ||| latchLanes ms u l) ≠ 0)

/-- The trap of an empty latch (R307: unit in bits 3:0, latch in bits 5:4). -/
def emptyTrap (f : Fire) (l : LatchName) : TrapInfo :=
  { code := 9, info := BitVec.ofNat 64 (latchKey (triggerUnit f.op) l % 4 * 16 + unitKey (triggerUnit f.op)), slot := f.slot }

/-- Whether a trap comes before an empty latch (R111). -/
def beforeEmpty (t : TrapInfo) : Bool := decide (causeRank t.code < causeRank 9)

/-- The traps of a trigger with an empty latch that come before it and rest on full latches. Of the lowest lane: a seam target (R187), a record
or list (R228, R230), an lblk's word (R223), an xl operation that legacy width lacks (R185). Of each lane: its scratchpad bytes (R15, R217). -/
def otherTraps (s : State) (gid sid : Nat) (g2 : Group) (guard : Mask) (f : Fire) : List TrapInfo :=
  let s := setGroup s gid g2
  let h := halfOf g2 sid
  let l := lowestLane guard
  let full (ks : List LatchName) : Mask := ks.foldl (fun m k => m &&& (latchOf' g2.image (triggerUnit f.op) k).full) guard
  let each (ks : List LatchName) : Fire := { f with lanes := full ks }
  let low (ks : List LatchName) : Fire := { f with lanes := full ks &&& (1#32 <<< l) }
  let tensor (ks : List LatchName) (store : Bool) : Plan :=
    if (low [.w, .a]).lanes = 0 ∨ f.inj.isSome then {} else tensorPlan s gid h (low [.w, .a]) store (full ks)
  let p : Plan :=
    match f.op with
    | .ia _ _ | .lg _ | .fm _ _ | .sf _ | .mx _ | .cp _ | .ld .pf => {}
    | .sm _ => smPlan s gid (low [.b])
    | .xl _ => firePlan s gid sid (low [])
    | .ld .lblk => { traps := lblkTraps (low []) }
    | .ld .tld => tensor [.w, .b] false
    | .st .tst => tensor [.w, .b, .c] true
    | .st .mcst => firePlan s gid sid (low [.w])
    | .ld .lwo | .ld .ldo => firePlan s gid sid (each [.w, .a])
    | .ld _ => firePlan s gid sid (each [.w])
    | .st _ => firePlan s gid sid (each [.w, .a])
  p.traps.filter beforeEmpty

/-- A trigger's plan: one with an empty latch shows that, and what does not rest on it. -/
def firePlanFull (s : State) (gid sid : Nat) (g : Group) (ms : List Moved) (f : Fire) : Plan :=
  match emptyLatch g ms f with
  | none => firePlan s gid sid f
  | some l =>
    let guard := ((ms.find? fun m => decide (m.slot = f.slot)).map fun m => m.lanes).getD 0
    { traps := emptyTrap f l :: otherTraps s gid sid (groupOf s gid) guard f }

/-! ## The ports the routine finds after 0x05 (R311) -/

/-- A lane's offset in a misaligned access. -/
def fireOffset (g : Group) (f : Fire) (lane : Nat) : Word :=
  match f.op with
  | .ld .lwo | .ld .ldo | .ld .lblk | .st _ => fireVal g f .a lane
  | _ => laneGet f.val lane

/-- A lane's store data. -/
def fireStore (g : Group) (f : Fire) (lane : Nat) : Nat :=
  match f.op with
  | .st op => stData g f op lane
  | _ => 0

/-- The four ports: offset, store data and space of each lane of C. -/
def misalignPorts (g : Group) (f : Fire) : Table PortCell :=
  let cell (v : Nat → Word) : PortCell := { val := laneFill fun l => if f.lanes.getLsbD l then v l else 0 }
  [(0, cell (fireOffset g f)), (1, cell fun l => BitVec.ofNat 32 (fireStore g f l)),
   (2, cell fun l => BitVec.ofNat 32 (fireStore g f l / 2 ^ 32)), (3, cell fun l => BitVec.ofNat 32 (1 + 16 * fireRef g f l))]

/-- The ports a trap leaves the routine. -/
def trapPorts (g : Group) (fs : List Fire) (t : TrapInfo) : Table PortCell :=
  if t.code ≠ 5 then []
  else match fs.find? fun f => decide (f.slot = t.slot) && (triggerUnit f.op == .ld || triggerUnit f.op == .st) with
    | some f => misalignPorts g f
    | none => []

/-! ## Effects -/

/-- Every trigger fires, in order. -/
def fireAll (gid sid : Nat) : State → Nat → List (Fire × Plan) → State
  | s, _, [] => s
  | s, id, (f, p) :: r => fireAll gid sid (fireRun s gid sid f p id) (id + 1) r

/-- The operation numbers that the lookahead covers (R51): mx, cp and sm are complete at once. -/
def coveredIds : Nat → List Fire → List Nat
  | _, [] => []
  | id, f :: r =>
    let u := triggerUnit f.op
    (if laCovers f.op && decide (f.lanes ≠ 0) && !(u == .mx || u == .cp || u == .sm) then [id] else []) ++ coveredIds (id + 1) r

/-- The counts of an issued bundle: the bundle count (R89), the lookahead (R51), the other splits (R22, R24), the ready time (R46, R49). -/
def countIssue (g : Group) (sid : Nat) (la : Nat) (ids : List Nat) (opId : Nat) (yield : Option Nat) : Group :=
  let g := { g with image := { g.image with count := g.image.count + 1 } }
  let sp := splitOf g sid
  let g := countOthers (setSplit g sid { sp with la := laAfter g sp ids la, counted := false }) sid
  { g with
    opId := opId, readySince := none, yieldUntil := yield.orElse fun _ => g.yieldUntil, inject := if g.super then g.inject else none
    seamWait := if g.super then g.seamWait else g.seamWait.filter fun w => decide (w.split ≠ sid) }

/-- Whether a group issues as the secondary of the bundle before it, in the same cycle (R46). -/
def isSecondary (s : State) (gid : Nat) (g : Group) : Bool :=
  match clusterOfGroup g with
  | some cl => decide ((clusterOf s cl).pairWith = some gid)
  | none => false

/-- The cycles that a bundle adds to its cluster's count: none for a secondary, which shares the primary's (R46, R50). -/
def addedCycles (s : State) (gid : Nat) (g : Group) (b : Bundle) (level : Nat) : Nat := if isSecondary s gid g then 0 else bundleCycles b level

/-- The core's weight and the cluster's cycles after a bundle has issued. -/
def countCluster (s : State) (gid : Nat) (g : Group) (b : Bundle) : State :=
  match clusterOfGroup g with
  | none => s
  | some cl =>
    let k := coreOf s (coreOfCluster cl)
    let c := clusterOf s cl
    let s := setCore s (coreOfCluster cl) { k with weir := { k.weir with cur := k.weir.cur + bundleWeight b } }
    setCluster s cl { c with cycles := c.cycles + addedCycles s gid g b k.weir.level }

/-- When a bundle with Y = 1 stops counting against its context (R49). -/
def yieldOf (s : State) (gid : Nat) (g : Group) (b : Bundle) : Option Nat :=
  if b.y then
    (clusterOfGroup g).map fun cl => (clusterOf s cl).cycles + addedCycles s gid g b (coreOf s (coreOfCluster cl)).weir.level + 8
  else none

/-- An after-trap of SYS or TRAP: taken, or pending behind a 0x0A trap (R321). -/
def codeTrap (s : State) (gid sid : Nat) (killed : Mask) (t : TrapInfo × Nat) : State :=
  let g := groupOf s gid
  if g.place = .ended then s
  else if killed = 0 then takeTrap s gid sid t.1 t.2 []
  else setGroup s gid { g with pendTraps := g.pendTraps ++ [(t.1, t.2, sid)] }

/-- The scalar operation of a bundle, or the next bundle where it has none; one that consumes an uncorrectable register has no effect
(DESIGN CHOICE, log 43). -/
def scalarStep (s : State) (gid sid : Nat) (g0 : Group) (id pc : Nat) (b : Bundle) (p : Plan) : ScalarOut :=
  match if scalarOpPoisoned g0 sid b then none else b.scalar with
  | none => goOn s gid sid pc
  | some op => scalarRun s gid sid g0 id pc op (p.reads ++ p.accs) ((injectFor g0 sid).bind fun i => if i.slot = 6 then some i else none)

/-- Every live lane of a split's half: what the scalar pipe kills (R321, R349). -/
def scalarLanes (g : Group) (sid : Nat) : Mask := runningLanes g &&& halfMask g (halfOf g sid)

/-- The lanes a bundle kills, and the first slot that consumed a poisoned value (R321). -/
def bundleKill (g0 g2 : Group) (sid : Nat) (b : Bundle) (ms : List Moved) : Mask × Nat :=
  let k := killedBy g2 (halfOf g0 sid) ms
  if scalarPoisoned g0 sid b then (scalarLanes g0 sid, if k.1 = 0 then 6 else k.2) else k

/-- The end of a bundle: lanes that consumed poisoned values die, then a trap of SYS or TRAP (R321, R323). -/
def bundleEnd (gid sid : Nat) (out : ScalarOut) (killed : Mask) (slot : Nat) : State :=
  let g := groupOf out.state gid
  let k := if out.poison then scalarLanes g sid else killed
  let s := lanesDie out.state gid sid k (if killed = 0 then 6 else slot) (splitOf g sid).pc
  match out.trap with
  | none => s
  | some t => codeTrap s gid sid k t

/-- The ld triggers of a bundle whose accesses have to be performed before its st trigger reads a record or list at issue: an acquire, or a
load of the record's bytes (R219, R247). -/
def firstLoads (s : State) (gid : Nat) (fs : List (Fire × Plan)) : List (Fire × Plan) :=
  let t := groupTeam s gid
  let rs := (fs.filter fun x => triggerUnit x.1.op == .st && readsRecord x.1).flatMap fun x => x.2.reads
  fs.filter fun x => triggerUnit x.1.op == .ld && decide (x.1.lanes ≠ 0) && !rs.isEmpty &&
    (((x.1.op == .ld .lwo || x.1.op == .ld .ldo) && decide (fireOrder x.1 % 2 = 1)) ||
      x.2.accs.any fun a => rs.any fun r => elemsMeet s t.core t.func a.elem r.elem)

/-- Whether those loads cannot be performed yet. -/
def loadsWait (s : State) (gid : Nat) (fs : List (Fire × Plan)) : Bool :=
  let t := groupTeam s gid
  (firstLoads s gid fs).any fun x => x.2.accs.any fun a => !elemOpen s t.core t.func a.elem ||
    (groupOf s gid).ops.any fun o => (opElems o).any (elemsMeet s t.core t.func a.elem)

/-- Outstanding operations of a number performed. -/
def performNow (s : State) (gid id : Nat) : State :=
  ((groupOf s gid).ops.filter fun o => decide (o.id = id)).foldl (fun s o => (performOp s gid o).1) s

/-- Those loads performed with their bundle. -/
def performFirst (s : State) (gid id : Nat) (fs : List (Fire × Plan)) : State :=
  let ls := firstLoads s gid fs
  fs.zipIdx.foldl (fun s x => if ls.contains x.1 then performNow s gid (id + x.2) else s) s

/-- The state after a bundle's moves and triggers, with its counts (R86). `g2` holds the moves. -/
def issuedMoves (s : State) (gid sid : Nat) (b : Bundle) (g0 g2 : Group) (fs : List (Fire × Plan)) : State :=
  let ids := coveredIds g0.opId (fs.map Prod.fst)
  let s := performFirst (fireAll gid sid (setGroup s gid g2) g0.opId fs) gid g0.opId fs
  countCluster (setGroup s gid (countIssue (groupOf s gid) sid b.la.toNat ids (g0.opId + fs.length + 1) (yieldOf s gid g0 b))) gid g0 b

/-- A bundle issues: moves, triggers, counts, scalar operation, end (R86). -/
def issueBundle (s : State) (gid sid : Nat) (b : Bundle) (g0 g2 : Group) (ms : List Moved) (fs : List (Fire × Plan)) (sp : Plan) : State :=
  let k := bundleKill g0 g2 sid b ms
  let t := issuedMoves s gid sid b g0 g2 fs
  bundleEnd gid sid (scalarStep t gid sid g0 (g0.opId + fs.length) (splitOf g0 sid).pc b sp) k.1 k.2

/-- A stalled bundle that reads an unfilled port counts once (R53). -/
def countPort (s : State) (gid sid : Nat) : State :=
  let g := groupOf s gid
  if (splitOf g sid).counted then s
  else
    let s := setGroup s gid (setSplit g sid { splitOf g sid with counted := true })
    match clusterOfGroup g with
    | none => s
    | some cl => let c := clusterOf s cl; setCluster s cl { c with portwait := min (c.portwait + 1) (2 ^ 64 - 1) }

/-- Whether an sm trigger of a bundle waits for the seam queue (R189). -/
def seamFull (s : State) (gid sid : Nat) (b : Bundle) : Bool :=
  let g := groupOf s gid
  seamBars g sid &&
    (firesOf (movesApply (halfOf g sid) g (readMoves s gid sid b)) (halfOf g sid) (readMoves s gid sid b) none).any fun f =>
      triggerUnit f.op == .sm && decide (f.lanes ≠ 0)

/-- The wait of an sm trigger noted: the first one that waits, behind which later ones of the context wait in turn (R189). -/
def seamNote (g : Group) (sid : Nat) : Option SeamWait :=
  match seamHeld g with
  | none => some { split := sid, pc := (splitOf g sid).pc }
  | some w => some { w with turn := w.turn || decide (w.split ≠ sid) }

/-- A stalled bundle: a read of an unfilled port is counted (R53), and an sm trigger that waits is noted (R189). -/
def stallBundle (s : State) (gid sid : Nat) (b : Bundle) : State :=
  let g := groupOf s gid
  if portStall g sid b then countPort s gid sid
  else if seamFull s gid sid b then setGroup s gid { g with seamWait := seamNote g sid }
  else s

/-- A trap before the bundle (R306). -/
def trapBundle (s : State) (gid sid : Nat) (t : TrapInfo) (ports : Table PortCell) : State :=
  let g := groupOf s gid
  takeTrap (setGroup s gid { g with inject := none }) gid sid t (splitOf g sid).pc ports

/-- Whether a bundle uses FSTAT, which settles every result in flight (R60). -/
def usesStatus (b : Bundle) : Bool := clearsFstat b || (b.scalar.map usesFstat).getD false

/-- Results delivered before a bundle reads: those due, or every one where the bundle uses FSTAT (R60, R89). -/
def deliverFor (g : Group) (b : Bundle) : Group := if usesStatus b then deliverAll g else deliverDue g

/-- The group after step 2 of R86: the bundle's moves are made. -/
def bundleMoved (s : State) (gid sid : Nat) (b : Bundle) : Group :=
  movesApply (halfOf (groupOf s gid) sid) (groupOf s gid) (readMoves s gid sid b)

/-- The triggers of a bundle with their plans. -/
def bundleFires (s : State) (gid sid : Nat) (b : Bundle) : List (Fire × Plan) :=
  let g := groupOf s gid
  let ms := readMoves s gid sid b
  let g2 := bundleMoved s gid sid b
  (firesOf g2 (halfOf g sid) ms (injectFor g sid)).map fun f => (f, firePlanFull (setGroup s gid g2) gid sid g ms f)

/-- The plan of a bundle's scalar operation; a replaced one has none (R313). -/
def bundleScalar (s : State) (gid sid : Nat) (b : Bundle) : Plan :=
  let g := groupOf s gid
  match b.scalar with
  | some op => if ((injectFor g sid).map fun i => decide (i.slot = 6)).getD false then {} else scalarPlan s gid sid (splitOf g sid).pc op
  | none => {}

/-- What the accesses of a bundle come to. -/
def bundlePlan (s : State) (gid sid : Nat) (b : Bundle) : Plan :=
  planJoin (planAll ((bundleFires s gid sid b).map Prod.snd)) (bundleScalar s gid sid b)

/-- Every trap condition that a bundle meets (R307). -/
def bundleTraps (s : State) (gid sid : Nat) (b : Bundle) : List TrapInfo :=
  moveTraps (groupOf s gid) (readMoves s gid sid b) ++ (bundlePlan s gid sid b).traps

/-- The checks of a bundle that does not stall, and its issue. -/
def checkBundle (s : State) (gid sid : Nat) (b : Bundle) : State :=
  let g2 := bundleMoved s gid sid b
  let fs := bundleFires s gid sid b
  let miss := (bundlePlan s gid sid b).miss
  match worstTrap (bundleTraps s gid sid b) with
  | some t => trapBundle s gid sid t (trapPorts g2 (fs.map Prod.fst) t)
  | none =>
    if miss.isEmpty then issueBundle s gid sid b (groupOf s gid) g2 (readMoves s gid sid b) fs (bundleScalar s gid sid b)
    else groupFault s gid sid miss

/-- Whether the reads at issue and the Polder fills of a bundle wait: for a locked bank (R252), for a port to a peer (R363), or, the reads, for
the group's outstanding accesses of the same bytes (R219, R242). -/
def planWaits (s : State) (gid : Nat) (p : Plan) : Bool :=
  let t := groupTeam s gid
  (p.accs.any fun a => (fillFrame s t.core a.elem.addr).isSome && elemWaits s t.core a.elem) ||
    p.reads.any fun a => !elemOpen s t.core t.func a.elem ||
      (groupOf s gid).ops.any fun o => (opElems o).any (elemsMeet s t.core t.func a.elem)

/-- Whether a bundle waits for memory before it issues. -/
def memoryStall (s : State) (gid sid : Nat) (b : Bundle) : Bool :=
  let c := coreOf s (groupCore s gid)
  let f := (groupTeam s gid).func
  (!((groupOf s gid).ops.isEmpty && c.locks.isEmpty && c.pmap.isEmpty && (funcOf s f).pwin.isEmpty)) &&
    (planWaits s gid (bundlePlan s gid sid b) || loadsWait s gid (bundleFires s gid sid b))

/-- Whether a bundle cannot issue yet (R45, R86, R89). -/
def bundleStalls (s : State) (gid sid : Nat) (b : Bundle) : Bool :=
  portStall (groupOf s gid) sid b || otherStall s gid sid b || memoryStall s gid sid b

/-- A state in which the results that a bundle reads are delivered. -/
def delivered (s : State) (gid : Nat) (b : Bundle) : State := setGroup s gid (deliverFor (groupOf s gid) b)

/-- A split presents a bundle (R86, R110). -/
def issueAt (s : State) (gid sid : Nat) (b : Bundle) : State :=
  match firstIllegal b with
  | some k => trapBundle s gid sid { code := 1, info := 0, slot := k } []
  | none =>
    let s := delivered s gid b
    if bundleStalls s gid sid b then stallBundle s gid sid b else checkBundle s gid sid b

/-- The meaning of a bundle for the split that `cur` presents. -/
def issue (b : Bundle) (s : State) : Host.Outcome State Fault Refusal :=
  match s.cur with
  | none => .fault .noContext
  | some (gid, sid) => .next (issueAt s gid sid b)

end Sys2Proof.Machine
end

