-- ==== Sys2Proof/Machine/Supervisor.lean ====
section
/-!
DEFINITION. The supplied supervisor routine (R314, R215) by what the spec gives of its behaviour, without its code (log 8): a step of its
group, and for an emulated access a step a byte.
-/

namespace Sys2Proof.Machine

/-- TVEC.EN with the bit of a cause set (R314). -/
def handsOver (tvec : DWord) (code : Nat) : Bool := tvec.getLsbD 63 && tvec.getLsbD (18 + code)

/-- ESCRATCH and s40-s43 after the routine, whose values there the spec leaves to it: free values (log 8). -/
def scratchRegs (s : State) (gid h : Nat) : State :=
  let g := groupOf s gid
  let r (i : Nat) : DWord := Config.freeWord (s.free + 2 * i) ++ Config.freeWord (s.free + 2 * i + 1)
  let g := { (sput (sput (sput (sput g h 40 (r 0)) h 41 (r 1)) h 42 (r 2)) h 43 (r 3)) with escratch := r 4 }
  { setGroup s gid g with free := s.free + 10 }

/-- The routine ends with KILL = 1. -/
def routineKills (s : State) (gid sid : Nat) : State :=
  let g := groupOf s gid
  eretApply (setGroup s gid { g with epc := g.epc ||| (1#64 <<< 63) }) gid sid

/-- The routine hands the trap to the group's handler (R314). -/
def routineDelegates (s : State) (gid sid : Nat) : State :=
  let h := halfOf (groupOf s gid) sid
  let s := scratchRegs s gid h
  let g := sput (sput (groupOf s gid) h 40 (groupOf s gid).ecause) h 41 (groupOf s gid).einfo
  setPc (setGroup s gid { g with deleg := true }) gid sid (bits g.tvec.toNat 0 19)

/-- EPC with its return options (R309). -/
def epcWith (epc : DWord) (injx : Bool) (vreg : Nat) : DWord :=
  BitVec.ofNat 64 (epcPc epc + 2 ^ 19 + (if injx then 2 ^ 20 else 0) + vreg * 2 ^ 21)

/-! ## Emulation byte by byte (R215) -/

/-- The accesses of `n` bytes of one lane, a byte each; byte `i` of store data in its element. -/
def bytePlan (s : State) (gid half : Nat) (ref lane off n data : Nat) (need : Need) : Plan :=
  let w := whoOf s gid
  let p := planAll ((List.range n).map fun i => lanePlan s gid half w ref lane (off + i) 1 need (if need.w then 1 else 0) 0)
  { p with accs := p.accs.zipIdx.map fun e => { e.1 with elem := { e.1.elem with data := bits data (8 * e.2) 8 } } }

/-- The accesses of `n` bytes of a scalar operation, a byte each. -/
def scalarBytePlan (s : State) (gid : Nat) (a : DWord) (n data : Nat) (need : Need) : Plan :=
  let p := planAll ((List.range n).map fun i => scalarAccess s gid (a + BitVec.ofNat 64 i) 1 0 need)
  { p with accs := p.accs.zipIdx.map fun e => { e.1 with elem := { e.1.elem with data := bits data (8 * e.2) 8 } } }

/-- A word of a lane that a trap's ports hold (R311). -/
def trapPort (g : Group) (k lane : Nat) : Word := laneGet (tgetD g.image.ports k {}).val lane

/-- The lanes of the misaligned trigger's contributing set (R311). -/
def trapLanes (g : Group) : Mask := maskOf fun l => (trapPort g 3 l).getLsbD 0

/-- The plan of an emulated lane access. -/
def emulPlan (s : State) (gid half n : Nat) (need : Need) : Plan :=
  let g := groupOf s gid
  planAll ((maskLanes (trapLanes g)).map fun l =>
    bytePlan s gid half (bits (trapPort g 3 l).toNat 4 4) l (trapPort g 0 l).toNat n
      ((trapPort g 1 l).toNat + 2 ^ 32 * (trapPort g 2 l).toNat) need)

/-- The value that the bytes of a lane's elements make. -/
def laneValue (rs : List (Nat × Nat × Bool)) (lane : Nat) : Nat :=
  leVal ((rs.filter fun e => decide (e.1 = lane)).map fun e => BitVec.ofNat 8 e.2.1)

/-- The byte accesses of an emulation still to be made, and what those made have read. -/
def emulState (s : State) (gid : Nat) (p : Plan) : List Nat × List (Nat × Nat × Nat × Bool) :=
  (groupOf s gid).emul.getD (List.range p.accs.length, [])

/-- One byte access of an emulation made: which one comes next is not predictable (R215). Log 10. It waits for a locked bank and for a port to
a peer like any other access (R252, R363). -/
def emulByte (s : State) (gid : Nat) (p : Plan) (write : Bool) : State :=
  let w := whoOf s gid
  let (todo, done) := emulState s gid p
  let (n, s) := drawNat s
  let k := todo.getD (n % todo.length) 0
  match p.accs[k]? with
  | none => s
  | some a =>
    if elemOpen s w.core w.func a.elem then
      let s := touchAccs s gid [a]
      let (rs, s) := if write then ([], writeElems s w.core w.func [a.elem]) else readElems s w.core w.func [a.elem]
      let got := rs.map fun e => (k, e)
      setGroup s gid { groupOf s gid with emul := some (todo.filter fun i => decide (i ≠ k), done ++ got) }
    else s

/-- What an emulation has read, in the order of its accesses. -/
def emulResult (done : List (Nat × Nat × Nat × Bool)) (n : Nat) : List (Nat × Nat × Bool) :=
  (List.range n).filterMap fun k => (done.find? fun e => decide (e.1 = k)).map Prod.snd

/-- An emulation goes on: it makes its next byte access, or ends. -/
def emulNext (s : State) (gid : Nat) (p : Plan) (write : Bool) (finish : State → List (Nat × Nat × Bool) → State) : State :=
  let (todo, done) := emulState s gid p
  if todo.isEmpty then finish (setGroup s gid { groupOf s gid with emul := none }) (emulResult done p.accs.length)
  else emulByte s gid p write

/-- The end of an emulated load: a poisoned byte is a double trap (R321). -/
def emulLoaded (s : State) (gid : Nat) (rs : List (Nat × Nat × Bool)) (go : State) : State :=
  if rs.any fun e => e.2.2 then killGroup s gid else go

/-- A load's values in the two highest registers: C's lanes hold them, the split's other active lanes a free value (log 8). -/
def emulRegs (s : State) (gid sid : Nat) (op : LdOp) (rs : List (Nat × Nat × Bool)) : State :=
  let g := groupOf s gid
  let c := g.regcnt
  let val (x : Bool) (l : Nat) : Word :=
    if (trapLanes g).getLsbD l then (let p := loadWords op (laneValue rs l); if x then p.2 else p.1)
    else Config.freeWord (s.free + 2 * l + if x then 1 else 0)
  let m := activeMask g sid
  let g := vput (vput g (c - 2) (laneFill (val false)) m) (c - 1) (laneFill (val true)) m
  { setGroup s gid g with free := s.free + 64 }

/-- The routine returns with INJ = 1. -/
def routineInjects (s : State) (gid sid : Nat) (injx : Bool) (vreg : Nat) : State :=
  let g := groupOf s gid
  eretApply (setGroup s gid { g with epc := epcWith g.epc injx vreg }) gid sid

/-- A plan of the routine met: a trap is a double trap, missing pages freeze the routine (R312, R315). -/
def routinePlan (s : State) (gid sid : Nat) (p : Plan) (go : State) : State :=
  if !p.traps.isEmpty then killGroup s gid
  else if !p.miss.isEmpty then groupFault s gid sid p.miss
  else go

/-- A misaligned lane access emulated. -/
def emulLane (s : State) (gid sid : Nat) (t : Trigger) : State :=
  let g := groupOf s gid
  let h := halfOf g sid
  match t with
  | .ld op =>
    let p := emulPlan s gid h (ldSize op) { rd := true, w := false }
    routinePlan s gid sid p (emulNext s gid p false fun s rs =>
      emulLoaded s gid rs (routineInjects (emulRegs (scratchRegs s gid h) gid sid op rs) gid sid (op == .ld) (g.regcnt - 2)))
  | .st op =>
    let p := emulPlan s gid h (stSize op) { rd := false, w := true }
    routinePlan s gid sid p (emulNext s gid p true fun s _ => routineInjects (scratchRegs s gid h) gid sid false 0)
  | _ => routineKills s gid sid

/-- A misaligned scalar load emulated: its value in s42, and s43 for 16 bytes. -/
def emulScalarLoad (s : State) (gid sid : Nat) (a : DWord) (n : Nat) : State :=
  let h := halfOf (groupOf s gid) sid
  let p := scalarBytePlan s gid a n 0 { rd := true, w := false }
  routinePlan s gid sid p (emulNext s gid p false fun s rs =>
    let v := laneValue rs 0
    let t := writeS (scratchRegs s gid h) gid h 42 (BitVec.ofNat 64 v)
    emulLoaded s gid rs (routineInjects (if n = 16 then writeS t gid h 43 (BitVec.ofNat 64 (v / 2 ^ 64)) else t) gid sid false 42))

/-- A misaligned scalar store emulated. -/
def emulScalarStore (s : State) (gid sid : Nat) (a : DWord) (n v : Nat) : State :=
  let h := halfOf (groupOf s gid) sid
  let p := scalarBytePlan s gid a n v { rd := false, w := true }
  routinePlan s gid sid p (emulNext s gid p true fun s _ => routineInjects (scratchRegs s gid h) gid sid false 0)

/-- A misaligned scalar access emulated. -/
def emulScalar (s : State) (gid sid : Nat) (op : ScalarOp) : State :=
  let g := groupOf s gid
  let h := halfOf g sid
  let v (sd : BitVec 6) (k : Nat) : Nat := (sget g h (sd.toNat + k)).toNat
  match op with
  | .sld _ sa sb imm => emulScalarLoad s gid sid (scalarAddr g h sa sb imm) 8
  | .sldq _ sa sb imm => emulScalarLoad s gid sid (scalarAddr g h sa sb imm) 16
  | .sst sd sa sb imm => emulScalarStore s gid sid (scalarAddr g h sa sb imm) 8 (v sd 0)
  | .sstq sd sa sb imm => emulScalarStore s gid sid (scalarAddr g h sa sb imm) 16 (v sd 0 + 2 ^ 64 * v sd 1)
  | _ => routineKills s gid sid

/-- Whether a misaligned access is one the routine emulates (R314). -/
def emulates (einfo : DWord) : Bool :=
  let lsz := bits einfo.toNat 52 4
  let kind := bits einfo.toNat 56 3
  (decide (kind ≤ 1) && decide (lsz ≤ 3)) || (decide (kind = 6) && decide (lsz = 3 ∨ lsz = 4))

/-- The routine emulates the trapping access; its bytes are accessed once the group's earlier accesses are done. -/
def routineEmulates (s : State) (gid sid : Nat) : State :=
  let g := groupOf s gid
  if !g.ops.isEmpty then s
  else
    let slot := bits g.ecause.toNat 9 3
    match bundleAt (coreOf s (teamOf s g.team).core) (epcPc g.epc) with
    | none => routineKills s gid sid
    | some b =>
      if slot = 6 then (match b.scalar with
        | some op => emulScalar s gid sid op
        | none => routineKills s gid sid)
      else match slotTrigger b slot with
        | some t => emulLane s gid sid t
        | none => routineKills s gid sid

/-- The supplied supervisor routine (R314). -/
def routineStep (s : State) (gid sid : Nat) : State :=
  let g := groupOf s gid
  let code := bits g.ecause.toNat 0 8
  if handsOver g.tvec code then routineDelegates s gid sid
  else if code = 0x05 ∧ emulates g.einfo then routineEmulates s gid sid
  else if code = 0x0A then eretApply (scratchRegs s gid (halfOf g sid)) gid sid
  else routineKills s gid sid

end Sys2Proof.Machine
end

