-- ==== Sys2Proof/Machine/CrossOps.lean ====
section
/-!
DEFINITION. The meanings of the xl and sm operations (spec 11_cross_lane), each the issue of its bundle by the presented split.
-/

namespace Sys2Proof.Machine

/-- XL_SHFL (R180). Reads a of a chosen lane. -/
def execXlShfl (g : Guard) (src : Src) (s : State) : Host.Outcome State Fault Refusal := issue (triggerBundle (.xl .shfl) g src) s

/-- XL_SHUP (R180). Reads a of lane l minus d. -/
def execXlShup (g : Guard) (src : Src) (s : State) : Host.Outcome State Fault Refusal := issue (triggerBundle (.xl .shup) g src) s

/-- XL_SHDN (R180). Reads a of lane l plus d. -/
def execXlShdn (g : Guard) (src : Src) (s : State) : Host.Outcome State Fault Refusal := issue (triggerBundle (.xl .shdn) g src) s

/-- XL_SHXOR (R180). Reads a of lane l XOR mask. -/
def execXlShxor (g : Guard) (src : Src) (s : State) : Host.Outcome State Fault Refusal := issue (triggerBundle (.xl .shxor) g src) s

/-- XL_VANY (R182). 1 if any contributing lane's bit 0 is set. -/
def execXlVany (g : Guard) (src : Src) (s : State) : Host.Outcome State Fault Refusal := issue (triggerBundle (.xl .vany) g src) s

/-- XL_VALL (R182). 1 if every contributing lane's bit 0 is set. -/
def execXlVall (g : Guard) (src : Src) (s : State) : Host.Outcome State Fault Refusal := issue (triggerBundle (.xl .vall) g src) s

/-- XL_BALLOT (R182). Mask of contributing lanes with bit 0 set. -/
def execXlBallot (g : Guard) (src : Src) (s : State) : Host.Outcome State Fault Refusal := issue (triggerBundle (.xl .ballot) g src) s

/-- XL_MATCH (R182). Mask of contributing lanes with an equal value. -/
def execXlMatch (g : Guard) (src : Src) (s : State) : Host.Outcome State Fault Refusal := issue (triggerBundle (.xl .vmatch) g src) s

/-- XL_SCAN (R183). Integer inclusive and exclusive prefix sums. -/
def execXlScan (g : Guard) (src : Src) (s : State) : Host.Outcome State Fault Refusal := issue (triggerBundle (.xl .scan) g src) s

/-- XL_FSCAN (R184). FP32 prefix sums in fixed lane order. -/
def execXlFscan (g : Guard) (src : Src) (s : State) : Host.Outcome State Fault Refusal := issue (triggerBundle (.xl .fscan) g src) s

/-- XL_RED (R183). Integer sum reduction. -/
def execXlRed (g : Guard) (src : Src) (s : State) : Host.Outcome State Fault Refusal := issue (triggerBundle (.xl .red) g src) s

/-- XL_REDMIN (R183). Signed minimum reduction. -/
def execXlRedmin (g : Guard) (src : Src) (s : State) : Host.Outcome State Fault Refusal := issue (triggerBundle (.xl .redmin) g src) s

/-- XL_REDMAX (R183). Signed maximum reduction. -/
def execXlRedmax (g : Guard) (src : Src) (s : State) : Host.Outcome State Fault Refusal := issue (triggerBundle (.xl .redmax) g src) s

/-- XL_FRED (R184). FP32 sum reduction in fixed order. -/
def execXlFred (g : Guard) (src : Src) (s : State) : Host.Outcome State Fault Refusal := issue (triggerBundle (.xl .fred) g src) s

/-- XL_BLK8 (R185). Encodes the lanes as one T8B32 block. -/
def execXlBlk8 (g : Guard) (src : Src) (s : State) : Host.Outcome State Fault Refusal := issue (triggerBundle (.xl .blk8) g src) s

/-- XL_BLK6 (R185). Encodes the lanes as one T6B32 block. -/
def execXlBlk6 (g : Guard) (src : Src) (s : State) : Host.Outcome State Fault Refusal := issue (triggerBundle (.xl .blk6) g src) s

/-- SM_SEND (R188). Queues a seam send of each lane's value to the same lane of the target. -/
def execSmSend (g : Guard) (src : Src) (s : State) : Host.Outcome State Fault Refusal := issue (triggerBundle (.sm .send) g src) s

/-- SM_SENDR (R188). Queues a rotated seam send. -/
def execSmSendr (g : Guard) (src : Src) (s : State) : Host.Outcome State Fault Refusal := issue (triggerBundle (.sm .sendr) g src) s

/-- SM_SENDB (R188). Queues a broadcast of one lane's value to every target lane. -/
def execSmSendb (g : Guard) (src : Src) (s : State) : Host.Outcome State Fault Refusal := issue (triggerBundle (.sm .sendb) g src) s

end Sys2Proof.Machine
end

