-- ==== Sys2Proof/Machine/Tasks.lean ====
section
/-!
DEFINITION. Tasks, queues, dispatch, completion records and events (R27-R38, R43, R44, R379): reading and judging a task, its dependences,
its dispatch, and its end.
-/

namespace Sys2Proof.Machine

/-! ## Partitions (R361) -/

/-- The partition of a core's half-die. -/
def partOfCore (s : State) (core : Nat) : Nat := tgetD s.partmap (core / 24) 0

/-- The partition of a function. -/
def partOfFunc (s : State) (f : Nat) : Nat := tgetD s.fpart f 0

/-- Whether a function's tasks may use a core. -/
def coreAllowed (s : State) (f core : Nat) : Bool := decide (partOfCore s core = partOfFunc s f)

/-- Whether a function's tasks are refused because its partition is secure while the key store is erased (R361). -/
def attestRefused (s : State) (f : Nat) : Bool := s.keyLost && s.secure.getLsbD (partOfFunc s f)

/-! ## Reads of a dispatcher (R34, R197) -/

/-- What a dispatcher's read comes to. -/
inductive SysRead where
  | got (bytes : List Byte)
  | missing (ms : List PageMiss)
  | denied
  deriving DecidableEq, Repr

/-- A read of `n` bytes at a virtual address by a dispatcher, which reads in supervisor mode (log 15). -/
def sysRead (s : State) (core f asid va n : Nat) : SysRead :=
  if va + n > 2 ^ 52 then .denied
  else
    let x := rangeX s core f asid va n { rd := true, w := false } true
    if x.denied.isSome then .denied
    else if x.missing.isEmpty then .got (readPieces s core f x.pieces).1
    else .missing x.missing

/-- The state after such a read. -/
def sysTouch (s : State) (core f asid va n : Nat) : State := (virtRead s core f asid va n true).2.2

/-- The core whose TLB a queue's dispatcher shares (log 15). -/
def queueCore : QueueRef → Nat
  | .host _ => 0
  | .hw d _ => 48 * d

/-! ## Queues -/

/-- The tasks of a queue, head first. -/
def queueTasks (s : State) : QueueRef → List Nat
  | .host q => (queueOf s q).tasks
  | .hw d q => hwQueue s d q

/-- A queue's tasks replaced. -/
def setQueueTasks (s : State) (r : QueueRef) (ts : List Nat) : State :=
  match r with
  | .host q => setQueue s q { queueOf s q with tasks := ts }
  | .hw d q => let x := dieOf s d; setDie s d { x with queues := tset x.queues q ts }

/-- A task leaves its queue. -/
def leaveQueue (s : State) (t : Nat) : State :=
  let r := (taskOf s t).src
  setQueueTasks s r ((queueTasks s r).filter fun x => decide (x ≠ t))

/-! ## Fields of a descriptor (R27) -/

/-- KIND: 1 a team task, 2 an operator task. -/
def taskKind (x : Task) : Nat := bits (descWord x.words 0) 62 2
/-- NDEP. -/
def taskNdep (x : Task) : Nat := bits (descWord x.words 0) 57 3
/-- DIEMASK. -/
def taskDiemask (x : Task) : Nat := bits (descWord x.words 0) 53 4
/-- DLEV. -/
def taskDlev (x : Task) : Nat := bits (descWord x.words 0) 33 3
/-- MSIV. -/
def taskMsiv (x : Task) : Nat := bits (descWord x.words 0) 36 11
/-- The extents X, Y, Z. -/
def taskExtents (x : Task) : Nat × Nat × Nat :=
  let w := descWord x.words 3
  (bits w 0 24, bits w 24 16, bits w 40 16)
/-- CREC's address bits. -/
def taskCrec (x : Task) : Nat := bits (descWord x.words 4) 0 52
/-- The 192 bits of the dependence fields. -/
def taskDeps (x : Task) : Nat := descWord x.words 5 + 2 ^ 64 * descWord x.words 6 + 2 ^ 128 * descWord x.words 7
/-- The record address of a dependence. -/
def taskDep (x : Task) (i : Nat) : Nat := 16 * bits (taskDeps x) (48 * i) 48

/-- The dies of a DIEMASK. -/
def maskDies (m : Nat) : List Nat := (List.range 4).filter fun d => decide (m = 0 ∨ bits m d 1 = 1)

/-- The cores of a die. -/
def dieCores (d : Nat) : List Nat := (List.range 48).map fun i => 48 * d + i

/-- The cores that a task may use. -/
def taskCores (s : State) (x : Task) : List Nat :=
  ((maskDies (taskDiemask x)).flatMap dieCores).filter fun c => coreAllowed s x.func c

/-! ## Kernel descriptors and parameter blocks (R12-R14, R30) -/

/-- A kernel descriptor's fields; none for a header error (R14). -/
def kdescOf (b : List Byte) : Option KDesc :=
  let h := wordAt b 0
  let e := wordAt b 1
  let k : KDesc :=
    { prof := bits h 60 4, lw := decide (bits h 59 1 = 1), nreg := bits h 53 6, spkb := bits h 42 11, nbar := bits h 36 6
      ngrp := bits h 31 5, rc0 := bits h 28 3, rc1 := bits h 25 3, rc2 := bits h 22 3, recOk := decide (bits h 21 1 = 1)
      pcls := bits h 17 4, entry := bits e 0 19, handler := bits e 19 19, hmask := bits e 38 14 }
  if (k.prof ≠ 1 ∧ k.prof ≠ 2) ∨ k.lw ≠ decide (k.prof = 1) ∨ k.nreg = 0 ∨ k.nreg > 40 ∨ k.spkb > 1024 ∨ k.nbar > 32 ∨
      k.ngrp = 0 ∨ k.ngrp > 16 ∨ k.rc0 + k.rc1 + k.rc2 > k.ngrp ∨ bits h 0 17 ≠ 0 ∨ bits e 52 12 ≠ 0 ∨ k.entry % 32 ≠ 0 ∨
      (k.hmask ≠ 0 ∧ k.handler % 32 ≠ 0) then none
  else some k

/-- The level `i` of a parameter block. -/
def levelOf (b : List Byte) (i : Nat) : LoopLevel :=
  let p := wordAt b (3 + 2 * i)
  let q := wordAt b (4 + 2 * i)
  { bound := bits p 0 32, stride := signedOf 32 (bits p 32 32), start := signedOf 32 (bits q 0 32)
    sreg := bits q 32 6, mapped := decide (bits q 38 1 = 1) }

/-- The levels of a parameter block, outermost first. -/
def blockLevels (b : List Byte) : List LoopLevel := (List.range (bits (wordAt b 0) 0 3)).map (levelOf b)

/-- Whether a parameter block holds a nonzero reserved field (R30). -/
def blockReserved (b : List Byte) : Bool :=
  let n := bits (wordAt b 0) 0 3
  decide (bits (wordAt b 0) 6 58 ≠ 0) ||
  ((List.range 6).any fun i => if i < n then decide (bits (wordAt b (4 + 2 * i)) 39 25 ≠ 0)
    else decide (wordAt b (3 + 2 * i) ≠ 0 ∨ wordAt b (4 + 2 * i) ≠ 0)) ||
  (List.range 17).any fun i => decide (wordAt b (15 + i) ≠ 0)

/-- Whether a parameter block is invalid (R30, task error 0x08). -/
def blockInvalid (b : List Byte) : Bool :=
  let n := bits (wordAt b 0) 0 3
  let regs := ((blockLevels b).filter fun l => l.mapped).map fun l => l.sreg
  decide (n = 0 ∨ n > 6 ∨ bits (wordAt b 0) 3 3 > n) || (regs.any fun r => decide (r < 6 ∨ r > 62)) || decide (regs.dedup.length ≠ regs.length)

/-! ## Capacities (R39) -/

/-- The 4 KiB units of a kernel's scratchpad. -/
def padUnits4 (k : KDesc) : Nat := (k.spkb + 3) / 4

/-- The first free range of scratchpad for a kernel. -/
def padHole (s : State) (core : Nat) (k : KDesc) : Option Nat :=
  let n := padUnits4 k
  let used := (coreTeams s core).map fun e => (e.2.spBase / 4096, padUnits4 e.2.kd)
  ((List.range (257 - n)).find? fun b => used.all fun u => decide (n = 0 ∨ u.2 = 0 ∨ b + n ≤ u.1 ∨ u.1 + u.2 ≤ b)).map (· * 4096)

/-- Whether a core can admit a team of a kernel for a function now (R39, R361, R371). -/
def canAdmit (s : State) (core f : Nat) (k : KDesc) : Bool :=
  let ts := coreTeams s core
  coreAllowed s f core && !(s.hold.getLsbD (partOfCore s core)) && !(coreOf s core).closing && !coreRetired s core &&
    decide (ts.length < 256) && decide ((ts.map fun e => e.2.kd.ngrp).sum + k.ngrp ≤ 256) &&
    decide ((ts.map fun e => e.2.kd.nbar).sum + k.nbar ≤ 128) && (padHole s core k).isSome

/-- The teams of a kernel that an empty core holds (R33, 0x09). -/
def coreHolds (k : KDesc) : Nat :=
  let n := min 256 (256 / k.ngrp)
  let n := if k.spkb = 0 then n else min n (256 / padUnits4 k)
  if k.nbar = 0 then n else min n (128 / k.nbar)

/-- The declared intensities of a core's resident and saved contexts (R338). -/
def coreIntensity (s : State) (core : Nat) : Nat :=
  ((s.groups.filter fun e => decide ((teamOf s e.2.team).core = core) && match e.2.place with
    | .resident _ _ | .saved => true
    | .admitted | .ended => false).map fun e => intensityOf s e.1).sum

/-- The core of a die that a team is placed on (R338): the least intensity, ties to the lower number. -/
def placeCore (s : State) (die f : Nat) (k : KDesc) : Option Nat :=
  ((dieCores die).filter fun c => canAdmit s c f k).foldl (fun b c => match b with
    | none => some c
    | some x => if coreIntensity s c < coreIntensity s x then some c else some x) none

/-! ## Judging a task at its head (R33, R379) -/

/-- What a task's data come to: the codes of the conditions that hold, the missing pages, and what was read. -/
structure Judged where
  codes : List Nat := []
  missing : List PageMiss := []
  kd : Option KDesc := none
  block : Option (List Byte) := none
  deriving DecidableEq, Repr

/-- One condition. -/
def codeIf (c : Bool) (code : Nat) : List Nat := if c then [code] else []

/-- The conditions on the descriptor alone. -/
def judgeDesc (s : State) (x : Task) : List Nat :=
  let w (i : Nat) : Nat := descWord x.words i
  let k := taskKind x
  let n := taskNdep x
  let m := taskDiemask x
  let (ex, ey, ez) := taskExtents x
  let (c, d, p) := eventCodes (w 0)
  codeIf (decide ((k ≠ 1 ∧ k ≠ 2) ∨ n > 4 ∨ (k = 2 ∧ (taskDlev x ≠ 0 ∨ (m ≠ 1 ∧ m ≠ 2 ∧ m ≠ 4 ∧ m ≠ 8))))) 1 ++
  codeIf (decide (bits (w 0) 0 33 ≠ 0 ∨ bits (w 1) 52 12 ≠ 0 ∨ bits (w 4) 52 12 ≠ 0 ∨ (k = 1 ∧ bits (w 3) 56 8 ≠ 0) ∨
    (k = 2 ∧ w 3 ≠ 0) ∨ taskDeps x / 2 ^ (48 * n) ≠ 0)) 2 ++
  codeIf (decide (k = 1 ∧ (ex = 0 ∨ ey = 0 ∨ ez = 0))) 4 ++
  codeIf (decide (bits (w 1) 0 4 ≠ 0 ∨ bits (w 4) 0 4 ≠ 0 ∨ (k = 2 ∧ bits (w 2) 0 8 ≠ 0))) 5 ++
  codeIf (decide (c = 2 ∨ d = 2 ∨ (p = 2 ∧ taskCrec x = 0))) 0xA ++
  codeIf (attestRefused s x.func) 0xC ++
  codeIf (taskCores s x).isEmpty 9

/-- A read that a judgement rests on: the code 0x06 and missing pages, or the bytes. A failed page response fails the task with 0x06, though
the page be there by now (R214). -/
def judgeRead (x : Task) (r : SysRead) : Judged × Option (List Byte) :=
  match r with
  | .got b => ({ codes := if x.failedPage then [6] else [] }, some b)
  | .denied => ({ codes := [6] }, none)
  | .missing ms => (if x.failedPage then { codes := [6] } else { missing := ms }, none)

/-- The cores of a task that can admit teams: those with a working cluster that are not closing (R371). -/
def workingCores (s : State) (x : Task) : List Nat := (taskCores s x).filter fun k => !(coreOf s k).closing && !coreRetired s k

/-- The conditions that a kernel descriptor shows. -/
def judgeKernel (s : State) (x : Task) (b : List Byte) : Judged :=
  match kdescOf b with
  | none => { codes := [3] }
  | some k =>
    let (ex, ey, ez) := taskExtents x
    { kd := some k
      codes := codeIf (decide (taskKind x = 1 ∧ taskDlev x ≠ 0 ∧ ex * ey * ez > coreHolds k * (workingCores s x).length)) 9 }

/-- The conditions that a parameter block shows. -/
def judgeBlock (b : List Byte) : Judged :=
  { block := some b, codes := codeIf (blockReserved b) 2 ++ codeIf (blockInvalid b) 8 }

/-- Two judgements side by side. -/
def judgeJoin (a b : Judged) : Judged :=
  { codes := a.codes ++ b.codes, missing := b.missing.foldl addMiss a.missing, kd := a.kd.orElse fun _ => b.kd, block := a.block.orElse fun _ => b.block }

/-- Every condition judged at the head of a queue; data whose address or read failed shows none. -/
def judgeTask (s : State) (x : Task) : Judged :=
  let w (i : Nat) : Nat := descWord x.words i
  let core := queueCore x.src
  let base : Judged := { codes := judgeDesc s x }
  if base.codes.any fun c => decide (c ≤ 2) then base
  else
    let k : Judged :=
      if bits (w 1) 0 4 ≠ 0 then {}
      else match judgeRead x (sysRead s core x.func x.asid (bits (w 1) 0 52) 16) with
        | (j, none) => j
        | (_, some b) => judgeKernel s x b
    let o : Judged :=
      if taskKind x ≠ 2 ∨ bits (w 2) 0 8 ≠ 0 then {}
      else match judgeRead x (sysRead s core x.func x.asid (w 2) 256) with
        | (j, none) => j
        | (_, some b) => judgeBlock b
    judgeJoin base (judgeJoin k o)

/-- The lowest of some codes. -/
def lowestCode : List Nat → Option Nat
  | [] => none
  | c :: r => match lowestCode r with
    | none => some c
    | some d => some (min c d)

/-! ## Completion records (R28) -/

/-- The record's address, none where the task has none. -/
def recordAddr (x : Task) : Option Nat :=
  let c := taskCrec x
  if c = 0 ∨ c % 16 ≠ 0 ∨ x.noRecord then none else some c

/-- The host's task-error event (R33, R355). -/
def hostTaskError (s : State) (x : Task) (code : Nat) : State :=
  let f := funcOf s x.func
  let (sp, q) : Bool × Nat := match x.src with
    | .host q => (false, q)
    | .hw _ _ => (true, 0)
  setEvent (setFunc s x.func { f with errCount := min (f.errCount + 1) (2 ^ 32 - 1), errSpawn := sp, errQueue := q, errCode := code }) x.func 0

/-- The queues that hold a task waiting for dependences. -/
def waitingQueues (s : State) : List QueueRef :=
  (s.tasks.filter fun e => decide (e.2.stage = .waiting) && !e.2.depsMet).map fun e => e.2.src

/-- The EVP event (R44). -/
def packageEvent (s : State) (x : Task) : State :=
  let (_, _, p) := eventCodes (descWord x.words 0)
  if p = 3 then sendMsix s x.func (taskMsiv x)
  else if p = 2 then { s with agenda := s.agenda ++ (waitingQueues s).map .poll }
  else s

/-- A task has ended: DONE is written, the EVP event occurs, and a failure is told to the host (R33, R43). -/
def taskEnds (s : State) (t : Nat) : State :=
  let x := taskOf s t
  let s := setTask s t { x with stage := .ended, finishing := false }
  let s := { s with domains := s.domains.filter fun d => decide (d.task ≠ t) }
  let s := packageEvent s x
  match x.error with
  | some c => hostTaskError s x c
  | none => s

/-- Bytes of a record written in its page (R28): on a host page the decrement of REMAIN is an AtomicOp (R353), and the STATUS word, a
release, carries no relaxed-ordering attribute (R258). -/
def recordPut (s : State) (x : Task) (w : Nat × DWord) (ps : List Piece) (bytes : List Byte) : State :=
  let n := s.tlps.length
  let s := touchPieces s 0 x.func x.asid ps true
  let s := match w.1, ps with
    | 1, [p] => if p.frame.space = .host then hostSend (recallRange s .host (0, p.frame.pa) 8 true) x.func p.frame.pa .fetchAdd bytes false
        else writePieces s 0 x.func false ps bytes
    | _, _ => writePieces s 0 x.func false ps bytes
  if w.1 = 8 then sendOrdered n s else s

/-- The 8 bytes that a record write leaves. -/
def recordBytes (s : State) (x : Task) (a : Nat) (w : Nat × DWord) : List Byte :=
  if w.1 = 1 then leBytes 8 (wordAt (virtRead s 0 x.func x.asid a 8 true).1 0 + (2 ^ 64 - 1)) else leBytes 8 w.2.toNat

/-- A record write that is denied or whose page request failed is dropped (R28). -/
def dropRecord (s : State) (t : Nat) : State :=
  let x := taskOf s t
  let s := setTask s t { x with noRecord := true, pendingWrites := [], waits := [] }
  if x.remainDone || x.finishing then hostTaskError s x 6 else failTask s t 6

/-- A task's record writes made in order, as far as their pages are present. -/
def pumpRecord : Nat → State → Nat → State
  | 0, s, _ => s
  | n + 1, s, t =>
    let x := taskOf s t
    if !x.waits.isEmpty then s
    else match x.pendingWrites with
      | [] => if x.finishing then taskEnds s t else s
      | w :: r =>
        let done (s : State) : State := setTask s t { taskOf s t with pendingWrites := r, remainDone := true }
        match recordAddr x with
        | none => pumpRecord n (done s) t
        | some c =>
          let a := c + if w.1 = 8 then 8 else 0
          let y := rangeX s 0 x.func x.asid a 8 { rd := decide (w.1 = 1), w := true } true
          if y.denied.isSome then pumpRecord n (dropRecord s t) t
          else if !y.missing.isEmpty then
            let (ws, s) := raiseAll s x.func x.asid (fun _ => if w.1 = 1 then 3 else 1) 6 [.record t] y.missing
            setTask s t { taskOf s t with waits := ws }
          else pumpRecord n (done (recordPut s x w y.pieces (recordBytes s x a w))) t

/-- Record writes added, and made. -/
def writeRecord (s : State) (t : Nat) (ws : List (Nat × DWord)) (last : Bool) : State :=
  let x := taskOf s t
  pumpRecord (x.pendingWrites.length + ws.length + 2)
    (setTask s t { x with pendingWrites := x.pendingWrites ++ ws, finishing := x.finishing || last }) t

/-- The end of a task begins: REMAIN = 0 where it failed, then STATUS with DONE = 1 (R28, R33). -/
def finishTask (s : State) (t : Nat) : State :=
  let x := taskOf s t
  if x.finishing ∨ x.stage = .ended then s
  else
    let done (e : Nat) : Nat × DWord := (8, BitVec.ofNat 64 (2 ^ 63 + e))
    writeRecord (leaveQueue s t) t (match x.error with
      | some e => [(0, 0), done e]
      | none => [done 0]) true

/-- A task that fails before dispatch leaves its queue and ends (R33). -/
def failEarly (s : State) (t code : Nat) : State := finishTask (failTask s t code) t

/-! ## TASK_FETCH (R34, R259, R360, R379) -/

/-- The number of teams or tile steps of a task. -/
def taskTotal (x : Task) (levels : List LoopLevel) : Nat :=
  if taskKind x = 1 then let (a, b, c) := taskExtents x; a * b * c else levels.foldl (fun n l => n * l.bound) 1

/-- A task that passed its head's checks. -/
def acceptTask (s : State) (t : Nat) (j : Judged) : State :=
  let x := taskOf s t
  let b := j.block.getD []
  let levels := if taskKind x = 2 then blockLevels b else []
  setTask s t { x with
    stage := .waiting, kd := j.kd, levels := levels, seqlev := bits (wordAt b 0) 3 3
    arg := if taskKind x = 2 then BitVec.ofNat 64 (wordAt b 2) else x.words.getD 2 0
    total := taskTotal x levels, left := taskTotal x levels, depsMet := decide (taskNdep x = 0)
    since := if taskNdep x = 0 then some s.gtime else none, failedPage := false }

/-- A head task judged: it fails, waits for pages, or goes on to its dependences. -/
def judgeHead (s : State) (t : Nat) : State :=
  let x := taskOf s t
  let j := judgeTask s x
  let core := queueCore x.src
  let s := match j.kd with
    | some _ => sysTouch s core x.func x.asid (bits (descWord x.words 1) 0 52) 16
    | none => s
  let s := match j.block with
    | some _ => sysTouch s core x.func x.asid (descWord x.words 2) 256
    | none => s
  if !j.missing.isEmpty then
    let (ws, s) := raiseAll s x.func x.asid missKind 6 [.queue x.src] j.missing
    setTask s t { taskOf s t with waits := ws }
  else match lowestCode j.codes with
    | some c => failEarly s t c
    | none => acceptTask s t j

/-- An entry of a host queue entered as a task, HEAD raised; an entry that could not be read fails with 0x06 (R33, R34). -/
def enterEntry (s : State) (q : Nat) (words : List DWord) (bad : Bool) : State :=
  let x := queueOf s q
  let n := s.nextId
  let s := setTask { s with nextId := n + 1 } n { newTask words (ownerOf s q) x.qasid (.host q) with noRecord := bad }
  let s := setQueue s q { queueOf s q with tasks := [n], head := (x.head + 1) % 2 ^ 32, reading := false, waits := [] }
  if bad then failEarly s n 6 else judgeHead s n

/-- A host queue's next entry read (R360). -/
def readEntry (s : State) (q : Nat) : State :=
  let x := queueOf s q
  let f := ownerOf s q
  let a := x.base + 64 * (x.head % 2 ^ x.log2n)
  match sysRead s 0 f x.qasid a 64 with
  | .got b => enterEntry (sysTouch s 0 f x.qasid a 64) q (descWords b) false
  | .denied => enterEntry s q [] true
  | .missing ms =>
    let (ws, s) := raiseAll s f x.qasid missKind 6 [.queue (.host q)] ms
    setQueue s q { queueOf s q with reading := true, waits := ws }

/-- TASK_FETCH: a queue's head is read and judged. An entry whose read has begun is read to its end though EN has been cleared (R359). -/
def fetchTask (s : State) (r : QueueRef) : State :=
  match queueTasks s r with
  | t :: _ =>
    let x := taskOf s t
    if x.stage = .queued ∧ x.waits = [] then judgeHead s t else s
  | [] =>
    match r with
    | .hw _ _ => s
    | .host q => let x := queueOf s q; if (x.reading ∨ (x.en ∧ x.head ≠ x.tail)) ∧ x.waits = [] then readEntry s q else s

/-! ## DEPENDENCE_POLL and TASK_PRIORITY_RISE (R35, R37) -/

/-- The STATUS word of a dependence's record. -/
def depRead (s : State) (x : Task) (i : Nat) : Judged × Option Nat :=
  match judgeRead x (sysRead s (queueCore x.src) x.func x.asid (taskDep x i) 16) with
  | (j, none) => (j, none)
  | (_, some b) =>
    let w := wordAt b 1
    ({ codes := codeIf (decide (bits w 63 1 = 1 ∧ bits w 0 8 ≠ 0)) 7 }, some w)

/-- DEPENDENCE_POLL: the head's records are read again. -/
def pollDeps (s : State) (r : QueueRef) : State :=
  match queueTasks s r with
  | [] => s
  | t :: _ =>
    let x := taskOf s t
    if x.stage ≠ .waiting ∨ x.depsMet ∨ x.waits ≠ [] then s
    else
      let rs := (List.range (taskNdep x)).map (depRead s x)
      let s := (List.range (taskNdep x)).foldl (fun s i => sysTouch s (queueCore x.src) x.func x.asid (taskDep x i) 16) s
      match lowestCode (rs.flatMap fun e => e.1.codes) with
      | some c => failEarly s t c
      | none =>
        let ms := (rs.flatMap fun e => e.1.missing).foldl addMiss []
        if !ms.isEmpty then
          let (ws, s) := raiseAll s x.func x.asid missKind 6 [.queue r] ms
          setTask s t { taskOf s t with waits := ws }
        else if rs.all fun e => decide (bits (e.2.getD 0) 63 1 = 1) then
          setTask s t { x with depsMet := true, since := some s.gtime, failedPage := false }
        else setTask s t { x with lastCheck := s.gtime, failedPage := false }

/-- TASK_PRIORITY_RISE. -/
def raisePriority (s : State) (r : QueueRef) : State :=
  match queueTasks s r with
  | [] => s
  | t :: _ =>
    let x := taskOf s t
    match x.since with
    | some n =>
      if x.stage = .waiting ∧ x.depsMet ∧ n + 1000000 ≤ s.gtime then
        setTask s t { x with prio := min 3 (x.prio + 1), since := some (n + 1000000) }
      else s
    | none => s

/-! ## Teams made (R11-R16, R31, R349) -/

/-- The launch values of R12 in one half. -/
def launchRegs (t : Team) (gix h : Nat) (g : Group) : Group :=
  let c (i : Nat) : DWord := BitVec.ofNat 64 (t.coords.getD i 0)
  let g := sput (sput (sput (sput g h 1 t.arg) h 2 (c 0)) h 3 (c 1)) h 4 (c 2)
  let g := sput g h 5 (BitVec.ofNat 64 (if g.lw then 2 * gix + h else gix))
  t.stepRegs.foldl (fun g r => sput g h r.1 r.2) g

/-- A group's role and index among its role (R16). -/
def roleOf (k : KDesc) (gix : Nat) : Nat × Nat :=
  if gix < k.rc0 then (0, gix)
  else if gix < k.rc0 + k.rc1 then (1, gix - k.rc0)
  else if gix < k.rc0 + k.rc1 + k.rc2 then (2, gix - k.rc0 - k.rc1)
  else (3, gix - k.rc0 - k.rc1 - k.rc2)

/-- TVEC at launch (R12, R314). -/
def launchTvec (k : KDesc) : DWord :=
  BitVec.ofNat 64 ((if k.hmask ≠ 0 then 2 ^ 63 else 0) + k.hmask * 2 ^ 19 + k.handler)

/-- A group at launch (R12, R349). -/
def launchGroup (tid : Nat) (t : Team) (gix : Nat) : Group :=
  let k := t.kd
  let (ro, rx) := roleOf k gix
  let g : Group :=
    { team := tid, gix := gix, role := ro, rix := rx, lw := k.lw, regcnt := 8 * k.nreg, tvec := launchTvec k
      splits := if k.lw then [(0, { pc := k.entry, mask := 0x0000FFFF }), (2, { pc := k.entry, mask := 0xFFFF0000 })]
        else [(0, { pc := k.entry, mask := 0xFFFFFFFF })] }
  let g := launchRegs t gix 0 g
  if k.lw then launchRegs t gix 1 g else g

/-- A team's groups made. -/
def launchGroups (s : State) (tid : Nat) : Nat → List Nat → State × List Nat
  | 0, ids => (s, ids)
  | n + 1, ids =>
    let t := teamOf s tid
    let gid := s.nextId
    launchGroups { setGroup s gid (launchGroup tid t ids.length) with nextId := gid + 1 } tid n (ids ++ [gid])

/-- A team offered to a die for one index of its task: it has no core yet. -/
def makeTeam (s : State) (task index die : Nat) (coords : List Nat) (regs : List (Nat × DWord)) (chain : List Nat) (again : Bool) :
    State × Nat :=
  let x := taskOf s task
  let id := s.nextId
  let t : Team :=
    { task := task, index := index, coords := coords, step := decide (taskKind x = 2), stepRegs := regs, chain := chain, arg := x.arg
      core := 48 * die, func := x.func, asid := x.asid, prio := x.prio, kd := x.kd.getD noKDesc, spBase := 0, groups := []
      place := .offered, again := again }
  let s := setTeam { s with nextId := id + 1 } id t
  (setTask s task { taskOf s task with live := x.live + 1 }, id)

/-- Bytes of a core's scratchpad set to 0, the poison of their granules gone. -/
def clearPad (c : Core) (a n : Nat) : Core :=
  { c with sp := memClear c.sp a n, spPoison := c.spPoison.filter fun b => ¬ (a ≤ 32 * b ∧ 32 * b < a + n) }

/-- A team admitted by a core (R39, R203, R144): its scratchpad range is cleared and its groups stand at launch. The core's and the die's
counters of R43 are above zero again. -/
def admitTeam (s : State) (tid core : Nat) : State :=
  let t := teamOf s tid
  let base := (padHole s core t.kd).getD 0
  let s := setCore s core (clearPad (coreOf s core) base (1024 * t.kd.spkb))
  let s := setTeam s tid { t with
    core := core, spBase := base, place := .admitted, ovmask := (funcOf s t.func).ovdef.setWidth 8 }
  let (s, ids) := launchGroups s tid t.kd.ngrp []
  let s := setTeam s tid { teamOf s tid with groups := ids }
  let x := taskOf s t.task
  setTask s t.task { x with
    coresUsed := if x.coresUsed.contains core then x.coresUsed else x.coresUsed ++ [core]
    coreEvents := x.coreEvents.filter fun k => decide (k ≠ core)
    dieEvents := x.dieEvents.filter fun k => decide (k ≠ dieOfCore core) }

/-- Whether a team is the first offered one of its die and partition: priority, then the order offered (R38). -/
def firstOffered (s : State) (tid : Nat) : Bool :=
  let t := teamOf s tid
  s.teams.all fun e =>
    !(decide (e.2.place = .offered ∧ e.2.core / 48 = t.core / 48 ∧ e.1 ≠ tid) && decide (partOfFunc s e.2.func = partOfFunc s t.func)) ||
      decide (e.2.prio < t.prio ∨ (e.2.prio = t.prio ∧ tid < e.1))

/-- TEAM_ADMIT: an offered team is admitted by the core that R338 names; of a failed task only a step launched again (R32, R33). -/
def teamAdmits (s : State) (tid core : Nat) : State :=
  let t := teamOf s tid
  if t.place = .offered ∧ ((taskOf s t.task).error = none ∨ t.again) ∧ placeCore s (t.core / 48) t.func t.kd = some core ∧ firstOffered s tid then
    admitTeam s tid core
  else s

/-! ## Domains (R18, R19) -/

/-- An identity not among some, from a free number. -/
def freshIdent (used : List Nat) (n : Nat) : Nat :=
  match (List.range (used.length + 1)).find? fun i => !used.contains ((n + i) % 65535 + 1) with
  | some i => (n + i) % 65535 + 1
  | none => 1

/-- The identity of a task's domain at a level and scope, made where it does not exist yet. -/
def domainOf (s : State) (task level scope : Nat) : State × Nat :=
  match s.domains.find? fun d => decide (d.task = task ∧ d.level = level ∧ d.scope = scope) with
  | some d => (s, d.ident)
  | none =>
    let (n, s) := drawNat s
    let used := (s.domains.filter fun d => decide (d.level = level)).map fun d => d.ident
    let i := freshIdent used n
    ({ s with domains := s.domains ++ [{ level := level, task := task, scope := scope, ident := i }] }, i)

/-- The identities of an admitted team (R19): per core, per die and once. -/
def assignDomains (s : State) (tid : Nat) : State :=
  let t := teamOf s tid
  let m := taskDlev (taskOf s t.task)
  let get (s : State) (level scope : Nat) : State × Nat := if bits m (level - 3) 1 = 1 then domainOf s t.task level scope else (s, 0)
  let (s, a) := get s 3 t.core
  let (s, b) := get s 4 (t.core / 48)
  let (s, c) := get s 5 0
  setTeam s tid { teamOf s tid with dom := [a, b, c] }

/-! ## Events of cores and dies (R43, R44) -/

/-- Whether a task has admitted teams that have not retired on the cores of a test. -/
def teamsLeft (s : State) (t : Nat) (p : Nat → Bool) : Bool :=
  s.teams.any fun e => decide (e.2.task = t ∧ e.2.place ≠ .retired ∧ e.2.place ≠ .offered) && p e.2.core

/-- Whether the dispatcher or walker has no further team of a task to offer. -/
def noMoreTeams (x : Task) : Bool := (x.error.isSome || x.allOffered) && x.redo.isEmpty

/-- A list with the new members of another. -/
def listJoin (a b : List Nat) : List Nat := a ++ b.filter fun k => !a.contains k

/-- The EVC and EVD events that have come due (R43, R44): on each core, and each die, whose admitted teams of the task have all retired
while no further one is to be offered. -/
def levelEvents (s : State) (t : Nat) : State :=
  let x := taskOf s t
  if !noMoreTeams x then s
  else
    let (c, d, _) := eventCodes (descWord x.words 0)
    let cs := x.coresUsed.filter fun k => !x.coreEvents.contains k && !teamsLeft s t fun j => decide (j = k)
    let ds := ((x.coresUsed.map dieOfCore).dedup).filter fun k =>
      !x.dieEvents.contains k && !teamsLeft s t fun j => decide (dieOfCore j = k)
    let s := setTask s t { x with
      coreEvents := x.coreEvents ++ cs, dieEvents := x.dieEvents ++ ds
      coreReached := listJoin x.coreReached cs, dieReached := listJoin x.dieReached ds }
    let s := if c = 3 then cs.foldl (fun s _ => sendMsix s x.func (taskMsiv x)) s else s
    if d = 3 then ds.foldl (fun s _ => sendMsix s x.func (taskMsiv x)) s else s

/-! ## TASK_DISPATCH (R36, R38) -/

/-- The coordinates of a linear index (R29). -/
def coordsAt (x : Task) (i : Nat) : List Nat :=
  let (a, b, _) := taskExtents x
  [i % a, i / a % b, i / (a * b)]

/-- The teams offered to a die and not yet admitted that its order of admission puts before a team offered now by a task, in that order
(R38). -/
def aheadOf (s : State) (d : Nat) (x : Task) : List Nat :=
  [3, 2, 1, 0].flatMap fun p => if p < x.prio then []
    else (s.teams.filter fun e => decide (e.2.place = .offered ∧ e.2.core / 48 = d ∧ e.2.prio = p ∧ partOfFunc s e.2.func = partOfFunc s x.func)).map
      Prod.fst

/-- An offered team given the room that its admission will take. -/
def reserveRoom (s : State) (tid : Nat) : State :=
  let t := teamOf s tid
  match placeCore s (t.core / 48) t.func t.kd with
  | none => s
  | some c => setTeam s tid { t with core := c, spBase := (padHole s c t.kd).getD 0, place := .admitted }

/-- Whether a die has a core able to admit a task's next team beside the teams that come before it; a team of a task with domains is
admitted at once, so none may come before it (R38). -/
def dieAble (s : State) (d : Nat) (x : Task) : Bool :=
  let first := aheadOf s d x
  (decide (taskDlev x = 0) || first.isEmpty) && (placeCore (first.foldl reserveRoom s) d x.func (x.kd.getD noKDesc)).isSome

/-- The dies of a task that have a core able to admit its next team. -/
def ableDies (s : State) (x : Task) : List Nat := (maskDies (taskDiemask x)).filter fun d => dieAble s d x

/-- One of some dies, which one is not predictable (R38). -/
def drawDie (s : State) (ds : List Nat) : Nat × State :=
  let (n, s) := drawNat s
  (ds.getD (n % ds.length) 0, s)

/-- A team task's next team offered. -/
def offerTeam (s : State) (t : Nat) : State :=
  let x := taskOf s t
  let (d, s) := drawDie s (ableDies s x)
  let (s, _) := makeTeam s t x.offered d (coordsAt x x.offered) [] [] false
  let x := taskOf s t
  let s := setTask s t { x with offered := x.offered + 1, allOffered := decide (x.offered + 1 = x.total) }
  if x.offered + 1 = x.total then levelEvents (leaveQueue s t) t else s

/-- Every team of a task with domains admitted at once, none where they do not fit. -/
def admitAll : Nat → State → Nat → Option State
  | 0, s, _ => some s
  | n + 1, s, t =>
    let x := taskOf s t
    match ableDies s x with
    | [] => none
    | ds =>
      let (d, s) := drawDie s ds
      let (s, id) := makeTeam s t x.offered d (coordsAt x x.offered) [] [] false
      match placeCore s d x.func (x.kd.getD noKDesc) with
      | none => none
      | some c =>
        let s := assignDomains (admitTeam s id c) id
        let x := taskOf s t
        admitAll n (setTask s t { x with offered := x.offered + 1 }) t

/-- Whether a head is eligible for a selection (R35, R36, R38): its dependences are met, and a team of it can go. -/
def canDispatch (s : State) (t : Nat) : Bool :=
  let x := taskOf s t
  match x.stage with
  | .waiting => x.depsMet && (decide (taskKind x = 2) || (if taskDlev x = 0 then !(ableDies s x).isEmpty else (admitAll x.total s t).isSome))
  | .dispatched => x.remainDone && x.error.isNone && decide (x.offered < x.total) &&
      (if taskDlev x = 0 then !(ableDies s x).isEmpty else (admitAll x.total s t).isSome)
  | .queued | .ended => false

/-- The queues of a dispatcher (R34): the hub's is 4 and serves the host queues, a die's serves its hardware queues. -/
def dispatcherQueues (d : Nat) : List QueueRef :=
  if d = 4 then (List.range 256).map .host else (List.range 64).map (.hw d)

/-- The number of a queue among its dispatcher's. -/
def queueNum : QueueRef → Nat
  | .host q => q
  | .hw _ q => q

/-- The queue that a dispatcher served last. -/
def servedLast (s : State) (d : Nat) : Nat := if d = 4 then s.hubServed else (dieOf s d).served

/-- A dispatcher's served mark. -/
def setServed (s : State) (d q : Nat) : State :=
  if d = 4 then { s with hubServed := q } else setDie s d { dieOf s d with served := q }

/-- Heads of failed tasks leave their queues: no further team of them is offered (R33). -/
def dropFailed (s : State) (d : Nat) : State :=
  (dispatcherQueues d).foldl (fun s r => match (queueTasks s r).head? with
    | some t => if (taskOf s t).error.isSome then leaveQueue s t else s
    | none => s) s

/-- The selection of R36: the highest priority, then round-robin after the queue served last. -/
def selectHead (s : State) (d : Nat) : Option (QueueRef × Nat) :=
  let hs := (dispatcherQueues d).filterMap fun r => match (queueTasks s r).head? with
    | some t => if canDispatch s t then some (r, t) else none
    | none => none
  let top := hs.foldl (fun n e => max n (taskOf s e.2).prio) 0
  let hs := hs.filter fun e => decide ((taskOf s e.2).prio = top)
  (hs.find? fun e => decide (queueNum e.1 > servedLast s d)).orElse fun _ => hs.head?

/-- A task dispatched: REMAIN is written, and an operator task goes to its die's walker (R28, R31, R36). -/
def beginDispatch (s : State) (t : Nat) : State :=
  let x := taskOf s t
  if attestRefused s x.func then failEarly s t 0xC
  else
    let s := writeRecord (setTask s t { x with stage := .dispatched }) t [(0, BitVec.ofNat 64 x.total)] false
    if (taskOf s t).error.isSome then finishTask s t
    else if taskKind x = 1 then s
    else if x.total = 0 then finishTask s t
    else
      let d := (maskDies (taskDiemask x)).headD 0
      leaveQueue (setDie s d { dieOf s d with walker := (dieOf s d).walker ++ [t] }) t

/-- TASK_DISPATCH. -/
def dispatchTask (s : State) (d : Nat) : State :=
  let s := dropFailed s d
  match selectHead s d with
  | none => s
  | some (r, t) =>
    let s := setServed s d (queueNum r)
    let x := taskOf s t
    if x.stage = .waiting then beginDispatch s t
    else if taskDlev x = 0 then offerTeam s t
    else match admitAll x.total s t with
      | some s => levelEvents (leaveQueue (setTask s t { taskOf s t with allOffered := true }) t) t
      | none => s

/-! ## The walker (R31) -/

/-- WALKER_EXPAND: the walker takes the task and its steps may launch. -/
def expandTask (s : State) (t : Nat) : State :=
  let d := (maskDies (taskDiemask (taskOf s t))).headD 0
  if (dieOf s d).walker.contains t then
    setTask (setDie s d { dieOf s d with walker := (dieOf s d).walker.filter fun y => decide (y ≠ t) }) t { taskOf s t with expanded := true }
  else s

/-- The steps of one chain. -/
def chainLength (x : Task) : Nat := (x.levels.drop x.seqlev).foldl (fun n l => n * l.bound) 1

/-- The number of chains. -/
def chainCount (x : Task) : Nat := (x.levels.take x.seqlev).foldl (fun n l => n * l.bound) 1

/-- The step to launch next: a discarded one, else the next of the first chain that waits for none, else the first of a new chain. -/
def nextStep (x : Task) : Option Nat :=
  match x.redo with
  | k :: _ => some k
  | [] =>
    let n := chainLength x
    match x.chainNext.find? fun e => decide (e.2 < n) && !x.chainBusy.contains e.1 with
    | some (c, p) => some (c * n + p)
    | none => if x.chainNext.length < chainCount x then some (x.chainNext.length * n) else none

/-- The index of each level in a step, outermost first (R31). -/
def stepIndices : List LoopLevel → Nat → List Nat
  | [], _ => []
  | l :: r, k =>
    let inner := r.foldl (fun n x => n * x.bound) 1
    k / inner % l.bound :: stepIndices r (k % inner)

/-- The registers that a step's mapped levels load. -/
def stepRegs (x : Task) (k : Nat) : List (Nat × DWord) :=
  ((x.levels.zip (stepIndices x.levels k)).filter fun e => e.1.mapped).map fun e =>
    (e.1.sreg, BitVec.ofInt 64 (e.1.start + (e.2 : Int) * e.1.stride))

/-- Whether a task may have a step launched: a discarded one also where the task has failed, since it had been launched before (R32, R33;
DEDUCED, log 42). -/
def mayLaunch (x : Task) : Bool :=
  decide (x.stage = .dispatched) && x.expanded && x.remainDone && !x.finishing && (x.error.isNone || !x.redo.isEmpty)

/-- TILE_STEP_LAUNCH: a step whose chain predecessor has retired is offered to the task's die. -/
def launchStep (s : State) (t : Nat) : State :=
  let x := taskOf s t
  let d := (maskDies (taskDiemask x)).headD 0
  match nextStep x with
  | none => s
  | some k =>
    if mayLaunch x && dieAble s d x then
      let n := chainLength x
      let (s, _) := makeTeam s t k d [k, 0, 0] (stepRegs x k) [k / n] (decide (x.redo ≠ []))
      let y := taskOf s t
      levelEvents (if x.redo = [] then
        setTask s t { y with
          chainNext := tset y.chainNext (k / n) (k % n + 1), chainBusy := (k / n) :: y.chainBusy
          offered := y.offered + 1, allOffered := decide (y.offered + 1 = y.total) }
      else setTask s t { y with redo := y.redo.drop 1 }) t
    else s

/-! ## TEAM_RETIRE (R43) -/

/-- Teams of a failed task that were offered and not admitted are withdrawn, but for steps launched again (R32, R33). -/
def withdrawOffered (s : State) (t : Nat) : State :=
  let x := taskOf s t
  if x.error.isNone then s
  else
    let gone (e : Nat × Team) : Bool := decide (e.2.task = t ∧ e.2.place = .offered) && !e.2.again
    { setTask s t { x with live := x.live - (s.teams.filter gone).length } with teams := s.teams.filter fun e => !gone e }

/-- A task after one of its teams has retired. -/
def afterRetire (s : State) (t : Nat) : State :=
  let s := levelEvents (withdrawOffered s t) t
  let x := taskOf s t
  if (x.error.isSome ∧ x.live = 0 ∧ x.redo = []) ∨ (x.error = none ∧ x.left = 0) then finishTask s t else s

/-- Whether a team may retire (R43): its groups have ended, what they stored is performed, and its engine work is complete. -/
def canRetire (s : State) (tid : Nat) : Bool :=
  let t := teamOf s tid
  decide (t.place ≠ .offered ∧ t.place ≠ .retired) && (tget s.teams tid).isSome && !engineBusy t &&
    t.groups.all fun gid =>
      let g := groupOf s gid
      decide (g.place = .ended) && g.ops.all fun o => match o.kind with
        | .store _ | .scalarStore | .tensorStore _ | .multicast => false
        | .load _ | .scalarLoad _ _ _ | .tensorLoad _ _ | .prefetch => true

/-- A team and its groups removed from the tables. -/
def dropTeam (s : State) (tid : Nat) : State :=
  let t := teamOf s tid
  { s with teams := tdel s.teams tid, groups := s.groups.filter fun e => !t.groups.contains e.1 }

/-- TEAM_RETIRE (R43): resources are released and REMAIN is decremented. -/
def retireTeam (s : State) (tid : Nat) : State :=
  if canRetire s tid then
    let t := teamOf s tid
    let s := dropTeam (releaseTeam s tid) tid
    let x := taskOf s t.task
    let s := setTask s t.task { x with
      left := x.left - 1, live := x.live - 1, chainBusy := if t.step then x.chainBusy.filter fun c => !t.chain.contains c else x.chainBusy }
    afterRetire (writeRecord s t.task [(1, 0)] false) t.task
  else s

end Sys2Proof.Machine
end

