-- ==== Sys2Proof/Machine/Residency.lean ====
section
/-!
DEFINITION. Contexts becoming resident, parked, ready and pre-empted (R17, R39-R42, R317-R320, R361).
-/

namespace Sys2Proof.Machine

/-! ## Becoming resident (R17, R39, R318) -/

/-- Whether a REGCLAIM waits on a cluster: it is served before any context becomes resident there (R17). -/
def claimWaits (s : State) (cl : Nat) : Bool :=
  (residents s cl).any fun e => match e.2.wait with
    | some (.regclaim _ _) => true
    | _ => false

/-- The lowest free context slot of a cluster. -/
def freeSlot (s : State) (cl : Nat) : Option Nat :=
  let used := (residents s cl).map fun e => slotOfGroup e.2
  (List.range 16).find? fun k => !used.contains k

/-- Whether a cluster can take a group's context (R17, R371). -/
def clusterTakes (s : State) (cl : Nat) (g : Group) : Bool :=
  (freeSlot s cl).isSome && decide (g.regcnt ≤ poolFree s cl) && !(clusterOf s cl).retired

/-- A group placed on a cluster; it re-enters its stall. -/
def placeGroup (s : State) (gid cl slot order : Nat) : State :=
  setGroup s gid { groupOf s gid with place := .resident cl slot, reserve := false, since := order, waitSince := s.gtime }

/-- The dropped loads of a resumed context performed again in issue order, each once it may be (R318); the context issues nothing before
they are done. -/
def replayOps (s : State) (gid : Nat) : State :=
  ((groupOf s gid).ops.filter fun o => o.replay).foldl (fun s o => if opReady s gid o then (performOp s gid o).1 else s) s

/-- Groups placed on the clusters named, none where one cannot take its group. -/
def placeGroups (core order : Nat) : State → List Nat → List Nat → Option State
  | s, [], [] => some s
  | s, gid :: gs, cl :: cs =>
    if cl / 8 = core ∧ clusterTakes s cl (groupOf s gid) then
      match freeSlot s cl with
      | some k => placeGroups core order (placeGroup s gid cl k order) gs cs
      | none => none
    else none
  | _, _, _ => none

/-- Whether a group that is not resident can run (R315): no page is missing. -/
def runnable (g : Group) : Bool :=
  match g.pageFault with
  | none => true
  | some f => f.waits.isEmpty

/-- The groups of a team that have not ended and are not resident. -/
def absentGroups (s : State) (t : Team) : List Nat :=
  t.groups.filter fun gid => match (groupOf s gid).place with
    | .admitted | .saved => true
    | .resident _ _ | .ended => false

/-- The ready teams of a core. -/
def readyTeams (s : State) (core : Nat) : List (Nat × Team) :=
  s.teams.filter fun e => decide (e.2.core = core ∧ e.2.place = .ready)

/-- Whether it is a team's turn (R42): ready teams come before those of equal or lower priority that have not run, and among themselves in
the order they became ready. -/
def teamTurn (s : State) (tid : Nat) : Bool :=
  let t := teamOf s tid
  match t.place with
  | .admitted => (readyTeams s t.core).all fun e => decide (e.2.prio < t.prio)
  | .ready => !(s.hold.getLsbD (partOfCore s t.core)) && (readyTeams s t.core).all fun e => decide (t.readyAt ≤ e.2.readyAt)
  | .resident => true
  | .offered | .parked | .retired => false

/-- The groups that become resident together: all of a team that is admitted or ready; the runnable ones of a resident team. -/
def residentSet (s : State) (t : Team) : Option (List Nat) :=
  let gs := absentGroups s t
  if t.place = .resident then some (gs.filter fun gid => runnable (groupOf s gid))
  else if gs.all fun gid => runnable (groupOf s gid) then some gs
  else none

/-- TEAM_RESIDENT: a team's groups become resident on the clusters named, none of which has a claim of an earlier context to serve. -/
def teamResides (s : State) (tid : Nat) (clusters : List Nat) : State :=
  let t := teamOf s tid
  if teamTurn s tid then
    match residentSet s t with
    | none => s
    | some gs =>
      if clusters.any (claimWaits s) then s
      else match placeGroups t.core s.nextId { s with nextId := s.nextId + 1 } gs clusters with
        | some s => setTeam s tid { teamOf s tid with place := .resident }
        | none => s
  else s

/-! ## Parking (R40, R42) -/

/-- The groups of a team that have not ended. -/
def runningGroups (s : State) (t : Team) : List Nat := t.groups.filter fun gid => decide ((groupOf s gid).place ≠ .ended)

/-- The images of a team. -/
def teamImage (s : State) (t : Team) : Nat := ((runningGroups s t).map fun gid => imageSize (groupOf s gid)).sum

/-- When a team's wait began (R40): none unless each of its running groups is resident and stalled in a wait. -/
def waitStart (s : State) (t : Team) : Option Nat :=
  let gs := runningGroups s t
  if t.place = .resident ∧ gs ≠ [] ∧ gs.all (fun gid => let g := groupOf s gid; g.wait.isSome && (clusterOfGroup g).isSome) then
    some (gs.foldl (fun n gid => max n (groupOf s gid).waitSince) 0)
  else none

/-- The images of a core's switched-out contexts moved from the park area to the save reserve, but for those of parked teams (R378). -/
def moveImages (s : State) (core : Nat) : State :=
  s.groups.foldl (fun s e =>
    let t := teamOf s e.2.team
    if e.2.place = .saved ∧ t.core = core ∧ t.place ≠ .parked then setGroup s e.1 { groupOf s e.1 with reserve := true } else s) s

/-- Whether the park area has room for a team's images. -/
def parkRoom (s : State) (t : Team) : Bool := decide (parkUsed s t.core + teamImage s t ≤ parkBytes)

/-- A team's groups switched out into the park area. -/
def parkNow (s : State) (tid : Nat) : State :=
  let s := (runningGroups s (teamOf s tid)).foldl switchOut s
  setTeam s tid { teamOf s tid with place := .parked }

/-- TEAM_PARK: a team that has waited SWAPTH ticks is parked where the park area has room (R40, R41), once its contexts' drains are over
(R318). Where it has none, the core may move images to the save reserve first, which is not predictable (R378; log 10). -/
def parkTeam (s : State) (tid : Nat) : State :=
  let t := teamOf s tid
  let th := (coreOf s t.core).swapth
  match waitStart s t with
  | none => s
  | some n =>
    if th ≠ 0 ∧ n + th ≤ s.gtime ∧ (runningGroups s t).all (switchable s) then
      if parkRoom s t then parkNow s tid
      else
        let (move, s) := drawBit s
        if move && parkRoom (moveImages s t.core) t then parkNow (moveImages s t.core) tid else s
    else s

/-- TEAM_READY: the wait condition of some group of a parked team is met (R42). -/
def readyTeam (s : State) (tid : Nat) : State :=
  let t := teamOf s tid
  let met := (runningGroups s t).any fun gid => match (groupOf s gid).wait with
    | some w => waitMet s gid w
    | none => true
  if t.place = .parked ∧ met then
    { setTeam s tid { t with place := .ready, readyAt := s.nextId } with nextId := s.nextId + 1 }
  else s

/-- REGCLAIM_SERVED: the earliest waiting claim of a cluster is served where the pool holds it (R17, R135). -/
def serveClaim (s : State) (cl : Nat) : State :=
  let claims := (residents s cl).filterMap fun e => match e.2.wait with
    | some (.regclaim _ k) => some (e.1, k)
    | _ => none
  match claims.foldl (fun (b : Option (Nat × Nat)) c => match b with
    | none => some c
    | some x => if c.2 < x.2 then some c else some x) none with
  | none => s
  | some (gid, _) => tryWait s gid fun _ => true

/-! ## Pre-emption (R317, R320, R361) -/

/-- Whether a team can be switched out now: every resident group's drain is over and its core is not frozen (R318, R323). -/
def teamSwitchable (s : State) (t : Team) : Bool :=
  t.groups.all fun gid => (clusterOfGroup (groupOf s gid)).isNone || switchable s gid

/-- A team switched out as a pre-emption: it stands ready with the priority it holds; a restartable tile step may be discarded instead,
which is not predictable (R320). A trap that is due at a boundary comes first, and the switch-out at a later one (R323); a drain is waited
for (R318). -/
def preemptTeam (s : State) (tid : Nat) : State :=
  let t := teamOf s tid
  if frozenCore s t.core then s
  else if t.groups.any fun gid => trapDue (groupOf s gid) then t.groups.foldl (fun s gid => if trapDue (groupOf s gid) then takePending s gid else s) s
  else if !teamSwitchable s t then s
  else
    let (discard, s) := drawBit s
    if restartable t && !engineBusy t && discard then dropTeam (discardStep s tid) tid
    else
      let s := t.groups.foldl switchOut s
      { setTeam s tid { teamOf s tid with place := .ready, readyAt := s.nextId } with nextId := s.nextId + 1 }

/-- Whether groups fit on some clusters, first fit. -/
def groupsFit (cls : List Nat) : State → List Nat → Bool
  | _, [] => true
  | s, gid :: gs =>
    match cls.find? fun cl => clusterTakes s cl (groupOf s gid) with
    | some cl => match freeSlot s cl with
      | some k => groupsFit cls (setGroup s gid { groupOf s gid with place := .resident cl k }) gs
      | none => false
    | none => false

/-- The clusters of a core that have no claim to serve first (R17). -/
def openClusters (s : State) (core : Nat) : List Nat := ((List.range 8).map fun i => 8 * core + i).filter fun cl => !claimWaits s cl

/-- Whether a team of higher priority on the core waits for contexts that are not free (R317). -/
def needsContexts (s : State) (core prio : Nat) : Bool :=
  s.teams.any fun e => decide (e.2.core = core ∧ prio < e.2.prio ∧ (e.2.place = .ready ∨ e.2.place = .admitted)) &&
    !groupsFit (openClusters s core) s (absentGroups s e.2)

/-- PREEMPT: a resident team is switched out for one of higher priority. -/
def preempts (s : State) (tid : Nat) : State :=
  let t := teamOf s tid
  if t.place = .resident && needsContexts s t.core t.prio then preemptTeam s tid else s

/-- The resident teams of a partition. -/
def partitionTeams (s : State) (p : Nat) : List Nat :=
  (s.teams.filter fun e => decide (e.2.place = .resident ∧ partOfCore s e.2.core = p)).map Prod.fst

/-- PARTITION_PREEMPT: the resident contexts of the partition are switched out, and the bit clears once every one is (R361). -/
def preemptPartition (s : State) (p : Nat) : State :=
  if s.preempting.getLsbD p then
    let s := (partitionTeams s p).foldl preemptTeam s
    if (partitionTeams s p).isEmpty then { s with preempting := s.preempting &&& ~~~(1#8 <<< p) } else s
  else s

end Sys2Proof.Machine
end

