-- ==== Sys2Proof/Machine/Power.lean ====
section
/-!
DEFINITION. Power and current control (spec 25_power, R324-R340): the Weir's cycle, the power-state predicate, the cap controller, engine
windows, and link widths.
-/

namespace Sys2Proof.Machine

/-- A core with its Weir changed. -/
def onWeir (s : State) (k : Nat) (f : Weir → Weir) : State := let c := coreOf s k; setCore s k { c with weir := f c.weir }

/-! ## WEIR_CYCLE (R325, R326, R332, R339) -/

/-- The weight of an engine cycle that runs an item (R324). -/
def itemWeight (t : Team) (i : EngineItem) : Nat :=
  match i.op with
  | .tile .tmma lo _ => if fmtNarrow (geoOf (streamOf t (cQA lo)).qw0).fmt then 600 else 512
  | .tile _ _ _ | .reverse => 160

/-- The context charged for engine cycles of a group's commands: the group, or the token's holder where it has ended (R337). -/
def chargedGroup (s : State) (gid : Nat) : Option Nat :=
  let g := groupOf s gid
  if g.place ≠ .ended then some gid else (teamOf s g.team).token

/-- Whether a hint's onset has come and its effective onset has not (R338). -/
def hintBetween (s : State) (gid : Nat) : Bool :=
  (groupOf s gid).hints.any fun h => !h.active && decide (h.declared ≤ s.gtime ∧ s.gtime < h.onset)

/-- The weights of the engine cycles charged to a context in the present window (R337). -/
def ranCycles (s : State) (core gid : Nat) : List Nat := ((coreOf s core).weir.busy.filter fun e => decide (e.1 = gid)).map Prod.snd

/-- The engine cycles that a window may give a context (R337): 64, or 4 x max(I, 1) while it is throttled or stands between the onset and
the effective onset of a hint (R338). -/
def runLimit (s : State) (core gid : Nat) : Nat :=
  if (coreOf s core).weir.throttled.contains gid || hintBetween s gid then 4 * max (intensityOf s gid) 1 else 64

/-- The engine cycles that the present window still has for a group's commands; commands that no context is charged for have no limit. -/
def cyclesLeft (s : State) (core gid : Nat) : Nat :=
  match chargedGroup s gid with
  | none => 64
  | some k => runLimit s core k - (ranCycles s core k).length

/-- A team's started item runs a number of engine cycles in a Weir cycle, which is not predictable (R3), within what the window has left:
the weight, and the state with the cycles counted. -/
def itemCycles (core : Nat) (a : Nat × State) (t : Team) : Nat × State :=
  match t.engine with
  | [] => a
  | i :: _ =>
    if i.started then
      let (k, s) := drawNat a.2
      let n := k % (cyclesLeft s core i.gid + 1)
      let wt := itemWeight t i
      let mine : List (Nat × Nat) := match chargedGroup s i.gid with
        | none => []
        | some g => List.replicate n (g, wt)
      (a.1 + n * wt, onWeir s core fun w => { w with busy := w.busy ++ mine })
    else a

/-- The matrix engine's weight in a Weir cycle, over the started items of its core's teams; none in a freeze (R325). -/
def engineWeight (s : State) (core : Nat) : Nat × State :=
  if frozenCore s core then (0, s)
  else (s.teams.filter fun e => decide (e.2.core = core)).foldl (fun a e => itemCycles core a e.2) (0, s)

/-- The block-transfer engine's weight in a Weir cycle: it runs at least one command. -/
def copyWeight (c : Core) : Nat := if c.copies.any fun x => decide (x.state = .running ∨ x.state = .collective) then 16 else 0

/-- The pressure level of a window (R326). -/
def levelOfWindow (il : Ilim) (sum frozen : Nat) : Nat :=
  if frozen ≥ il.frz2 then 2 else if sum < 16 * il.soft ∧ frozen = 0 then 0 else 1

/-- Whether the module stands above EFFCAP: the input power measured over the latest period exceeds EFFCAP.WATTS as it now stands (R335). -/
def aboveCap (s : State) : Bool := decide (s.input > 1000 * effcapWatts s)

/-- Whether the slope rule holds in this cycle (R339): always at or below the cap; above it for one ramp per period, cut off at 4,000
ticks. -/
def slopeHolds (s : State) (w : Weir) : Bool :=
  !aboveCap s || match w.rampStart with
    | some t => decide (s.gtime < t + 4000)
    | none => !w.rampUsed

/-- The Weir after a cycle of weight `wc` (R325, R326, R332): the ILIM last written is in force from the next cycle on (R327). A ramp counts
against the one of the period, and its ballast against the next budget, where the module stands above the cap (R339). -/
def weirNext (s : State) (c : Core) (wc : Nat) : Weir :=
  let w := c.weir
  let hist := (wc :: w.hist).take 64
  let marks := (w.frozen :: w.marks).take 64
  let sum := hist.sum
  let lim := effLimit { c with weir := { w with ilim := c.ilim } }
  let level := levelOfWindow c.ilim sum (marks.filter fun b => b).length
  let b := if slopeHolds s w then w.total - s.didtDn - wc else 0
  { w with
    cur := 0, hist := hist, marks := marks, ilim := c.ilim, frozen := decide (sum > lim), total := wc + b, level := level
    held := if w.held.contains lim then w.held else w.held ++ [lim]
    highRun := if level = 0 then 0 else w.highRun + 1, lowRun := if level = 0 then w.lowRun + 1 else 0
    ballast := decide (b ≠ 0), ballastEnergy := if aboveCap s then w.ballastEnergy + b else w.ballastEnergy
    rampStart := if b ≠ 0 then some (w.rampStart.getD s.gtime) else none
    rampUsed := w.rampUsed || (aboveCap s && decide (b = 0) && w.rampStart.isSome)
    frzcnt := if w.frozen then min (w.frzcnt + 1) (2 ^ 64 - 1) else w.frzcnt }

/-- WEIR_CYCLE. -/
def weirCycles (s : State) (core : Nat) : State :=
  let (n, s) := engineWeight s core
  let c := coreOf s core
  setCore s core { c with weir := weirNext s c (c.weir.cur + n + copyWeight c) }

/-! ## PRED and FORCED (R330, R331) -/

/-- PRED_RISE. -/
def predRises (s : State) (core : Nat) : State :=
  onWeir s core fun w => if w.highRun ≥ 256 ∧ !w.pred then { w with pred := true, checkAt := some (s.gtime + 10000) } else w

/-- PRED_FALL. -/
def predFalls (s : State) (core : Nat) : State :=
  onWeir s core fun w => if w.lowRun ≥ 256 ∧ w.pred then { w with pred := false, forced := false, checkAt := none } else w

/-- FORCED_CHECK. -/
def checkForced (s : State) (core : Nat) : State :=
  onWeir s core fun w => match w.checkAt with
    | some t => if t ≤ s.gtime then { w with checkAt := none, forced := w.forced || decide (w.level ≠ 0) } else w
    | none => w

/-- The forced pattern (R331). -/
def forcedPattern (n : Nat) : BitVec 32 := maskOf fun i => decide ((i + 1) * n / 32 > i * n / 32)

/-- The pattern in force on a cluster (R329, R331): the forced one while FORCED = 1 and it has fewer ones. -/
def patternInForce (s : State) (cl : Nat) : BitVec 32 :=
  let c := coreOf s (coreOfCluster cl)
  let p := (clusterOf s cl).clkpat
  let f := forcedPattern c.weir.ilim.fduty
  if c.weir.forced ∧ (maskLanes f).length < (maskLanes p).length then f else p

/-! ## CAP_CONTROLLER_PERIOD (R334, R335) -/

/-- EFFCAP's inputs changed: the host is told when CAPCLAMP rises (R334, R355). -/
def recap (s : State) (f : State → State) : State :=
  let t := f s
  if !capclamp s && capclamp t then setEvent t 0 1 else t

/-- The demand of a partition: its cores' draw (R335). -/
def demandOf (s : State) (m : PowerMeasure) (p : Nat) : Nat :=
  ((List.range 192).map fun c => if partOfCore s c = p then m.draw.getD c 0 else 0).sum

/-- What a partition receives first, in milliwatts: the lesser of floor and demand. -/
def floorShare (s : State) (m : PowerMeasure) (p : Nat) : Nat := min (1000 * tgetD s.pfloor p 0) (demandOf s m p)

/-- The effective limit L that held for a core in the period; where several did, which one the controller took is not predictable (log 10). -/
def heldLimit (s : State) (core : Nat) : Nat :=
  let w := (coreOf s core).weir
  w.held.getD (Config.freeNat (s.free + 192 + core) % w.held.length) (effLimit (coreOf s core))

/-- A core's budget (R335): L x A / D with A its share of the partition's allotment, within 2,048 and 16 x HARD; a fraction is dropped
(log 17). -/
def budgetOf (s : State) (m : PowerMeasure) (core : Nat) : Nat :=
  let top := 16 * (coreOf s core).weir.ilim.hard
  let p := partOfCore s core
  let parts := List.range 16
  let beyond (q : Nat) : Nat := demandOf s m q - floorShare s m q
  let sum := (parts.map beyond).sum
  let rest := 1000 * (effcapWatts s - s.idle) - (parts.map (floorShare s m)).sum
  let d := demandOf s m p
  let l := heldLimit s core
  min top (max 2048 (if sum = 0 then l * floorShare s m p / d else l * (floorShare s m p * sum + rest * beyond p) / (sum * d)))

/-- A budget after the deduction for ballast, whose amount in weight units the spec does not state: a free value (log 17). -/
def lessBallast (s : State) (core budget : Nat) : Nat :=
  if (coreOf s core).weir.ballastEnergy = 0 then budget else max 2048 (budget - Config.freeNat (s.free + core))

/-- A core's next budget: 16 x HARD where it drew nothing (R335). -/
def nextBudget (s : State) (m : PowerMeasure) (core : Nat) : Nat :=
  if m.draw.getD core 0 = 0 then 16 * (coreOf s core).weir.ilim.hard else lessBallast s core (budgetOf s m core)

/-- A Weir that begins a period of the cap controller with a budget. -/
def newPeriod (w : Weir) (budget : Nat) : Weir :=
  { w with budget := budget, held := [min (16 * w.ilim.hard) budget], ballastEnergy := 0, rampUsed := false }

/-- CAP_CONTROLLER_PERIOD: every 1,000 ticks. -/
def capPeriod (s : State) (m : PowerMeasure) : State :=
  if s.gtime < s.capAt + 1000 then s
  else
    let s := recap { s with capAt := s.gtime, input := m.input } fun s => { s with idle := m.idle / 1000 % 2 ^ 11 }
    let t := (List.range 192).foldl (fun t k => onWeir t k fun w => newPeriod w (nextBudget s m k)) s
    { t with free := t.free + 384 }

/-! ## ENGINE_THROTTLE_WINDOW (R337) -/

/-- ENGINE_THROTTLE_WINDOW: a window of 64 engine cycles ends for a context that was charged with `busy` of them; of those after the first
4I, `narrow` and `wide` ran TMMA. -/
def throttleWindow (s : State) (core gid busy narrow wide : Nat) : State :=
  let ran := ranCycles s core gid
  let i := intensityOf s gid
  let beyond := ran.drop (4 * i)
  if ran.length ≠ busy ∨ beyond.count 600 ≠ narrow ∨ beyond.count 512 ≠ wide then s
  else
    let s := onWeir s core fun w => { w with busy := w.busy.filter fun e => decide (e.1 ≠ gid) }
    let g := groupOf s gid
    if busy ≤ 4 * i + 4 ∨ hintBetween s gid ∨ g.place = .ended then s
    else
      let s := setGroup s gid { g with undecl := min (g.undecl + beyond.sum) (2 ^ 64 - 1) }
      onWeir s core fun w => { w with throttled := if w.throttled.contains gid then w.throttled else w.throttled ++ [gid] }

/-! ## LINK_NARROW and LINK_WIDEN (R340) -/

/-- The least width of a port (R362). -/
def leastWidth (s : State) (p : Nat) : Nat := 2 ^ tgetD s.minw p 0

/-- LINK_NARROW: a direction whose utilisation stayed below 25% for 100 µs halves its width, not below the host's least width (R340). The
event brings the utilisation measured (log 46). -/
def narrowLink (s : State) (p : Nat) (m : LinkMeasure) : State :=
  let x := portOf s p
  let w := if m.tx then x.txWidth else x.rxWidth
  if m.busy < 25 ∧ x.up ∧ w / 2 ≥ leastWidth s p ∧ w > 1 then
    setPort s p (if m.tx then { x with txWidth := w / 2 } else { x with rxWidth := w / 2 })
  else s

/-- LINK_WIDEN: a direction with more than 4 flits in its transmit queue, or a utilisation above 75% over 10 µs, doubles its width, up to
8 lanes (R340). The event brings both measurements (log 46). -/
def widenLink (s : State) (p : Nat) (m : LinkMeasure) : State :=
  let x := portOf s p
  let w := if m.tx then x.txWidth else x.rxWidth
  if (m.queue > 4 ∨ m.busy > 75) ∧ x.up ∧ 2 * w ≤ 8 then setPort s p (if m.tx then { x with txWidth := 2 * w } else { x with rxWidth := 2 * w })
  else s

end Sys2Proof.Machine
end

