-- ==== Sys2Proof/Machine/Delivery.lean ====
section
/-!
DEFINITION. What comes to a context from outside its issue: results, memory data, seam deliveries, ends of waits, engine progress and
errors (R89, R189, R204, R207, R208, R368-R371).
-/

namespace Sys2Proof.Machine

/-! ## Errors (R368, R370, R371) -/

/-- Corrected errors counted. -/
def countCorrected (s : State) : State := { s with rasCe := min (s.rasCe + 1) (2 ^ 32 - 1) }

/-- Uncorrectable errors counted. -/
def countUncorrectable (s : State) : State := { s with rasUe := min (s.rasUe + 1) (2 ^ 16 - 1) }

/-- Whether a cluster is the last of its core that is not retired. -/
def lastCluster (s : State) (cl : Nat) : Bool :=
  (List.range 8).all fun i => decide (8 * (cl / 8) + i = cl) || (clusterOf s (8 * (cl / 8) + i)).retired

/-- An uncorrectable or persistent residue error met by a cluster: the fourth one retires it, but for a core's last cluster, which is
retired once the core's admitted teams have retired (R371). -/
def clusterError (s : State) (cl : Nat) : State :=
  let c := clusterOf s cl
  let s := setCluster s cl { c with errors := c.errors + 1 }
  if c.errors + 1 < 4 ∨ c.retired then s
  else if lastCluster s cl && !(coreTeams s (cl / 8)).isEmpty then
    setCore s (cl / 8) { coreOf s (cl / 8) with closing := true }
  else retireCluster s cl

/-- An error met by the cluster that a group is resident on. -/
def groupError (s : State) (gid : Nat) : State :=
  match clusterOfGroup (groupOf s gid) with
  | some cl => clusterError s cl
  | none => s

/-- An uncorrectable error in a granule of memory or scratchpad (R368, R369). -/
def poisonMemory (s : State) (sp : Space) (core a : Nat) : State := markPoison (countUncorrectable s) core sp a 1

/-- An uncorrectable error in a granule of a core's instruction memory (R368). -/
def poisonCode (s : State) (core a : Nat) : State :=
  let c := coreOf s core
  countUncorrectable (setCore s core { c with imemPoison := poisonAdd c.imemPoison [a / 32] })

/-- An uncorrectable error in an element of an accumulator tile (R368). -/
def poisonAcc (s : State) (core tile elem : Nat) : State :=
  let c := coreOf s core
  let a := tgetD c.acc tile {}
  countUncorrectable (setCore s core { c with acc := tset c.acc tile { a with poison := poisonAdd a.poison [elem] } })

/-- A chunk sum whose residues mismatched once was formed again (R370). -/
def countResidue (s : State) : State := { s with rasRes := min (s.rasRes + 1) (2 ^ 16 - 1) }

/-- A group with an uncorrectable error in some lanes of a register, latch, e-slot, port or mask: `reg` below 320 is a vector register, from
320 a latch, from 400 an e-slot, from 500 a port, from 600 a mask, from 700 a uniform latch of mx or cp (R321, R368). -/
def strikeReg (g : Group) (reg : Nat) (m : Mask) : Group :=
  if reg < 320 then { g with vPoison := tset g.vPoison reg (tgetD g.vPoison reg 0 ||| m) }
  else if reg < 400 then
    let x := tgetD g.image.latches (reg - 320) {}
    { g with image := { g.image with latches := tset g.image.latches (reg - 320) { x with poison := x.poison ||| m } } }
  else if reg < 500 then let x := tgetD g.e (reg - 400) {}; { g with e := tset g.e (reg - 400) { x with poison := x.poison ||| m } }
  else if reg < 600 then
    let x := tgetD g.image.ports (reg - 500) {}
    { g with image := { g.image with ports := tset g.image.ports (reg - 500) { x with poison := x.poison ||| m } } }
  else if reg < 700 then { g with mPoison := tset g.mPoison (reg - 600) (tgetD g.mPoison (reg - 600) 0 ||| m) }
  else
    { g with image := { g.image with
        uniform := tset g.image.uniform (reg - 700) { tgetD g.image.uniform (reg - 700) {} with poison := true } } }

/-- An uncorrectable error in lanes of a group's state. -/
def poisonReg (s : State) (gid reg : Nat) (m : Mask) : State :=
  groupError (countUncorrectable (setGroup s gid (strikeReg (groupOf s gid) reg m))) gid

/-- An uncorrectable error in a scalar register of a group, by 64 x half + register, or from 128 on in a window register, by 8 x half + window:
a bundle that reads it consumes it (R321, R368). -/
def poisonScalar (s : State) (gid reg : Nat) : State :=
  let g := groupOf s gid
  let g := if reg < 128 then (if reg % 64 = 0 then g else { g with sPoison := poisonAdd g.sPoison [reg] })
    else { g with wPoison := poisonAdd g.wPoison [reg - 128] }
  groupError (countUncorrectable (setGroup s gid g)) gid

/-! ## Results (R89, R149, R152, R370) -/

/-- Results of an image with some lanes of one poisoned. -/
def poisonResult (id : Nat) (m : Mask) (rs : List Result) : List Result :=
  rs.map fun r => if r.id = id ∧ r.residue then { r with poison := r.poison ||| (m &&& r.mask) } else r

/-- The mask bits of a result that the residue checks can touch. -/
def residueMask (g : Group) (id : Nat) (m : Mask) : Mask :=
  match (g.image.results ++ (g.user.getD {}).results).find? fun r => decide (r.id = id) && r.residue with
  | some r => m &&& r.mask &&& ~~~r.filled
  | none => 0

/-- RESULT_DELIVERY: a fixed-latency result is delivered; lanes whose residue mismatched once were retried, and lanes in which the mismatch
persisted are poisoned (R370). -/
def deliverResult (s : State) (gid id : Nat) (retried poisoned : Mask) : State :=
  let g := groupOf s gid
  if frozenCore s (groupCore s gid) then s
  else
    let rm := residueMask g id (retried ||| poisoned)
    let pm := residueMask g id poisoned
    let g := { g with
      image := { g.image with results := poisonResult id pm g.image.results }
      user := g.user.map fun u => { u with results := poisonResult id pm u.results } }
    let p (r : Result) : Bool := fixedLatency r.unit && decide (r.id = id)
    let (g, rs) := deliverWhere p g g.image.results
    let g := { g with image := settle { g.image with results := rs } }
    let g := match g.user with
      | none => g
      | some u => let (g, rs) := deliverWhere p g u.results; { g with user := some (settle { u with results := rs }) }
    let s := setGroup s gid g
    let s := { s with rasRes := min (s.rasRes + (maskLanes rm).length) (2 ^ 16 - 1) }
    if pm = 0 then s else groupError (countUncorrectable s) gid

/-! ## Memory operations (R208, R219-R232, R258) -/

/-- An outstanding operation of a group that may be performed now, by its number; of two parts either may come first. Log 10. -/
def findOp (s : State) (gid id : Nat) : Option MemOp :=
  let os := (groupOf s gid).ops.filter fun o => decide (o.id = id) && !o.replay && opReady s gid o
  os[if os.length ≤ 1 then 0 else Config.freeNat s.free % os.length]?

/-- Whether an operation reaches a peer (R363). -/
def opPeer (op : MemOp) : Bool := (opElems op).any fun e => decide (e.space = .peer)

/-- The split a half's scalar operations are reported on where their bundle is past: the half's lowest one, none where the half has ended. -/
def halfSplit (g : Group) (h : Nat) : Option Nat := (g.splits.map Prod.fst).find? fun i => decide (halfOf g i = h)

/-- An operation performed where it may be; a poisoned scalar load kills the live lanes of its half (R321, R349). -/
def performReady (s : State) (gid id : Nat) (p : MemOp → Bool) : State :=
  match findOp s gid id with
  | none => s
  | some op =>
    if p op then
      let (s, bad) := performOp (if op.part = 0 then s else { s with free := s.free + 1 }) gid op
      match if bad then halfSplit (groupOf s gid) op.half else none with
        | some sid => killScalar s gid sid (splitOf (groupOf s gid) sid).pc
        | none => s
    else s

/-- What an operation is, as the events of the opcode table name it. -/
inductive OpClass where
  | load | scalarLoad | store | prefetch
  deriving DecidableEq, Repr

/-- The class of an operation. -/
def classOf (op : MemOp) : OpClass :=
  match op.kind with
  | .load _ | .tensorLoad _ _ => .load
  | .scalarLoad _ _ _ => .scalarLoad
  | .store _ | .scalarStore | .tensorStore _ | .multicast => .store
  | .prefetch => .prefetch

/-- LOAD_DATA_RETURN, SCALAR_LOAD_RETURN, STORE_ACCEPT and PREFETCH_FILL: an operation of a class that reaches no peer is performed. -/
def memoryReturns (s : State) (gid id : Nat) (k : OpClass) : State :=
  performReady s gid id fun op => decide (classOf op = k) && !opPeer op

/-- Whether each peer element of an operation has a port up to go by (R363). -/
def peerReachable (s : State) (gid : Nat) (op : MemOp) : Bool :=
  let f := (groupTeam s gid).func
  (opElems op).all fun e => decide (e.space ≠ .peer) || peerOpen s f e.addr e.size none

/-- PEER_ACKNOWLEDGE: the peer acknowledges an access, which is then performed (R258). -/
def peerAcknowledges (s : State) (gid id : Nat) : State :=
  performReady s gid id fun op => opPeer op && peerReachable s gid op

/-! ## Load-block units (R207) -/

/-- Lines that a core's complete load-block units hold. -/
def blockLines (s : State) (core : Nat) : Nat :=
  ((coreTeams s core).map fun e => (e.2.blocks.map fun b => if b.2.complete then b.2.lines.length else 0).sum).sum

/-- LBLK_FILL_COMPLETE: every line is filled, where the core's load-block space holds them; bfN is set and P4 falls. -/
def fillBlock (s : State) (core tid n : Nat) : State :=
  let t := teamOf s tid
  match tget t.blocks n with
  | none => s
  | some b =>
    if t.core = core ∧ !b.complete ∧ blockLines s core + b.lines.length ≤ 6144 then
      let s := setTeam s tid { t with
        blocks := tset t.blocks n { b with complete := true, filled := b.lines }, bflags := t.bflags ||| (1#16 <<< n) }
      let y := groupOf s b.gid
      setGroup s b.gid { y with paths := y.paths.map fun e => (e.1, pathDone e.2 b.op) }
    else s

/-- LBLK_LINE_INVALIDATE: a line of a unit is dropped, as another agent's write drops it; bfN keeps its value. -/
def invalidateBlockLine (s : State) (core tid n line : Nat) : State :=
  let t := teamOf s tid
  match tget t.blocks n with
  | none => s
  | some b =>
    if t.core = core then setTeam s tid { t with blocks := tset t.blocks n { b with filled := b.filled.filter fun a => decide (a ≠ line) } }
    else s

/-- POLDER_RECALL: the directory recalls a line for another agent's write, or for its read of a dirty line (R204). -/
def recallLine (s : State) (core line : Nat) (exclusive : Bool) : State :=
  match tget (coreOf s core).lines line with
  | none => s
  | some l => if exclusive || l.dirty then dropLine s core line else s

/-! ## The seam (R188-R190) -/

/-- A team's group by its index. -/
def groupAt (s : State) (t : Team) (gix : Nat) : Option Nat := t.groups.find? fun i => decide ((groupOf s i).gix = gix)

/-- A send delivered to its target. -/
def deliverSend (g : Group) (x : Send) : Group :=
  let m := x.lanes &&& liveMask g
  let e := tgetD g.e x.slot {}
  { g with e := tset g.e x.slot { val := laneMerge e.val x.val m, full := e.full ||| m, poison := e.poison &&& ~~~m } }

/-- SEAM_DELIVERY: the first send of a sender's queue is delivered once its slot is empty in every lane it writes and its target is resident;
to a group that has ended it is discarded. A saved sender's sends wait for it (R190); those of one that has ended do not. -/
def seamDelivers (s : State) (gid : Nat) : State :=
  let g := groupOf s gid
  match g.seam with
  | [] => s
  | x :: rest =>
    if ((clusterOfGroup g).isNone && decide (g.place ≠ .ended)) || frozenCore s (groupCore s gid) then s
    else
      let drop (s : State) : State := setGroup s gid { groupOf s gid with seam := rest }
      match groupAt s (groupTeam s gid) x.gix with
      | none => drop s
      | some k =>
        let y := groupOf s k
        if y.place = .ended then drop s
        else if (clusterOfGroup y).isSome ∧ x.lanes &&& liveMask y &&& (tgetD y.e x.slot {}).full = 0 then
          drop (setGroup s k (deliverSend y x))
        else s

/-! ## Scheduling events (R22, R24, R46, R49) -/

/-- HELD_SPLIT_TIMEOUT. -/
def heldTimesOut (s : State) (gid sid : Nat) : State :=
  let g := groupOf s gid
  if (tget g.splits sid).isSome then setGroup s gid (holdTimeout g sid) else s

/-- A cluster issues next. -/
def issueNext (s : State) (cl : Nat) : State := { s with agenda := .issue cl :: s.agenda }

/-- SPLIT_STARVATION_PRESENT: a split that has waited 256 bundles of its group is presented at the group's next issue, which follows. -/
def splitStarves (s : State) (gid sid : Nat) : State :=
  let g := groupOf s gid
  match clusterOfGroup g with
  | none => s
  | some cl => if (tget g.splits sid).isSome && eligible g sid && decide ((splitOf g sid).waiting ≥ 256) then issueNext s cl else s

/-- The entry with the least key, the second part of which breaks ties. -/
def leastBy (key : Group → Nat × Nat) : List (Nat × Group) → Option (Nat × Group)
  | [] => none
  | e :: r =>
    match leastBy key r with
    | none => some e
    | some x =>
      let a := key e.2
      let b := key x.2
      if a.1 < b.1 ∨ (a.1 = b.1 ∧ a.2 ≤ b.2) then some e else some x

/-- The context of some ready ones that has been ready longest, for 64 cycles or more, ties to the lower slot (R46). -/
def longestReady (c : Cluster) (rs : List (Nat × Group)) : Option (Nat × Group) :=
  leastBy (fun g => (g.readySince.getD 0, slotOfGroup g)) (rs.filter fun e => decide (e.2.readySince.getD c.cycles + 64 ≤ c.cycles))

/-- CONTEXT_STARVATION_PRIMARY: the context of a cluster that has been ready longest, for 64 cycles without issuing, is its next primary (primaryOf), and the cluster issues next. -/
def contextStarves (s : State) (gid : Nat) : State :=
  match clusterOfGroup (groupOf s gid) with
  | none => s
  | some cl =>
    let c := clusterOf s cl
    match longestReady c ((residents s cl).filter fun e => e.2.readySince.isSome) with
    | some e => if e.1 = gid then issueNext s cl else s
    | none => s

/-- YIELD_END: 8 cycles after its bundle with Y = 1 a context may be primary again. -/
def yieldEnds (s : State) (gid : Nat) : State :=
  let g := groupOf s gid
  match clusterOfGroup g, g.yieldUntil with
  | some cl, some n => if n ≤ (clusterOf s cl).cycles then setGroup s gid { g with yieldUntil := none } else s
  | _, _ => s

/-! ## Ends of waits (R19, R117, R129-R140) -/

/-- Each group of a team tried for a wait. -/
def tryTeam (s : State) (tid : Nat) (p : Wait → Bool) : State := (teamOf s tid).groups.foldl (fun s gid => tryWait s gid p) s

/-- BARRIER_PHASE_COMPLETE: groups waiting on the object whose phase has moved go on. -/
def barrierWakes (s : State) (tid id : Nat) : State :=
  tryTeam s tid fun w => match w with
    | .barw _ i _ _ => decide (i = id)
    | _ => false

/-- DSYNC_COMPLETE: every member of a domain has issued its DSYNC for the phase. -/
def dsyncWakes (s : State) (ident : Nat) : State :=
  s.groups.foldl (fun s e => match (groupOf s e.1).wait with
    | some (.dsync l p) => if (groupTeam s e.1).dom.getD (l - 3) 0 = ident then dsyncAll s e.1 l p else s
    | _ => s) s

/-- FENCE_COMPLETE: every access that the fence waits for is performed. -/
def fenceEnds (s : State) (gid id : Nat) : State :=
  let g := groupOf s gid
  match g.fences.find? fun f => decide (f.id = id) with
  | some f => if fenceOver g f then setGroup s gid { g with fences := g.fences.filter fun f => decide (f.id ≠ id) } else s
  | none => s

/-- The wait of a WAITC. -/
def isWaitc : Wait → Bool
  | .waitc _ _ _ => true
  | _ => false
/-- The wait of an MXWAIT. -/
def isMxwait : Wait → Bool
  | .mxwait _ => true
  | _ => false
/-- The wait of a CPWAIT. -/
def isCpwait : Wait → Bool
  | .cpwait _ _ => true
  | _ => false
/-- The wait of an MXTAKE. -/
def isMxtake : Wait → Bool
  | .mxtake _ => true
  | _ => false
/-- The wait of a PFLUSH. -/
def isPflush : Wait → Bool
  | .pflush _ _ => true
  | _ => false
/-- The wait of a stream register write. -/
def isStreamWrite : Wait → Bool
  | .streamWrite _ _ => true
  | _ => false
/-- The wait of a Lining register write. -/
def isLiningWrite : Wait → Bool
  | .liningWrite _ _ => true
  | _ => false
/-- A SPAWN's wait for its descriptor's bytes, or for a queue entry. -/
def isSpawnRoom : Wait → Bool
  | .spawnRead _ _ _ _ _ _ | .spawnRoom _ _ _ _ _ => true
  | _ => false
/-- A SPAWN's wait for an event. -/
def isSpawnEvent : Wait → Bool
  | .spawnEvent _ _ _ => true
  | _ => false

/-! ## The matrix engine under a freeze (R325, R370) -/

/-- An engine event of a team, which a freeze of its core stops. -/
def engineStep (s : State) (tid : Nat) (f : State → State) : State := if frozenCore s (teamOf s tid).core then s else f s

/-- Whether the window has an engine cycle for the head of a team's engine order (R337, R338). -/
def engineMayRun (s : State) (tid : Nat) : Bool :=
  let t := teamOf s tid
  match engineHead t with
  | none => true
  | some i => decide (cyclesLeft s t.core i.gid ≠ 0)

/-- MX_COMMAND_START: where the throttle leaves the command a cycle. -/
def engineStarts (s : State) (tid : Nat) : State := if engineMayRun s tid then engineStep s tid fun s => engineStart s tid else s

/-- A residue mismatch of a chunk sum that persisted: counted as a mismatch, and as uncorrectable (R286, R370). -/
def countPersistent (s : State) : State := countUncorrectable (countResidue s)

/-- MX_COMMAND_RETIRE. -/
def engineRetires (s : State) (tid : Nat) (poisoned : Bool) : State :=
  engineStep s tid fun s =>
    let t := engineRetire s tid poisoned
    if poisoned ∧ (teamOf t tid).engine.length < (teamOf s tid).engine.length then countPersistent t else t

/-- REVERSE_ENTRY: where the throttle leaves the walk a cycle; else the engine idles (R337, R338). -/
def entryRuns (s : State) (tid : Nat) (poisoned : Bool) : State :=
  if engineMayRun s tid then engineStep s tid fun s =>
    let t := engineEntry s tid poisoned
    let done (s : State) : Nat × Option Bool := ((teamOf s tid).lnCur, (engineHead (teamOf s tid)).map fun i => i.walkDone)
    if poisoned ∧ done t ≠ done s then countPersistent t else t
  else s

/-- BATCH_COMPLETE. -/
def batchCompletes (s : State) (tid : Nat) : State := engineStep s tid fun s => completeBatch s tid

/-- TEAM_RETIRE; a core that was waiting for its last team loses its last cluster (R371). -/
def teamRetires (s : State) (tid : Nat) : State :=
  let core := (teamOf s tid).core
  closeCore (retireTeam s tid) core

end Sys2Proof.Machine
end

