-- ==== Sys2Proof/Machine/DeliveryOps.lean ====
section
/-!
DEFINITION. The meanings of the events of what comes to a context: results, memory data, seam deliveries, and the ends of waits.
An event that its rules do not allow now leaves the state as it is (log 1).
-/

namespace Sys2Proof.Machine

/-- RESULT_DELIVERY (R89). A fixed-latency unit result becomes due and is delivered to its port with its flags. -/
def execResultDelivery (group seq : Nat) (retried poisoned : Mask) (s : State) : Host.Outcome State Fault Refusal :=
  .next (deliverResult s group seq retried poisoned)

/-- LOAD_DATA_RETURN (R220). A lane load's data returns, fills the port and lowers its in-flight counter. -/
def execLoadDataReturn (group seq : Nat) (s : State) : Host.Outcome State Fault Refusal := .next (memoryReturns s group seq .load)

/-- SCALAR_LOAD_RETURN (R117). SLD or SLDQ data returns and is written to the s-register. -/
def execScalarLoadReturn (group seq : Nat) (s : State) : Host.Outcome State Fault Refusal := .next (memoryReturns s group seq .scalarLoad)

/-- STORE_ACCEPT (R208). A store, atomic or reducing store is accepted at its coherence point and lowers P1 or P2. -/
def execStoreAccept (group seq : Nat) (s : State) : Host.Outcome State Fault Refusal := .next (memoryReturns s group seq .store)

/-- PREFETCH_FILL (R222). A prefetch line is filled or dropped and P0 is lowered. -/
def execPrefetchFill (group seq : Nat) (s : State) : Host.Outcome State Fault Refusal := .next (memoryReturns s group seq .prefetch)

/-- LBLK_FILL_COMPLETE (R207). Every line of a load-block unit is filled; bfN is set and P4 lowered. -/
def execLblkFillComplete (core team flag : Nat) (s : State) : Host.Outcome State Fault Refusal := .next (fillBlock s core team flag)

/-- LBLK_LINE_INVALIDATE (R207). Another agent's write invalidates one line of a load-block unit. -/
def execLblkLineInvalidate (core team flag line : Nat) (s : State) : Host.Outcome State Fault Refusal :=
  .next (invalidateBlockLine s core team flag line)

/-- POLDER_RECALL (R204). The directory recalls a Polder line, writing back dirty data and invalidating it. -/
def execPolderRecall (core line : Nat) (exclusive : Bool) (s : State) : Host.Outcome State Fault Refusal := .next (recallLine s core line exclusive)

/-- SEAM_DELIVERY (R189). A queued send is delivered to the target slot once it is empty in every written lane. -/
def execSeamDelivery (group : Nat) (s : State) : Host.Outcome State Fault Refusal := .next (seamDelivers s group)

/-- HELD_SPLIT_TIMEOUT (R22). After 1,024 group bundles a held split's join is cleared and it continues alone. -/
def execHeldSplitTimeout (group split : Nat) (s : State) : Host.Outcome State Fault Refusal := .next (heldTimesOut s group split)

/-- SPLIT_STARVATION_PRESENT (R24). A split eligible but unpresented for 256 group bundles is presented next. -/
def execSplitStarvationPresent (group split : Nat) (s : State) : Host.Outcome State Fault Refusal := .next (splitStarves s group split)

/-- CONTEXT_STARVATION_PRIMARY (R46). A context ready for 64 cycles without issuing becomes primary. -/
def execContextStarvationPrimary (group : Nat) (s : State) : Host.Outcome State Fault Refusal := .next (contextStarves s group)

/-- YIELD_END (R49). Eight cycles after a Y=1 bundle the context may again be taken as primary. -/
def execYieldEnd (group : Nat) (s : State) : Host.Outcome State Fault Refusal := .next (yieldEnds s group)

/-- REGCLAIM_SERVED (R17). A waiting claim is served once the pool holds it; new registers read 0. -/
def execRegclaimServed (cluster : Nat) (s : State) : Host.Outcome State Fault Refusal := .next (serveClaim s cluster)

/-- SPAWN_QUEUE_ROOM (R133). A SPAWN waiting for a free queue entry appends its descriptor; one that waits for its bundle's accesses reads it
first (R219). -/
def execSpawnQueueRoom (group : Nat) (s : State) : Host.Outcome State Fault Refusal := .next (tryWait s group isSpawnRoom)

/-- SPAWN_EVENT_WAKE (R133). A 0b01 completion event of the spawned task ends a waiting SPAWN. -/
def execSpawnEventWake (group : Nat) (s : State) : Host.Outcome State Fault Refusal := .next (tryWait s group isSpawnEvent)

/-- PFLUSH_COMPLETE (R140). Every write-back of a PFLUSH is visible at system scope and the wait ends. -/
def execPflushComplete (group : Nat) (s : State) : Host.Outcome State Fault Refusal := .next (tryWait s group isPflush)

/-- OVERLAY_LOAD_COMPLETE (R139). An overlay load finishes, setting OVRES, or fails leaving it clear. -/
def execOverlayLoadComplete (core slot : Nat) (s : State) : Host.Outcome State Fault Refusal := .next (overlayStep s core slot)

/-- BARRIER_PHASE_COMPLETE (R129). A barrier phase completes and waiting BARWs return as team acquires. -/
def execBarrierPhaseComplete (team id : Nat) (s : State) : Host.Outcome State Fault Refusal := .next (barrierWakes s team id)

/-- DSYNC_COMPLETE (R19). Every domain member has issued DSYNC for the phase and all complete. -/
def execDsyncComplete (domain : Nat) (s : State) : Host.Outcome State Fault Refusal := .next (dsyncWakes s domain)

/-- FENCE_COMPLETE (R131). Earlier accesses are performed at the scope and later accesses may proceed. -/
def execFenceComplete (group seq : Nat) (s : State) : Host.Outcome State Fault Refusal := .next (fenceEnds s group seq)

/-- WAITC_COMPLETE (R132). The in-flight counter reaches the threshold and the wait ends. -/
def execWaitcComplete (group : Nat) (s : State) : Host.Outcome State Fault Refusal := .next (tryWait s group isWaitc)

/-- MXWAIT_COMPLETE (R132). The awaited batch completes; the wait returns as an acquire or after-traps on a reportable batch. -/
def execMxwaitComplete (group : Nat) (s : State) : Host.Outcome State Fault Refusal := .next (tryWait s group isMxwait)

/-- CPWAIT_COMPLETE (R239). CHDONE covers the identifier; the wait returns or after-traps on the first failed command. -/
def execCpwaitComplete (group : Nat) (s : State) : Host.Outcome State Fault Refusal := .next (tryWait s group isCpwait)

/-- MXTAKE_GRANT (R136). The freed token passes to the earliest waiting MXTAKE. -/
def execMxtakeGrant (team : Nat) (s : State) : Host.Outcome State Fault Refusal := .next (tryTeam s team isMxtake)

/-- STREAM_WRITE_WAIT_END (R264). Commands naming the stream have retired; the write takes effect or after-traps. -/
def execStreamWriteWaitEnd (group : Nat) (s : State) : Host.Outcome State Fault Refusal := .next (tryWait s group isStreamWrite)

/-- LINING_WRITE_WAIT_END (R288). Accepted commands have retired; the Lining write is rechecked and takes effect or after-traps. -/
def execLiningWriteWaitEnd (group : Nat) (s : State) : Host.Outcome State Fault Refusal := .next (tryWait s group isLiningWrite)

/-- PEER_ACKNOWLEDGE (R258). A peer acknowledges an access, which is then performed at system scope. -/
def execPeerAcknowledge (group seq : Nat) (s : State) : Host.Outcome State Fault Refusal := .next (peerAcknowledges s group seq)

end Sys2Proof.Machine
end

