-- ==== Sys2Proof/Machine/EngineOps.lean ====
section
/-!
DEFINITION. The meanings of the mx and cp operations (spec 15_memory_instructions, 19_tile_engine), each the issue of its bundle by the presented
split.
-/

namespace Sys2Proof.Machine

/-- MX_TMMA (R271). Submits a tile matrix product-accumulate. -/
def execMxTmma (src : Src) (s : State) : Host.Outcome State Fault Refusal := issue (triggerBundle (.mx .tmma) noGuard src) s

/-- MX_TOUT (R276). Submits bias, activation and requantisation of an accumulator into an output tile. -/
def execMxTout (src : Src) (s : State) : Host.Outcome State Fault Refusal := issue (triggerBundle (.mx .tout) noGuard src) s

/-- MX_TFILL (R272). Submits an accumulator fill from a stream tile. -/
def execMxTfill (src : Src) (s : State) : Host.Outcome State Fault Refusal := issue (triggerBundle (.mx .tfill) noGuard src) s

/-- MX_TABLE_LOAD (R278). TFILL with TBL set loads an activation table. -/
def execMxTableLoad (src : Src) (s : State) : Host.Outcome State Fault Refusal := issue (triggerBundle (.mx .tfill) noGuard src) s

/-- MX_TZERO (R273). Submits zeroing of an accumulator region. -/
def execMxTzero (src : Src) (s : State) : Host.Outcome State Fault Refusal := issue (triggerBundle (.mx .tzero) noGuard src) s

/-- MX_TEW_ADD (R274). Submits an elementwise add. -/
def execMxTewAdd (src : Src) (s : State) : Host.Outcome State Fault Refusal := issue (triggerBundle (.mx .tewadd) noGuard src) s

/-- MX_TEW_MUL (R274). Submits an elementwise multiply. -/
def execMxTewMul (src : Src) (s : State) : Host.Outcome State Fault Refusal := issue (triggerBundle (.mx .tewmul) noGuard src) s

/-- MX_TEW_SCALE (R274). Submits an elementwise scale. -/
def execMxTewScale (src : Src) (s : State) : Host.Outcome State Fault Refusal := issue (triggerBundle (.mx .tewscale) noGuard src) s

/-- MX_TRED_ROW (R275). Submits a row reduction. -/
def execMxTredRow (src : Src) (s : State) : Host.Outcome State Fault Refusal := issue (triggerBundle (.mx .tredrow) noGuard src) s

/-- MX_TRED_COL (R275). Submits a column reduction. -/
def execMxTredCol (src : Src) (s : State) : Host.Outcome State Fault Refusal := issue (triggerBundle (.mx .tredcol) noGuard src) s

/-- MX_TTRN (R273). Submits a transpose. -/
def execMxTtrn (src : Src) (s : State) : Host.Outcome State Fault Refusal := issue (triggerBundle (.mx .ttrn) noGuard src) s

/-- MX_MXFENCE (R281). Closes accepted commands into a numbered batch. -/
def execMxMxfence (src : Src) (s : State) : Host.Outcome State Fault Refusal := issue (triggerBundle (.mx .mxfence) noGuard src) s

/-- MX_QADV (R280). Advances a stream's HEAD or TAIL at issue. -/
def execMxQadv (src : Src) (s : State) : Host.Outcome State Fault Refusal := issue (triggerBundle (.mx .qadv) noGuard src) s

/-- CP_COPY1 (R236). Submits a 1-D copy to the block-transfer engine. -/
def execCpCopy1 (src : Src) (s : State) : Host.Outcome State Fault Refusal := issue (triggerBundle (.cp .copy1) noGuard src) s

/-- CP_COPY2 (R236). Submits a 2-D copy. -/
def execCpCopy2 (src : Src) (s : State) : Host.Outcome State Fault Refusal := issue (triggerBundle (.cp .copy2) noGuard src) s

/-- CP_COPYT (R236). Submits a tensor copy between shape records. -/
def execCpCopyt (src : Src) (s : State) : Host.Outcome State Fault Refusal := issue (triggerBundle (.cp .copyt) noGuard src) s

/-- CP_MCAST (R236). Submits a multicast copy. -/
def execCpMcast (src : Src) (s : State) : Host.Outcome State Fault Refusal := issue (triggerBundle (.cp .mcast) noGuard src) s

/-- CP_FILL (R236). Submits a fill with a 64-bit value. -/
def execCpFill (src : Src) (s : State) : Host.Outcome State Fault Refusal := issue (triggerBundle (.cp .fill) noGuard src) s

/-- CP_COLL (R236). Submits a collective descriptor to the collective engine. -/
def execCpColl (src : Src) (s : State) : Host.Outcome State Fault Refusal := issue (triggerBundle (.cp .coll) noGuard src) s

/-- CP_OVL (R236). Submits an overlay load into a slot. -/
def execCpOvl (src : Src) (s : State) : Host.Outcome State Fault Refusal := issue (triggerBundle (.cp .ovl) noGuard src) s

end Sys2Proof.Machine
end

