-- ==== Sys2Proof/Machine/Links.lean ====
section
/-!
DEFINITION. Flisia ports and inbound peer accesses (R340, R363, R364): receiving, acknowledging and replaying flits, ports going down and
coming up. The CRC's start value and orders, the layout of payloads and the port a response takes are open (log 18).
-/

namespace Sys2Proof.Machine

/-! ## Flits (R364) -/

/-- The header word of a flit. -/
def flitHead (f : List Byte) : Nat := leVal (f.take 8)

/-- TYPE. -/
def flitType (f : List Byte) : Nat := bits (flitHead f) 0 4

/-- SEQ. -/
def flitSeq (f : List Byte) : Nat := bits (flitHead f) 4 12

/-- ACKSEQ. -/
def flitAck (f : List Byte) : Nat := bits (flitHead f) 16 12

/-- NAK. -/
def flitNak (f : List Byte) : Bool := bits (flitHead f) 28 1 = 1

/-- A flit that is discarded: a bad CRC, a reserved field that is not zero, or a reserved TYPE. -/
def flitBad (f : List Byte) : Bool :=
  decide (leVal (f.drop 248) ≠ (flitCrc (f.take 248)).toNat ∨ bits (flitHead f) 29 35 ≠ 0 ∨ flitType f > 4)

/-- How far a sequence number lies behind another, modulo 4,096. -/
def seqBehind (a b : Nat) : Nat := (b + 4096 - a) % 4096

/-- The flits of a replay buffer still unacknowledged once ACKSEQ has come. -/
def unacked (buf : List (Nat × List Byte)) (ack : Nat) : List (Nat × List Byte) :=
  buf.filter fun e => decide (seqBehind e.1 ack ≥ 2048)

/-- What a flit's ACKSEQ and NAK tell the sender; flits that waited for room in the replay buffer go out. -/
def noteAck (s : State) (p : Nat) (f : List Byte) : State :=
  let x := portOf s p
  let buf := unacked x.buffer (flitAck f)
  let moved := decide (buf.length < x.buffer.length)
  pumpPort x.waiting.length (setPort s p { x with
    buffer := buf, replayReq := x.replayReq || flitNak f, replays := if moved then 0 else x.replays
    ackSince := if moved then s.gtime else x.ackSince }) p

/-- FLIT_RECEIVE: a flit is checked; a numbered one is taken in its order and acknowledged, a repeated one acknowledged again, and a gap
answered with NAK. -/
def flitReceives (s : State) (p : Nat) (f : List Byte) : State :=
  if !(portOf s p).up || decide (f.length ≠ 256) then s
  else if flitBad f then sendAck s p true
  else
    let s := noteAck s p f
    let x := portOf s p
    if flitType f = 0 ∨ flitType f = 4 then s
    else if flitSeq f = (x.rxSeq + 1) % 4096 then sendAck (setPort s p { x with rxSeq := flitSeq f }) p false
    else if seqBehind (flitSeq f) x.rxSeq < 2048 then sendAck s p false
    else sendAck s p true

/-- FLIT_REPLAY: after a NAK every flit of the buffer goes out again, oldest first. -/
def flitReplays (s : State) (p : Nat) : State :=
  let x := portOf s p
  if x.up && x.replayReq then
    { setPort s p { x with replayReq := false, replays := x.replays + 1 } with
      flitsOut := s.flitsOut ++ x.buffer.map fun e => (p, e.2) }
  else s

/-! ## Ports going down and up (R364, R371) -/

/-- Whether a cause of going down holds: 8 replays of one flit, or 1 ms without an acknowledgement. Loss of lock is the line's own. -/
def downCause (s : State) (p : Nat) (c : PortDownCause) : Bool :=
  let x := portOf s p
  match c with
  | .replays => decide (x.replays ≥ 8)
  | .lossOfLock => true
  | .ackTimeout => !x.buffer.isEmpty && decide (x.ackSince + 1000000 ≤ s.gtime)

/-- The times a port went down within 3,600 x 10^9 ticks, this one among them. -/
def downTimes (s : State) (p : Nat) : List Nat :=
  ((portOf s p).downs.filter fun t => decide (s.gtime < t + 3600000000000)) ++ [s.gtime]

/-- PORT_DOWN: collective calls re-form (R367), and the port retrains at once, or is retired at its fourth time. -/
def portDowns (s : State) (p : Nat) (c : PortDownCause) : State :=
  let x := portOf s p
  if !x.up || !downCause s p c then s
  else
    let ts := downTimes s p
    let gone := decide (ts.length ≥ 4)
    let s := collReform (setEvent (setPort s p { x with up := false, downs := ts, retired := gone, replays := 0, replayReq := false }) 0 7)
    if !gone then s
    else
      let s := setEvent { s with retlnk := s.retlnk + 1 } 0 4
      if s.retlnk > 2 then raiseReplace s else s

/-- PORT_UP: a trained port comes up on all its lanes, and flits not acknowledged go out again. -/
def portUps (s : State) (p : Nat) : State :=
  let x := portOf s p
  if x.up || x.retired || decide (p ≥ 12) || !s.devReady then s
  else
    setEvent (setPort s p { x with up := true, txWidth := 8, rxWidth := 8, replayReq := !x.buffer.isEmpty, ackSince := s.gtime }) 0 7

/-! ## Inbound accesses (R363) -/

/-- Whether some window of the PF serves a sender. -/
def peerServed (s : State) (sender : Nat) : Bool :=
  (List.range 16).any fun w =>
    let x := (tgetD (funcOf s 0).pwin w 0).toNat
    decide (bits x 63 1 = 1 ∧ bits x 39 12 = sender)

/-- What a served access does to device memory: lines that hold the bytes are recalled (R204, R207). A store's poison comes with it, an atomic
on poisoned bytes leaves them poisoned, as does one whose own data is, and other rewritten granules lose their poison (R369). -/
def peerEffect (s : State) (a : PeerAccess) : State :=
  match a.kind with
  | .load => (placeGet s noCore 0 .dev a.addr a.size).2.2
  | .store => placePut s noCore 0 .dev a.addr (a.data.take a.size) a.poison
  | .atomic op cmp =>
    let (b, p, s) := placeGet s noCore 0 .dev a.addr 4
    let w := atomicNew op (BitVec.ofNat 32 (leVal b)) (BitVec.ofNat 32 (leVal a.data)) cmp
    placePut s noCore 0 .dev a.addr (leBytes 4 w.toNat) (p || a.poison)

/-- PEER_INBOUND_ACCESS: served where a window of the PF names the sender, else refused; either way a response goes out on a port that is
up, which one is not predictable. The peer aperture is no device memory: an access to it is refused. -/
def peerArrives (s : State) (a : PeerAccess) : State :=
  match upPorts s with
  | [] => s
  | ps =>
    if s.modid = 0 then s
    else
      let p := ps.getD (Config.freeNat s.free % ps.length) 0
      let s := { s with free := s.free + 1 }
      sendFlit (if peerServed s a.sender.toNat && decide (bits a.addr 44 4 ≠ 0xF) then peerEffect s a else s) p 2

end Sys2Proof.Machine
end

