-- ==== Sys2Proof/Machine/Registers.lean ====
section
/-!
DEFINITION. What the host reads in a function's register block (R354-R362, R374), and the merging of 4-byte writes (R354).
-/

namespace Sys2Proof.Machine

/-! ## Words -/

/-- DEVSTAT (R355). -/
def devstatWord (s : State) : Nat :=
  s.retcl % 2 ^ 11 * 2 ^ 21 + s.retlnk % 2 ^ 4 * 2 ^ 17 + s.alarm % 4 * 2 ^ 15 + (if s.keyLost then 2 ^ 14 else 0) +
    (if s.replace then 2 ^ 13 else 0) + if s.devReady then 1 else 0

/-- TERRLOG (R355). -/
def terrlogWord (x : Func) : Nat := x.errCount * 2 ^ 17 + (if x.errSpawn then 2 ^ 16 else 0) + x.errQueue * 2 ^ 8 + x.errCode

/-- FQCTL (R358). -/
def fqctlWord (x : Func) : Nat := x.fqHead * 2 ^ 48 + x.fqTail * 2 ^ 32 + x.fqVec * 2 ^ 4 + x.fqLog2n

/-- MBOXCMD (R374). -/
def mboxWord (x : Func) : Nat := x.mboxStatus * 2 ^ 16 + if x.mboxCmd.isSome then 2 ^ 8 else 0

/-- A word of fields of `n` bits each from a table. -/
def fieldsWord (t : Table Nat) (n k : Nat) : Nat := ((List.range k).map fun i => tgetD t i 0 % 2 ^ n * 2 ^ (n * i)).sum

/-- LINKCFG (R362). -/
def linkcfgWord (s : State) : Nat := s.modid * 2 ^ 52 + fieldsWord s.minw 2 12

/-- PARTMAP (R361). -/
def partmapWord (s : State) : Nat := fieldsWord s.partmap 4 8

/-- FPART (R361). -/
def fpartWord (s : State) : Nat := fieldsWord s.fpart 3 17

/-- PARTCTL (R361). -/
def partctlWord (s : State) : Nat := s.secure.toNat * 2 ^ 16 + s.hold.toNat * 2 ^ 8 + s.preempting.toNat

/-- RASCNT (R362). -/
def rascntWord (s : State) : Nat := s.rasCe * 2 ^ 32 + s.rasUe * 2 ^ 16 + s.rasRes

/-- QCTL (R359). -/
def qctlWord (x : HostQueue) : Nat := x.qasid * 2 ^ 32 + (if x.en then 2 ^ 7 else 0) + x.log2n

/-- QSTAT (R359). -/
def qstatWord (x : HostQueue) : Nat :=
  (if x.badtail then 2 ^ 49 else 0) + (if x.notifyro then 2 ^ 48 else 0) + x.rlxcnt * 2 ^ 32 + x.head

/-- The 8 QOWN bytes from queue `8i` on (R354). -/
def qownWord (s : State) (i : Nat) : Nat := ((List.range 8).map fun j => ownerOf s (8 * i + j) * 2 ^ (8 * j)).sum

/-! ## Reads (R354) -/

/-- A register of every function. -/
def funcRead (s : State) (f off : Nat) : Nat :=
  let x := funcOf s f
  if off = 0x000 then devstatWord s
  else if off = 0x008 then x.event.toNat
  else if off = 0x010 then x.evvec
  else if off = 0x018 then terrlogWord x
  else if off = 0x020 then x.rootAddr + x.rootLog2n
  else if off = 0x028 then x.invaddr
  else if off = 0x030 then (if x.inval.isSome then 2 ^ 63 else 0)
  else if off = 0x038 then x.fqbase * 4096
  else if off = 0x040 then fqctlWord x
  else if off = 0x050 then x.mboxAddr
  else if off = 0x058 then mboxWord x
  else if off = 0x060 then x.ovdef.toNat
  else if 0x080 ≤ off ∧ off < 0x100 then (tgetD x.pwin ((off - 0x080) / 8) 0).toNat
  else 0

/-- A register of the PF alone. -/
def pfRead (s : State) (off : Nat) : Nat :=
  if off = 0x100 then s.pcap
  else if off < 0x148 then tgetD s.pfloor ((off - 0x108) / 8) 0
  else if off = 0x148 then s.didtDn
  else if off = 0x150 then linkcfgWord s
  else if off = 0x158 then partmapWord s
  else if off = 0x160 then fpartWord s
  else if off = 0x168 then partctlWord s
  else if off = 0x170 then s.svAddr
  else if off = 0x178 then rascntWord s
  else if 0x200 ≤ off then qownWord s ((off - 0x200) / 8)
  else 0

/-- A queue register, reached from the owner alone. -/
def queueRead (s : State) (f off : Nat) : Nat :=
  let q := (off - 0x1000) / 32
  let x := queueOf s q
  if ownerOf s q ≠ f then 0
  else match (off - 0x1000) % 32 / 8 with
    | 0 => x.base
    | 1 => qctlWord x
    | 2 => x.tail
    | _ => qstatWord x

/-- A register of the block, by an offset that is a multiple of 8. -/
def regRead (s : State) (f off : Nat) : Nat :=
  if !s.devReady ∧ off ≠ 0 then 0
  else if off < 0x100 then funcRead s f off
  else if off < 0x300 then (if f = 0 then pfRead s off else 0)
  else if 0x1000 ≤ off ∧ off < 0x3000 then queueRead s f off
  else 0

/-- What a read of some bytes of the block gives: the register or one half of it; none for Unsupported Request, the end of every access
that is not of 4 or 8 bytes naturally aligned. -/
def hostRead (s : State) (f off size : Nat) : Option Nat :=
  if 0x10000 ≤ off then none
  else if size = 8 ∧ off % 8 = 0 then some (regRead s f off)
  else if size = 4 ∧ off % 4 = 0 then some (bits (regRead s f (off / 8 * 8)) (8 * (off % 8)) 32)
  else none

/-! ## Writes of part of a register (R354) -/

/-- The register's value after a write of part of it. -/
def mergeWrite (old : Nat) (part : WPart) (v : DWord) : Nat :=
  match part with
  | .whole => v.toNat
  | .low => bits old 32 32 * 2 ^ 32 + bits v.toNat 0 32
  | .high => bits v.toNat 0 32 * 2 ^ 32 + bits old 0 32

/-- The ones that a write puts on a register's bits, for W1C fields. -/
def onesWritten (part : WPart) (v : DWord) : Nat :=
  match part with
  | .whole => v.toNat
  | .low => bits v.toNat 0 32
  | .high => bits v.toNat 0 32 * 2 ^ 32

/-- Whether a write covers the half that holds a bit. -/
def coversBit (part : WPart) (bit : Nat) : Bool :=
  match part with
  | .whole => true
  | .low => decide (bit < 32)
  | .high => decide (32 ≤ bit)

end Sys2Proof.Machine
end

