-- ==== Sys2Proof/Machine/Security.lean ====
section
/-!
DEFINITION. Measurement, attestation, alarms, supervisor images, and resets (R362, R372-R376).
-/

namespace Sys2Proof.Machine

/-! ## The mailbox (R374) -/

/-- Fields of a partition register that a VF's report shows: those of its own partition, the others free (log 6). -/
def ownFields (free : Nat) (t : Table Nat) (n k : Nat) (own : Nat → Bool) : Nat :=
  ((List.range k).map fun i => (if own i then tgetD t i 0 else Config.freeNat (free + i)) % 2 ^ n * 2 ^ (n * i)).sum

/-- Bytes 312-343 of a function's report. -/
def reportState (s : State) (f : Nat) : List Byte :=
  if f = 0 then
    leBytes 8 (partmapWord s) ++ leBytes 8 (fpartWord s) ++ leBytes 8 s.secure.toNat ++ leBytes 8 (devstatWord s)
  else
    let p := partOfFunc s f
    leBytes 8 (ownFields s.free s.partmap 4 8 fun h => decide (tgetD s.partmap h 0 = p)) ++
    leBytes 8 (ownFields (s.free + 8) s.fpart 3 17 fun g => decide (tgetD s.fpart g 0 = p)) ++
    leBytes 8 (s.secure &&& (1#8 <<< p)).toNat ++ leBytes 8 (devstatWord s)

/-- Bytes 0-343 of a report, whose nonce is read from the function's buffer. -/
def reportBody (s : State) (f : Nat) : List Byte :=
  memRead s.hostMem (funcOf s f).mboxAddr 32 ++ ((List.range 8).flatMap fun i => digestBytes (measureOf s i)) ++
    leBytes 8 featvec.toNat ++ leBytes 8 mcrevWord.toNat ++ leBytes 8 numver.toNat ++ reportState s f

/-- The report with its signature of 7,856 bytes. -/
def reportBytes (s : State) (f : Nat) : List Byte :=
  let b := reportBody s f
  b ++ (List.range 7856).map (Config.signatureByte b)

/-- The alarm log: 16 bytes an alarm, as many as the buffer holds. -/
def alarmBytes (s : State) : List Byte :=
  (s.alarms.take 768).flatMap fun a => (List.range 16).map (Config.alarmByte a.sensor a.level a.time)

/-- A mailbox command accepted: BUSY until it ends. -/
def mailboxStart (s : State) (f cmd : Nat) : State :=
  let x := funcOf s f
  if x.mboxCmd.isSome then setEvent s f 10 else setFunc s f { x with mboxCmd := some cmd }

/-- STATUS written and BUSY cleared. -/
def mailboxStatus (s : State) (f status : Nat) : State := setFunc s f { funcOf s f with mboxCmd := none, mboxStatus := status }

/-- MAILBOX_COMMAND_END. -/
def mailboxEnds (s : State) (f : Nat) : State :=
  let x := funcOf s f
  let out (s : State) (b : List Byte) : State := mailboxStatus (spaceWrite s noCore f .host (x.mboxAddr + 0x1000) b false) f 0
  match x.mboxCmd with
  | none => s
  | some 1 =>
    if s.attKey && !s.keyLost then
      let s := recallRange s .host (0, x.mboxAddr) 32 false
      { out s (reportBytes s f) with free := s.free + 25 }
    else mailboxStatus s f 1
  | some 2 => out s (alarmBytes s)
  | some _ => mailboxStatus s f 2

/-! ## Alarms (R375) -/

/-- A sensor's number, which the spec does not give, its order in R375 (log 6), and its level. -/
def sensorLevel : Sensor → Nat × Nat
  | .temperature => (0, 1)
  | .voltageGlitch => (1, 2)
  | .clockGlitch => (2, 2)
  | .mesh => (3, 3)
  | .debugUnlock => (4, 3)

/-- TAMPER_ALARM. -/
def alarmRaised (s : State) (x : Sensor) : State :=
  let (n, level) := sensorLevel x
  let s := setEvent { s with alarm := max s.alarm level, alarms := s.alarms ++ [{ sensor := n, level := level, time := s.gtime }] } 0 6
  { s with attKey := s.attKey && decide (level < 2), keyLost := s.keyLost || decide (level = 3) }

/-! ## Supervisor images (R362) -/

/-- The cores of the module. -/
def allCores : List Nat := List.range 192

/-- A GO: each core's OVRES bit 7 clears, and the image is measured into M1. -/
def svloadStarts (s : State) (addr : Nat) : State :=
  let s := extendMeasure s 1 (devRead s addr slotBytes)
  let s := allCores.foldl (fun s k => let c := coreOf s k; setCore s k { c with ovres := c.ovres &&& 0x7F }) s
  { s with svload := some { addr := addr, cores := allCores } }

/-- The granules of slot 7 that an image at an address loads with an uncorrectable error (R369). -/
def imagePoison (s : State) (addr : Nat) : List Nat :=
  if s.memPoison.isEmpty then []
  else ((List.range (slotBytes / 32)).filter fun i => spacePoison s noCore 0 .dev (addr + 32 * i) 32).map fun i => supervisorPc / 32 + i

/-- SVLOAD_LOAD_END: a core holds the image in slot 7. -/
def svloadEnds (s : State) (core : Nat) : State :=
  match s.svload with
  | none => s
  | some x =>
    if x.cores.contains core then
      let c := coreOf s core
      let left := x.cores.filter fun k => decide (k ≠ core)
      let s := setCore s core { c with
        imem := memWrite c.imem supervisorPc (devRead s x.addr slotBytes), ovres := c.ovres ||| 0x80, supplied := false
        imemPoison := (c.imemPoison.filter fun g => decide (g < supervisorPc / 32)) ++ imagePoison s x.addr }
      { s with svload := if left.isEmpty then none else some { x with cores := left } }
    else s

/-! ## Module reset (R371, R376) -/

/-- What the retained history leaves of clusters: those retired. -/
def keepClusters (t : Table Cluster) : Table Cluster :=
  (t.filter fun e => e.2.retired).map fun e => (e.1, { ({} : Cluster) with retired := true })

/-- What it leaves of ports: those retired. -/
def keepPorts (t : Table Port) : Table Port := (t.filter fun e => e.2.retired).map fun e => (e.1, { ({} : Port) with retired := true })

/-- The module from the release of a reset on (R376): every register at its reset value, memories zero, the retirement history applied, the
idle floor as it will be measured, and bring-up to come; `gtime` starts at 0. What lies outside the module stays: the host's memory and
translations, the peers, and the messages, requests and flits that have left. -/
def resetModule (s : State) : State :=
  { State.reset with
    agenda := s.agenda, focus := s.focus, free := s.free + 1, nextId := s.nextId
    idle := Config.freeNat s.free % 2 ^ 11, devReady := false, bring := .train, measure := []
    hostMem := s.hostMem, hostPoison := s.hostPoison, tlps := s.tlps, hostPosted := s.hostPosted, peerMem := s.peerMem
    peerPoison := s.peerPoison, peerRefuses := s.peerRefuses, ats := s.ats, flitsOut := s.flitsOut
    clusters := keepClusters s.clusters, ports := keepPorts s.ports, retcl := s.retcl, retlnk := s.retlnk, replace := s.replace
    keyLost := s.keyLost, attKey := !s.keyLost, alarms := s.alarms }

/-- Whether the firmware image passes the ROM's two checks (R372): its signature, and its security version, which must not lie below the
fused counter (log 43). -/
def firmwarePasses : Bool := Config.firmwareSigned && decide (Config.fusedVersion ≤ Config.firmwareVersion)

/-- A step of bring-up (R376): training, the check and measurement of the firmware, where a failure ends bring-up for good (R372, R373), the
test of the memories, the supplied routine, measured, and DEVREADY. -/
def bringUpStep (s : State) : State :=
  match s.bring with
  | .train => { s with bring := .verify }
  | .verify =>
    if firmwarePasses then { s with bring := .test, measure := tset s.measure 0 Config.firmwareMeasure } else { s with bring := .failed }
  | .test => { s with bring := .load }
  | .load => { s with bring := .ready, measure := tset s.measure 1 Config.supervisorMeasure }
  | .ready => { s with bring := .done, devReady := true }
  | .done | .failed => s

/-- MODULE_RESET: a Conventional Reset; a Function Level Reset of the PF does the same, but before DEVREADY its configuration request receives
Retry Status and does nothing (R376). -/
def resetBy (s : State) : ResetCause → State
  | .conventional => resetModule s
  | .pfFlr => if s.devReady then resetModule s else s

/-! ## Function Level Reset of a VF (R376) -/

/-- The windows of a group with a limit of 0 where a test holds. -/
def zeroWindows (p : Window → Bool) (g : Group) : Group :=
  { g with w := g.w.map fun e => (e.1, if p e.2 then { e.2 with limit := 0 } else e.2) }

/-- Every TLB without the entries of a test. -/
def dropTlbs (s : State) (p : TlbEntry → Bool) : State :=
  { s with
    cores := s.cores.map fun e => (e.1, { e.2 with tlb := e.2.tlb.filter fun x => !p x })
    dies := s.dies.map fun e => (e.1, { e.2 with tlb := e.2.tlb.filter fun x => !p x }) }

/-- A team of a reset function ends with all its work: its groups, its engine commands, copies and overlay loads, and its locks. -/
def endTeam (s : State) (tid : Nat) : State :=
  let t := teamOf s tid
  let s := t.groups.foldl endGroup s
  let c := coreOf s t.core
  let mine := (c.copies.filter fun x => decide (x.team = tid)).map fun x => x.id
  let ids := mine ++ t.engine.map fun i => i.id
  let s := setCore s t.core { c with
    copies := c.copies.filter fun x => decide (x.team ≠ tid)
    loads := c.loads.filter fun l => match l.cmd with
      | some id => !mine.contains id
      | none => true
    locks := c.locks.filter fun l => !ids.contains l.owner }
  let s := if t.place = .offered then s else closeCore (releaseTeam s tid) t.core
  let x := taskOf s t.task
  dropTeam (setTask s t.task { x with live := x.live - 1 }) tid

/-- Teams of a function, offered ones included. -/
def funcTeams (s : State) (f : Nat) : List Nat := (s.teams.filter fun e => decide (e.2.func = f)).map Prod.fst

/-- The tasks of a function that have been dispatched and not ended. -/
def funcTasks (s : State) (f : Nat) : List Nat :=
  (s.tasks.filter fun e => decide (e.2.func = f ∧ e.2.stage = .dispatched)).map Prod.fst

/-- Page waits dropped with the requests they rest on, and overlay loads that had still to wait. -/
def dropWaits (s : State) (f : Nat) : State :=
  { s with
    tasks := s.tasks.map fun e => if e.2.func = f then (e.1, { e.2 with waits := [] }) else e
    queues := s.queues.map fun e => if ownerOf s e.1 = f then (e.1, { e.2 with waits := [] }) else e
    cores := s.cores.map fun e => (e.1, { e.2 with loads := e.2.loads.filter fun l => decide (l.func ≠ f) || l.waits.isEmpty }) }

/-- The queues of a function at their reset values; tasks already read stay. -/
def dropQueues (s : State) (f : Nat) : State :=
  { s with queues := s.queues.map fun e => if ownerOf s e.1 = f then (e.1, { ({} : HostQueue) with tasks := e.2.tasks }) else e }

/-- Record writes of a reset function that still wait for pages, whose requests are dropped, are dropped (R28). -/
def dropRecords (s : State) (f : Nat) : State :=
  (s.tasks.filter fun e => decide (e.2.func = f ∧ e.2.pendingWrites ≠ [])).foldl (fun s e => pumpRecord 2 (dropRecord s e.1) e.1) s

/-- A task whose discarded steps are not launched again. -/
def endSteps (s : State) (t : Nat) : State := setTask s t { taskOf s t with redo := [] }

/-- VF_FLR: its teams end and their tasks fail with 0x0B, its page requests go, its address spaces are invalidated, and its registers are
at reset; before DEVREADY its configuration request receives Retry Status and does nothing. -/
def flrVf (s : State) (f : Nat) : State :=
  if f = 0 ∨ f > 16 ∨ !s.devReady then s
  else
    let tasks := funcTasks s f
    let s := (funcTeams s f).foldl endTeam s
    let s := tasks.foldl (fun s t => finishTask (levelEvents (endSteps (failTask s t 0x0B) t) t) t) s
    let s := dropTlbs (dropWaits (dropRecords s f) f) fun x => decide (x.func = f)
    setFunc (dropQueues s f) f {}

end Sys2Proof.Machine
end

