-- ==== Sys2Proof/Machine/Host.lean ====
section
/-!
DEFINITION. What the host does to the module: writes of the register block, page responses, invalidations and posted writes (R200, R214,
R258, R259, R354-R362).
-/

namespace Sys2Proof.Machine

/-! ## Writes that are dropped (R354) -/

/-- A dropped write: FEVENT.BADREG of its function, and nothing else. -/
def dropWrite (s : State) (f : Nat) : State := setEvent s f 10

/-- A write's effect, where the function exists and bring-up is complete. -/
def hostWrite (s : State) (f : Nat) (go : State) : State := if s.devReady && decide (f ≤ 16) then go else s

/-- A write of a register that only the PF has. -/
def pfWrite (s : State) (f : Nat) (go : State) : State := hostWrite s f (if f = 0 then go else dropWrite s f)

/-! ## Page responses (R214, R238, R315, R358, R377) -/

/-- Waits without a tag. -/
def lessTag (ws : List PageWait) (tag : Nat) : List PageWait := ws.filter fun w => decide (w.tag ≠ tag)

/-- A response reaches a group: the missing page goes, and a failed one leaves the traps of its accesses. -/
def answerGroup (s : State) (gid tag va : Nat) (host ok : Bool) : State :=
  let g := groupOf s gid
  match g.pageFault with
  | none => s
  | some x =>
    let bad := if ok then [] else (x.accesses.filter fun a => decide (a.1 = missPage host va)).map Prod.snd
    setGroup s gid { g with pageFault := some { x with waits := lessTag x.waits tag, failed := x.failed ++ bad } }

/-- A response reaches a team's engine command, which a failed one denies. -/
def answerEngine (s : State) (tid tag va : Nat) (ok : Bool) : State :=
  let t := teamOf s tid
  match engineHead t with
  | none => s
  | some i =>
    let word := accessWord va (Config.accessLsz va).val 7 false true
    setTeam s tid (setEngineHead t { i with
      waits := lessTag i.waits tag, denied := if ok then i.denied else i.denied.orElse fun _ => some word })

/-- A response reaches a team's batch that prepares its status record; a failed one leaves the record unwritten and FAULT set (R286, R377;
DEDUCED, log 45). -/
def answerBatch (s : State) (tid tag va : Nat) (ok : Bool) : State :=
  let t := teamOf s tid
  match t.batches with
  | [] => s
  | b :: r =>
    let word := accessWord va (Config.accessLsz va).val 7 false true
    setTeam s tid { t with batches := { b with
      waits := lessTag b.waits tag, failed := b.failed || !ok
      fault := if ok then b.fault else b.fault.orElse fun _ => some word } :: r }

/-- PEND of a stopped command's channel clears once its responses have all succeeded (R238). -/
def pendClears (s : State) (x : CopyCmd) (waits : List PageWait) (failed : Bool) : State :=
  if waits.isEmpty && !failed then setProg s x (tgetD (teamOf s x.team).channels x.channel {}).prog false else s

/-- A response reaches a copy command. -/
def answerCopy (s : State) (core id tag : Nat) (ok : Bool) : State :=
  match findCmd (coreOf s core) id with
  | none => s
  | some x =>
    let y := { x with waits := lessTag x.waits tag, failed := x.failed || !ok }
    pendClears (setCmd s core y) y y.waits y.failed

/-- A response reaches an overlay load, and the ovl command that it belongs to. -/
def answerOverlay (s : State) (core id tag : Nat) (ok : Bool) : State :=
  let c := coreOf s core
  let answer (l : OvLoad) : OvLoad := { l with waits := lessTag l.waits tag, failed := l.failed || !ok }
  let s := setCore s core { c with loads := c.loads.map fun l => if l.id = id then answer l else l }
  match (c.loads.find? fun l => decide (l.id = id)).map answer with
  | none => s
  | some l => match l.cmd.bind (findCmd c) with
    | none => s
    | some x => pendClears s x l.waits l.failed

/-- A response reaches a dispatcher: the head task, or the entry being read, goes on, or fails with 0x06. -/
def answerQueue (s : State) (r : QueueRef) (tag : Nat) (ok : Bool) : State :=
  match queueTasks s r with
  | t :: _ => let x := taskOf s t; setTask s t { x with waits := lessTag x.waits tag, failedPage := x.failedPage || !ok }
  | [] =>
    match r with
    | .hw _ _ => s
    | .host q =>
      let x := queueOf s q
      if x.waits.all fun w => decide (w.tag ≠ tag) then s
      else if ok then setQueue s q { x with waits := lessTag x.waits tag }
      else enterEntry s q [] true

/-- A response reaches a completion record's writer: the writes go on, or are dropped; a task that failed with its REMAIN write ends
(R28, R33). -/
def answerRecord (s : State) (t tag : Nat) (ok : Bool) : State :=
  let s := if ok then setTask s t { taskOf s t with waits := lessTag (taskOf s t).waits tag } else dropRecord s t
  let s := pumpRecord ((taskOf s t).pendingWrites.length + 2) s t
  if (taskOf s t).stage = .dispatched ∧ (taskOf s t).error.isSome then afterRetire s t else s

/-- A response reaches a requester. -/
def answer (s : State) (tag va : Nat) (host ok : Bool) : Requester → State
  | .group gid => answerGroup s gid tag va host ok
  | .engine tid => answerEngine s tid tag va ok
  | .copy core id => answerCopy s core id tag ok
  | .overlay core id => answerOverlay s core id tag ok
  | .queue q => answerQueue s q tag ok
  | .record t => answerRecord s t tag ok
  | .batch tid => answerBatch s tid tag va ok

/-- The outstanding request of a function with a tag, of one of the two kinds. -/
def findReq (s : State) (f tag : Nat) (host : Bool) : Option PageReq :=
  (funcOf s f).reqs.find? fun r => decide (r.tag = tag ∧ r.host = host)

/-- A response to a request: it is outstanding no longer, and each requester is answered. -/
def respond (s : State) (f tag : Nat) (host ok : Bool) : Option State :=
  (findReq s f tag host).map fun r =>
    let x := funcOf s f
    let s := setFunc s f { x with reqs := x.reqs.filter fun q => decide (q.tag ≠ tag) }
    r.who.foldl (fun s w => answer s tag r.va host ok w) s

/-- A write of FQRESP (R358): a response that no request awaits is dropped. -/
def fqResponse (s : State) (f : Nat) (tag : BitVec 16) (ok : Bool) : State :=
  hostWrite s f ((respond s f tag.toNat false ok).getD (dropWrite s f))

/-- PRI_RESPONSE. -/
def priAnswers (s : State) (f : Nat) (tag : BitVec 16) (ok : Bool) : State := (respond s f tag.toNat true ok).getD s

/-! ## Invalidation (R200, R357) -/

/-- A write of INVCMD. -/
def startInval (s : State) (f kind asid : Nat) : State :=
  hostWrite s f (
    let x := funcOf s f
    if x.inval.isSome then dropWrite s f else setFunc s f { x with inval := some { kind := kind, asid := asid, page := x.invaddr } })

/-- ATS_INVALIDATE_REQUEST: the host withdraws its translation of a page. -/
def atsWithdrawn (s : State) (f asid va : Nat) : State :=
  let p := va / 4096
  let s := { s with ats := s.ats.filter fun e => ¬ (e.func = f ∧ e.asid = asid ∧ e.page = p) }
  let x := funcOf s f
  setFunc s f { x with atsInval := x.atsInval ++ [{ kind := 3, asid := asid, page := 4096 * p }] }

/-- Whether an invalidation covers the translation of a virtual address in an address space through a frame. -/
def invalCovers (i : Inval) (asid va : Nat) (fr : Frame) : Bool :=
  match i.kind with
  | 0 => decide (asid = i.asid ∧ va / fr.span = i.page / fr.span)
  | 1 => decide (asid = i.asid)
  | 2 => true
  | _ => decide (asid = i.asid ∧ fr.space = .host ∧ va / 4096 = i.page / 4096)

/-- Whether an access not yet performed may use a mapping that an invalidation removes; a page is at most 1 GiB. -/
def invalMayCover (i : Inval) (asid va : Nat) : Bool :=
  match i.kind with
  | 0 => decide (asid = i.asid ∧ va / 2 ^ 30 = i.page / 2 ^ 30)
  | 1 => decide (asid = i.asid)
  | 2 => true
  | _ => decide (asid = i.asid ∧ va / 4096 = i.page / 4096)

/-- Whether a group has an access outstanding that an invalidation waits for; a load dropped at a switch-out counts only while it may not yet
be performed again. -/
def invalBlocks (s : State) (f : Nat) (i : Inval) (gid : Nat) (g : Group) : Bool :=
  let t := teamOf s g.team
  let uses (e : Elem) : Bool := decide (e.space ≠ .spad) && invalMayCover i t.asid e.va
  decide (t.func = f) && ((g.ops.any fun o => (!o.replay || !opReady s gid o) && (opElems o).any uses) || match g.wait with
    | some (.spawnRead _ _ _ _ _ e) => uses e
    | _ => false)

/-- Whether every access translated through the old mapping has been performed. -/
def invalReady (s : State) (f : Nat) (i : Inval) : Bool := s.groups.all fun e => !invalBlocks s f i e.1 e.2

/-- Loads dropped at a switch-out that use a removed mapping are performed before it goes (R200, R318). -/
def invalReplays (s : State) (f : Nat) (i : Inval) : State :=
  s.groups.foldl (fun s e =>
    let t := teamOf s e.2.team
    if t.func = f ∧ (e.2.ops.any fun o => o.replay && (opElems o).any fun x => invalMayCover i t.asid x.va) then replayOps s e.1
    else s) s

/-- The TLB entries and window limits that an invalidation removes (R200). -/
def invalRemoves (s : State) (f : Nat) (i : Inval) : State :=
  let s := invalReplays s f i
  let s := dropTlbs s fun x => decide (x.func = f) && invalCovers i x.asid x.page x.frame
  { s with groups := s.groups.map fun e =>
      let t := teamOf s e.2.team
      (e.1, if t.func = f then zeroWindows (fun w => invalCovers i t.asid w.base w.frame) e.2 else e.2) }

/-- An ATS request served, where it can be. -/
def serveAts (s : State) (f : Nat) (i : Inval) : State :=
  if invalReady s f i then
    let s := invalRemoves s f i
    let x := funcOf s f
    setFunc s f { x with atsInval := x.atsInval.filter fun j => decide (j ≠ i) }
  else s

/-- INVALIDATION_END: ATS requests that can be completed are, then the host's invalidation: BUSY clears and INVDONE is set. -/
def invalEnds (s : State) (f : Nat) : State :=
  let s := (funcOf s f).atsInval.foldl (fun s i => serveAts s f i) s
  match (funcOf s f).inval with
  | none => s
  | some i =>
    if invalReady s f i then
      let s := invalRemoves s f i
      setEvent (setFunc s f { funcOf s f with inval := none }) f 9
    else s

/-! ## Posted writes of the host (R258, R259) -/

/-- A posted write leaves the host. -/
def hostPosts (s : State) (f a : Nat) (b : List Byte) : State := { s with hostPosted := s.hostPosted ++ [(f, a, b)] }

/-- A write of the host performed in its memory: the host is another agent, so Polder lines that hold the bytes are recalled (R204, R244). -/
def hostArrives (s : State) (p : Nat × Nat × List Byte) : State :=
  let s := recallRange s .host (0, p.2.1) p.2.2.length true
  { s with hostMem := memWrite s.hostMem p.2.1 p.2.2, hostPoison := poisonAfter s.hostPoison p.2.1 p.2.2.length false }

/-- Posted writes performed. -/
def performPosted (s : State) (ps : List (Nat × Nat × List Byte)) : State := ps.foldl hostArrives s

/-- One posted write arrives, which one is not predictable. -/
def hostPerforms (s : State) : State :=
  if s.hostPosted = [] then s
  else
    let (n, s) := drawNat s
    let k := n % s.hostPosted.length
    { performPosted s ((s.hostPosted.drop k).take 1) with hostPosted := s.hostPosted.eraseIdx k }

/-- Every posted write of a requester arrives (R259). -/
def postedArrive (s : State) (f : Nat) : State :=
  { performPosted s (s.hostPosted.filter fun p => decide (p.1 = f)) with
    hostPosted := s.hostPosted.filter fun p => decide (p.1 ≠ f) }

/-! ## Host queues (R359, R360) -/

/-- A notify of tail `T` (R360). -/
def notify (s : State) (f q : Nat) (relaxed : Bool) (T : Nat) : State :=
  let x := queueOf s q
  let new := (T + 2 ^ 32 - x.head) % 2 ^ 32
  let old := (x.tail + 2 ^ 32 - x.head) % 2 ^ 32
  if !x.en ∨ new > 2 ^ x.log2n ∨ new < old then setEvent (setQueue s q { x with badtail := true }) f 3
  else if relaxed then
    setEvent (setQueue s q { x with tail := T, notifyro := true, rlxcnt := min (x.rlxcnt + 1) (2 ^ 16 - 1) }) f 2
  else setQueue (postedArrive s f) q { x with tail := T }

/-- Whether a function reaches the registers of a queue (R354). -/
def reachesQueue (s : State) (f q : Nat) : Bool := decide (q < 256 ∧ ownerOf s q = f)

/-- QTAIL_NOTIFY. -/
def tailWrite (s : State) (f q : Nat) (part : WPart) (relaxed : Bool) (v : DWord) : State :=
  hostWrite s f (
    if !reachesQueue s f q then dropWrite s f
    else match part with
      | .high => dropWrite s f
      | .low => notify s f q relaxed (bits v.toNat 0 32)
      | .whole => if bits v.toNat 32 32 ≠ 0 then dropWrite s f else notify s f q relaxed (bits v.toNat 0 32))

/-- A QCTL write that is dropped (R359): a reserved bit or a LOG2N it may not hold; while EN = 1, anything but clearing EN. -/
def qctlDropped (x : HostQueue) (part : WPart) (n : Nat) : Bool :=
  decide (bits n 52 12 ≠ 0 ∨ bits n 8 24 ≠ 0 ∨ bits n 5 2 ≠ 0) ||
  (coversBit part 0 && decide (bits n 0 5 < 4 ∨ bits n 0 5 > 16)) ||
  (x.en && decide (n ≠ qctlWord { x with en := false }))

/-- A QBASE write that is dropped (R359). -/
def qbaseDropped (x : HostQueue) (n : Nat) : Bool := x.en || decide (bits n 52 12 ≠ 0 ∨ bits n 0 6 ≠ 0)

/-- QUEUE_CONFIG_WRITE. -/
def queueWrite (s : State) (f q : Nat) (ctl : Bool) (part : WPart) (v : DWord) : State :=
  hostWrite s f (
    let x := queueOf s q
    if !reachesQueue s f q then dropWrite s f
    else if ctl then
      let n := mergeWrite (qctlWord x) part v
      if qctlDropped x part n then dropWrite s f
      else setQueue s q { x with qasid := bits n 32 20, en := decide (bits n 7 1 = 1), log2n := bits n 0 5 }
    else
      let n := mergeWrite x.base part v
      if qbaseDropped x n then dropWrite s f else setQueue s q { x with base := n })

/-- A QSTAT write: W1C of BADTAIL and NOTIFYRO. -/
def qstatWrite (s : State) (q : Nat) (part : WPart) (v : DWord) : State :=
  let x := queueOf s q
  let n := onesWritten part v
  setQueue s q { x with badtail := x.badtail && decide (bits n 49 1 = 0), notifyro := x.notifyro && decide (bits n 48 1 = 0) }

/-- Whether a QOWN write is dropped: an owner from 17 to 0xFE, or a change for an enabled queue. -/
def qownDropped (s : State) (base n : Nat) : Bool :=
  (List.range 8).any fun j =>
    let v := bits n (8 * j) 8
    decide (17 ≤ v ∧ v ≤ 0xFE) || ((queueOf s (base + j)).en && decide (v ≠ ownerOf s (base + j)))

/-- QOWN_WRITE of the register at an offset. -/
def qownWrites (s : State) (f off : Nat) (part : WPart) (v : DWord) : State :=
  pfWrite s f (
    let base := off - 0x200
    if off < 0x200 ∨ 0x300 ≤ off ∨ off % 8 ≠ 0 then s
    else
      let n := mergeWrite (qownWord s (base / 8)) part v
      if qownDropped s base n then dropWrite s f
      else { s with qown := (List.range 8).foldl (fun t j => tset t (base + j) (bits n (8 * j) 8)) s.qown })

/-! ## The fault queue and the mailbox (R358, R374) -/

/-- FQCTL_WRITE: dropped whole for a bad size; requests that waited are written where there is room. -/
def fqctlWrites (s : State) (f : Nat) (part : WPart) (v : DWord) : State :=
  hostWrite s f (
    let x := funcOf s f
    let n := mergeWrite (fqctlWord x) part v
    if bits n 0 4 ≥ 12 then dropWrite s f
    else
      let x := { x with fqHead := bits n 48 16, fqVec := bits n 4 11, fqLog2n := bits n 0 4 }
      pumpFaults x.reqs.length (setFunc s f x) f)

/-- A write that acts only on 8 bytes. -/
def wholeOnly (s : State) (f : Nat) (part : WPart) (go : State) : State :=
  hostWrite s f (match part with
    | .whole => go
    | .low | .high => dropWrite s f)

/-- A write of INVCMD. -/
def invcmdWrite (s : State) (f : Nat) (part : WPart) (v : DWord) : State :=
  wholeOnly s f part (
    let k := bits v.toNat 20 2
    if k = 3 then dropWrite s f else startInval s f k (bits v.toNat 0 20))

/-- A write of FQRESP. -/
def fqrespWrite (s : State) (f : Nat) (part : WPart) (v : DWord) : State :=
  wholeOnly s f part (
    if bits v.toNat 48 16 ≠ 0 ∨ bits v.toNat 1 31 ≠ 0 then dropWrite s f
    else fqResponse s f (BitVec.ofNat 16 (bits v.toNat 32 16)) (decide (bits v.toNat 0 1 = 1)))

/-- A write of MBOXCMD. -/
def mboxWrite (s : State) (f cmd : Nat) : State := hostWrite s f (mailboxStart s f cmd)

/-! ## Module registers of the PF (R333, R334, R361, R362) -/

/-- PCAP_WRITE. -/
def pcapWrites (s : State) (f : Nat) (part : WPart) (v : DWord) : State :=
  pfWrite s f (recap s fun s => { s with pcap := bits (mergeWrite s.pcap part v) 0 11 })

/-- PFLOOR_WRITE. -/
def pfloorWrites (s : State) (f i : Nat) (part : WPart) (v : DWord) : State :=
  pfWrite s f (
    let t := tset s.pfloor i (bits (mergeWrite (tgetD s.pfloor i 0) part v) 0 11)
    if i > 7 ∨ floorSum { s with pfloor := t } > 1600 then dropWrite s f else recap s fun s => { s with pfloor := t })

/-- DIDT_DN_WRITE. -/
def didtWrites (s : State) (f : Nat) (part : WPart) (v : DWord) : State :=
  pfWrite s f (
    let n := bits (mergeWrite s.didtDn part v) 0 8
    if n = 0 then dropWrite s f else { s with didtDn := n })

/-- A port no narrower than its least width (R362). -/
def widenPort (s : State) (p : Nat) : State :=
  let x := portOf s p
  setPort s p { x with txWidth := max x.txWidth (leastWidth s p), rxWidth := max x.rxWidth (leastWidth s p) }

/-- LINKCFG_WRITE; a nonzero reserved bit drops the write (R8; DEDUCED, log 19). -/
def linkcfgWrites (s : State) (f : Nat) (part : WPart) (v : DWord) : State :=
  pfWrite s f (
    let n := mergeWrite (linkcfgWord s) part v
    if bits n 24 28 ≠ 0 then dropWrite s f
    else
      let s := { s with modid := bits n 52 12, minw := (List.range 12).foldl (fun t p => tset t p (bits n (2 * p) 2)) s.minw }
      (List.range 12).foldl widenPort s)

/-- Whether a half-die holds an admitted team. -/
def halfBusy (s : State) (h : Nat) : Bool :=
  s.teams.any fun e => decide (e.2.core / 24 = h ∧ e.2.place ≠ .offered ∧ e.2.place ≠ .retired)

/-- Whether a PARTMAP write is dropped: it moves a half-die that holds an admitted team, or names a reserved partition, or has a nonzero
reserved bit (R8; log 19). -/
def partmapDropped (s : State) (n : Nat) : Bool :=
  decide (bits n 32 32 ≠ 0) || (List.range 8).any fun h =>
    let v := bits n (4 * h) 4
    decide (8 ≤ v ∧ v ≤ 0xE) || (decide (v ≠ tgetD s.partmap h 0) && halfBusy s h)

/-- PARTMAP_WRITE; an accepted write is measured (R373). -/
def partmapWrites (s : State) (f : Nat) (part : WPart) (v : DWord) : State :=
  pfWrite s f (
    let n := mergeWrite (partmapWord s) part v
    if partmapDropped s n then dropWrite s f
    else extendMeasure { s with partmap := (List.range 8).foldl (fun t h => tset t h (bits n (4 * h) 4)) s.partmap } 2 (leBytes 8 n))

/-- Whether a function has a task queued or admitted: one read and not ended, or an entry that an owned queue has been notified of (R361;
DEDUCED, log 19). -/
def funcBusy (s : State) (f : Nat) : Bool :=
  (s.tasks.any fun e => decide (e.2.func = f ∧ e.2.stage ≠ .ended)) ||
    s.queues.any fun e => decide (ownerOf s e.1 = f ∧ e.2.tail ≠ e.2.head)

/-- FPART_WRITE; a nonzero reserved bit drops the write (R8; log 19). -/
def fpartWrites (s : State) (f : Nat) (part : WPart) (v : DWord) : State :=
  pfWrite s f (
    let n := mergeWrite (fpartWord s) part v
    if decide (bits n 51 13 ≠ 0) || (List.range 17).any fun k => decide (bits n (3 * k) 3 ≠ tgetD s.fpart k 0) && funcBusy s k then dropWrite s f
    else extendMeasure { s with fpart := (List.range 17).foldl (fun t k => tset t k (bits n (3 * k) 3)) s.fpart } 2 (leBytes 8 n))

/-- PARTCTL_WRITE: SECURE and HOLD are written, PREEMPT bits written 1 are raised, and the write is measured; a
nonzero reserved bit drops it (R8; log 19). -/
def partctlWrites (s : State) (f : Nat) (part : WPart) (v : DWord) : State :=
  pfWrite s f (
    let n := mergeWrite (partctlWord s) part v
    if bits n 24 40 ≠ 0 then dropWrite s f
    else if !coversBit part 0 then s
    else
      extendMeasure { s with
        secure := BitVec.ofNat 8 (bits n 16 8), hold := BitVec.ofNat 8 (bits n 8 8)
        preempting := s.preempting ||| BitVec.ofNat 8 (bits v.toNat 0 8) } 2 (leBytes 8 n))

/-- SVLOAD_GO: a write of SVLOAD, which loads where GO is 1 and no load is in progress; a nonzero reserved bit drops it (R8; log
19). -/
def svloadWrites (s : State) (f : Nat) (part : WPart) (v : DWord) : State :=
  pfWrite s f (
    match part with
    | .low | .high => dropWrite s f
    | .whole =>
      let a := bits v.toNat 16 32 * 2 ^ 16
      if bits v.toNat 48 16 ≠ 0 ∨ bits v.toNat 1 15 ≠ 0 then dropWrite s f
      else if bits v.toNat 0 1 = 0 then { s with svAddr := a }
      else if s.svload.isSome then dropWrite s f
      else svloadStarts { s with svAddr := a } a)

/-! ## REGISTER_WRITE (R354, R355) -/

/-- Whether a word has a nonzero reserved bit of a register that a write just fills, or a LOG2N that ROOTBASE does not have (R8; log 19). -/
def plainReserved (off n : Nat) : Bool :=
  if off = 0x020 then decide (bits n 48 16 ≠ 0 ∨ bits n 5 7 ≠ 0 ∨ bits n 0 5 > 20)
  else if off = 0x060 then decide (bits n 7 57 ≠ 0)
  else decide (0x080 ≤ off ∧ off < 0x100) && decide (bits n 51 12 ≠ 0 ∨ bits n 8 19 ≠ 0)

/-- Registers of the function that a write just fills. -/
def plainWrite (s : State) (f off : Nat) (part : WPart) (v : DWord) : State :=
  let x := funcOf s f
  let put (old : Nat) (g : Nat → Func) : State :=
    let n := mergeWrite old part v
    if plainReserved off n then dropWrite s f else setFunc s f (g n)
  if off = 0x008 then setFunc s f { x with event := x.event &&& ~~~(BitVec.ofNat 11 (onesWritten part v)) }
  else if off = 0x010 then put x.evvec fun n => { x with evvec := bits n 0 11 }
  else if off = 0x020 then put (x.rootAddr + x.rootLog2n) fun n => { x with rootAddr := bits n 12 36 * 2 ^ 12, rootLog2n := bits n 0 5 }
  else if off = 0x028 then put x.invaddr fun n => { x with invaddr := bits n 16 36 * 2 ^ 16 }
  else if off = 0x038 then put (x.fqbase * 4096) fun n => { x with fqbase := bits n 12 52 }
  else if off = 0x050 then put x.mboxAddr fun n => { x with mboxAddr := bits n 12 52 * 2 ^ 12 }
  else if off = 0x060 then put x.ovdef.toNat fun n => { x with ovdef := BitVec.ofNat 7 (bits n 0 7) }
  else if 0x080 ≤ off ∧ off < 0x100 then
    let w := (off - 0x080) / 8
    put (tgetD x.pwin w 0).toNat fun n =>
      { x with pwin := tset x.pwin w (BitVec.ofNat 64 (bits n 63 1 * 2 ^ 63 + bits n 27 24 * 2 ^ 27 + bits n 0 8)) }
  else if off = 0x000 ∨ off = 0x018 then s
  else dropWrite s f

/-- A write of a PF register by its offset. -/
def pfRegWrite (s : State) (f off : Nat) (part : WPart) (v : DWord) : State :=
  if off = 0x100 then pcapWrites s f part v
  else if 0x108 ≤ off ∧ off < 0x148 then pfloorWrites s f ((off - 0x108) / 8) part v
  else if off = 0x148 then didtWrites s f part v
  else if off = 0x150 then linkcfgWrites s f part v
  else if off = 0x158 then partmapWrites s f part v
  else if off = 0x160 then fpartWrites s f part v
  else if off = 0x168 then partctlWrites s f part v
  else if off = 0x170 then svloadWrites s f part v
  else if off = 0x178 then pfWrite s f s
  else if 0x200 ≤ off then qownWrites s f off part v
  else dropWrite s f

/-- A write of a queue register by its offset; a notify by this path carries no relaxed ordering. -/
def queueRegWrite (s : State) (f off : Nat) (part : WPart) (v : DWord) : State :=
  let q := (off - 0x1000) / 32
  match (off - 0x1000) % 32 / 8 with
  | 0 => queueWrite s f q false part v
  | 1 => queueWrite s f q true part v
  | 2 => tailWrite s f q part false v
  | _ => if reachesQueue s f q then qstatWrite s q part v else dropWrite s f

/-- REGISTER_WRITE of a register at an offset: an offset that is not a multiple of 8 names none (its access completes with Unsupported
Request), one outside the block neither. -/
def regWrite (s : State) (f off : Nat) (part : WPart) (v : DWord) : State :=
  if off % 8 ≠ 0 ∨ 0x10000 ≤ off then s
  else
    hostWrite s f (
      if off = 0x030 then invcmdWrite s f part v
      else if off = 0x040 then fqctlWrites s f part v
      else if off = 0x048 then fqrespWrite s f part v
      else if off = 0x058 then wholeOnly s f part (mboxWrite s f (bits v.toNat 0 8))
      else if off < 0x100 then plainWrite s f off part v
      else if off < 0x300 then pfRegWrite s f off part v
      else if 0x1000 ≤ off ∧ off < 0x3000 then queueRegWrite s f off part v
      else dropWrite s f)

end Sys2Proof.Machine
end

