-- ==== Sys2Proof/Machine/HostOps.lean ====
section
/-!
DEFINITION. The meanings of the events of the host: page responses, invalidations and register writes.
An event that its rules do not allow now leaves the state as it is (log 1).
-/

namespace Sys2Proof.Machine

/-- PAGE_RESPONSE_OK (R214). A successful FQRESP lowers the requester's missing-page count. -/
def execPageResponseOk (func : Nat) (tag : BitVec 16) (s : State) : Host.Outcome State Fault Refusal := .next (fqResponse s func tag true)

/-- PAGE_RESPONSE_FAIL (R214). A failed FQRESP turns the fault into a permission trap or a task failure. -/
def execPageResponseFail (func : Nat) (tag : BitVec 16) (s : State) : Host.Outcome State Fault Refusal := .next (fqResponse s func tag false)

/-- PRI_RESPONSE (R214). A host PRI response succeeds or fails for a host-page request. -/
def execPriResponse (func : Nat) (tag : BitVec 16) (ok : Bool) (s : State) : Host.Outcome State Fault Refusal := .next (priAnswers s func tag ok)

/-- INV_PAGE (R357). INVCMD KIND 0b00 invalidates the page holding INVADDR. -/
def execInvPage (func : Nat) (asid : BitVec 20) (s : State) : Host.Outcome State Fault Refusal := .next (startInval s func 0 asid.toNat)

/-- INV_ASID (R357). INVCMD KIND 0b01 invalidates a whole ASID. -/
def execInvAsid (func : Nat) (asid : BitVec 20) (s : State) : Host.Outcome State Fault Refusal := .next (startInval s func 1 asid.toNat)

/-- INV_FUNCTION (R357). INVCMD KIND 0b10 invalidates every ASID of the function. -/
def execInvFunction (func : Nat) (s : State) : Host.Outcome State Fault Refusal := .next (startInval s func 2 0)

/-- ATS_INVALIDATE_REQUEST (R357). A host ATS Invalidate Request is served for its host pages. -/
def execAtsInvalidateRequest (func : Nat) (asid : BitVec 20) (va : Nat) (s : State) : Host.Outcome State Fault Refusal :=
  .next (atsWithdrawn s func asid.toNat va)

/-- INVALIDATION_END (R200). TLB entries are removed, windows zeroed and old accesses performed; BUSY clears and INVDONE is set. -/
def execInvalidationEnd (func : Nat) (s : State) : Host.Outcome State Fault Refusal := .next (invalEnds s func)

/-- QTAIL_NOTIFY (R360). A write to QTAIL notifies the queue or is refused with BADTAIL. -/
def execQtailNotify (func queue : Nat) (part : WPart) (relaxed : Bool) (val : DWord) (s : State) : Host.Outcome State Fault Refusal :=
  .next (tailWrite s func queue part relaxed val)

/-- QUEUE_CONFIG_WRITE (R359). A write of QBASE or QCTL, dropped while enabled unless it clears EN. -/
def execQueueConfigWrite (func queue : Nat) (ctl : Bool) (part : WPart) (val : DWord) (s : State) : Host.Outcome State Fault Refusal :=
  .next (queueWrite s func queue ctl part val)

/-- QOWN_WRITE (R354). Sets queue owners, dropped for invalid values or enabled queues. -/
def execQownWrite (func offset : Nat) (part : WPart) (val : DWord) (s : State) : Host.Outcome State Fault Refusal :=
  .next (qownWrites s func offset part val)

/-- FQCTL_WRITE (R358). Sets fault queue HEAD, vector and size, dropped whole for a bad size. -/
def execFqctlWrite (func : Nat) (part : WPart) (val : DWord) (s : State) : Host.Outcome State Fault Refusal := .next (fqctlWrites s func part val)

/-- PCAP_WRITE (R334). Sets the package cap and recomputes EFFCAP. -/
def execPcapWrite (func : Nat) (part : WPart) (val : DWord) (s : State) : Host.Outcome State Fault Refusal := .next (pcapWrites s func part val)

/-- PFLOOR_WRITE (R334). Sets a partition floor unless the floors would exceed 1,600 W. -/
def execPfloorWrite (func index : Nat) (part : WPart) (val : DWord) (s : State) : Host.Outcome State Fault Refusal :=
  .next (pfloorWrites s func index part val)

/-- DIDT_DN_WRITE (R333). Sets the largest per-cycle fall; a zero is dropped. -/
def execDidtDnWrite (func : Nat) (part : WPart) (val : DWord) (s : State) : Host.Outcome State Fault Refusal := .next (didtWrites s func part val)

/-- LINKCFG_WRITE (R362). Sets module identity and per-port least widths, widening ports at once. -/
def execLinkcfgWrite (func : Nat) (part : WPart) (val : DWord) (s : State) : Host.Outcome State Fault Refusal := .next (linkcfgWrites s func part val)

/-- PARTMAP_WRITE (R361). Assigns half-dies to partitions unless one holds an admitted team. -/
def execPartmapWrite (func : Nat) (part : WPart) (val : DWord) (s : State) : Host.Outcome State Fault Refusal := .next (partmapWrites s func part val)

/-- FPART_WRITE (R361). Assigns functions to partitions unless a function has work. -/
def execFpartWrite (func : Nat) (part : WPart) (val : DWord) (s : State) : Host.Outcome State Fault Refusal := .next (fpartWrites s func part val)

/-- PARTCTL_WRITE (R361). Sets partition SECURE and HOLD bits. -/
def execPartctlWrite (func : Nat) (part : WPart) (val : DWord) (s : State) : Host.Outcome State Fault Refusal := .next (partctlWrites s func part val)

/-- PARTITION_PREEMPT (R361). A PREEMPT bit written 1 switches out every resident context of the partition. -/
def execPartitionPreempt (part : Nat) (s : State) : Host.Outcome State Fault Refusal := .next (preemptPartition s part)

/-- SVLOAD_GO (R362). Loads a supervisor image into slot 7 of every core and measures it. -/
def execSvloadGo (func : Nat) (part : WPart) (val : DWord) (s : State) : Host.Outcome State Fault Refusal := .next (svloadWrites s func part val)

/-- SVLOAD_LOAD_END (R362). The supervisor image load into slot 7 of a core ends and sets OVRES bit 7, waking contexts frozen on slot 7. -/
def execSvloadLoadEnd (core : Nat) (s : State) : Host.Outcome State Fault Refusal := .next (svloadEnds s core)

/-- MBOX_REPORT (R374). MBOXCMD 0x01 produces a signed attestation report or refuses. -/
def execMboxReport (func : Nat) (s : State) : Host.Outcome State Fault Refusal := .next (mboxWrite s func 1)

/-- MBOX_ALARM_LOG (R374). MBOXCMD 0x02 writes the alarm log. -/
def execMboxAlarmLog (func : Nat) (s : State) : Host.Outcome State Fault Refusal := .next (mboxWrite s func 2)

/-- MBOX_BAD_COMMAND (R374). An unknown MBOXCMD code gives STATUS 0x02. -/
def execMboxBadCommand (func : Nat) (cmd : BitVec 8) (s : State) : Host.Outcome State Fault Refusal :=
  .next (if cmd = 1 ∨ cmd = 2 then s else mboxWrite s func cmd.toNat)

/-- MAILBOX_COMMAND_END (R374). A running mailbox command finishes, writes its report or log, sets STATUS and clears BUSY. -/
def execMailboxCommandEnd (func : Nat) (s : State) : Host.Outcome State Fault Refusal := .next (mailboxEnds s func)

/-- REGISTER_WRITE (R354). A host write of a register without behaviour of its own, W1C bits included. -/
def execRegisterWrite (func offset : Nat) (part : WPart) (val : DWord) (s : State) : Host.Outcome State Fault Refusal :=
  .next (regWrite s func offset part val)

end Sys2Proof.Machine
end

