-- ==== Sys2Proof/Machine/LaneOps.lean ====
section
/-!
DEFINITION. The meanings of the ia, lg, fm and sf operations (spec 09_lane_units), each the issue of its bundle by the presented split.
-/

namespace Sys2Proof.Machine

/-- IA_ADD (R154). 32-bit add with carry out to x. -/
def execIaAdd (unit : Bool) (g : Guard) (src : Src) (s : State) : Host.Outcome State Fault Refusal := issue (triggerBundle (.ia unit .add) g src) s

/-- IA_ADDC (R154). Add with carry in and carry out. -/
def execIaAddc (unit : Bool) (g : Guard) (src : Src) (s : State) : Host.Outcome State Fault Refusal := issue (triggerBundle (.ia unit .addc) g src) s

/-- IA_SUB (R154). 32-bit subtract with borrow to x. -/
def execIaSub (unit : Bool) (g : Guard) (src : Src) (s : State) : Host.Outcome State Fault Refusal := issue (triggerBundle (.ia unit .sub) g src) s

/-- IA_SUBB (R154). Subtract with borrow in and out. -/
def execIaSubb (unit : Bool) (g : Guard) (src : Src) (s : State) : Host.Outcome State Fault Refusal := issue (triggerBundle (.ia unit .subb) g src) s

/-- IA_MUL (R154). Low 32 bits of the product. -/
def execIaMul (unit : Bool) (g : Guard) (src : Src) (s : State) : Host.Outcome State Fault Refusal := issue (triggerBundle (.ia unit .mul) g src) s

/-- IA_MULHI (R154). High 32 bits of the signed product. -/
def execIaMulhi (unit : Bool) (g : Guard) (src : Src) (s : State) : Host.Outcome State Fault Refusal :=
  issue (triggerBundle (.ia unit .mulhi) g src) s

/-- IA_MULHU (R154). High 32 bits of the unsigned product. -/
def execIaMulhu (unit : Bool) (g : Guard) (src : Src) (s : State) : Host.Outcome State Fault Refusal :=
  issue (triggerBundle (.ia unit .mulhu) g src) s

/-- IA_MAD (R154). Low 32 bits of a times b plus c. -/
def execIaMad (unit : Bool) (g : Guard) (src : Src) (s : State) : Host.Outcome State Fault Refusal := issue (triggerBundle (.ia unit .mad) g src) s

/-- IA_SHL (R155). Shift left by b[4:0]. -/
def execIaShl (unit : Bool) (g : Guard) (src : Src) (s : State) : Host.Outcome State Fault Refusal := issue (triggerBundle (.ia unit .shl) g src) s

/-- IA_SHR (R155). Logical shift right. -/
def execIaShr (unit : Bool) (g : Guard) (src : Src) (s : State) : Host.Outcome State Fault Refusal := issue (triggerBundle (.ia unit .shr) g src) s

/-- IA_SAR (R155). Arithmetic shift right. -/
def execIaSar (unit : Bool) (g : Guard) (src : Src) (s : State) : Host.Outcome State Fault Refusal := issue (triggerBundle (.ia unit .sar) g src) s

/-- IA_ROTL (R155). Rotate left. -/
def execIaRotl (unit : Bool) (g : Guard) (src : Src) (s : State) : Host.Outcome State Fault Refusal := issue (triggerBundle (.ia unit .rotl) g src) s

/-- IA_ROTR (R155). Rotate right. -/
def execIaRotr (unit : Bool) (g : Guard) (src : Src) (s : State) : Host.Outcome State Fault Refusal := issue (triggerBundle (.ia unit .rotr) g src) s

/-- IA_BFX (R156). Extract a sign-extended bit field. -/
def execIaBfx (unit : Bool) (g : Guard) (src : Src) (s : State) : Host.Outcome State Fault Refusal := issue (triggerBundle (.ia unit .bfx) g src) s

/-- IA_BFXU (R156). Extract a zero-extended bit field. -/
def execIaBfxu (unit : Bool) (g : Guard) (src : Src) (s : State) : Host.Outcome State Fault Refusal := issue (triggerBundle (.ia unit .bfxu) g src) s

/-- IA_BFI (R156). Insert a bit field. -/
def execIaBfi (unit : Bool) (g : Guard) (src : Src) (s : State) : Host.Outcome State Fault Refusal := issue (triggerBundle (.ia unit .bfi) g src) s

/-- IA_POPC (R157). Population count. -/
def execIaPopc (unit : Bool) (g : Guard) (src : Src) (s : State) : Host.Outcome State Fault Refusal := issue (triggerBundle (.ia unit .popc) g src) s

/-- IA_CLZ (R157). Count leading zeros. -/
def execIaClz (unit : Bool) (g : Guard) (src : Src) (s : State) : Host.Outcome State Fault Refusal := issue (triggerBundle (.ia unit .clz) g src) s

/-- IA_CTZ (R157). Count trailing zeros. -/
def execIaCtz (unit : Bool) (g : Guard) (src : Src) (s : State) : Host.Outcome State Fault Refusal := issue (triggerBundle (.ia unit .ctz) g src) s

/-- IA_BREV (R157). Bit reverse. -/
def execIaBrev (unit : Bool) (g : Guard) (src : Src) (s : State) : Host.Outcome State Fault Refusal := issue (triggerBundle (.ia unit .brev) g src) s

/-- IA_MIN (R158). Signed minimum. -/
def execIaMin (unit : Bool) (g : Guard) (src : Src) (s : State) : Host.Outcome State Fault Refusal := issue (triggerBundle (.ia unit .min) g src) s

/-- IA_MAX (R158). Signed maximum. -/
def execIaMax (unit : Bool) (g : Guard) (src : Src) (s : State) : Host.Outcome State Fault Refusal := issue (triggerBundle (.ia unit .max) g src) s

/-- IA_MINU (R158). Unsigned minimum. -/
def execIaMinu (unit : Bool) (g : Guard) (src : Src) (s : State) : Host.Outcome State Fault Refusal := issue (triggerBundle (.ia unit .minu) g src) s

/-- IA_MAXU (R158). Unsigned maximum. -/
def execIaMaxu (unit : Bool) (g : Guard) (src : Src) (s : State) : Host.Outcome State Fault Refusal := issue (triggerBundle (.ia unit .maxu) g src) s

/-- IA_ABS (R158). Wrapping absolute value. -/
def execIaAbs (unit : Bool) (g : Guard) (src : Src) (s : State) : Host.Outcome State Fault Refusal := issue (triggerBundle (.ia unit .abs) g src) s

/-- IA_ADDS (R158). Signed saturating add. -/
def execIaAdds (unit : Bool) (g : Guard) (src : Src) (s : State) : Host.Outcome State Fault Refusal := issue (triggerBundle (.ia unit .adds) g src) s

/-- IA_SUBS (R158). Signed saturating subtract. -/
def execIaSubs (unit : Bool) (g : Guard) (src : Src) (s : State) : Host.Outcome State Fault Refusal := issue (triggerBundle (.ia unit .subs) g src) s

/-- IA_ADDUS (R158). Unsigned saturating add. -/
def execIaAddus (unit : Bool) (g : Guard) (src : Src) (s : State) : Host.Outcome State Fault Refusal :=
  issue (triggerBundle (.ia unit .addus) g src) s

/-- IA_SUBUS (R158). Unsigned saturating subtract. -/
def execIaSubus (unit : Bool) (g : Guard) (src : Src) (s : State) : Host.Outcome State Fault Refusal :=
  issue (triggerBundle (.ia unit .subus) g src) s

/-- IA_LEA (R154). a plus b shifted left by c. -/
def execIaLea (unit : Bool) (g : Guard) (src : Src) (s : State) : Host.Outcome State Fault Refusal := issue (triggerBundle (.ia unit .lea) g src) s

/-- LG_AND (R160). Bitwise AND. -/
def execLgAnd (g : Guard) (src : Src) (s : State) : Host.Outcome State Fault Refusal := issue (triggerBundle (.lg .and) g src) s

/-- LG_OR (R160). Bitwise OR. -/
def execLgOr (g : Guard) (src : Src) (s : State) : Host.Outcome State Fault Refusal := issue (triggerBundle (.lg .or) g src) s

/-- LG_XOR (R160). Bitwise XOR. -/
def execLgXor (g : Guard) (src : Src) (s : State) : Host.Outcome State Fault Refusal := issue (triggerBundle (.lg .xor) g src) s

/-- LG_ANDN (R160). a AND NOT b. -/
def execLgAndn (g : Guard) (src : Src) (s : State) : Host.Outcome State Fault Refusal := issue (triggerBundle (.lg .andn) g src) s

/-- LG_NOT (R160). Bitwise NOT. -/
def execLgNot (g : Guard) (src : Src) (s : State) : Host.Outcome State Fault Refusal := issue (triggerBundle (.lg .not) g src) s

/-- LG_SEL (R160). Selects a or b by c[0]. -/
def execLgSel (g : Guard) (src : Src) (s : State) : Host.Outcome State Fault Refusal := issue (triggerBundle (.lg .sel) g src) s

/-- LG_CEQ (R160). Integer equality compare. -/
def execLgCeq (g : Guard) (src : Src) (s : State) : Host.Outcome State Fault Refusal := issue (triggerBundle (.lg .ceq) g src) s

/-- LG_CNE (R160). Integer inequality compare. -/
def execLgCne (g : Guard) (src : Src) (s : State) : Host.Outcome State Fault Refusal := issue (triggerBundle (.lg .cne) g src) s

/-- LG_CLT (R160). Signed less-than compare. -/
def execLgClt (g : Guard) (src : Src) (s : State) : Host.Outcome State Fault Refusal := issue (triggerBundle (.lg .clt) g src) s

/-- LG_CLE (R160). Signed less-or-equal compare. -/
def execLgCle (g : Guard) (src : Src) (s : State) : Host.Outcome State Fault Refusal := issue (triggerBundle (.lg .cle) g src) s

/-- LG_CLTU (R160). Unsigned less-than compare. -/
def execLgCltu (g : Guard) (src : Src) (s : State) : Host.Outcome State Fault Refusal := issue (triggerBundle (.lg .cltu) g src) s

/-- LG_CLEU (R160). Unsigned less-or-equal compare. -/
def execLgCleu (g : Guard) (src : Src) (s : State) : Host.Outcome State Fault Refusal := issue (triggerBundle (.lg .cleu) g src) s

/-- LG_FCEQ (R161). FP32 equality compare. -/
def execLgFceq (g : Guard) (src : Src) (s : State) : Host.Outcome State Fault Refusal := issue (triggerBundle (.lg .fceq) g src) s

/-- LG_FCNE (R161). FP32 inequality compare. -/
def execLgFcne (g : Guard) (src : Src) (s : State) : Host.Outcome State Fault Refusal := issue (triggerBundle (.lg .fcne) g src) s

/-- LG_FCLT (R161). FP32 less-than compare, invalid on any NaN. -/
def execLgFclt (g : Guard) (src : Src) (s : State) : Host.Outcome State Fault Refusal := issue (triggerBundle (.lg .fclt) g src) s

/-- LG_FCLE (R161). FP32 less-or-equal compare. -/
def execLgFcle (g : Guard) (src : Src) (s : State) : Host.Outcome State Fault Refusal := issue (triggerBundle (.lg .fcle) g src) s

/-- LG_FCUN (R161). FP32 unordered test. -/
def execLgFcun (g : Guard) (src : Src) (s : State) : Host.Outcome State Fault Refusal := issue (triggerBundle (.lg .fcun) g src) s

/-- LG_FCLS (R162). FP32 class as a one-hot word. -/
def execLgFcls (g : Guard) (src : Src) (s : State) : Host.Outcome State Fault Refusal := issue (triggerBundle (.lg .fcls) g src) s

/-- LG_MBIT (R163). Delivers bit lane of the operand. -/
def execLgMbit (g : Guard) (src : Src) (s : State) : Host.Outcome State Fault Refusal := issue (triggerBundle (.lg .mbit) g src) s

/-- LG_BSEL (R160). Bitwise select by c. -/
def execLgBsel (g : Guard) (src : Src) (s : State) : Host.Outcome State Fault Refusal := issue (triggerBundle (.lg .bsel) g src) s

/-- FM_FMA (R165). Fused FP32 a times b plus c in the named mode. -/
def execFmFma (unit : Bool) (mode : Rounding) (g : Guard) (src : Src) (s : State) : Host.Outcome State Fault Refusal :=
  issue (triggerBundle (.fm unit (.fma mode)) g src) s

/-- FM_FMS (R165). Fused FP32 a times b minus c. -/
def execFmFms (unit : Bool) (mode : Rounding) (g : Guard) (src : Src) (s : State) : Host.Outcome State Fault Refusal :=
  issue (triggerBundle (.fm unit (.fms mode)) g src) s

/-- FM_FNMA (R165). Fused FP32 minus a times b plus c. -/
def execFmFnma (unit : Bool) (mode : Rounding) (g : Guard) (src : Src) (s : State) : Host.Outcome State Fault Refusal :=
  issue (triggerBundle (.fm unit (.fnma mode)) g src) s

/-- FM_ADD (R165). FP32 add. -/
def execFmAdd (unit : Bool) (mode : Rounding) (g : Guard) (src : Src) (s : State) : Host.Outcome State Fault Refusal :=
  issue (triggerBundle (.fm unit (.add mode)) g src) s

/-- FM_SUB (R165). FP32 subtract. -/
def execFmSub (unit : Bool) (mode : Rounding) (g : Guard) (src : Src) (s : State) : Host.Outcome State Fault Refusal :=
  issue (triggerBundle (.fm unit (.sub mode)) g src) s

/-- FM_MUL (R165). FP32 multiply. -/
def execFmMul (unit : Bool) (mode : Rounding) (g : Guard) (src : Src) (s : State) : Host.Outcome State Fault Refusal :=
  issue (triggerBundle (.fm unit (.mul mode)) g src) s

/-- FM_HFMA (R166). FP16 pair fused multiply-add. -/
def execFmHfma (unit : Bool) (mode : Rounding) (g : Guard) (src : Src) (s : State) : Host.Outcome State Fault Refusal :=
  issue (triggerBundle (.fm unit (.hfma mode)) g src) s

/-- FM_BFMA (R166). BF16 pair fused multiply-add. -/
def execFmBfma (unit : Bool) (mode : Rounding) (g : Guard) (src : Src) (s : State) : Host.Outcome State Fault Refusal :=
  issue (triggerBundle (.fm unit (.bfma mode)) g src) s

/-- FM_CVTH (R167). Narrows two FP32 values to an FP16 pair. -/
def execFmCvth (unit : Bool) (mode : Rounding) (g : Guard) (src : Src) (s : State) : Host.Outcome State Fault Refusal :=
  issue (triggerBundle (.fm unit (.cvth mode)) g src) s

/-- FM_CVTB (R167). Narrows two FP32 values to a BF16 pair. -/
def execFmCvtb (unit : Bool) (mode : Rounding) (g : Guard) (src : Src) (s : State) : Host.Outcome State Fault Refusal :=
  issue (triggerBundle (.fm unit (.cvtb mode)) g src) s

/-- FM_CVTI (R168). FP32 to saturating signed integer. -/
def execFmCvti (unit : Bool) (mode : Rounding) (g : Guard) (src : Src) (s : State) : Host.Outcome State Fault Refusal :=
  issue (triggerBundle (.fm unit (.cvti mode)) g src) s

/-- FM_CVTF (R169). Signed integer to FP32. -/
def execFmCvtf (unit : Bool) (mode : Rounding) (g : Guard) (src : Src) (s : State) : Host.Outcome State Fault Refusal :=
  issue (triggerBundle (.fm unit (.cvtf mode)) g src) s

/-- FM_MIN (R170). FP32 minimumNumber. -/
def execFmMin (unit : Bool) (g : Guard) (src : Src) (s : State) : Host.Outcome State Fault Refusal := issue (triggerBundle (.fm unit .min) g src) s

/-- FM_MAX (R170). FP32 maximumNumber. -/
def execFmMax (unit : Bool) (g : Guard) (src : Src) (s : State) : Host.Outcome State Fault Refusal := issue (triggerBundle (.fm unit .max) g src) s

/-- FM_NEG (R171). Flips the sign bit. -/
def execFmNeg (unit : Bool) (g : Guard) (src : Src) (s : State) : Host.Outcome State Fault Refusal := issue (triggerBundle (.fm unit .neg) g src) s

/-- FM_ABS (R171). Clears the sign bit. -/
def execFmAbs (unit : Bool) (g : Guard) (src : Src) (s : State) : Host.Outcome State Fault Refusal := issue (triggerBundle (.fm unit .abs) g src) s

/-- FM_CSGN (R171). Copies b's sign onto a. -/
def execFmCsgn (unit : Bool) (g : Guard) (src : Src) (s : State) : Host.Outcome State Fault Refusal := issue (triggerBundle (.fm unit .csgn) g src) s

/-- FM_CVTFH (R172). Widens an FP16 pair to two FP32 values. -/
def execFmCvtfh (unit : Bool) (g : Guard) (src : Src) (s : State) : Host.Outcome State Fault Refusal :=
  issue (triggerBundle (.fm unit .cvtfh) g src) s

/-- FM_CVTFB (R172). Widens a BF16 pair to two FP32 values. -/
def execFmCvtfb (unit : Bool) (g : Guard) (src : Src) (s : State) : Host.Outcome State Fault Refusal :=
  issue (triggerBundle (.fm unit .cvtfb) g src) s

/-- FM_CVT8 (R173). Encodes FP32 into one T8 element of b. -/
def execFmCvt8 (unit : Bool) (g : Guard) (src : Src) (s : State) : Host.Outcome State Fault Refusal := issue (triggerBundle (.fm unit .cvt8) g src) s

/-- FM_CVT6 (R173). Encodes FP32 into one T6 element of b. -/
def execFmCvt6 (unit : Bool) (g : Guard) (src : Src) (s : State) : Host.Outcome State Fault Refusal := issue (triggerBundle (.fm unit .cvt6) g src) s

/-- FM_DEC8 (R174). Decodes a T8 element to FP32. -/
def execFmDec8 (unit : Bool) (g : Guard) (src : Src) (s : State) : Host.Outcome State Fault Refusal := issue (triggerBundle (.fm unit .dec8) g src) s

/-- FM_DEC6 (R174). Decodes a T6 element to FP32. -/
def execFmDec6 (unit : Bool) (g : Guard) (src : Src) (s : State) : Host.Outcome State Fault Refusal := issue (triggerBundle (.fm unit .dec6) g src) s

/-- FM_HMIN (R170). FP16 pair minimum. -/
def execFmHmin (unit : Bool) (g : Guard) (src : Src) (s : State) : Host.Outcome State Fault Refusal := issue (triggerBundle (.fm unit .hmin) g src) s

/-- FM_HMAX (R170). FP16 pair maximum. -/
def execFmHmax (unit : Bool) (g : Guard) (src : Src) (s : State) : Host.Outcome State Fault Refusal := issue (triggerBundle (.fm unit .hmax) g src) s

/-- FM_BMIN (R170). BF16 pair minimum. -/
def execFmBmin (unit : Bool) (g : Guard) (src : Src) (s : State) : Host.Outcome State Fault Refusal := issue (triggerBundle (.fm unit .bmin) g src) s

/-- FM_BMAX (R170). BF16 pair maximum. -/
def execFmBmax (unit : Bool) (g : Guard) (src : Src) (s : State) : Host.Outcome State Fault Refusal := issue (triggerBundle (.fm unit .bmax) g src) s

/-- SF_DIV (R175). Correctly rounded FP32 division. -/
def execSfDiv (g : Guard) (src : Src) (s : State) : Host.Outcome State Fault Refusal := issue (triggerBundle (.sf .div) g src) s

/-- SF_SQRT (R175). Correctly rounded square root. -/
def execSfSqrt (g : Guard) (src : Src) (s : State) : Host.Outcome State Fault Refusal := issue (triggerBundle (.sf .sqrt) g src) s

/-- SF_RCP (R175). Correctly rounded reciprocal. -/
def execSfRcp (g : Guard) (src : Src) (s : State) : Host.Outcome State Fault Refusal := issue (triggerBundle (.sf .rcp) g src) s

/-- SF_RSQRT (R175). Correctly rounded reciprocal square root. -/
def execSfRsqrt (g : Guard) (src : Src) (s : State) : Host.Outcome State Fault Refusal := issue (triggerBundle (.sf .rsqrt) g src) s

/-- SF_EXP2 (R175). Correctly rounded 2^a. -/
def execSfExp2 (g : Guard) (src : Src) (s : State) : Host.Outcome State Fault Refusal := issue (triggerBundle (.sf .exp2) g src) s

/-- SF_LOG2 (R175). Correctly rounded log2. -/
def execSfLog2 (g : Guard) (src : Src) (s : State) : Host.Outcome State Fault Refusal := issue (triggerBundle (.sf .log2) g src) s

/-- SF_SINPI (R175). Correctly rounded sin(pi a). -/
def execSfSinpi (g : Guard) (src : Src) (s : State) : Host.Outcome State Fault Refusal := issue (triggerBundle (.sf .sinpi) g src) s

/-- SF_COSPI (R175). Correctly rounded cos(pi a). -/
def execSfCospi (g : Guard) (src : Src) (s : State) : Host.Outcome State Fault Refusal := issue (triggerBundle (.sf .cospi) g src) s

/-- SF_SCPI (R175). sin(pi a) to o and cos(pi a) to x. -/
def execSfScpi (g : Guard) (src : Src) (s : State) : Host.Outcome State Fault Refusal := issue (triggerBundle (.sf .scpi) g src) s

end Sys2Proof.Machine
end

