-- ==== Sys2Proof/Machine/MemoryOps.lean ====
section
/-!
DEFINITION. The meanings of the ld and st operations (spec 15_memory_instructions), each the issue of its bundle by the presented split.
-/

namespace Sys2Proof.Machine

/-- LD_LB (R220). Loads a sign-extended byte. -/
def execLdLb (g : Guard) (src : Src) (s : State) : Host.Outcome State Fault Refusal := issue (triggerBundle (.ld .lb) g src) s

/-- LD_LBZ (R220). Loads a zero-extended byte. -/
def execLdLbz (g : Guard) (src : Src) (s : State) : Host.Outcome State Fault Refusal := issue (triggerBundle (.ld .lbz) g src) s

/-- LD_LH (R220). Loads a sign-extended halfword. -/
def execLdLh (g : Guard) (src : Src) (s : State) : Host.Outcome State Fault Refusal := issue (triggerBundle (.ld .lh) g src) s

/-- LD_LHZ (R220). Loads a zero-extended halfword. -/
def execLdLhz (g : Guard) (src : Src) (s : State) : Host.Outcome State Fault Refusal := issue (triggerBundle (.ld .lhz) g src) s

/-- LD_LW (R220). Loads a word. -/
def execLdLw (g : Guard) (src : Src) (s : State) : Host.Outcome State Fault Refusal := issue (triggerBundle (.ld .lw) g src) s

/-- LD_LD (R220). Loads a doubleword into o and x. -/
def execLdLd (g : Guard) (src : Src) (s : State) : Host.Outcome State Fault Refusal := issue (triggerBundle (.ld .ld) g src) s

/-- LD_LWO (R221). Ordered word load, relaxed or acquire. -/
def execLdLwo (g : Guard) (src : Src) (s : State) : Host.Outcome State Fault Refusal := issue (triggerBundle (.ld .lwo) g src) s

/-- LD_LDO (R221). Ordered doubleword load. -/
def execLdLdo (g : Guard) (src : Src) (s : State) : Host.Outcome State Fault Refusal := issue (triggerBundle (.ld .ldo) g src) s

/-- LD_TLD (R231). Loads a tensor element through a shape record. -/
def execLdTld (g : Guard) (src : Src) (s : State) : Host.Outcome State Fault Refusal := issue (triggerBundle (.ld .tld) g src) s

/-- LD_LBLK (R223). Makes a load-block unit of 1-64 lines with flag bfN. -/
def execLdLblk (g : Guard) (src : Src) (s : State) : Host.Outcome State Fault Refusal := issue (triggerBundle (.ld .lblk) g src) s

/-- LD_PF (R222). Prefetches a line into L1. -/
def execLdPf (g : Guard) (src : Src) (s : State) : Host.Outcome State Fault Refusal := issue (triggerBundle (.ld .pf) g src) s

/-- ST_SB (R224). Stores a byte. -/
def execStSb (g : Guard) (src : Src) (s : State) : Host.Outcome State Fault Refusal := issue (triggerBundle (.st .sb) g src) s

/-- ST_SH (R224). Stores a halfword. -/
def execStSh (g : Guard) (src : Src) (s : State) : Host.Outcome State Fault Refusal := issue (triggerBundle (.st .sh) g src) s

/-- ST_SW (R224). Stores a word. -/
def execStSw (g : Guard) (src : Src) (s : State) : Host.Outcome State Fault Refusal := issue (triggerBundle (.st .sw) g src) s

/-- ST_SD (R224). Stores a doubleword. -/
def execStSd (g : Guard) (src : Src) (s : State) : Host.Outcome State Fault Refusal := issue (triggerBundle (.st .sd) g src) s

/-- ST_SWO (R225). Ordered word store, relaxed or release. -/
def execStSwo (g : Guard) (src : Src) (s : State) : Host.Outcome State Fault Refusal := issue (triggerBundle (.st .swo) g src) s

/-- ST_SDO (R225). Ordered doubleword store. -/
def execStSdo (g : Guard) (src : Src) (s : State) : Host.Outcome State Fault Refusal := issue (triggerBundle (.st .sdo) g src) s

/-- ST_TST (R232). Stores a tensor element through a shape record. -/
def execStTst (g : Guard) (src : Src) (s : State) : Host.Outcome State Fault Refusal := issue (triggerBundle (.st .tst) g src) s

/-- ST_AADD (R226). Atomic integer add returning the old word. -/
def execStAadd (g : Guard) (src : Src) (s : State) : Host.Outcome State Fault Refusal := issue (triggerBundle (.st .aadd) g src) s

/-- ST_AFADD (R226). Atomic FP32 add. -/
def execStAfadd (g : Guard) (src : Src) (s : State) : Host.Outcome State Fault Refusal := issue (triggerBundle (.st .afadd) g src) s

/-- ST_AMIN (R226). Atomic signed minimum. -/
def execStAmin (g : Guard) (src : Src) (s : State) : Host.Outcome State Fault Refusal := issue (triggerBundle (.st .amin) g src) s

/-- ST_AMAX (R226). Atomic signed maximum. -/
def execStAmax (g : Guard) (src : Src) (s : State) : Host.Outcome State Fault Refusal := issue (triggerBundle (.st .amax) g src) s

/-- ST_AMINU (R226). Atomic unsigned minimum. -/
def execStAminu (g : Guard) (src : Src) (s : State) : Host.Outcome State Fault Refusal := issue (triggerBundle (.st .aminu) g src) s

/-- ST_AMAXU (R226). Atomic unsigned maximum. -/
def execStAmaxu (g : Guard) (src : Src) (s : State) : Host.Outcome State Fault Refusal := issue (triggerBundle (.st .amaxu) g src) s

/-- ST_AAND (R226). Atomic AND. -/
def execStAand (g : Guard) (src : Src) (s : State) : Host.Outcome State Fault Refusal := issue (triggerBundle (.st .aand) g src) s

/-- ST_AOR (R226). Atomic OR. -/
def execStAor (g : Guard) (src : Src) (s : State) : Host.Outcome State Fault Refusal := issue (triggerBundle (.st .aor) g src) s

/-- ST_AXOR (R226). Atomic XOR. -/
def execStAxor (g : Guard) (src : Src) (s : State) : Host.Outcome State Fault Refusal := issue (triggerBundle (.st .axor) g src) s

/-- ST_AXCH (R226). Atomic exchange. -/
def execStAxch (g : Guard) (src : Src) (s : State) : Host.Outcome State Fault Refusal := issue (triggerBundle (.st .axch) g src) s

/-- ST_ACAS (R226). Atomic compare and swap. -/
def execStAcas (g : Guard) (src : Src) (s : State) : Host.Outcome State Fault Refusal := issue (triggerBundle (.st .acas) g src) s

/-- ST_RADD (R227). Reducing integer add store. -/
def execStRadd (g : Guard) (src : Src) (s : State) : Host.Outcome State Fault Refusal := issue (triggerBundle (.st .radd) g src) s

/-- ST_RFADD (R227). Reducing FP32 add store. -/
def execStRfadd (g : Guard) (src : Src) (s : State) : Host.Outcome State Fault Refusal := issue (triggerBundle (.st .rfadd) g src) s

/-- ST_MCST (R229). Multicast store to every destination of a list. -/
def execStMcst (g : Guard) (src : Src) (s : State) : Host.Outcome State Fault Refusal := issue (triggerBundle (.st .mcst) g src) s

end Sys2Proof.Machine
end

