-- ==== Sys2Proof/Machine/ModuleOps.lean ====
section
/-!
DEFINITION. The meanings of the events of links, power, alarms and resets.
An event that its rules do not allow now leaves the state as it is (log 1).
-/

namespace Sys2Proof.Machine

/-- FLIT_RECEIVE (R364). A received flit is checked, acknowledged or answered with NAK. -/
def execFlitReceive (port : Nat) (flit : List Byte) (s : State) : Host.Outcome State Fault Refusal := .next (flitReceives s port flit)

/-- FLIT_REPLAY (R364). A NAK makes the sender replay from ACKSEQ + 1. -/
def execFlitReplay (port : Nat) (s : State) : Host.Outcome State Fault Refusal := .next (flitReplays s port)

/-- PORT_DOWN (R364). A port goes down on replays, loss of lock or acknowledgement timeout, and retrains or is retired. -/
def execPortDown (port : Nat) (cause : PortDownCause) (s : State) : Host.Outcome State Fault Refusal := .next (portDowns s port cause)

/-- PORT_UP (R364). A Flisia port finishes training or retraining and comes up, setting FEVENT.LINK. -/
def execPortUp (port : Nat) (s : State) : Host.Outcome State Fault Refusal := .next (portUps s port)

/-- LINK_NARROW (R340). A link direction halves its width after 100 µs below 25% utilisation. -/
def execLinkNarrow (port : Nat) (m : LinkMeasure) (s : State) : Host.Outcome State Fault Refusal := .next (narrowLink s port m)

/-- LINK_WIDEN (R340). A link direction doubles its width on queue depth or high utilisation. -/
def execLinkWiden (port : Nat) (m : LinkMeasure) (s : State) : Host.Outcome State Fault Refusal := .next (widenLink s port m)

/-- PEER_INBOUND_ACCESS (R363). An inbound peer access is served or refused by the PF's windows. -/
def execPeerInboundAccess (acc : PeerAccess) (s : State) : Host.Outcome State Fault Refusal := .next (peerArrives s acc)

/-- WEIR_CYCLE (R325). The Weir sums the window weight, freezes the core if over limit and recomputes pressure. -/
def execWeirCycle (core : Nat) (s : State) : Host.Outcome State Fault Refusal := .next (weirCycles s core)

/-- PRED_RISE (R330). PRED rises after 256 Weir cycles at level 1 or 2. -/
def execPredRise (core : Nat) (s : State) : Host.Outcome State Fault Refusal := .next (predRises s core)

/-- PRED_FALL (R330). PRED falls after 256 Weir cycles at level 0, ending FORCED. -/
def execPredFall (core : Nat) (s : State) : Host.Outcome State Fault Refusal := .next (predFalls s core)

/-- FORCED_CHECK (R331). 10,000 ticks after PRED rises the level is checked and the forced pattern may apply. -/
def execForcedCheck (core : Nat) (s : State) : Host.Outcome State Fault Refusal := .next (checkForced s core)

/-- CAP_CONTROLLER_PERIOD (R335). Every 1,000 ticks the cap controller measures power and sets each core's budget. -/
def execCapControllerPeriod (m : PowerMeasure) (s : State) : Host.Outcome State Fault Refusal := .next (capPeriod s m)

/-- ENGINE_THROTTLE_WINDOW (R337). Each 64 engine cycles undeclared busy cycles are charged and the context throttled. -/
def execEngineThrottleWindow (core group busy narrow wide : Nat) (s : State) : Host.Outcome State Fault Refusal :=
  .next (throttleWindow s core group busy narrow wide)

/-- HINT_ONSET (R338). A hint's staggered effective onset arrives and sets the declared intensity. -/
def execHintOnset (group : Nat) (s : State) : Host.Outcome State Fault Refusal := .next (hintStarts s group)

/-- HINT_EXPIRY (R336). A hint's length passes and the intensity returns to PCLS. -/
def execHintExpiry (group : Nat) (s : State) : Host.Outcome State Fault Refusal := .next (hintEnds s group)

/-- TAMPER_ALARM (R375). A tamper sensor raises an alarm at its level, possibly erasing keys. -/
def execTamperAlarm (sensor : Sensor) (s : State) : Host.Outcome State Fault Refusal := .next (alarmRaised s sensor)

/-- MODULE_RESET (R376). Conventional reset or PF FLR runs bring-up through DEVREADY. -/
def execModuleReset (cause : ResetCause) (s : State) : Host.Outcome State Fault Refusal := .next (resetBy s cause)

/-- VF_FLR (R376). A VF Function Level Reset disables its queues, ends its teams and resets its registers. -/
def execVfFlr (vf : Nat) (s : State) : Host.Outcome State Fault Refusal := .next (flrVf s vf)

end Sys2Proof.Machine
end

