-- ==== Sys2Proof/Machine/ScalarOps.lean ====
section
/-!
DEFINITION. The meanings of a bundle and of the scalar operations (spec 05_bundles, 07_scalar_slot), each the issue of its bundle by the presented split.
-/

namespace Sys2Proof.Machine

/-- BUNDLE_ISSUE (R86). A cluster issues a presented split's bundle: sources are read, destinations written, triggers fired and the scalar operation applied, or the bundle traps with no effect. -/
def execBundleIssue (b : Bundle) (s : State) : Host.Outcome State Fault Refusal := issue b s

/-- ADD (R119). Scalar 64-bit sum of sa and t. -/
def execAdd (sd sa sb : BitVec 6) (imm : BitVec 22) (s : State) : Host.Outcome State Fault Refusal := issue (scalarBundle (.alu .add sd sa sb imm)) s

/-- SUB (R119). Scalar 64-bit difference sa minus t. -/
def execSub (sd sa sb : BitVec 6) (imm : BitVec 22) (s : State) : Host.Outcome State Fault Refusal := issue (scalarBundle (.alu .sub sd sa sb imm)) s

/-- MUL (R119). Low 64 bits of the scalar product. -/
def execMul (sd sa sb : BitVec 6) (imm : BitVec 22) (s : State) : Host.Outcome State Fault Refusal := issue (scalarBundle (.alu .mul sd sa sb imm)) s

/-- MULH (R119). High 64 bits of the signed 128-bit scalar product. -/
def execMulh (sd sa sb : BitVec 6) (imm : BitVec 22) (s : State) : Host.Outcome State Fault Refusal :=
  issue (scalarBundle (.alu .mulh sd sa sb imm)) s

/-- AND (R119). Scalar bitwise AND. -/
def execAnd (sd sa sb : BitVec 6) (imm : BitVec 22) (s : State) : Host.Outcome State Fault Refusal := issue (scalarBundle (.alu .and sd sa sb imm)) s

/-- OR (R119). Scalar bitwise OR. -/
def execOr (sd sa sb : BitVec 6) (imm : BitVec 22) (s : State) : Host.Outcome State Fault Refusal := issue (scalarBundle (.alu .or sd sa sb imm)) s

/-- XOR (R119). Scalar bitwise XOR. -/
def execXor (sd sa sb : BitVec 6) (imm : BitVec 22) (s : State) : Host.Outcome State Fault Refusal := issue (scalarBundle (.alu .xor sd sa sb imm)) s

/-- SHL (R119). Scalar shift left by t[5:0]. -/
def execShl (sd sa sb : BitVec 6) (imm : BitVec 22) (s : State) : Host.Outcome State Fault Refusal := issue (scalarBundle (.alu .shl sd sa sb imm)) s

/-- SHR (R119). Scalar logical shift right by t[5:0]. -/
def execShr (sd sa sb : BitVec 6) (imm : BitVec 22) (s : State) : Host.Outcome State Fault Refusal := issue (scalarBundle (.alu .shr sd sa sb imm)) s

/-- SAR (R119). Scalar arithmetic shift right by t[5:0]. -/
def execSar (sd sa sb : BitVec 6) (imm : BitVec 22) (s : State) : Host.Outcome State Fault Refusal := issue (scalarBundle (.alu .sar sd sa sb imm)) s

/-- MIN (R119). Scalar signed minimum. -/
def execMin (sd sa sb : BitVec 6) (imm : BitVec 22) (s : State) : Host.Outcome State Fault Refusal := issue (scalarBundle (.alu .min sd sa sb imm)) s

/-- MAX (R119). Scalar signed maximum. -/
def execMax (sd sa sb : BitVec 6) (imm : BitVec 22) (s : State) : Host.Outcome State Fault Refusal := issue (scalarBundle (.alu .max sd sa sb imm)) s

/-- MINU (R119). Scalar unsigned minimum. -/
def execMinu (sd sa sb : BitVec 6) (imm : BitVec 22) (s : State) : Host.Outcome State Fault Refusal :=
  issue (scalarBundle (.alu .minu sd sa sb imm)) s

/-- MAXU (R119). Scalar unsigned maximum. -/
def execMaxu (sd sa sb : BitVec 6) (imm : BitVec 22) (s : State) : Host.Outcome State Fault Refusal :=
  issue (scalarBundle (.alu .maxu sd sa sb imm)) s

/-- CEQ (R119). Scalar compare for equality, giving 1 or 0. -/
def execCeq (sd sa sb : BitVec 6) (imm : BitVec 22) (s : State) : Host.Outcome State Fault Refusal := issue (scalarBundle (.alu .ceq sd sa sb imm)) s

/-- CLT (R119). Scalar signed less-than compare. -/
def execClt (sd sa sb : BitVec 6) (imm : BitVec 22) (s : State) : Host.Outcome State Fault Refusal := issue (scalarBundle (.alu .clt sd sa sb imm)) s

/-- CLTU (R119). Scalar unsigned less-than compare. -/
def execCltu (sd sa sb : BitVec 6) (imm : BitVec 22) (s : State) : Host.Outcome State Fault Refusal :=
  issue (scalarBundle (.alu .cltu sd sa sb imm)) s

/-- SLD (R120). Scalar load of 8 bytes at sa + t. -/
def execSld (sd sa sb : BitVec 6) (imm : BitVec 22) (s : State) : Host.Outcome State Fault Refusal := issue (scalarBundle (.sld sd sa sb imm)) s

/-- SST (R120). Scalar store of 8 bytes at sa + t. -/
def execSst (sd sa sb : BitVec 6) (imm : BitVec 22) (s : State) : Host.Outcome State Fault Refusal := issue (scalarBundle (.sst sd sa sb imm)) s

/-- SLDQ (R120). Scalar load of 16 bytes into sd and sd + 1. -/
def execSldq (sd sa sb : BitVec 6) (imm : BitVec 22) (s : State) : Host.Outcome State Fault Refusal := issue (scalarBundle (.sldq sd sa sb imm)) s

/-- SSTQ (R120). Scalar store of 16 bytes from sd and sd + 1. -/
def execSstq (sd sa sb : BitVec 6) (imm : BitVec 22) (s : State) : Host.Outcome State Fault Refusal := issue (scalarBundle (.sstq sd sa sb imm)) s

/-- MRD (R121). Reads a mask register into sd after pending mask writes. -/
def execMrd (sd : BitVec 6) (mask : BitVec 4) (s : State) : Host.Outcome State Fault Refusal := issue (scalarBundle (.mrd sd mask)) s

/-- MWR (R121). Writes all 32 bits of m1-m15 regardless of guards. -/
def execMwr (mask : BitVec 4) (sa sb : BitVec 6) (imm : BitVec 22) (s : State) : Host.Outcome State Fault Refusal :=
  issue (scalarBundle (.mwr mask sa sb imm)) s

/-- BASEW (R122). Translates a base once and loads a window with frame, rights and limit. -/
def execBasew (win : BitVec 3) (sa sb : BitVec 6) (imm : BitVec 22) (s : State) : Host.Outcome State Fault Refusal :=
  issue (scalarBundle (.basew win sa sb imm)) s

/-- REGGIVE (R135). Returns the highest registers of the group to the cluster pool. -/
def execReggive (sb : BitVec 6) (imm : BitVec 22) (s : State) : Host.Outcome State Fault Refusal := issue (scalarBundle (.reggive sb imm)) s

/-- REGCLAIM (R135). Requests more registers from the pool, waiting in order until served. -/
def execRegclaim (sb : BitVec 6) (imm : BitVec 22) (s : State) : Host.Outcome State Fault Refusal := issue (scalarBundle (.regclaim sb imm)) s

/-- RET (R126). Branches the split to the address in s[sa]. -/
def execRet (sa : BitVec 6) (s : State) : Host.Outcome State Fault Refusal := issue (scalarBundle (.ret sa)) s

/-- EXIT (R134). Ends the split's active lanes, discarding their due results, and ends the group when no split remains. -/
def execExit (s : State) : Host.Outcome State Fault Refusal := issue (scalarBundle (.exit)) s

/-- RECBEG (R291). Opens a record segment in the team's engine order. -/
def execRecbeg (s : State) : Host.Outcome State Fault Refusal := issue (scalarBundle (.recbeg)) s

/-- RECEND (R291). Closes the open record segment. -/
def execRecend (s : State) : Host.Outcome State Fault Refusal := issue (scalarBundle (.recend)) s

/-- REVERSE (R297). Accepts a reverse walk of the segment, closing a batch and returning its number. -/
def execReverse (sd : BitVec 6) (s : State) : Host.Outcome State Fault Refusal := issue (scalarBundle (.reverse sd)) s

/-- SPAWN (R133). Copies a task descriptor into a hardware task queue of the die, optionally waiting for its event. -/
def execSpawn (sd sa sb : BitVec 6) (imm : BitVec 22) (s : State) : Host.Outcome State Fault Refusal := issue (scalarBundle (.spawn sd sa sb imm)) s

/-- PMAP (R140). Maps scratchpad granules onto a global range, writing back earlier mappings. -/
def execPmap (sd sa sb : BitVec 6) (imm : BitVec 22) (s : State) : Host.Outcome State Fault Refusal := issue (scalarBundle (.pmap sd sa sb imm)) s

/-- PFLUSH (R140). Writes back the dirty Polder lines of a range. -/
def execPflush (sa sb : BitVec 6) (imm : BitVec 22) (s : State) : Host.Outcome State Fault Refusal := issue (scalarBundle (.pflush sa sb imm)) s

/-- OVLOAD (R139). Starts loading 64 KiB into an instruction-memory slot, clearing its OVRES bit. -/
def execOvload (sa sb : BitVec 6) (imm : BitVec 22) (s : State) : Host.Outcome State Fault Refusal := issue (scalarBundle (.ovload sa sb imm)) s

/-- OVCALL (R126). Links s63 and branches to s[sa] + t. -/
def execOvcall (sa sb : BitVec 6) (imm : BitVec 22) (s : State) : Host.Outcome State Fault Refusal := issue (scalarBundle (.ovcall sa sb imm)) s

/-- PHINT (R137). Declares a matrix burst's onset, intensity and length for the context. -/
def execPhint (sa sb : BitVec 6) (imm : BitVec 22) (s : State) : Host.Outcome State Fault Refusal := issue (scalarBundle (.phint sa sb imm)) s

/-- LI (R119). Loads the sign-extended 32-bit immediate. -/
def execLi (sd : BitVec 6) (imm : BitVec 32) (s : State) : Host.Outcome State Fault Refusal := issue (scalarBundle (.li sd imm)) s

/-- LIZ (R119). Loads the zero-extended 32-bit immediate. -/
def execLiz (sd : BitVec 6) (imm : BitVec 32) (s : State) : Host.Outcome State Fault Refusal := issue (scalarBundle (.liz sd imm)) s

/-- LIH (R119). Writes the immediate into bits 63:32 of sd. -/
def execLih (sd : BitVec 6) (imm : BitVec 32) (s : State) : Host.Outcome State Fault Refusal := issue (scalarBundle (.lih sd imm)) s

/-- BD (R20). Divergent branch: creates a split, pushes the stack or traps with divergence overflow. -/
def execBd (inv : Bool) (mask : BitVec 4) (target : BitVec 24) (join : BitVec 16) (s : State) : Host.Outcome State Fault Refusal :=
  issue (scalarBundle (.bd inv mask target join)) s

/-- BU (R124). Uniform branch taken when the condition holds in all active lanes, trapping on disagreement. -/
def execBu (inv : Bool) (mask : BitVec 4) (target : BitVec 24) (s : State) : Host.Outcome State Fault Refusal :=
  issue (scalarBundle (.bu inv mask target)) s

/-- CALL (R126). Links s63 and branches to the target. -/
def execCall (target : BitVec 24) (s : State) : Host.Outcome State Fault Refusal := issue (scalarBundle (.call target)) s

/-- LOOP (R127). Decrements s[N] and branches while it is nonzero. -/
def execLoop (target : BitVec 24) (counter : BitVec 6) (s : State) : Host.Outcome State Fault Refusal := issue (scalarBundle (.loop target counter)) s

/-- BARA (R129). Arrives on a barrier object with a weight, possibly completing its phase. -/
def execBara (sa sb id : BitVec 6) (scope : BitVec 3) (s : State) : Host.Outcome State Fault Refusal := issue (scalarBundle (.bara sa sb id scope)) s

/-- BARW (R129). Waits until the barrier object's phase differs from the group's arrival phase. -/
def execBarw (id : BitVec 6) (scope : BitVec 3) (s : State) : Host.Outcome State Fault Refusal := issue (scalarBundle (.barw id scope)) s

/-- DSYNC (R130). Domain synchronisation toggling the phase, acting as a cumulative fence. -/
def execDsync (scope : BitVec 3) (s : State) : Host.Outcome State Fault Refusal := issue (scalarBundle (.dsync scope)) s

/-- FENCE (R131). Fence at a scope, waiting for earlier loads and stores to be performed. -/
def execFence (scope : BitVec 3) (s : State) : Host.Outcome State Fault Refusal := issue (scalarBundle (.fence scope)) s

/-- WAITC (R132). Waits until an in-flight counter falls to a threshold. -/
def execWaitc (sa id : BitVec 6) (s : State) : Host.Outcome State Fault Refusal := issue (scalarBundle (.waitc sa id)) s

/-- MXWAIT (R132). Waits until BATCHDONE covers a batch. -/
def execMxwait (sa : BitVec 6) (s : State) : Host.Outcome State Fault Refusal := issue (scalarBundle (.mxwait sa)) s

/-- CPWAIT (R132). Waits until a channel's DONE covers an identifier. -/
def execCpwait (sa id : BitVec 6) (s : State) : Host.Outcome State Fault Refusal := issue (scalarBundle (.cpwait sa id)) s

/-- MXTAKE (R136). Takes the team's matrix-engine token, waiting in order if held. -/
def execMxtake (s : State) : Host.Outcome State Fault Refusal := issue (scalarBundle (.mxtake)) s

/-- MXGIVE (R136). Frees the team's token. -/
def execMxgive (s : State) : Host.Outcome State Fault Refusal := issue (scalarBundle (.mxgive)) s

/-- RDSR (R141). Reads a special register into sd. -/
def execRdsr (sd : BitVec 6) (reg : BitVec 16) (s : State) : Host.Outcome State Fault Refusal := issue (scalarBundle (.rdsr sd reg)) s

/-- WRSR (R141). Writes a special register without behaviour of its own. -/
def execWrsr (sa : BitVec 6) (reg : BitVec 16) (s : State) : Host.Outcome State Fault Refusal := issue (scalarBundle (.wrsr sa reg)) s

/-- WRSR_FSTAT (R60). Writes FSTAT after earlier flags are ORed in. -/
def execWrsrFstat (sa : BitVec 6) (reg : BitVec 16) (s : State) : Host.Outcome State Fault Refusal := issue (scalarBundle (.wrsr sa reg)) s

/-- WRSR_GSTAT (R142). Clears DEADSRC bits or sets DELEG in supervisor mode. -/
def execWrsrGstat (sa : BitVec 6) (reg : BitVec 16) (s : State) : Host.Outcome State Fault Refusal := issue (scalarBundle (.wrsr sa reg)) s

/-- WRSR_STREAM (R264). Writes QW0 or QW1 of a stream after checks, waiting for commands naming it. -/
def execWrsrStream (sa : BitVec 6) (reg : BitVec 16) (s : State) : Host.Outcome State Fault Refusal := issue (scalarBundle (.wrsr sa reg)) s

/-- WRSR_LINING (R288). Writes LNBASE, LNSIZE, LNHEAD or GMAP after checks, waiting for accepted commands. -/
def execWrsrLining (sa : BitVec 6) (reg : BitVec 16) (s : State) : Host.Outcome State Fault Refusal := issue (scalarBundle (.wrsr sa reg)) s

/-- WRSR_EPC (R309). Writes the resumption address and return options. -/
def execWrsrEpc (sa : BitVec 6) (reg : BitVec 16) (s : State) : Host.Outcome State Fault Refusal := issue (scalarBundle (.wrsr sa reg)) s

/-- WRSR_TVEC (R314). Writes the delegated trap vector. -/
def execWrsrTvec (sa : BitVec 6) (reg : BitVec 16) (s : State) : Host.Outcome State Fault Refusal := issue (scalarBundle (.wrsr sa reg)) s

/-- WRSR_SWAPTH (R41). Sets the core's parking threshold. -/
def execWrsrSwapth (sa : BitVec 6) (reg : BitVec 16) (s : State) : Host.Outcome State Fault Refusal := issue (scalarBundle (.wrsr sa reg)) s

/-- WRSR_ILIM (R327). Sets the core's Weir limits, effective next Weir cycle. -/
def execWrsrIlim (sa : BitVec 6) (reg : BitVec 16) (s : State) : Host.Outcome State Fault Refusal := issue (scalarBundle (.wrsr sa reg)) s

/-- WRSR_CLKPAT (R329). Sets the cluster's clock pulse pattern. -/
def execWrsrClkpat (sa : BitVec 6) (reg : BitVec 16) (s : State) : Host.Outcome State Fault Refusal := issue (scalarBundle (.wrsr sa reg)) s

/-- WRSR_OVMASK (R144). Sets the team's loadable overlay slots. -/
def execWrsrOvmask (sa : BitVec 6) (reg : BitVec 16) (s : State) : Host.Outcome State Fault Refusal := issue (scalarBundle (.wrsr sa reg)) s

/-- SYS (R145). Traps with SYS, code in EINFO, EPC at the next bundle. -/
def execSys (code : BitVec 16) (s : State) : Host.Outcome State Fault Refusal := issue (scalarBundle (.sys code)) s

/-- TRAP (R145). Traps with breakpoint, EPC at the TRAP bundle. -/
def execTrap (code : BitVec 16) (s : State) : Host.Outcome State Fault Refusal := issue (scalarBundle (.trap code)) s

/-- ERET (R313). Leaves supervisor mode, resuming, injecting a replaced access or killing the group. -/
def execEret (s : State) : Host.Outcome State Fault Refusal := issue (scalarBundle (.eret)) s

end Sys2Proof.Machine
end

