-- ==== Sys2Proof/Machine/WorkOps.lean ====
section
/-!
DEFINITION. The meanings of the events of the engines and the tasks: commands, batches, copies, collectives, dispatch, admission and retirement.
An event that its rules do not allow now leaves the state as it is (log 1).
-/

namespace Sys2Proof.Machine

/-- MX_COMMAND_START (R265). A team's next command starts once its streams allow and its Polder lines and pages are prepared. -/
def execMxCommandStart (team : Nat) (s : State) : Host.Outcome State Fault Refusal := .next (engineStarts s team)

/-- MX_COMMAND_RETIRE (R261). A command's writes are performed, stream pointers move and any barrier signal is made. -/
def execMxCommandRetire (team : Nat) (poisoned : Bool) (s : State) : Host.Outcome State Fault Refusal := .next (engineRetires s team poisoned)

/-- BATCH_COMPLETE (R281). A batch completes, its status record is written and BATCHDONE covers it. -/
def execBatchComplete (team : Nat) (s : State) : Host.Outcome State Fault Refusal := .next (batchCompletes s team)

/-- REVERSE_ENTRY (R299). The reverse walk checks and processes one Lining entry's adjoint. -/
def execReverseEntry (team : Nat) (poisoned : Bool) (s : State) : Host.Outcome State Fault Refusal := .next (entryRuns s team poisoned)

/-- REVERSE_SUSPEND (R304). The engine suspends a REVERSE between entries and later resumes it at CUR. -/
def execReverseSuspend (team : Nat) (s : State) : Host.Outcome State Fault Refusal := .next (engineStep s team fun s => suspendWalk s team)

/-- COPY_START (R235). A buffered command starts once its issue time is met and its channel predecessor has completed. -/
def execCopyStart (core cmd : Nat) (s : State) : Host.Outcome State Fault Refusal := .next (copyStarts s core cmd)

/-- COPY_RESUME (R238). After a successful response the command resumes at q. -/
def execCopyResume (core cmd : Nat) (s : State) : Host.Outcome State Fault Refusal := .next (copyResumes s core cmd)

/-- COPY_COMPLETE (R237). Every destination byte is performed and CHDONE.DONE advances. -/
def execCopyComplete (core cmd : Nat) (s : State) : Host.Outcome State Fault Refusal := .next (copyCompletes s core cmd)

/-- COLL_CALL (R366). The collective engine runs a collective with the ranks of its group and sequence. -/
def execCollCall (core cmd : Nat) (ranks : List CollRank) (s : State) : Host.Outcome State Fault Refusal := .next (collCalls s core cmd ranks)

/-- COLL_JOIN_TIMEOUT (R367). A rank not joining within 100 ms fails the call on every rank. -/
def execCollJoinTimeout (core cmd : Nat) (s : State) : Host.Outcome State Fault Refusal := .next (collTimesOut s core cmd)

/-- TASK_FETCH (R379). A dispatcher reads a task at a queue head and judges its head conditions. -/
def execTaskFetch (queue : QueueRef) (s : State) : Host.Outcome State Fault Refusal := .next (fetchTask s queue)

/-- DEPENDENCE_POLL (R35). A dispatcher rereads pending dependence records on a 0b10 event or after 10,000 ticks. -/
def execDependencePoll (queue : QueueRef) (s : State) : Host.Outcome State Fault Refusal := .next (pollDeps s queue)

/-- TASK_PRIORITY_RISE (R37). An eligible head undispatched for 1,000,000 ticks rises one priority level. -/
def execTaskPriorityRise (queue : QueueRef) (s : State) : Host.Outcome State Fault Refusal := .next (raisePriority s queue)

/-- TASK_DISPATCH (R36). The dispatcher selects an eligible head and offers its teams or hands it to the walker, writing REMAIN. -/
def execTaskDispatch (dispatcher : Nat) (s : State) : Host.Outcome State Fault Refusal := .next (dispatchTask s dispatcher)

/-- WALKER_EXPAND (R31). The loop-nest walker expands an operator task into tile steps. -/
def execWalkerExpand (task : Nat) (s : State) : Host.Outcome State Fault Refusal := .next (expandTask s task)

/-- TILE_STEP_LAUNCH (R31). A tile step launches once its chain predecessor has retired. -/
def execTileStepLaunch (task : Nat) (s : State) : Host.Outcome State Fault Refusal := .next (launchStep s task)

/-- TEAM_ADMIT (R39). A core admits an offered team when its table, scratchpad and barrier resources are free, clearing its scratchpad. -/
def execTeamAdmit (team core : Nat) (s : State) : Host.Outcome State Fault Refusal := .next (teamAdmits s team core)

/-- TEAM_RESIDENT (R39). An admitted or ready team becomes resident when its contexts and registers are free. -/
def execTeamResident (team : Nat) (clusters : List Nat) (s : State) : Host.Outcome State Fault Refusal := .next (teamResides s team clusters)

/-- TEAM_PARK (R40). A team waiting SWAPTH ticks is parked when the park area has room. -/
def execTeamPark (team : Nat) (s : State) : Host.Outcome State Fault Refusal := .next (parkTeam s team)

/-- TEAM_READY (R42). A parked team's group wait condition is met and the team becomes ready to resume. -/
def execTeamReady (team : Nat) (s : State) : Host.Outcome State Fault Refusal := .next (readyTeam s team)

/-- PREEMPT (R317). A core switches out contexts for a higher-priority ready team. -/
def execPreempt (team : Nat) (s : State) : Host.Outcome State Fault Refusal := .next (preempts s team)

/-- TEAM_RETIRE (R43). A team whose groups and engine work are done retires, releases its resources and decrements REMAIN. -/
def execTeamRetire (team : Nat) (s : State) : Host.Outcome State Fault Refusal := .next (teamRetires s team)

end Sys2Proof.Machine
end

