-- ==== Sys2Proof/Machine/Dispatch.lean ====
section
/-!
DEFINITION. The meaning of every instruction and event: one arm per constructor, each one direct call.
-/

namespace Sys2Proof.Machine

/-- What an instruction or event does. -/
def exec (i : Instr) (s : State) : Host.Outcome State Fault Refusal :=
  match i with
  | .bundleIssue b => Sys2Proof.Machine.execBundleIssue b s
  | .add sd sa sb imm => Sys2Proof.Machine.execAdd sd sa sb imm s
  | .sub sd sa sb imm => Sys2Proof.Machine.execSub sd sa sb imm s
  | .mul sd sa sb imm => Sys2Proof.Machine.execMul sd sa sb imm s
  | .mulh sd sa sb imm => Sys2Proof.Machine.execMulh sd sa sb imm s
  | .and sd sa sb imm => Sys2Proof.Machine.execAnd sd sa sb imm s
  | .or sd sa sb imm => Sys2Proof.Machine.execOr sd sa sb imm s
  | .xor sd sa sb imm => Sys2Proof.Machine.execXor sd sa sb imm s
  | .shl sd sa sb imm => Sys2Proof.Machine.execShl sd sa sb imm s
  | .shr sd sa sb imm => Sys2Proof.Machine.execShr sd sa sb imm s
  | .sar sd sa sb imm => Sys2Proof.Machine.execSar sd sa sb imm s
  | .min sd sa sb imm => Sys2Proof.Machine.execMin sd sa sb imm s
  | .max sd sa sb imm => Sys2Proof.Machine.execMax sd sa sb imm s
  | .minu sd sa sb imm => Sys2Proof.Machine.execMinu sd sa sb imm s
  | .maxu sd sa sb imm => Sys2Proof.Machine.execMaxu sd sa sb imm s
  | .ceq sd sa sb imm => Sys2Proof.Machine.execCeq sd sa sb imm s
  | .clt sd sa sb imm => Sys2Proof.Machine.execClt sd sa sb imm s
  | .cltu sd sa sb imm => Sys2Proof.Machine.execCltu sd sa sb imm s
  | .sld sd sa sb imm => Sys2Proof.Machine.execSld sd sa sb imm s
  | .sst sd sa sb imm => Sys2Proof.Machine.execSst sd sa sb imm s
  | .sldq sd sa sb imm => Sys2Proof.Machine.execSldq sd sa sb imm s
  | .sstq sd sa sb imm => Sys2Proof.Machine.execSstq sd sa sb imm s
  | .mrd sd mask => Sys2Proof.Machine.execMrd sd mask s
  | .mwr mask sa sb imm => Sys2Proof.Machine.execMwr mask sa sb imm s
  | .basew win sa sb imm => Sys2Proof.Machine.execBasew win sa sb imm s
  | .reggive sb imm => Sys2Proof.Machine.execReggive sb imm s
  | .regclaim sb imm => Sys2Proof.Machine.execRegclaim sb imm s
  | .ret sa => Sys2Proof.Machine.execRet sa s
  | .exit => Sys2Proof.Machine.execExit s
  | .recbeg => Sys2Proof.Machine.execRecbeg s
  | .recend => Sys2Proof.Machine.execRecend s
  | .reverse sd => Sys2Proof.Machine.execReverse sd s
  | .spawn sd sa sb imm => Sys2Proof.Machine.execSpawn sd sa sb imm s
  | .pmap sd sa sb imm => Sys2Proof.Machine.execPmap sd sa sb imm s
  | .pflush sa sb imm => Sys2Proof.Machine.execPflush sa sb imm s
  | .ovload sa sb imm => Sys2Proof.Machine.execOvload sa sb imm s
  | .ovcall sa sb imm => Sys2Proof.Machine.execOvcall sa sb imm s
  | .phint sa sb imm => Sys2Proof.Machine.execPhint sa sb imm s
  | .li sd imm => Sys2Proof.Machine.execLi sd imm s
  | .liz sd imm => Sys2Proof.Machine.execLiz sd imm s
  | .lih sd imm => Sys2Proof.Machine.execLih sd imm s
  | .bd inv mask target join => Sys2Proof.Machine.execBd inv mask target join s
  | .bu inv mask target => Sys2Proof.Machine.execBu inv mask target s
  | .call target => Sys2Proof.Machine.execCall target s
  | .loop target counter => Sys2Proof.Machine.execLoop target counter s
  | .bara sa sb id scope => Sys2Proof.Machine.execBara sa sb id scope s
  | .barw id scope => Sys2Proof.Machine.execBarw id scope s
  | .dsync scope => Sys2Proof.Machine.execDsync scope s
  | .fence scope => Sys2Proof.Machine.execFence scope s
  | .waitc sa id => Sys2Proof.Machine.execWaitc sa id s
  | .mxwait sa => Sys2Proof.Machine.execMxwait sa s
  | .cpwait sa id => Sys2Proof.Machine.execCpwait sa id s
  | .mxtake => Sys2Proof.Machine.execMxtake s
  | .mxgive => Sys2Proof.Machine.execMxgive s
  | .rdsr sd reg => Sys2Proof.Machine.execRdsr sd reg s
  | .wrsr sa reg => Sys2Proof.Machine.execWrsr sa reg s
  | .wrsrFstat sa reg => Sys2Proof.Machine.execWrsrFstat sa reg s
  | .wrsrGstat sa reg => Sys2Proof.Machine.execWrsrGstat sa reg s
  | .wrsrStream sa reg => Sys2Proof.Machine.execWrsrStream sa reg s
  | .wrsrLining sa reg => Sys2Proof.Machine.execWrsrLining sa reg s
  | .wrsrEpc sa reg => Sys2Proof.Machine.execWrsrEpc sa reg s
  | .wrsrTvec sa reg => Sys2Proof.Machine.execWrsrTvec sa reg s
  | .wrsrSwapth sa reg => Sys2Proof.Machine.execWrsrSwapth sa reg s
  | .wrsrIlim sa reg => Sys2Proof.Machine.execWrsrIlim sa reg s
  | .wrsrClkpat sa reg => Sys2Proof.Machine.execWrsrClkpat sa reg s
  | .wrsrOvmask sa reg => Sys2Proof.Machine.execWrsrOvmask sa reg s
  | .sys code => Sys2Proof.Machine.execSys code s
  | .trap code => Sys2Proof.Machine.execTrap code s
  | .eret => Sys2Proof.Machine.execEret s
  | .iaAdd unit g src => Sys2Proof.Machine.execIaAdd unit g src s
  | .iaAddc unit g src => Sys2Proof.Machine.execIaAddc unit g src s
  | .iaSub unit g src => Sys2Proof.Machine.execIaSub unit g src s
  | .iaSubb unit g src => Sys2Proof.Machine.execIaSubb unit g src s
  | .iaMul unit g src => Sys2Proof.Machine.execIaMul unit g src s
  | .iaMulhi unit g src => Sys2Proof.Machine.execIaMulhi unit g src s
  | .iaMulhu unit g src => Sys2Proof.Machine.execIaMulhu unit g src s
  | .iaMad unit g src => Sys2Proof.Machine.execIaMad unit g src s
  | .iaShl unit g src => Sys2Proof.Machine.execIaShl unit g src s
  | .iaShr unit g src => Sys2Proof.Machine.execIaShr unit g src s
  | .iaSar unit g src => Sys2Proof.Machine.execIaSar unit g src s
  | .iaRotl unit g src => Sys2Proof.Machine.execIaRotl unit g src s
  | .iaRotr unit g src => Sys2Proof.Machine.execIaRotr unit g src s
  | .iaBfx unit g src => Sys2Proof.Machine.execIaBfx unit g src s
  | .iaBfxu unit g src => Sys2Proof.Machine.execIaBfxu unit g src s
  | .iaBfi unit g src => Sys2Proof.Machine.execIaBfi unit g src s
  | .iaPopc unit g src => Sys2Proof.Machine.execIaPopc unit g src s
  | .iaClz unit g src => Sys2Proof.Machine.execIaClz unit g src s
  | .iaCtz unit g src => Sys2Proof.Machine.execIaCtz unit g src s
  | .iaBrev unit g src => Sys2Proof.Machine.execIaBrev unit g src s
  | .iaMin unit g src => Sys2Proof.Machine.execIaMin unit g src s
  | .iaMax unit g src => Sys2Proof.Machine.execIaMax unit g src s
  | .iaMinu unit g src => Sys2Proof.Machine.execIaMinu unit g src s
  | .iaMaxu unit g src => Sys2Proof.Machine.execIaMaxu unit g src s
  | .iaAbs unit g src => Sys2Proof.Machine.execIaAbs unit g src s
  | .iaAdds unit g src => Sys2Proof.Machine.execIaAdds unit g src s
  | .iaSubs unit g src => Sys2Proof.Machine.execIaSubs unit g src s
  | .iaAddus unit g src => Sys2Proof.Machine.execIaAddus unit g src s
  | .iaSubus unit g src => Sys2Proof.Machine.execIaSubus unit g src s
  | .iaLea unit g src => Sys2Proof.Machine.execIaLea unit g src s
  | .lgAnd g src => Sys2Proof.Machine.execLgAnd g src s
  | .lgOr g src => Sys2Proof.Machine.execLgOr g src s
  | .lgXor g src => Sys2Proof.Machine.execLgXor g src s
  | .lgAndn g src => Sys2Proof.Machine.execLgAndn g src s
  | .lgNot g src => Sys2Proof.Machine.execLgNot g src s
  | .lgSel g src => Sys2Proof.Machine.execLgSel g src s
  | .lgCeq g src => Sys2Proof.Machine.execLgCeq g src s
  | .lgCne g src => Sys2Proof.Machine.execLgCne g src s
  | .lgClt g src => Sys2Proof.Machine.execLgClt g src s
  | .lgCle g src => Sys2Proof.Machine.execLgCle g src s
  | .lgCltu g src => Sys2Proof.Machine.execLgCltu g src s
  | .lgCleu g src => Sys2Proof.Machine.execLgCleu g src s
  | .lgFceq g src => Sys2Proof.Machine.execLgFceq g src s
  | .lgFcne g src => Sys2Proof.Machine.execLgFcne g src s
  | .lgFclt g src => Sys2Proof.Machine.execLgFclt g src s
  | .lgFcle g src => Sys2Proof.Machine.execLgFcle g src s
  | .lgFcun g src => Sys2Proof.Machine.execLgFcun g src s
  | .lgFcls g src => Sys2Proof.Machine.execLgFcls g src s
  | .lgMbit g src => Sys2Proof.Machine.execLgMbit g src s
  | .lgBsel g src => Sys2Proof.Machine.execLgBsel g src s
  | .fmFma unit mode g src => Sys2Proof.Machine.execFmFma unit mode g src s
  | .fmFms unit mode g src => Sys2Proof.Machine.execFmFms unit mode g src s
  | .fmFnma unit mode g src => Sys2Proof.Machine.execFmFnma unit mode g src s
  | .fmAdd unit mode g src => Sys2Proof.Machine.execFmAdd unit mode g src s
  | .fmSub unit mode g src => Sys2Proof.Machine.execFmSub unit mode g src s
  | .fmMul unit mode g src => Sys2Proof.Machine.execFmMul unit mode g src s
  | .fmHfma unit mode g src => Sys2Proof.Machine.execFmHfma unit mode g src s
  | .fmBfma unit mode g src => Sys2Proof.Machine.execFmBfma unit mode g src s
  | .fmCvth unit mode g src => Sys2Proof.Machine.execFmCvth unit mode g src s
  | .fmCvtb unit mode g src => Sys2Proof.Machine.execFmCvtb unit mode g src s
  | .fmCvti unit mode g src => Sys2Proof.Machine.execFmCvti unit mode g src s
  | .fmCvtf unit mode g src => Sys2Proof.Machine.execFmCvtf unit mode g src s
  | .fmMin unit g src => Sys2Proof.Machine.execFmMin unit g src s
  | .fmMax unit g src => Sys2Proof.Machine.execFmMax unit g src s
  | .fmNeg unit g src => Sys2Proof.Machine.execFmNeg unit g src s
  | .fmAbs unit g src => Sys2Proof.Machine.execFmAbs unit g src s
  | .fmCsgn unit g src => Sys2Proof.Machine.execFmCsgn unit g src s
  | .fmCvtfh unit g src => Sys2Proof.Machine.execFmCvtfh unit g src s
  | .fmCvtfb unit g src => Sys2Proof.Machine.execFmCvtfb unit g src s
  | .fmCvt8 unit g src => Sys2Proof.Machine.execFmCvt8 unit g src s
  | .fmCvt6 unit g src => Sys2Proof.Machine.execFmCvt6 unit g src s
  | .fmDec8 unit g src => Sys2Proof.Machine.execFmDec8 unit g src s
  | .fmDec6 unit g src => Sys2Proof.Machine.execFmDec6 unit g src s
  | .fmHmin unit g src => Sys2Proof.Machine.execFmHmin unit g src s
  | .fmHmax unit g src => Sys2Proof.Machine.execFmHmax unit g src s
  | .fmBmin unit g src => Sys2Proof.Machine.execFmBmin unit g src s
  | .fmBmax unit g src => Sys2Proof.Machine.execFmBmax unit g src s
  | .sfDiv g src => Sys2Proof.Machine.execSfDiv g src s
  | .sfSqrt g src => Sys2Proof.Machine.execSfSqrt g src s
  | .sfRcp g src => Sys2Proof.Machine.execSfRcp g src s
  | .sfRsqrt g src => Sys2Proof.Machine.execSfRsqrt g src s
  | .sfExp2 g src => Sys2Proof.Machine.execSfExp2 g src s
  | .sfLog2 g src => Sys2Proof.Machine.execSfLog2 g src s
  | .sfSinpi g src => Sys2Proof.Machine.execSfSinpi g src s
  | .sfCospi g src => Sys2Proof.Machine.execSfCospi g src s
  | .sfScpi g src => Sys2Proof.Machine.execSfScpi g src s
  | .xlShfl g src => Sys2Proof.Machine.execXlShfl g src s
  | .xlShup g src => Sys2Proof.Machine.execXlShup g src s
  | .xlShdn g src => Sys2Proof.Machine.execXlShdn g src s
  | .xlShxor g src => Sys2Proof.Machine.execXlShxor g src s
  | .xlVany g src => Sys2Proof.Machine.execXlVany g src s
  | .xlVall g src => Sys2Proof.Machine.execXlVall g src s
  | .xlBallot g src => Sys2Proof.Machine.execXlBallot g src s
  | .xlMatch g src => Sys2Proof.Machine.execXlMatch g src s
  | .xlScan g src => Sys2Proof.Machine.execXlScan g src s
  | .xlFscan g src => Sys2Proof.Machine.execXlFscan g src s
  | .xlRed g src => Sys2Proof.Machine.execXlRed g src s
  | .xlRedmin g src => Sys2Proof.Machine.execXlRedmin g src s
  | .xlRedmax g src => Sys2Proof.Machine.execXlRedmax g src s
  | .xlFred g src => Sys2Proof.Machine.execXlFred g src s
  | .xlBlk8 g src => Sys2Proof.Machine.execXlBlk8 g src s
  | .xlBlk6 g src => Sys2Proof.Machine.execXlBlk6 g src s
  | .smSend g src => Sys2Proof.Machine.execSmSend g src s
  | .smSendr g src => Sys2Proof.Machine.execSmSendr g src s
  | .smSendb g src => Sys2Proof.Machine.execSmSendb g src s
  | .ldLb g src => Sys2Proof.Machine.execLdLb g src s
  | .ldLbz g src => Sys2Proof.Machine.execLdLbz g src s
  | .ldLh g src => Sys2Proof.Machine.execLdLh g src s
  | .ldLhz g src => Sys2Proof.Machine.execLdLhz g src s
  | .ldLw g src => Sys2Proof.Machine.execLdLw g src s
  | .ldLd g src => Sys2Proof.Machine.execLdLd g src s
  | .ldLwo g src => Sys2Proof.Machine.execLdLwo g src s
  | .ldLdo g src => Sys2Proof.Machine.execLdLdo g src s
  | .ldTld g src => Sys2Proof.Machine.execLdTld g src s
  | .ldLblk g src => Sys2Proof.Machine.execLdLblk g src s
  | .ldPf g src => Sys2Proof.Machine.execLdPf g src s
  | .stSb g src => Sys2Proof.Machine.execStSb g src s
  | .stSh g src => Sys2Proof.Machine.execStSh g src s
  | .stSw g src => Sys2Proof.Machine.execStSw g src s
  | .stSd g src => Sys2Proof.Machine.execStSd g src s
  | .stSwo g src => Sys2Proof.Machine.execStSwo g src s
  | .stSdo g src => Sys2Proof.Machine.execStSdo g src s
  | .stTst g src => Sys2Proof.Machine.execStTst g src s
  | .stAadd g src => Sys2Proof.Machine.execStAadd g src s
  | .stAfadd g src => Sys2Proof.Machine.execStAfadd g src s
  | .stAmin g src => Sys2Proof.Machine.execStAmin g src s
  | .stAmax g src => Sys2Proof.Machine.execStAmax g src s
  | .stAminu g src => Sys2Proof.Machine.execStAminu g src s
  | .stAmaxu g src => Sys2Proof.Machine.execStAmaxu g src s
  | .stAand g src => Sys2Proof.Machine.execStAand g src s
  | .stAor g src => Sys2Proof.Machine.execStAor g src s
  | .stAxor g src => Sys2Proof.Machine.execStAxor g src s
  | .stAxch g src => Sys2Proof.Machine.execStAxch g src s
  | .stAcas g src => Sys2Proof.Machine.execStAcas g src s
  | .stRadd g src => Sys2Proof.Machine.execStRadd g src s
  | .stRfadd g src => Sys2Proof.Machine.execStRfadd g src s
  | .stMcst g src => Sys2Proof.Machine.execStMcst g src s
  | .mxTmma src => Sys2Proof.Machine.execMxTmma src s
  | .mxTout src => Sys2Proof.Machine.execMxTout src s
  | .mxTfill src => Sys2Proof.Machine.execMxTfill src s
  | .mxTableLoad src => Sys2Proof.Machine.execMxTableLoad src s
  | .mxTzero src => Sys2Proof.Machine.execMxTzero src s
  | .mxTewAdd src => Sys2Proof.Machine.execMxTewAdd src s
  | .mxTewMul src => Sys2Proof.Machine.execMxTewMul src s
  | .mxTewScale src => Sys2Proof.Machine.execMxTewScale src s
  | .mxTredRow src => Sys2Proof.Machine.execMxTredRow src s
  | .mxTredCol src => Sys2Proof.Machine.execMxTredCol src s
  | .mxTtrn src => Sys2Proof.Machine.execMxTtrn src s
  | .mxMxfence src => Sys2Proof.Machine.execMxMxfence src s
  | .mxQadv src => Sys2Proof.Machine.execMxQadv src s
  | .cpCopy1 src => Sys2Proof.Machine.execCpCopy1 src s
  | .cpCopy2 src => Sys2Proof.Machine.execCpCopy2 src s
  | .cpCopyt src => Sys2Proof.Machine.execCpCopyt src s
  | .cpMcast src => Sys2Proof.Machine.execCpMcast src s
  | .cpFill src => Sys2Proof.Machine.execCpFill src s
  | .cpColl src => Sys2Proof.Machine.execCpColl src s
  | .cpOvl src => Sys2Proof.Machine.execCpOvl src s
  | .resultDelivery group seq retried poisoned => Sys2Proof.Machine.execResultDelivery group seq retried poisoned s
  | .loadDataReturn group seq => Sys2Proof.Machine.execLoadDataReturn group seq s
  | .scalarLoadReturn group seq => Sys2Proof.Machine.execScalarLoadReturn group seq s
  | .storeAccept group seq => Sys2Proof.Machine.execStoreAccept group seq s
  | .prefetchFill group seq => Sys2Proof.Machine.execPrefetchFill group seq s
  | .lblkFillComplete core team flag => Sys2Proof.Machine.execLblkFillComplete core team flag s
  | .lblkLineInvalidate core team flag line => Sys2Proof.Machine.execLblkLineInvalidate core team flag line s
  | .polderRecall core line exclusive => Sys2Proof.Machine.execPolderRecall core line exclusive s
  | .seamDelivery group => Sys2Proof.Machine.execSeamDelivery group s
  | .heldSplitTimeout group split => Sys2Proof.Machine.execHeldSplitTimeout group split s
  | .splitStarvationPresent group split => Sys2Proof.Machine.execSplitStarvationPresent group split s
  | .contextStarvationPrimary group => Sys2Proof.Machine.execContextStarvationPrimary group s
  | .yieldEnd group => Sys2Proof.Machine.execYieldEnd group s
  | .regclaimServed cluster => Sys2Proof.Machine.execRegclaimServed cluster s
  | .spawnQueueRoom group => Sys2Proof.Machine.execSpawnQueueRoom group s
  | .spawnEventWake group => Sys2Proof.Machine.execSpawnEventWake group s
  | .pflushComplete group => Sys2Proof.Machine.execPflushComplete group s
  | .overlayLoadComplete core slot => Sys2Proof.Machine.execOverlayLoadComplete core slot s
  | .barrierPhaseComplete team id => Sys2Proof.Machine.execBarrierPhaseComplete team id s
  | .dsyncComplete domain => Sys2Proof.Machine.execDsyncComplete domain s
  | .fenceComplete group seq => Sys2Proof.Machine.execFenceComplete group seq s
  | .waitcComplete group => Sys2Proof.Machine.execWaitcComplete group s
  | .mxwaitComplete group => Sys2Proof.Machine.execMxwaitComplete group s
  | .cpwaitComplete group => Sys2Proof.Machine.execCpwaitComplete group s
  | .mxtakeGrant team => Sys2Proof.Machine.execMxtakeGrant team s
  | .streamWriteWaitEnd group => Sys2Proof.Machine.execStreamWriteWaitEnd group s
  | .liningWriteWaitEnd group => Sys2Proof.Machine.execLiningWriteWaitEnd group s
  | .mxCommandStart team => Sys2Proof.Machine.execMxCommandStart team s
  | .mxCommandRetire team poisoned => Sys2Proof.Machine.execMxCommandRetire team poisoned s
  | .batchComplete team => Sys2Proof.Machine.execBatchComplete team s
  | .reverseEntry team poisoned => Sys2Proof.Machine.execReverseEntry team poisoned s
  | .reverseSuspend team => Sys2Proof.Machine.execReverseSuspend team s
  | .copyStart core cmd => Sys2Proof.Machine.execCopyStart core cmd s
  | .copyResume core cmd => Sys2Proof.Machine.execCopyResume core cmd s
  | .copyComplete core cmd => Sys2Proof.Machine.execCopyComplete core cmd s
  | .collCall core cmd ranks => Sys2Proof.Machine.execCollCall core cmd ranks s
  | .collJoinTimeout core cmd => Sys2Proof.Machine.execCollJoinTimeout core cmd s
  | .taskFetch queue => Sys2Proof.Machine.execTaskFetch queue s
  | .dependencePoll queue => Sys2Proof.Machine.execDependencePoll queue s
  | .taskPriorityRise queue => Sys2Proof.Machine.execTaskPriorityRise queue s
  | .taskDispatch dispatcher => Sys2Proof.Machine.execTaskDispatch dispatcher s
  | .walkerExpand task => Sys2Proof.Machine.execWalkerExpand task s
  | .tileStepLaunch task => Sys2Proof.Machine.execTileStepLaunch task s
  | .teamAdmit team core => Sys2Proof.Machine.execTeamAdmit team core s
  | .teamResident team clusters => Sys2Proof.Machine.execTeamResident team clusters s
  | .teamPark team => Sys2Proof.Machine.execTeamPark team s
  | .teamReady team => Sys2Proof.Machine.execTeamReady team s
  | .preempt team => Sys2Proof.Machine.execPreempt team s
  | .teamRetire team => Sys2Proof.Machine.execTeamRetire team s
  | .pageResponseOk func tag => Sys2Proof.Machine.execPageResponseOk func tag s
  | .pageResponseFail func tag => Sys2Proof.Machine.execPageResponseFail func tag s
  | .priResponse func tag ok => Sys2Proof.Machine.execPriResponse func tag ok s
  | .invPage func asid => Sys2Proof.Machine.execInvPage func asid s
  | .invAsid func asid => Sys2Proof.Machine.execInvAsid func asid s
  | .invFunction func => Sys2Proof.Machine.execInvFunction func s
  | .atsInvalidateRequest func asid va => Sys2Proof.Machine.execAtsInvalidateRequest func asid va s
  | .invalidationEnd func => Sys2Proof.Machine.execInvalidationEnd func s
  | .qtailNotify func queue part relaxed val => Sys2Proof.Machine.execQtailNotify func queue part relaxed val s
  | .queueConfigWrite func queue ctl part val => Sys2Proof.Machine.execQueueConfigWrite func queue ctl part val s
  | .qownWrite func offset part val => Sys2Proof.Machine.execQownWrite func offset part val s
  | .fqctlWrite func part val => Sys2Proof.Machine.execFqctlWrite func part val s
  | .pcapWrite func part val => Sys2Proof.Machine.execPcapWrite func part val s
  | .pfloorWrite func index part val => Sys2Proof.Machine.execPfloorWrite func index part val s
  | .didtDnWrite func part val => Sys2Proof.Machine.execDidtDnWrite func part val s
  | .linkcfgWrite func part val => Sys2Proof.Machine.execLinkcfgWrite func part val s
  | .partmapWrite func part val => Sys2Proof.Machine.execPartmapWrite func part val s
  | .fpartWrite func part val => Sys2Proof.Machine.execFpartWrite func part val s
  | .partctlWrite func part val => Sys2Proof.Machine.execPartctlWrite func part val s
  | .partitionPreempt part => Sys2Proof.Machine.execPartitionPreempt part s
  | .svloadGo func part val => Sys2Proof.Machine.execSvloadGo func part val s
  | .mboxReport func => Sys2Proof.Machine.execMboxReport func s
  | .mboxAlarmLog func => Sys2Proof.Machine.execMboxAlarmLog func s
  | .mboxBadCommand func cmd => Sys2Proof.Machine.execMboxBadCommand func cmd s
  | .registerWrite func offset part val => Sys2Proof.Machine.execRegisterWrite func offset part val s
  | .flitReceive port flit => Sys2Proof.Machine.execFlitReceive port flit s
  | .flitReplay port => Sys2Proof.Machine.execFlitReplay port s
  | .portDown port cause => Sys2Proof.Machine.execPortDown port cause s
  | .linkNarrow port m => Sys2Proof.Machine.execLinkNarrow port m s
  | .linkWiden port m => Sys2Proof.Machine.execLinkWiden port m s
  | .peerInboundAccess acc => Sys2Proof.Machine.execPeerInboundAccess acc s
  | .peerAcknowledge group seq => Sys2Proof.Machine.execPeerAcknowledge group seq s
  | .weirCycle core => Sys2Proof.Machine.execWeirCycle core s
  | .predRise core => Sys2Proof.Machine.execPredRise core s
  | .predFall core => Sys2Proof.Machine.execPredFall core s
  | .forcedCheck core => Sys2Proof.Machine.execForcedCheck core s
  | .capControllerPeriod m => Sys2Proof.Machine.execCapControllerPeriod m s
  | .engineThrottleWindow core group busy narrow wide => Sys2Proof.Machine.execEngineThrottleWindow core group busy narrow wide s
  | .hintOnset group => Sys2Proof.Machine.execHintOnset group s
  | .hintExpiry group => Sys2Proof.Machine.execHintExpiry group s
  | .tamperAlarm sensor => Sys2Proof.Machine.execTamperAlarm sensor s
  | .moduleReset cause => Sys2Proof.Machine.execModuleReset cause s
  | .vfFlr vf => Sys2Proof.Machine.execVfFlr vf s
  | .portUp port => Sys2Proof.Machine.execPortUp port s
  | .svloadLoadEnd core => Sys2Proof.Machine.execSvloadLoadEnd core s
  | .mailboxCommandEnd func => Sys2Proof.Machine.execMailboxCommandEnd func s

end Sys2Proof.Machine
end

