-- ==== Sys2Proof/Machine/Cycle.lean ====
section
/-!
DEFINITION. A cluster's choice of context and bundle (R45-R50, R53, R306, R315, R316), the acts of the agenda, and what happens when it is
empty (log 1).
-/

namespace Sys2Proof.Machine

/-! ## What a context presents (R24, R45) -/

/-- The split that a context presents, with what its fetch gives. -/
def presented (s : State) (gid : Nat) : Option (Nat × Fetch) :=
  let g := groupOf s gid
  (present g).map fun sid => (sid, fetch (coreOf s (groupCore s gid)) g.super (splitOf g sid).pc)

/-- Whether the supplied routine can go on: an emulated access waits for the group's earlier ones (log 8). -/
def routineReady (g : Group) : Bool :=
  handsOver g.tvec (bits g.ecause.toNat 0 8) || decide (bits g.ecause.toNat 0 8 ≠ 5) || !emulates g.einfo || g.ops.isEmpty

/-- Whether a presented bundle can be issued: an illegal one traps at once. -/
def fetchReady (s : State) (gid sid : Nat) : Fetch → Bool
  | .frozen => false
  | .poisoned => true
  | .illegal _ => true
  | .absent _ => true
  | .routine => routineReady (groupOf s gid)
  | .bundle i =>
    match toBundle i with
    | none => false
    | some b =>
      (firstIllegal b).isSome || !bundleStalls (delivered s gid b) gid sid b

/-- Whether a context is ready (R45). -/
def contextReady (s : State) (gid : Nat) : Bool :=
  let g := groupOf s gid
  g.wait.isNone && g.pageFault.isNone && (g.ops.all fun o => !o.replay) && !frozenCore s (groupCore s gid) &&
    match presented s gid with
    | none => false
    | some (sid, f) => fetchReady s gid sid f

/-! ## Bundle boundaries (R21-R23, R53, R315, R321) -/

/-- A resumed group whose page responses have all come: it goes on, or takes the trap of a failed one, which gives up a replacement that
stood for the faulting bundle (R313, R315). -/
def resumeFault (s : State) (gid : Nat) : State :=
  let g := groupOf s gid
  match g.pageFault with
  | none => s
  | some x =>
    if !x.out || !x.waits.isEmpty then s
    else match failedTrap x.failed with
      | none => setGroup s gid { g with pageFault := none }
      | some t => takeTrap (setGroup s gid { g with pageFault := none, inject := none }) gid x.split t (splitOf g x.split).pc []

/-- A presented bundle that stalls on an unfilled port counts once (R53). -/
def countStall (s : State) (gid : Nat) : State :=
  match presented s gid with
  | some (sid, .bundle i) =>
    match toBundle i with
    | some b =>
      let g := groupOf s gid
      if g.wait.isNone && g.pageFault.isNone then stallBundle s gid sid b else s
    | none => s
  | _ => s

/-- A resident group at its bundle boundary: a drain that has ended, dropped loads, a trap, then stacks and merges, which wait while the
group does (R306), and the count of stalls. -/
def groupBoundary (s : State) (gid : Nat) : State :=
  let s := takePending (resumeFault (replayOps (faultOut s gid) gid) gid) gid
  let g := groupOf s gid
  countStall (setGroup s gid (deliverDue (if g.wait.isSome || g.pageFault.isSome then g else boundary g))) gid

/-- The contexts of a retired cluster leave it at their boundaries (R371). -/
def leaveRetired (s : State) (cl : Nat) : State :=
  if (clusterOf s cl).retired then (residents s cl).foldl (fun s e => switchOut s e.1) s else s

/-- A context's ready time begun, kept or ended (R46). -/
def markReady (s : State) (cl gid : Nat) : State :=
  let g := groupOf s gid
  setGroup s gid { g with
    readySince := if contextReady s gid then some (g.readySince.getD (clusterOf s cl).cycles) else none }

/-- Every context of a cluster at its boundary. -/
def clusterBoundary (s : State) (cl : Nat) : State :=
  let s := leaveRetired (((residents s cl).map Prod.fst).foldl groupBoundary s) cl
  let ids := (residents s cl).map Prod.fst
  ids.foldl (fun s gid => markReady s cl gid) s

/-! ## Primary and secondary (R46, R47, R49) -/

/-- The ready contexts of a cluster after its boundary. -/
def readyContexts (s : State) (cl : Nat) : List (Nat × Group) := (residents s cl).filter fun e => e.2.readySince.isSome

/-- The primary among ready contexts: the one that has been ready longest, for 64 cycles or more, else the one resident earliest that is not
yielding. -/
def primaryOf (c : Cluster) (rs : List (Nat × Group)) : Option Nat :=
  let fresh := rs.filter fun e => match e.2.yieldUntil with
    | some n => decide (n ≤ c.cycles)
    | none => true
  (match longestReady c rs with
    | some e => some e
    | none => leastBy (fun g => (g.since, slotOfGroup g)) (if fresh.isEmpty then rs else fresh)).map Prod.fst

/-- The moves of a bundle, long-immediate slots among them. -/
def moveCount (b : Bundle) : Nat := (b.slots.filter fun x => x ≠ .empty).length

/-- The units that a bundle triggers. -/
def unitsFired (b : Bundle) : List FUnit :=
  (bundleMoves b).filterMap fun p => match p.2.dst with
    | .trig t => some (triggerUnit t)
    | _ => none

/-- The banks of registers (R93). -/
def regBanks (rs : List Nat) : List Nat := rs.map fun r => r % 6

/-- Whether two bundles merge (R47); one that issues as sub-bundles never does (R94). -/
def merges (a b : Bundle) (level : Nat) : Bool :=
  decide (moveCount a + moveCount b ≤ 6) && (unitsFired a).all (fun u => !(unitsFired b).contains u) &&
    decide (bankLoad (vReads a) ≤ 1 ∧ bankLoad (vReads b) ≤ 1 ∧ bankLoad (vWrites a) ≤ 1 ∧ bankLoad (vWrites b) ≤ 1) &&
    (regBanks (vReads a)).all (fun k => !(regBanks (vReads b)).contains k) &&
    (regBanks (vWrites a)).all (fun k => !(regBanks (vWrites b)).contains k) &&
    !(a.scalar.isSome && b.scalar.isSome) && decide (level < 2)

/-- The bundle that a context presents. -/
def bundleOf (s : State) (gid : Nat) : Option Bundle :=
  match presented s gid with
  | some (_, .bundle i) => (toBundle i).filter fun b => (firstIllegal b).isNone
  | _ => none

/-- The secondary of a primary's bundle: the first ready context in rotating slot order whose bundle merges with it. -/
def secondaryOf (s : State) (cl gid : Nat) (rs : List (Nat × Group)) : Option (Nat × Nat) :=
  let c := clusterOf s cl
  match bundleOf s gid with
  | none => none
  | some a =>
    ((List.range 16).filterMap fun i =>
      let k := (c.lastSecondary + 1 + i) % 16
      (rs.find? fun e => decide (slotOfGroup e.2 = k ∧ e.1 ≠ gid)).map fun e => (e.1, k)).find? fun e =>
        match bundleOf s e.1 with
        | some b => merges a b (coreOf s (coreOfCluster cl)).weir.level
        | none => false

/-! ## Issue -/

/-- An outcome with a function of its next state. -/
def onNext (f : State → State) : Host.Outcome State Fault Refusal → Host.Outcome State Fault Refusal
  | .next s => .next (f s)
  | .fault r => .fault r
  | .refused r => .refused r

/-- A split issues what its fetch gave: its bundle, or the trap of an illegal one (R110) or of a slot that is not resident (R316), or the
supplied routine (R314). A bundle with an uncorrectable error kills the live lanes of its half, as the scalar pipe does (R321, R368; DESIGN
CHOICE, log 43). -/
def runFetch (s : State) (gid sid : Nat) : Fetch → Host.Outcome State Fault Refusal
  | .bundle i => onNext (fun t => { t with cur := none }) (exec i { s with cur := some (gid, sid) })
  | .illegal k => .next (trapBundle s gid sid { code := 1, info := 0, slot := k } [])
  | .absent k => .next (trapBundle s gid sid { code := 0x0B, info := BitVec.ofNat 64 k, slot := 7 } [])
  | .routine => .next (routineStep s gid sid)
  | .poisoned => .next (killScalar s gid sid (splitOf (groupOf s gid) sid).pc)
  | .frozen => .next s

/-- A context issues. -/
def runContext (s : State) (gid : Nat) : Host.Outcome State Fault Refusal :=
  match presented s gid with
  | none => .next s
  | some (sid, f) => runFetch s gid sid f

/-- The cluster after its primary is chosen: the secondary comes next. -/
def choosePair (s : State) (cl gid : Nat) (rs : List (Nat × Group)) : State :=
  let c := clusterOf s cl
  setCluster s cl (match secondaryOf s cl gid rs with
    | some (k, slot) => { c with pairWith := some k, lastSecondary := slot }
    | none => { c with pairWith := none })

/-- A cycle of a cluster that issues nothing. -/
def idleCycle (s : State) (cl : Nat) : State :=
  let c := clusterOf s cl
  setCluster s cl { c with cycles := c.cycles + 1, pairWith := none }

/-- A pair is over. -/
def endPair (cl : Nat) (s : State) : State := setCluster s cl { clusterOf s cl with pairWith := none }

/-- The cycle of a primary whose bundle has trapped counts as well (R46); a bundle that issues has counted its own. -/
def passCycle (cl before : Nat) (s : State) : State :=
  let c := clusterOf s cl
  if c.cycles = before then setCluster s cl { c with cycles := before + 1 } else s

/-- A cluster issues: the secondary of the last pair, in that pair's cycle, else a primary; `none` where no context is ready. -/
def clusterIssues (s : State) (cl : Nat) : Option (Host.Outcome State Fault Refusal) :=
  let rs := readyContexts s cl
  let c := clusterOf s cl
  match rs.find? fun e => decide (c.pairWith = some e.1) with
  | some e => some (onNext (endPair cl) (runContext s e.1))
  | none => (primaryOf c rs).map fun gid => onNext (passCycle cl c.cycles) (runContext (choosePair s cl gid rs) gid)

/-! ## Progress where nothing is scheduled (log 1) -/

/-- The first of some states that is there. -/
def firstState : List (Option State) → State → State
  | [], s => s
  | none :: r, s => firstState r s
  | some t :: _, _ => t

/-- The groups of a core's teams. -/
def coreGroups (s : State) (core : Nat) : List (Nat × Group) := s.groups.filter fun e => decide ((teamOf s e.2.team).core = core)

/-- A group's first outstanding access that may be performed. -/
def progressOps (s : State) (gid : Nat) : Option State :=
  let g := groupOf s gid
  (g.ops.find? fun o => !o.replay && opReady s gid o && (!opPeer o || peerReachable s gid o)).map fun o =>
    performReady s gid o.id fun _ => true

/-- A group's wait whose condition holds. -/
def progressWait (s : State) (gid : Nat) : Option State :=
  match (groupOf s gid).wait with
  | some w => if waitMet s gid w then some (tryWait s gid fun _ => true) else none
  | none => none

/-- A group's fence whose earlier accesses are performed. -/
def progressFence (s : State) (gid : Nat) : Option State :=
  let g := groupOf s gid
  (g.fences.find? fun f => fenceOver g f).map fun f => fenceEnds s gid f.id

/-- A group's first fixed-latency result not yet delivered, in its own image or, in supervisor mode, in the one it left (R311). -/
def progressResult (s : State) (gid : Nat) : Option State :=
  let g := groupOf s gid
  ((g.image.results ++ (g.user.getD {}).results).find? fun r => fixedLatency r.unit && !resultFull r).map fun r => deliverResult s gid r.id 0 0

/-- A group's first seam send. -/
def progressSeam (s : State) (gid : Nat) : Option State :=
  let t := seamDelivers s gid
  if (groupOf t gid).seam.length < (groupOf s gid).seam.length then some t else none

/-- A state in which a team's record has moved on, if it has. -/
def teamMoved (s : State) (tid : Nat) (t : State) : Option State := if teamOf t tid = teamOf s tid then none else some t

/-- A team's engine work. -/
def progressEngine (s : State) (tid : Nat) : Option State :=
  let t := teamOf s tid
  match engineHead t with
  | none => if t.batches.isEmpty then none else teamMoved s tid (batchCompletes s tid)
  | some i =>
    teamMoved s tid (if !i.started then engineStarts s tid
      else match i.op with
        | .tile _ _ _ => engineRetires s tid false
        | .reverse => if i.walkDone then engineRetires s tid false else entryRuns s tid false)

/-- A core's block transfers. -/
def progressCopy (s : State) (core : Nat) : Option State :=
  let c := coreOf s core
  match c.copies.find? fun x => decide (x.state = .running ∧ x.op ≠ .ovl) && (decide (x.op = .mcast) || !movesBlocked s core x x.moves) with
  | some x => some (copyCompletes s core x.id)
  | none =>
    (c.copies.find? fun x => cmdReady s x && !(c.copies.any fun y => cmdReady s y && cmdBefore y x) && !cmdBlocked s core x).map fun x =>
      copyStarts s core x.id

/-- What happens when nothing is scheduled and no context of the cluster is ready: the first thing due among the accesses, waits, fences,
sends, engine work and results of its contexts, or, while its core is frozen, the Weir's next cycle. -/
def progress (s : State) (cl : Nat) : State :=
  let core := coreOfCluster cl
  if frozenCore s core then weirCycles s core
  else
    let ids := (residents s cl).map Prod.fst
    let all := (coreGroups s core).map Prod.fst
    let teams := (coreTeams s core).map Prod.fst
    firstState (all.map (progressOps s) ++ ids.map (progressWait s) ++ all.map (progressFence s) ++ all.map (progressSeam s) ++
      teams.map (progressEngine s) ++ [progressCopy s core] ++ ids.map (progressResult s)) s

/-! ## Acts -/

/-- A cluster's turn; `dflt` marks the one taken because nothing is scheduled. A frozen cluster has no cycle (R325). -/
def runCluster (dflt : Bool) (s : State) (cl : Nat) : Host.Outcome State Fault Refusal :=
  if frozenCore s (coreOfCluster cl) then .next (if dflt then progress s cl else s)
  else
    let s := clusterBoundary s cl
    match clusterIssues s cl with
    | some o => o
    | none => .next (if dflt then progress (idleCycle s cl) cl else idleCycle s cl)

/-- An act. A bundle is issued by its cluster, never as an event. -/
def runAct (s : State) : Act → Host.Outcome State Fault Refusal
  | .issue cl => if cl < 1536 then runCluster false s cl else .next s
  | .event i => if (toBundle i).isSome then .next s else exec i s
  | .eccCorrected => .next (countCorrected s)
  | .uncorrectable sp core a => .next (poisonMemory s sp core a)
  | .uncorrectableReg gid reg m => .next (if (tget s.groups gid).isSome then poisonReg s gid reg m else s)
  | .uncorrectableCode core a => .next (poisonCode s core a)
  | .uncorrectableAcc core tile elem => .next (poisonAcc s core tile elem)
  | .chunkRetry => .next (countResidue s)
  | .uncorrectableScalar gid reg => .next (if (tget s.groups gid).isSome then poisonScalar s gid reg else s)
  | .hostPost f a b => .next (hostPosts s f a b)
  | .hostPerform => .next (hostPerforms s)
  | .poll q => .next (pollDeps s q)
  | .bringUp => .next (bringUpStep s)
  | .elements gid id part ks => .next (if (tget s.groups gid).isSome then performElements s gid id part ks else s)
  | .tileBytes tid ks => .next (if (tget s.teams tid).isSome then engineStep s tid fun s => showTile s tid ks else s)

/-- The time after a step (log 2); bring-up reaches DEVREADY by tick 2,000,000,000 (R376). -/
def timeAfter (s : State) : Nat :=
  let n := s.gtime + Config.elapsed s.free
  match s.bring with
  | .done | .failed => n
  | .train | .verify | .test | .load | .ready => min n 2000000000

/-- The passing of time with a step (log 2). -/
def tick (s : State) : State := { s with gtime := timeAfter s, free := s.free + 1 }

/-! ## Placing a program (log 4) -/

/-- The kernel that a program is placed with: native width, 320 registers, all of the scratchpad, 32 barrier objects, one group. -/
def loadKDesc : KDesc := { noKDesc with nreg := 40, spkb := 1024, nbar := 32, ngrp := 1 }

/-- A team of one group, launched and resident on cluster 0 of the module, with bytes at its entry point in overlay slot 0; the cluster
takes it next. -/
def loadProgram (s : State) (bytes : List Byte) : State :=
  let tid := s.nextId
  let gid := tid + 1
  let task := tid + 2
  let t : Team := { noTeam with task := task, kd := loadKDesc, groups := [gid], place := .resident, ovmask := 0x7F }
  let c := coreOf s 0
  let k := clusterOf s 0
  let s := setTask s task { noTask with stage := .dispatched, total := 1, offered := 1, left := 1, live := 1, remainDone := true }
  let s := setTeam s tid t
  let s := setGroup s gid { launchGroup tid t 0 with place := .resident 0 0, since := tid }
  let s := setCore s 0 { c with
    imem := memWrite c.imem 0 bytes, imemPoison := c.imemPoison.filter fun g => decide (g ≠ 0), ovres := c.ovres ||| 1, weir := { c.weir with frozen := false } }
  let s := setCluster s 0 { k with pairWith := some gid }
  { s with agenda := [], focus := 0, nextId := tid + 3 }

end Sys2Proof.Machine
end

