-- ==== Sys2Proof/Machine/Step.lean ====
section
/-!
DEFINITION. One step of the module: the first act of the agenda, or the turn of the cluster `focus` where the agenda is empty (log 1); then
time passes (log 2).
-/

namespace Sys2Proof.Machine

/-- One step. -/
def step (s : State) : Host.Outcome State Fault Refusal :=
  onNext tick (match s.agenda with
    | [] => runCluster true s s.focus
    | a :: r => runAct { s with agenda := r } a)

/-- A state whose next step fetches and runs one bundle with the given bits, those above them 0. -/
def State.withFetchWord (s : State) (nbits w : Nat) : State := loadProgram s (bytesOfWord (BitVec.ofNat 256 (w % 2 ^ nbits)))

end Sys2Proof.Machine
end

