-- ==== Sys2Proof/Safety.lean ====
section
/-!
DEFINITION. The terms that claims use: a run without a fault, the split that a cluster presents, when its bundle issues or traps, what an
issue leaves alone, what the operations, the tile commands and the transfers compute as plain arithmetic on exact numbers, and the canonical form
of every memory.
-/

namespace Sys2Proof.Safety

open Sys2Proof.Machine

/-- An outcome that is no fault. -/
def NoFault (o : Host.Outcome State Fault Refusal) : Prop := ∀ r, o ≠ .fault r

/-! ## Memories -/

/-- The canonical form of a core's memories: scratchpad and instruction memory. -/
def coreMemWf (c : Core) : Bool := memWf c.sp && memWf c.imem

/-- Every memory of the module, and the host's and the peers' memories, in canonical form. -/
def memoriesWf (s : State) : Bool :=
  memWf s.mem && memWf s.hostMem && (s.peerMem.all fun e => memWf e.2) && s.cores.all fun e => coreMemWf e.2

/-! ## The split that issues -/

/-- A split that its cluster presents (R24, R45), for which no replaced access is left (R313). -/
abbrev Presents (s : State) (gid sid : Nat) : Prop := s.cur = some (gid, sid) ∧ (groupOf s gid).inject = none

/-- A bundle that is presented, is legal (R110), and reads nothing that is awaited (R86, R89). -/
abbrev Ready (s : State) (gid sid : Nat) (b : Bundle) : Prop :=
  Presents s gid sid ∧ firstIllegal b = none ∧ bundleStalls (delivered s gid b) gid sid b = false

/-- A bundle passes its checks: it is ready, it meets no trap condition (R306, R307) and no missing page (R315). -/
abbrev Passes (s : State) (gid sid : Nat) (b : Bundle) : Prop :=
  Ready s gid sid b ∧ bundleTraps (delivered s gid b) gid sid b = [] ∧ (bundlePlan (delivered s gid b) gid sid b).miss = []

/-- A bundle reads no scalar register, and by its scalar slot no mask, that holds an uncorrectable error (R321). -/
abbrev Sound (s : State) (gid sid : Nat) (b : Bundle) : Prop := scalarPoisoned (deliverFor (groupOf s gid) b) sid b = false

/-- A bundle without checks of its own runs: it is ready, and its scalar operands are sound. -/
abbrev Runs (s : State) (gid sid : Nat) (b : Bundle) : Prop := Ready s gid sid b ∧ Sound s gid sid b

/-- A bundle issues: it passes its checks, and its scalar operands are sound. -/
abbrev Issues (s : State) (gid sid : Nat) (b : Bundle) : Prop := Passes s gid sid b ∧ Sound s gid sid b

/-- A bundle traps: it is ready, and the trap reported among those it meets is `t` (R306, R111). -/
abbrev Traps (s : State) (gid sid : Nat) (b : Bundle) (t : TrapInfo) : Prop :=
  Ready s gid sid b ∧ worstTrap (bundleTraps (delivered s gid b) gid sid b) = some t

/-- No operand that a bundle's moves and triggers consume is poisoned (R321). -/
abbrev Clean (s : State) (gid sid : Nat) (b : Bundle) : Prop :=
  killedBy (bundleMoved (delivered s gid b) gid sid b) (halfOf (groupOf (delivered s gid b) gid) sid)
    (readMoves (delivered s gid b) gid sid b) = (0, 0)

/-- The address of the bundle that a split stands at. -/
def pcOf (s : State) (gid sid : Nat) : Nat := (splitOf (groupOf s gid) sid).pc

/-- The half that a split's registers belong to (R349). -/
def half (s : State) (gid sid : Nat) : Nat := halfOf (groupOf s gid) sid

/-- A scalar register of the half that a split belongs to (R10, R349). -/
def sreg (s : State) (gid sid : Nat) (i : BitVec 6) : DWord := sget (groupOf s gid) (half s gid sid) i.toNat

/-- The second operand of the scalar slot: s[sb] + sext(imm22) (R96). -/
def operandT (s : State) (gid sid : Nat) (sb : BitVec 6) (imm : BitVec 22) : DWord := sreg s gid sid sb + imm.signExtend 64

/-- The team of a group. -/
def teamId (s : State) (gid : Nat) : Nat := (groupOf s gid).team

/-! ## A cluster's turn (R45, R46, R316) -/

/-- At the next step it is a cluster's turn, after the boundaries of its contexts and the choice of the pair the context `gid` presents its
split `sid` in the state `u`, and `after` follows what the split does. -/
def Turn (s : State) (cl gid sid : Nat) (u : State) (after : State → State) : Prop :=
  ∃ rest, (s.agenda = .issue cl :: rest ∧ cl < 1536 ∨ s.agenda = [] ∧ rest = [] ∧ s.focus = cl) ∧
    frozenCore { s with agenda := rest } (coreOfCluster cl) = false ∧
    let v := clusterBoundary { s with agenda := rest } cl
    let rs := readyContexts v cl
    let second := rs.find? fun e => decide ((clusterOf v cl).pairWith = some e.1)
    (second = none ∧ primaryOf (clusterOf v cl) rs = some gid ∧ u = choosePair v cl gid rs ∧ after = passCycle cl (clusterOf v cl).cycles ∨
      (∃ g, second = some (gid, g)) ∧ u = v ∧ after = endPair cl) ∧
    present (groupOf u gid) = some sid

/-- The word at a split's PC: 32 bytes of instruction memory, little-endian (R7, R76). -/
def fetched (u : State) (gid sid : Nat) : BundleWord :=
  BitVec.ofNat 256 (((List.range 32).map fun k =>
    (memGet (coreOf u (groupCore u gid)).imem (pcOf u gid sid + k)).toNat * 2 ^ (8 * k)).sum)

/-- The bytes at a split's PC can be fetched (R316): their slot is resident, they are no address of the supplied routine, and their granule
holds no uncorrectable error. -/
def Fetchable (u : State) (gid sid : Nat) : Prop :=
  let c := coreOf u (groupCore u gid)
  let pc := pcOf u gid sid
  c.ovres.getLsbD (pc / 65536) = true ∧ ((groupOf u gid).super = true → pc = supervisorPc → c.supplied = false) ∧ pc / 32 ∉ c.imemPoison

/-! ## What an issue leaves alone -/

/-- Nothing has changed but one group, the Weir weight of cores and the cycle counts of clusters. -/
def OnlyGroup (s u : State) (gid : Nat) : Prop :=
  u = { s with groups := u.groups, cores := u.cores, clusters := u.clusters } ∧
    (∀ k, k ≠ gid → groupOf u k = groupOf s k) ∧ (∀ k, coreOf u k = { coreOf s k with weir := (coreOf u k).weir }) ∧
    ∀ k, clusterOf u k = { clusterOf s k with cycles := (clusterOf u k).cycles }

/-- The group as a bundle sees it: the results due are delivered, every result where the bundle uses FSTAT (R60, R89). -/
def seen (s : State) (gid : Nat) (b : Bundle) : Group := deliverFor (groupOf s gid) b

/-- The group `h` is `g` after the counts of one issued bundle: every split stands where it stood, with its mask, join and stack. -/
def Counted (g h : Group) : Prop :=
  h = { g with
        image := { g.image with count := g.image.count + 1 }, splits := h.splits, mPrev := [], opId := h.opId
        readySince := none, seamWait := h.seamWait, inject := if g.super then g.inject else none } ∧
    (h.seamWait = g.seamWait ∨ h.seamWait = none) ∧
    ∀ k, splitOf h k =
      { splitOf g k with
        la := (splitOf h k).la, held := (splitOf h k).held, waiting := (splitOf h k).waiting, counted := (splitOf h k).counted }

/-- `w` is `v` after the counts of one bundle issued for a group, and nothing else. -/
def Counts (v w : State) (gid : Nat) : Prop := OnlyGroup v w gid ∧ Counted (groupOf v gid) (groupOf w gid)

/-- `w` is `s` after the issue of a bundle that does nothing of its own: the results due are delivered and its counts are made, and its split
still stands at it. -/
def IssueOf (s : State) (gid : Nat) (b : Bundle) (w : State) : Prop := Counts (delivered s gid b) w gid

/-- The split goes on at the next bundle. -/
def goesOn (w : State) (gid sid : Nat) : State := setPc w gid sid (nextPc (pcOf w gid sid))

/-- A value written to a scalar register of a split's half, s0 discarding it (R96). -/
def putS (w : State) (gid sid : Nat) (sd : BitVec 6) (v : DWord) : State := writeS w gid (half w gid sid) sd.toNat v

/-! ## The scalar slot as arithmetic (R119, R96, R124) -/

/-- The two-operand scalar operations on whole numbers (R119): MULH is the high half of the exact product. -/
def aluValue (op : AluOp) (a t : DWord) : DWord :=
  let n := t.toNat % 64
  match op with
  | .add => BitVec.ofNat 64 (a.toNat + t.toNat)
  | .sub => BitVec.ofInt 64 (a.toInt - t.toInt)
  | .mul => BitVec.ofNat 64 (a.toNat * t.toNat)
  | .mulh => BitVec.ofInt 64 ((a.toInt * t.toInt) >>> 64)
  | .and => BitVec.ofNat 64 (a.toNat &&& t.toNat)
  | .or => BitVec.ofNat 64 (a.toNat ||| t.toNat)
  | .xor => BitVec.ofNat 64 (a.toNat ^^^ t.toNat)
  | .shl => BitVec.ofNat 64 (a.toNat * 2 ^ n)
  | .shr => BitVec.ofNat 64 (a.toNat / 2 ^ n)
  | .sar => BitVec.ofInt 64 (a.toInt / 2 ^ n)
  | .min => BitVec.ofInt 64 (min a.toInt t.toInt)
  | .max => BitVec.ofInt 64 (max a.toInt t.toInt)
  | .minu => BitVec.ofNat 64 (min a.toNat t.toNat)
  | .maxu => BitVec.ofNat 64 (max a.toNat t.toNat)
  | .ceq => BitVec.ofNat 64 (if a.toNat = t.toNat then 1 else 0)
  | .clt => BitVec.ofNat 64 (if a.toInt < t.toInt then 1 else 0)
  | .cltu => BitVec.ofNat 64 (if a.toNat < t.toNat then 1 else 0)

/-- The bundle that a signed field of a branch reaches: 32 bytes a bundle (R96). -/
def bundleAway {n : Nat} (s : State) (gid sid : Nat) (off : BitVec n) : Nat := ((pcOf s gid sid : Int) + 32 * off.toInt).toNat

/-- The lanes of a split in which its condition holds: m0 stands for the active mask (R20, R124). -/
def condOf (s : State) (gid sid : Nat) (inv : Bool) (mask : BitVec 4) : Mask :=
  let g := groupOf s gid
  let a := activeMask g sid
  if inv then a &&& ~~~(if mask = 0 then a else mget g mask.toNat) else a &&& (if mask = 0 then a else mget g mask.toNat)

/-! ## Traps, and groups that end (R134, R307-R313) -/

/-- A split whose lookahead count is 0, standing at an address whose bundle has not been counted as a port stall (R52, R53, R311). -/
def splitAt (g : Group) (sid pc : Nat) : Split :=
  let x := splitOf g sid
  { x with pc := pc, la := x.la.map fun c => { c with left := 0 }, counted := false }

/-- The fields of ECAUSE (R308). -/
def Ecause (e : DWord) (t : TrapInfo) (sid : Nat) : Prop :=
  e.toNat % 2 ^ 8 = t.code ∧ e.toNat / 2 ^ 8 % 2 = (if t.after then 1 else 0) ∧ e.toNat / 2 ^ 9 % 2 ^ 3 = t.slot ∧
    e.toNat / 2 ^ 12 % 2 ^ 2 = sid ∧ e.toNat / 2 ^ 16 % 2 ^ 5 = t.lane.getD 0 ∧
    e.toNat / 2 ^ 21 = (if t.lane.isSome then 1 else 0) ∧ e.toNat / 2 ^ 14 % 2 ^ 2 = 0

/-- A trap whose cause, slot, split and lane fit the fields of ECAUSE. -/
def FitsEcause (t : TrapInfo) (sid : Nat) : Prop := t.code < 256 ∧ t.slot < 8 ∧ sid < 4 ∧ ∀ l, t.lane = some l → l < 32

/-- The group `h` is `g` after a trap in user mode (R311): ECAUSE, EINFO and EPC written, the unit image set aside, supervisor mode, the
trapping split at 0x7_0000; `ports` are the ports that the supervisor routine finds. Nothing else of the group has changed. -/
def Entered (g h : Group) (sid : Nat) (t : TrapInfo) (pc : Nat) (ports : Table PortCell) : Prop :=
  h = { g with
        ecause := h.ecause, einfo := t.info, epc := BitVec.ofNat 64 (pc % 2 ^ 19), user := some g.image, image := { ports := ports }
        super := true, trapSplit := sid, splits := tset g.splits sid (splitAt g sid 0x70000), userPrev := g.mPrev, mPrev := []
        inject := none } ∧
    (FitsEcause t sid → Ecause h.ecause t sid)

/-- A group that has ended (R134): no splits, no results still due, every lane exited. Its registers and the sends it has queued stay. -/
def endedGroup (g : Group) : Group :=
  { g with
    splits := [], exited := 0xFFFFFFFF, image := { g.image with results := [] }, user := none, super := false, deleg := false
    place := .ended, wait := none, pendTraps := [], inject := none, pageFault := none, seamWait := none, emul := none, hints := [] }

/-- A core with a context no longer throttled by its Weir (R330). -/
def loosed (c : Core) (gid : Nat) : Core := { c with weir := { c.weir with throttled := c.weir.throttled.filter fun k => decide (k ≠ gid) } }

/-- The state after a group ends: the token it holds is free (R136), and the Weir throttles it no longer. -/
def ended (s : State) (gid : Nat) : State :=
  let t := teamOf s (teamId s gid)
  let u := setTeam (setGroup s gid (endedGroup (groupOf s gid))) (teamId s gid) { t with token := if t.token = some gid then none else t.token }
  if gid ∈ (coreOf s t.core).weir.throttled then setCore u t.core (loosed (coreOf s t.core) gid) else u

/-- The state after a double trap or an ERET with KILL = 1: the group ends, and its task fails with 0x0B unless it has failed (R312, R313). -/
def killed (s : State) (gid : Nat) : State :=
  let n := (teamOf s (teamId s gid)).task
  setTask (ended s gid) n { taskOf s n with error := some ((taskOf s n).error.getD 0x0B) }

/-- The results of the supervisor routine that no drain has delivered yet: their flags are raised as ERET leaves it (R60). -/
def undelivered (g : Group) : List Result := g.image.results.filter fun r => fixedLatency r.unit

/-- The lanes of a result that hold no delivered value. -/
def openLanes (r : Result) : Mask := r.mask &&& ~~~r.filled

/-- The group `h` is `g` after ERET leaves supervisor mode (R313): the flags of its own operations are raised (R60), the unit image is back,
the split stands at `pc`. -/
def leftGroup (g : Group) (sid pc : Nat) : Group :=
  { g with
    fstat := (undelivered g).foldl (fun f r => f ||| resultFlags g r (openLanes r)) g.fstat
    deadSrc := g.deadSrc || (undelivered g).any fun r => decide (r.dead &&& openLanes r &&& (if g.lw then 0x0000FFFF else 0xFFFFFFFF) ≠ 0)
    deadSrcH := g.deadSrcH || (undelivered g).any fun r => decide (g.lw ∧ r.dead &&& openLanes r &&& 0xFFFF0000 ≠ 0)
    image := g.user.getD g.image, user := none, super := false, deleg := false, mPrev := g.userPrev, userPrev := []
    splits := tset g.splits sid (splitAt g sid pc) }

/-! ## Waits and teams -/

/-- A context stalled in a wait (R117), which began now. -/
def waiting (w : State) (gid sid : Nat) (x : Wait) : State :=
  setGroup w gid { groupOf w gid with wait := some x, waitSplit := sid, waitSince := w.gtime }

/-- A context whose wait ended as it began: it waits for nothing. -/
def waited (w : State) (gid sid : Nat) : State :=
  setGroup w gid { groupOf w gid with wait := none, waitSplit := sid, waitSince := w.gtime }

/-- The team of a group changed, and nothing else. -/
def onTeam (w : State) (gid : Nat) (f : Team → Team) : State := setTeam w (teamId w gid) (f (teamOf w (teamId w gid)))

/-- A group resident on a cluster. -/
def Resident (s : State) (gid : Nat) : Prop := ∃ c k, (groupOf s gid).place = .resident c k

/-- An object after an arrival of a weight, by division (R129): the first phase ends at EXPECT, the later ones at NEXTEXP. -/
def arrived (b : Barrier) (w : Nat) (next : Option Nat) : Barrier :=
  let later := next.getD b.nextexp
  let first := if next.isSome ∧ b.count = 0 then later else b.expect
  let n := b.count + w
  if n < first then { expect := first, nextexp := later, count := n, phase := b.phase }
  else { expect := later, nextexp := later, count := (n - first) % later, phase := (b.phase + 1 + (n - first) / later) % 2 ^ 32 }

/-- A state whose team has committed its step, where it runs one (R256). -/
def committed (w : State) (gid : Nat) : State :=
  if (teamOf w (teamId w gid)).step then onTeam w gid fun t => { t with committed := true } else w

/-! ## Triggers -/

/-- The group's lanes in which a lone trigger fires (R87). -/
def contributing (s : State) (gid sid : Nat) (b : Bundle) (g : Guard) : Mask := guardLanes (seen s gid b) sid g

/-- The operands of a lane in their order: the latches that the operation reads, then the trigger value (R88). -/
def operands (s : State) (gid sid : Nat) (t : Trigger) (g : Guard) (src : Src) (l : Nat) : List Word :=
  ((latchesRead t).map fun n => laneGet (latchOf' (seen s gid (triggerBundle t g src)).image (triggerUnit t) n).val l) ++
    [laneGet (srcValue (delivered s gid (triggerBundle t g src)) gid sid (triggerBundle t g src) src) l]

/-- The latches of an image after a trigger has consumed some in the lanes of a mask: they empty but for values that are held (R87). -/
def consumed (im : Image) (u : FUnit) (ls : List LatchName) (m : Mask) : Table Latch :=
  ls.foldl (fun t l =>
    let x := tgetD t (latchKey u l) {}
    tset t (latchKey u l) { x with full := x.full &&& ~~~(m &&& ~~~x.hold) }) im.latches

/-- The state after a lone trigger has fired: its group's latches are `lt`, and the results `rs` are in flight. Nothing else has changed but
what is due being delivered. -/
def fired (s : State) (gid : Nat) (b : Bundle) (lt : Table Latch) (rs : List Result) : State :=
  let g := seen s gid b
  setGroup (delivered s gid b) gid { g with mPrev := [], image := { g.image with latches := lt, results := g.image.results ++ rs } }

/-- The results that the units check by residues (R152): those of ia, of sf, and of fm but for neg, abs and csgn. -/
def checkedByResidue (t : Trigger) : Bool :=
  match t with
  | .ia _ _ | .sf _ => true
  | .fm _ op => !(op matches .neg | .abs | .csgn)
  | .lg _ | .xl _ | .sm _ | .ld _ | .st _ | .mx _ | .cp _ => false

/-- The result of a lone trigger (R89): due `latency` bundles on, in the lanes that contribute, with values and flags by lane. -/
def produced (s : State) (gid sid : Nat) (t : Trigger) (g : Guard) (src : Src) (latency : Nat) (hasX : Bool) (dead : Mask)
    (o x : Nat → Word) (flags : Nat → BitVec 5) : Result :=
  let b := triggerBundle t g src
  let c := contributing s gid sid b g
  { id := (seen s gid b).opId, unit := triggerUnit t, due := (seen s gid b).image.count + latency, mask := c, hasO := true, hasX := hasX
    o := lanes.map fun l => if c.getLsbD l then o l else 0, x := lanes.map fun l => if c.getLsbD l then x l else 0
    flags := lanes.map fun l => if c.getLsbD l then flags l else 0, filled := 0, dead := dead, poison := 0, residue := checkedByResidue t }

/-- A lone trigger issues with a result by lane, which is in flight unless no lane contributes. -/
def FiresWith (s : State) (gid sid : Nat) (t : Trigger) (g : Guard) (src : Src) (i : Instr) (r : Result) : Prop :=
  let b := triggerBundle t g src
  let c := contributing s gid sid b g
  ∃ w, Counts (fired s gid b (consumed (seen s gid b).image (triggerUnit t) (latchesRead t) c) (if c = 0 then [] else [r])) w gid ∧
    exec i s = .next (goesOn w gid sid)

/-- The trigger of a lone trigger's bundle. -/
def loneFire (s : State) (gid sid : Nat) (t : Trigger) (g : Guard) (src : Src) : Fire :=
  { slot := 0, op := t, lanes := guardLanes (groupOf s gid) sid g, val := srcValue s gid sid (triggerBundle t g src) src
    uval := uniformValue (groupOf s gid) (halfOf (groupOf s gid) sid) (triggerBundle t g src) src, inj := none }

/-- The state in which a lone trigger fires: what is due is delivered, and no mask is being written. -/
def fireBase (s : State) (gid : Nat) (b : Bundle) : State := setGroup (delivered s gid b) gid { seen s gid b with mPrev := [] }

/-- What a lone trigger does when it fires. -/
def lonePlan (s : State) (gid sid : Nat) (t : Trigger) (g : Guard) (src : Src) : Plan :=
  firePlan (fireBase s gid (triggerBundle t g src)) gid sid (loneFire (delivered s gid (triggerBundle t g src)) gid sid t g src)

/-- The state a lone trigger leaves when it fires, before the counts of its bundle. -/
def loneRun (s : State) (gid sid : Nat) (t : Trigger) (g : Guard) (src : Src) : State :=
  fireRun (fireBase s gid (triggerBundle t g src)) gid sid (loneFire (delivered s gid (triggerBundle t g src)) gid sid t g src)
    (lonePlan s gid sid t g src) (seen s gid (triggerBundle t g src)).opId

/-- The state after a lone trigger of mx or cp has fired: its group's uniform latches are `uni`, and the results `rs` are in flight. -/
def uniFired (s : State) (gid : Nat) (b : Bundle) (uni : Table ULatch) (rs : List Result) : State :=
  let g := seen s gid b
  setGroup (delivered s gid b) gid { g with mPrev := [], image := { g.image with uniform := uni, results := g.image.results ++ rs } }

/-- Uniform latches of a unit after a trigger has consumed some: they empty but for values that are held (R87). -/
def uniConsumed (im : Image) (u : FUnit) (h : Nat) (ls : List LatchName) : Table ULatch :=
  ls.foldl (fun t l =>
    let x := tgetD t (uniformKey u h l) {}
    tset t (uniformKey u h l) { x with full := x.full && x.hold }) im.uniform

/-- The number that an mx or cp trigger gives, in flight on port o of its lanes, due at the next bundle (R84). -/
def numbered (s : State) (gid sid : Nat) (t : Trigger) (src : Src) (n : Nat) : List Result :=
  let r := { produced s gid sid t noGuard src 1 false 0 (fun _ => 0) (fun _ => 0) (fun _ => 0) with
    o := lanes.map fun _ => BitVec.ofNat 32 n, x := [], flags := [] }
  if r.mask = 0 then [] else [r]

/-- When a bundle with Y = 1 stops counting against its context (R49): eight cycles after its own. -/
def yields (w : State) (gid : Nat) (b : Bundle) : Option Nat :=
  if b.y then (clusterOfGroup (groupOf w gid)).map fun c => (clusterOf w c).cycles + 8 else none

/-- A move of a bundle whose guard holds in a lane, to a destination of some kind. -/
def Moves (s : State) (gid sid : Nat) (b : Bundle) (to_ : Dst → Prop) (l : Nat) (k : Nat) (m : Move) : Prop :=
  (k, m) ∈ bundleMoves b ∧ to_ m.dst ∧ (guardLanes (seen s gid b) sid m.g).getLsbD l = true

/-- The last move of a bundle to a destination of some kind in a lane. -/
def LastMove (s : State) (gid sid : Nat) (b : Bundle) (to_ : Dst → Prop) (l : Nat) (k : Nat) (m : Move) : Prop :=
  Moves s gid sid b to_ l k m ∧ ∀ k' m', Moves s gid sid b to_ l k' m' → k' ≤ k

/-- What a lane carries from a source of a bundle, read before anything is written (R86). -/
def carried (s : State) (gid sid : Nat) (b : Bundle) (src : Src) (l : Nat) : Word := laneGet (srcValue (delivered s gid b) gid sid b src) l

/-- The word of a truth value. -/
def truth (p : Prop) [Decidable p] : Word := if p then 1 else 0

/-- The ia operations on whole numbers (R153-R158): port o, and port x where the operation writes it. -/
def iaValue (op : IaOp) (a b c : Word) : Word × Option Word :=
  let n := b.toNat % 32
  let pos := b.toNat % 32
  let len := min (min (b.toNat / 2 ^ 8 % 64) 32) (32 - pos)
  let pos' := c.toNat % 32
  let len' := min (min (c.toNat / 2 ^ 8 % 64) 32) (32 - pos')
  let sat (lo hi x : Int) : Word := BitVec.ofInt 32 (max lo (min hi x))
  match op with
  | .add => (BitVec.ofNat 32 (a.toNat + b.toNat), some (BitVec.ofNat 32 ((a.toNat + b.toNat) / 2 ^ 32)))
  | .addc => (BitVec.ofNat 32 (a.toNat + b.toNat + c.toNat % 2), some (BitVec.ofNat 32 ((a.toNat + b.toNat + c.toNat % 2) / 2 ^ 32)))
  | .sub => (BitVec.ofInt 32 (a.toNat - b.toNat : Int), some (truth (a.toNat < b.toNat)))
  | .subb => (BitVec.ofInt 32 (a.toNat - b.toNat - (c.toNat % 2 : Nat) : Int), some (truth (a.toNat < b.toNat + c.toNat % 2)))
  | .mul => (BitVec.ofNat 32 (a.toNat * b.toNat), none)
  | .mulhi => (BitVec.ofInt 32 ((a.toInt * b.toInt) >>> 32), none)
  | .mulhu => (BitVec.ofNat 32 ((a.toNat * b.toNat) >>> 32), none)
  | .mad => (BitVec.ofNat 32 (a.toNat * b.toNat + c.toNat), none)
  | .shl => (BitVec.ofNat 32 (a.toNat * 2 ^ n), none)
  | .shr => (BitVec.ofNat 32 (a.toNat / 2 ^ n), none)
  | .sar => (BitVec.ofInt 32 (a.toInt / 2 ^ n), none)
  | .rotl => (BitVec.ofNat 32 (a.toNat * 2 ^ n + a.toNat / 2 ^ (32 - n)), none)
  | .rotr => (BitVec.ofNat 32 (a.toNat / 2 ^ n + a.toNat * 2 ^ (32 - n)), none)
  | .bfx => (BitVec.ofInt 32 (if len = 0 then 0 else Int.bmod (a.toNat / 2 ^ pos % 2 ^ len : Nat) (2 ^ len)), none)
  | .bfxu => (BitVec.ofNat 32 (a.toNat / 2 ^ pos % 2 ^ len), none)
  | .bfi => (BitVec.ofNat 32 (b.toNat % 2 ^ pos' + a.toNat % 2 ^ len' * 2 ^ pos' + b.toNat / 2 ^ (pos' + len') * 2 ^ (pos' + len')), none)
  | .popc => (BitVec.ofNat 32 ((List.range 32).map fun i => a.toNat / 2 ^ i % 2).sum, none)
  | .clz => (BitVec.ofNat 32 (if a = 0 then 32 else 31 - Nat.log2 a.toNat), none)
  | .ctz => (BitVec.ofNat 32 (((List.range 32).find? fun i => a.toNat / 2 ^ i % 2 = 1).getD 32), none)
  | .brev => (a.reverse, none)
  | .min => (BitVec.ofInt 32 (min a.toInt b.toInt), none)
  | .max => (BitVec.ofInt 32 (max a.toInt b.toInt), none)
  | .minu => (BitVec.ofNat 32 (min a.toNat b.toNat), none)
  | .maxu => (BitVec.ofNat 32 (max a.toNat b.toNat), none)
  | .abs => (BitVec.ofNat 32 a.toInt.natAbs, none)
  | .adds => (sat (-2 ^ 31) (2 ^ 31 - 1) (a.toInt + b.toInt), none)
  | .subs => (sat (-2 ^ 31) (2 ^ 31 - 1) (a.toInt - b.toInt), none)
  | .addus => (sat 0 (2 ^ 32 - 1) ((a.toNat : Int) + b.toNat), none)
  | .subus => (sat 0 (2 ^ 32 - 1) ((a.toNat : Int) - b.toNat), none)
  | .lea => (BitVec.ofNat 32 (a.toNat + b.toNat * 2 ^ (c.toNat % 32)), none)

/-- The value of a finite number. -/
def finVal (neg : Bool) (man : Nat) (exp : Int) : Rat := (if neg then -1 else 1) * (man : Rat) * (2 : Rat) ^ exp

/-- x < y for two FP values, neither a NaN (R161). -/
def fLess : FVal → FVal → Prop
  | .fin n m e, .fin n' m' e' => finVal n m e < finVal n' m' e'
  | .inf n, .fin _ _ _ => n = true
  | .fin _ _ _, .inf n => n = false
  | .inf n, .inf n' => n = true ∧ n' = false
  | .nan _, _ => False
  | _, .nan _ => False

/-- x = y for two FP values, neither a NaN: the zeros are equal (R161). -/
def fSame : FVal → FVal → Prop
  | .fin n m e, .fin n' m' e' => finVal n m e = finVal n' m' e'
  | .inf n, .inf n' => n = n'
  | _, _ => False

/-- The value of an FP32 pattern. -/
def fp (a : Word) : FVal := fRead fp32 a.toNat

/-- What an FP32 compare answers (R161): its test where neither operand is a NaN; else its unordered answer, with invalid raised for a
signalling NaN, and for any NaN where the compare is a signalling one. -/
def Compares (test : FVal → FVal → Prop) (unordered signals : Bool) (a b : Word) (r : LaneRes) : Prop :=
  r.x = none ∧
    if fNaN (fp a) || fNaN (fp b) then
      r.o = truth (unordered = true) ∧ r.flags = if signals || fSNaN (fp a) || fSNaN (fp b) then 1 else 0
    else (r.o = 1 ∨ r.o = 0) ∧ (r.o = 1 ↔ test (fp a) (fp b)) ∧ r.flags = 0

/-! ## Numbers (R54-R58, R62, R66, R69, R70) -/

/-- The whole number that a nonnegative number, the magnitude of one of a sign, rounds to in a mode (R56). -/
def WholeOf (m : Rounding) (neg : Bool) (y : ℝ) (k : Nat) : Prop :=
  let down : Prop := (k : ℝ) ≤ y ∧ y < k + 1
  let up : Prop := y ≤ k ∧ (k : ℝ) < y + 1
  match m with
  | .rn => |y - k| ≤ 1 / 2 ∧ (|y - k| = 1 / 2 → k % 2 = 0)
  | .rz => down
  | .ru => if neg then down else up
  | .rd => if neg then up else down

/-- A nonzero number rounded once to a format (R56), with the flags of R58: `q` is the exponent of its last place, `k` its whole number of
those places, and `u` that of the places it would have with an unbounded exponent, by which tininess is judged. -/
def RoundsTo (f : Fmt) (m : Rounding) (x : ℝ) (r : FRes) : Prop :=
  ∃ (neg : Bool) (e : Int) (k u : Nat), (neg = true ↔ x < 0) ∧ (2 : ℝ) ^ e ≤ |x| ∧ |x| < (2 : ℝ) ^ (e + 1) ∧
    let q : Int := max (e - f.mbits) (fmtQmin f)
    let v : ℝ := k * (2 : ℝ) ^ q
    let tiny : Prop := (u : ℝ) * (2 : ℝ) ^ (e - f.mbits) < (2 : ℝ) ^ (1 - (fmtBias f : Int))
    let out : Prop := (2 : ℝ) ^ ((fmtBias f : Int) + 1) ≤ v
    WholeOf m neg (|x| / (2 : ℝ) ^ q) k ∧ WholeOf m neg (|x| / (2 : ℝ) ^ (e - f.mbits)) u ∧
    (out → r = { bits := (if neg then fmtSign f else 0) + if m = .rn ∨ (m = .ru ∧ neg = false) ∨ (m = .rd ∧ neg = true) then fmtInf f
                   else fmtInf f - 1, flags := 0x14 }) ∧
    (¬out → r.bits < 2 * fmtSign f ∧ (∃ man exp, fRead f r.bits = .fin neg man exp ∧ (man : ℝ) * (2 : ℝ) ^ exp = v) ∧
      (v = |x| → r.flags = 0) ∧ (v ≠ |x| → tiny → r.flags = 0x18) ∧ (v ≠ |x| → ¬tiny → r.flags = 0x10))

/-- A number rounded once to a format; an exact zero has the sign given (R56). -/
def Rounds (f : Fmt) (m : Rounding) (x : ℝ) (zero : Bool) (r : FRes) : Prop :=
  (x ≠ 0 → RoundsTo f m x r) ∧ (x = 0 → r = { bits := if zero then fmtSign f else 0, flags := 0 })

/-- The sign of an exact zero sum of two numbers of these signs (R56). -/
def zeroSign (m : Rounding) (n n' : Bool) : Bool := if n = n' then n else decide (m = .rd)

/-- A value is a number. -/
def IsFin (v : FVal) (n : Bool) (x : ℝ) : Prop := ∃ man exp, v = .fin n man exp ∧ x = (finVal n man exp : ℝ)

/-- x * y + z rounded once (R165), the product's sign turned where `np`, that of z where `nz`. -/
def FusedFinite (f : Fmt) (m : Rounding) (np nz : Bool) (x y z : FVal) (r : FRes) : Prop :=
  ∀ n n' n'' a b c, IsFin x n a → IsFin y n' b → IsFin z n'' c →
    Rounds f m ((if np then -(a * b) else a * b) + if nz then -c else c) (zeroSign m ((n != n') != np) (n'' != nz)) r

/-- A zero. -/
def IsZero (v : FVal) : Prop := ∃ n e, v = .fin n 0 e

/-- x * y + z where an operand is a NaN or an infinity (R57, R165). -/
def FusedSpecial (f : Fmt) (np nz : Bool) (x y z : FVal) (r : FRes) : Prop :=
  let invalid : Prop := (∃ n, x = .inf n ∧ IsZero y) ∨ ∃ n, IsZero x ∧ y = .inf n
  let nan := fNaN x || fNaN y || fNaN z
  (invalid → r = { bits := qnan f, flags := 1 }) ∧
  (¬invalid → nan = true → r = { bits := qnan f, flags := if fSNaN x || fSNaN y || fSNaN z then 1 else 0 }) ∧
  (∀ n n', ¬invalid → nan = false → (x = .inf n ∧ (y = .inf n' ∨ ∃ a, IsFin y n' a) ∨ y = .inf n' ∧ ∃ a, IsFin x n a) →
    (z = .inf ((n != n') != np) ∨ z = .inf (!((n != n') != np)) →
      r = if z = .inf (((n != n') != np) != nz) then { bits := (if (n != n') != np then fmtSign f else 0) + fmtInf f, flags := 0 }
        else { bits := qnan f, flags := 1 }) ∧
    (∀ n'' c, IsFin z n'' c → r = { bits := (if (n != n') != np then fmtSign f else 0) + fmtInf f, flags := 0 })) ∧
  ∀ n n' n'' a b, IsFin x n a → IsFin y n' b → z = .inf n'' → r = { bits := (if n'' != nz then fmtSign f else 0) + fmtInf f, flags := 0 }

/-- The lesser and the greater of two patterns (R170): a number is preferred to a NaN, and -0 lies below +0. -/
def LeastGreatest (f : Fmt) (x y : Nat) (lo hi : FRes) : Prop :=
  let a := fRead f x
  let b := fRead f y
  let inv : BitVec 5 := if fSNaN a || fSNaN b then 1 else 0
  let neg (z : Nat) : Prop := z / fmtSign f % 2 = 1
  lo.flags = inv ∧ hi.flags = inv ∧
  (fNaN a = true → fNaN b = true → lo.bits = qnan f ∧ hi.bits = qnan f) ∧
  (fNaN a = true → fNaN b = false → lo.bits = y ∧ hi.bits = y) ∧ (fNaN a = false → fNaN b = true → lo.bits = x ∧ hi.bits = x) ∧
  (fNaN a = false → x = y → lo.bits = x ∧ hi.bits = x) ∧
  (fLess a b ∨ (fSame a b ∧ neg x) → lo.bits = x ∧ hi.bits = y) ∧ (fLess b a ∨ (fSame a b ∧ neg y) → lo.bits = y ∧ hi.bits = x)

/-- One result in a lane. -/
def wordRes (r : FRes) : LaneRes := { o := BitVec.ofNat 32 r.bits, flags := r.flags }

/-- The results of a pair in a lane (R55). -/
def pairRes (r r' : FRes) : LaneRes := { o := BitVec.ofNat 32 (r.bits + 2 ^ 16 * r'.bits), flags := r.flags ||| r'.flags }

/-- The place of a positive number among the bodies of tapered codes of body width B (R62, R66): regime, exponent bit and fraction, with the
first B bits before the point. -/
def TaperedAt (B : Nat) (a t : ℝ) : Prop :=
  ∃ E : Int, (2 : ℝ) ^ E ≤ a ∧ a < (2 : ℝ) ^ (E + 1) ∧
    let k := E / 2
    let rest : ℝ := (E % 2 : Int) + (a / (2 : ℝ) ^ E - 1)
    t = if 0 ≤ k then (2 * ((2 : ℝ) ^ (k + 2) - 2) + rest) * (2 : ℝ) ^ ((B : Int) - k - 3) else (2 + rest) * (2 : ℝ) ^ ((B : Int) + k - 2)

/-- The tapered code of a number (R66), which rounds in no other mode than to nearest, on the bit string. -/
def Tapers (B : Nat) (x : ℝ) (r : FRes) : Prop :=
  let least : ℝ := (2 : ℝ) ^ (-2 * ((B : Int) - 1))
  let most : ℝ := (2 : ℝ) ^ (2 * ((B : Int) - 1))
  (x = 0 → r = { bits := 0, flags := 0 }) ∧
  (0 < |x| → |x| < least / 2 → r = { bits := 0, flags := 0x18 }) ∧
  ∀ neg : Bool, (neg = true ↔ x < 0) → let s := if neg then 2 ^ B else 0
    (least / 2 ≤ |x| → |x| < least → r = { bits := s + 1, flags := 0x18 }) ∧ (most < |x| → r = { bits := s + (2 ^ B - 1), flags := 0x14 }) ∧
    ∀ t, least ≤ |x| → |x| ≤ most → TaperedAt B |x| t → ∃ k, WholeOf .rn false t k ∧ r.bits = s + k ∧ (t = k → r.flags = 0) ∧
      (t ≠ k → r.flags = 0x10)

/-- The number that a tapered code stands for, but for zero and NaR (R62). -/
def TaperedValue (B c : Nat) (x : ℝ) : Prop :=
  TaperedAt B |x| ((c % 2 ^ B : Nat) : ℝ) ∧ (x < 0 ↔ c / 2 ^ B % 2 = 1)

/-- The scale of a block of FP values (R70): no number gives 0, else the exponent of the largest, saturated. -/
def ScaleOf (vs : FVal → Prop) (S : Int) : Prop :=
  ((∀ v n x, vs v → IsFin v n x → x = 0) → S = 0) ∧
  ∀ v n x, vs v → IsFin v n x → x ≠ 0 → (∀ v' n' x', vs v' → IsFin v' n' x' → |x'| ≤ |x|) →
    ∃ e : Int, (2 : ℝ) ^ e ≤ |x| ∧ |x| < (2 : ℝ) ^ (e + 1) ∧ S = max (-127) (min 127 e)

/-- The code of a value in a block of scale S (R66, R70): a NaN or an infinity is NaR. -/
def CodeOf (B : Nat) (S : Int) (v : FVal) (r : FRes) : Prop :=
  ((∀ n x, ¬IsFin v n x) → r = { bits := 2 ^ B, flags := 1 }) ∧ ∀ n x, IsFin v n x → Tapers B (x / (2 : ℝ) ^ S) r

/-! ## Tiles (R65, R69-R73, R262, R263, R270-R279, R300) -/

/-- A product of two operand values with their block scales (R73): a NaN, from an operand or of 0 x infinity, an infinity, or the exact number. -/
def ProductSays (x y : FVal) (scale : Int) (p : PVal) : Prop :=
  let nan := fNaN x || fNaN y
  let invalid : Prop := (∃ n, x = .inf n ∧ IsZero y) ∨ ∃ n, IsZero x ∧ y = .inf n
  (nan = true → p = .nan true) ∧ (invalid → p = .nan false) ∧
  (∀ n n', ¬invalid → (x = .inf n ∧ (y = .inf n' ∨ ∃ b, IsFin y n' b)) ∨ (y = .inf n' ∧ ∃ a, IsFin x n a) → p = .inf (n != n')) ∧
  ∀ n n' a b, IsFin x n a → IsFin y n' b → ∃ m e, p = .fin (n != n') m e ∧ (finVal (n != n') m e : ℝ) = a * b * (2 : ℝ) ^ scale

/-- A number cut towards zero to a multiple of 2^g, in units of it. -/
def CutTo (g : Int) (x : ℝ) (k : Int) : Prop :=
  |(k : ℝ)| * (2 : ℝ) ^ g ≤ |x| ∧ |x| < (|(k : ℝ)| + 1) * (2 : ℝ) ^ g ∧ (0 < k → 0 < x) ∧ (k < 0 → x < 0)

/-- One chunk (R73, R279): the products cut 63 places below the largest, added to the accumulator and rounded once; no zero keeps a sign. -/
def ChunkSays (acc : Word) (ps : List PVal) (r : FRes) : Prop :=
  let a := fp acc
  let nan : Prop := fNaN a = true ∨ ∃ p ∈ ps, pNaN p = true
  let inf (n : Bool) : Prop := a = .inf n ∨ .inf n ∈ ps
  (nan → r = { bits := 0x7FC00000, flags := if fNaN a || ps.any pNaNOperand then 0 else 1 }) ∧
  (∀ n, ¬nan → inf n → (inf (!n) → r = { bits := 0x7FC00000, flags := 1 }) ∧
    (¬inf (!n) → r = { bits := (if n then 2 ^ 31 else 0) + 0x7F800000, flags := 0 })) ∧
  ∀ s x, IsFin a s x → (∀ p ∈ ps, ∃ n m e, p = .fin n m e) → ∃ (g : Int) (ts : List Int) (y : FRes), ts.length = ps.length ∧
    (∀ n m e, .fin n m e ∈ ps → m ≠ 0 → |(finVal n m e : ℝ)| < (2 : ℝ) ^ (g + 64)) ∧
    ((∃ n m e, .fin n m e ∈ ps ∧ m ≠ 0) → ∃ n m e, .fin n m e ∈ ps ∧ (2 : ℝ) ^ (g + 63) ≤ |(finVal n m e : ℝ)|) ∧
    (∀ i n m e, ps[i]? = some (.fin n m e) → CutTo g (finVal n m e : ℝ) (ts.getD i 0)) ∧
    Rounds fp32 .rn (x + (ts.sum : ℝ) * (2 : ℝ) ^ g) false y ∧ r = if y.bits % 2 ^ 31 = 0 then { y with bits := 0 } else y

/-- A sum of `k` products onto a value, `n` products to a chunk, after some chunks (R74, R271). -/
def chunked (n k start : Nat) (p : Nat → PVal) : Nat → FRes
  | 0 => { bits := start, flags := 0 }
  | c + 1 =>
    let r := chunked n k start p c
    let x := chunkRes r.bits ((List.range (min n (k - n * c))).map fun i => p (n * c + i))
    { bits := x.bits, flags := r.flags ||| x.flags }

/-- All of a sum of `k` products, `n` to a chunk. -/
def chunkedAll (n k start : Nat) (p : Nat → PVal) : FRes := chunked n k start p ((k + n - 1) / n)

/-- Bits of an element of a stream's format (R65). -/
def tWidth (fmt : Nat) : Nat :=
  match fmt with
  | 0 => 32
  | 1 => 16
  | 2 => 16
  | 3 => 8
  | 5 => 8
  | _ => 6

/-- Rows, columns, format and scale stride of a stream (R262). -/
def tRows (w0 : DWord) : Nat := w0.toNat / 2 ^ 28 % 2 ^ 7 + 1
/-- Columns. -/
def tCols (w0 : DWord) : Nat := w0.toNat / 2 ^ 35 % 2 ^ 7 + 1
/-- Format. -/
def tFmt (w0 : DWord) : Nat := w0.toNat / 2 ^ 42 % 2 ^ 4
/-- Scale stride. -/
def tSstr (w0 : DWord) : Nat := w0.toNat / 2 ^ 48 % 2 ^ 8
/-- Bytes from row to row: those of its elements, rounded up to 16 (R263). -/
def tRow (w0 : DWord) : Nat := 16 * ((tCols w0 * tWidth (tFmt w0) + 127) / 128)

/-- The code of element (i, j) of a tile: the bits of its row's bytes, read as one number, at its place (R65, R263). -/
def tCode (byte : Nat → Byte) (base : Nat) (w0 : DWord) (i j : Nat) : Nat :=
  ((List.range (tRow w0)).map fun k => (byte (base + i * tRow w0 + k)).toNat * 2 ^ (8 * k)).sum / 2 ^ (tWidth (tFmt w0) * j) %
    2 ^ tWidth (tFmt w0)

/-- The scale byte of the block of element (i, j): the scales stand after the rows (R263). -/
def tScale (byte : Nat → Byte) (base : Nat) (w0 : DWord) (i j : Nat) : Byte := byte (base + tRows w0 * tRow w0 + i * tSstr w0 + j / 32)

/-- The IEEE format of a stream's elements; a tapered format's body width, and whether it is one of blocks. -/
def tIeee (fmt : Nat) : Option Fmt := if fmt = 0 then some fp32 else if fmt = 1 then some fp16 else if fmt = 2 then some bf16 else none
/-- Body width. -/
def tBody (fmt : Nat) : Nat := if fmt = 3 ∨ fmt = 5 then 7 else 5
/-- T8B32 and T6B32. -/
abbrev tBlock (fmt : Nat) : Prop := fmt = 5 ∨ fmt = 6

/-- The operand value of an element and its block scale (R69, R70, R72). -/
def ElementSays (byte : Nat → Byte) (base : Nat) (w0 : DWord) (i j : Nat) (x : FVal × Int) : Prop :=
  let c := tCode byte base w0 i j
  let B := tBody (tFmt w0)
  let sb := tScale byte base w0 i j
  (∀ f, tIeee (tFmt w0) = some f → x = (fRead f c, 0)) ∧
  (tIeee (tFmt w0) = none → c = 2 ^ B ∨ (tBlock (tFmt w0) ∧ sb = 0x80) → x = (.nan false, 0)) ∧
  (tIeee (tFmt w0) = none → ¬(c = 2 ^ B ∨ (tBlock (tFmt w0) ∧ sb = 0x80)) → x.2 = (if tBlock (tFmt w0) then sb.toInt else 0) ∧
    (c = 0 → IsZero x.1) ∧ (c ≠ 0 → ∃ n y, IsFin x.1 n y ∧ TaperedValue B c y))

/-- An element converted to FP32 (R71, R272, R279): FP32 bit for bit, FP16 and BF16 exactly, tapered values rounded with their scale. -/
def FilledSays (byte : Nat → Byte) (base : Nat) (w0 : DWord) (i j : Nat) (x : FVal × Int) (r : FRes) : Prop :=
  (tFmt w0 = 0 → r = { bits := tCode byte base w0 i j, flags := 0 }) ∧
  (tFmt w0 = 1 ∨ tFmt w0 = 2 → r.flags = 0 ∧ (fNaN x.1 = true → r.bits = 0x7FC00000) ∧
    (∀ n, x.1 = .inf n → r.bits = (if n then 2 ^ 31 else 0) + 0x7F800000) ∧
    ∀ n y, IsFin x.1 n y → r.bits < 2 ^ 32 ∧ IsFin (fRead fp32 r.bits) n y) ∧
  (2 < tFmt w0 → (fNaN x.1 = true → r = { bits := 0x7FC00000, flags := 1 }) ∧
    ∀ n y, IsFin x.1 n y → Rounds fp32 .rn (y * (2 : ℝ) ^ x.2) false r)

/-- The bytes of a tile written in its stream's format (R70, R276, R279): those of its elements and scales and no others, each element the
rounding of its value, or its code under its block's scale; and the flags raised. -/
def EncodedAs (base : Nat) (w0 : DWord) (y : Nat → Nat → FVal) (bs : List (Nat × Byte)) (fl : Flags) : Prop :=
  let byte (a : Nat) : Byte := ((bs.find? fun b => decide (b.1 = a)).map Prod.snd).getD 0
  let used := (tCols w0 * tWidth (tFmt w0) + 7) / 8
  ∃ (r : Nat → Nat → FRes) (S : Nat → Nat → Int),
    (∀ a, a ∈ bs.map Prod.fst ↔ (∃ i k, i < tRows w0 ∧ k < used ∧ a = base + i * tRow w0 + k) ∨
      (tBlock (tFmt w0) ∧ ∃ i b, i < tRows w0 ∧ b < tCols w0 / 32 ∧ a = base + tRows w0 * tRow w0 + i * tSstr w0 + b)) ∧
    (∀ i j, i < tRows w0 → j < tCols w0 → tCode byte base w0 i j = (r i j).bits ∧
      (∀ f, tIeee (tFmt w0) = some f → (fNaN (y i j) = true → r i j = { bits := qnan f, flags := 0 }) ∧
        (∀ n, y i j = .inf n → r i j = { bits := (if n then fmtSign f else 0) + fmtInf f, flags := 0 }) ∧
        ∀ n x, IsFin (y i j) n x → Rounds f .rn x n (r i j)) ∧
      (tIeee (tFmt w0) = none → CodeOf (tBody (tFmt w0)) (if tBlock (tFmt w0) then S i (j / 32) else 0) (y i j) (r i j)) ∧
      (tBlock (tFmt w0) → tScale byte base w0 i j = BitVec.ofInt 8 (S i (j / 32)) ∧
        ScaleOf (fun v => ∃ k, k < 32 ∧ v = y i (j / 32 * 32 + k)) (S i (j / 32)))) ∧
    ∀ k, fl.getLsbD k = true ↔ ∃ i j, i < tRows w0 ∧ j < tCols w0 ∧ (r i j).flags.getLsbD k = true

/-- A stream whose tiles can be written (R264): a format of the seven, rows of whole groups and blocks, and room for its scales. -/
abbrev Writable (w0 : DWord) : Prop :=
  tFmt w0 < 7 ∧ (tFmt w0 = 4 → tCols w0 % 4 = 0) ∧ (tBlock (tFmt w0) → tCols w0 % 32 = 0 ∧ tCols w0 / 32 ≤ tSstr w0)

/-- The entry of an activation table for a number (R277): the whole part of its distance from XLO in steps of 2^W, saturated. -/
def EntryAt (t : ActTable) (x : FVal) (i : Nat) : Prop :=
  (∀ n, x = .inf n → i = if n then 0 else 255) ∧
  ∀ n y n' lo, IsFin x n y → IsFin (fp t.xlo) n' lo →
    (y - lo < (2 : ℝ) ^ t.w → i = 0) ∧ (255 * (2 : ℝ) ^ t.w ≤ y - lo → i = 255) ∧
      ∀ k : Nat, k < 256 → (k : ℝ) * (2 : ℝ) ^ t.w ≤ y - lo → y - lo < ((k : ℝ) + 1) * (2 : ℝ) ^ t.w → i = k

/-- act(t, x), or act'(t, x) with `d` (R277, R279): the entry's line, as one fused operation, 0 x infinity counting as +0. -/
def ActSays (t : ActTable) (d : Bool) (x : Word) (r : FRes) : Prop :=
  (fNaN (fp x) = true → r = { bits := 0x7FC00000, flags := 0 }) ∧
  (fNaN (fp x) = false → ∃ i, i < 256 ∧ EntryAt t (fp x) i ∧
    let a := tgetD t.vals (4 * i + if d then 2 else 0) 0
    let b := tgetD t.vals (4 * i + if d then 3 else 1) 0
    let bare : Prop := (∃ n, fp a = .inf n ∧ IsZero (fp x)) ∨ ∃ n, IsZero (fp a) ∧ fp x = .inf n
    let nan := fNaN (fp a) || fNaN (fp b)
    (nan = true → r = { bits := 0x7FC00000, flags := 0 }) ∧
    (nan = false → bare → wordRes r = fmLane (.add .rn) 0 b 0) ∧ (nan = false → ¬bare → wordRes r = fmLane (.fma .rn) a x b))

/-- The lg operations (R159-R163). -/
def LgSays (op : LgOp) (lane : Nat) (a b c : Word) (r : LaneRes) : Prop :=
  let e := a.toNat / 2 ^ 23 % 256
  let f := a.toNat % 2 ^ 23
  let neg := a.toNat / 2 ^ 31 = 1
  match op with
  | .and => r = { o := BitVec.ofNat 32 (a.toNat &&& b.toNat) }
  | .or => r = { o := BitVec.ofNat 32 (a.toNat ||| b.toNat) }
  | .xor => r = { o := BitVec.ofNat 32 (a.toNat ^^^ b.toNat) }
  | .andn => r = { o := BitVec.ofNat 32 (a.toNat &&& (2 ^ 32 - 1 - b.toNat)) }
  | .not => r = { o := BitVec.ofNat 32 (2 ^ 32 - 1 - a.toNat) }
  | .sel => r = { o := if c.toNat % 2 = 1 then a else b }
  | .ceq => r = { o := truth (a.toNat = b.toNat) }
  | .cne => r = { o := truth (a.toNat ≠ b.toNat) }
  | .clt => r = { o := truth (a.toInt < b.toInt) }
  | .cle => r = { o := truth (a.toInt ≤ b.toInt) }
  | .cltu => r = { o := truth (a.toNat < b.toNat) }
  | .cleu => r = { o := truth (a.toNat ≤ b.toNat) }
  | .fceq => Compares fSame false false a b r
  | .fcne => Compares (fun x y => ¬fSame x y) true false a b r
  | .fclt => Compares fLess false true a b r
  | .fcle => Compares (fun x y => fLess x y ∨ fSame x y) false true a b r
  | .fcun => Compares (fun _ _ => False) true false a b r
  | .fcls => r = { o := 1#32 <<< (if e = 255 then (if f = 0 then (if neg then 2 else 9) else if f < 2 ^ 22 then 0 else 1)
      else if e = 0 then (if f = 0 then (if neg then 5 else 6) else if neg then 4 else 7) else if neg then 3 else 8) }
  | .mbit => r = { o := BitVec.ofNat 32 (a.toNat / 2 ^ lane % 2) }
  | .bsel => r = { o := BitVec.ofNat 32 ((a.toNat &&& c.toNat) ||| (b.toNat &&& (2 ^ 32 - 1 - c.toNat))) }

/-! ## Memory triggers (R208, R216-R218) -/

/-- The reference of a lane's `w` latch: 0-7 a window, 8 the scratchpad. -/
def refOf (s : State) (gid : Nat) (b : Bundle) (u : FUnit) (l : Nat) : Nat := (laneGet (latchOf' (seen s gid b).image u .w).val l).toNat

/-- The in-flight counters that an access of some lanes raises: `p` where a lane uses a window, 2 where one uses the scratchpad (R208). -/
def countersOf (ref : Nat → Nat) (c : Mask) (p : Nat) : List Nat :=
  (if (lanes.any fun l => c.getLsbD l && decide (ref l ≠ 8)) then [p] else []) ++
    if (lanes.any fun l => c.getLsbD l && decide (ref l = 8)) then [2] else []

/-- An operation entered on some of its half's in-flight counters. -/
def entered (paths : Table (List PathEntry)) (h id : Nat) (ps : List Nat) : Table (List PathEntry) :=
  ps.foldl (fun t p => tset t (8 * h + p) (tgetD t (8 * h + p) [] ++ [{ id := id, done := false }])) paths

/-- The accesses of a lone ld or st trigger, one for each contributing lane in rising order (R199, R217): `n` bytes at the lane's offset,
aligned; of the team's scratchpad, or of the window's page where the window's limit reaches, else of the virtual address. Each carries its
lane's data. -/
def AccessesAt (s : State) (gid sid : Nat) (b : Bundle) (u : FUnit) (c : Mask) (n : Nat) (need : Need) (off data cmp : Nat → Nat)
    (as : List Access) : Prop :=
  (as.map fun x => x.elem.lane) = maskLanes c ∧ ∀ x ∈ as,
    let l := x.elem.lane
    let ref := refOf s gid b u l
    let win := wget (groupOf s gid) (half s gid sid) ref
    x.elem.va % n = 0 ∧ ∃ y : Access, x = { y with elem := { y.elem with data := data l, cmp := cmp l } } ∧
      (ref = 8 → spadAcc s (whoOf s gid) l (off l) n need.w = .ok y) ∧
      (ref ≠ 8 → off l + n ≤ win.limit →
        y = { elem := { lane := l, space := win.frame.space, addr := win.frame.pa + off l, va := win.base + off l, size := n }
              frame := some win.frame, translated := false, write := need.w }) ∧
      (ref ≠ 8 → win.limit < off l + n → virtualAcc s (whoOf s gid) l (win.base + off l) n need = .ok y)

/-- Every memory is in its canonical form, which every step keeps, and no core holds a Polder range or line, so that a place's bytes are those of
one memory. -/
abbrev NoPolder (s : State) : Prop := memoriesWf s = true ∧ ∀ e ∈ s.cores, e.2.pmap = [] ∧ e.2.lines = []

/-- What touching the pages of judged accesses may change (R197, R198, R204, R207): the A and D bits of page tables, the TLBs, and, for Polder
lines that are filled or recalled, the memories they cache with their poison, the requests to host and peers that carry them, and the filled
lines of load-block units. No group, task or register changes. -/
def Touched (s u : State) : Prop :=
  u = { s with
    mem := u.mem, memPoison := u.memPoison, hostMem := u.hostMem, hostPoison := u.hostPoison, tlps := u.tlps, peerMem := u.peerMem
    peerPoison := u.peerPoison, teams := u.teams, cores := u.cores, dies := u.dies, funcs := u.funcs, ports := u.ports
    flitsOut := u.flitsOut, free := u.free } ∧
  (∀ k, teamOf u k = { teamOf s k with blocks := (teamOf u k).blocks }) ∧
  (∀ k, coreOf u k = { coreOf s k with
    sp := (coreOf u k).sp, spPoison := (coreOf u k).spPoison, lines := (coreOf u k).lines, tlb := (coreOf u k).tlb }) ∧
  (∀ d, dieOf u d = { dieOf s d with tlb := (dieOf u d).tlb }) ∧ ∀ f, funcOf u f = { funcOf s f with event := (funcOf u f).event }

/-- Where no Polder line is held, touching the pages of accesses changes the bytes of their leaves alone, and there the A and D bits alone. -/
def MarksOnly (s u : State) (as : List Access) : Prop :=
  u.hostMem = s.hostMem ∧ u.peerMem = s.peerMem ∧ (∀ k, (coreOf u k).sp = (coreOf s k).sp) ∧
  ∀ x, memGet u.mem x &&& ~~~0x60 = memGet s.mem x &&& ~~~0x60 ∧
    ((∀ a ∈ as, ∀ fr, a.frame = some fr → fr.leaf ≠ some x) → memGet u.mem x = memGet s.mem x)

/-- The state in which an operation is outstanding: `v` with the pages of its accesses touched. -/
def outstanding (v : State) (gid : Nat) (as : List Access) (op : MemOp) : State := addOp (touchAccs v gid as) gid op

/-- The state in which a plain, ordered or atomic operation of some lanes is outstanding. -/
def outstandingLanes (v : State) (gid : Nat) (as : List Access) (op : MemOp) : State := addLanes (touchAccs v gid as) gid op

/-- A state with a group's in-flight counters and results as they stand after a memory trigger. -/
def onPaths (v : State) (gid h id : Nat) (ps : List Nat) : State :=
  setGroup v gid { groupOf v gid with paths := entered (groupOf v gid).paths h id ps }

/-! ## Tensor records (R209-R212, R230-R232) -/

/-- The fields of a well-formed tensor shape record, its 64 bytes read as one number (R209, R210). -/
def RecordSays (bytes : List Byte) (x : Shape) : Prop :=
  let v := leVal bytes
  let unit := fmtAlign x.fmt
  x.base = v % 2 ^ 52 ∧ (x.spad = true ↔ v / 2 ^ 52 % 2 = 1) ∧ x.ndim = v / 2 ^ 53 % 2 ^ 3 ∧ x.fmt = v / 2 ^ 56 % 2 ^ 4 ∧
    (x.permit = true ↔ v / 2 ^ 60 % 2 = 1) ∧ x.sstr = v / 2 ^ 232 % 2 ^ 8 ∧ x.hem = BitVec.ofNat 32 (v / 2 ^ 448) ∧
    x.soff = Int.bmod (v / 2 ^ 480 % 2 ^ 24 : Nat) (2 ^ 24) ∧ x.perm = v / 2 ^ 504 % 2 ^ 3 ∧
    (∀ i, i < 7 → x.ext.getD i 0 = v / 2 ^ (64 + 24 * i) % 2 ^ 24 ∧
      x.str.getD i 0 = if i = 0 then 0 else v / 2 ^ (256 + 32 * (i - 1)) % 2 ^ 32) ∧
    v / 2 ^ 61 % 2 ^ 3 = 0 ∧ v / 2 ^ 240 % 2 ^ 16 = 0 ∧ v / 2 ^ 507 % 2 ^ 5 = 0 ∧ x.fmt < 8 ∧ 1 ≤ x.ndim ∧ x.perm < 7 ∧
    (x.perm ≠ 0 → x.spad = true) ∧ (x.sstr ≠ 0 ↔ x.fmt = 5 ∨ x.fmt = 6) ∧ x.base % unit = 0 ∧
    ∀ i, i < 7 → (x.ext.getD i 0 ≠ 0 ↔ i < x.ndim) ∧ (x.ndim ≤ i → x.str.getD i 0 = 0) ∧ x.str.getD i 0 % unit = 0

/-- Coordinates in range (R211). -/
def InRange (x : Shape) (c : Nat → Int) : Prop := ∀ i, i < 7 → if i < x.ndim then 0 ≤ c i ∧ c i < x.ext.getD i 0 else c i = 0

/-- The distance from BASE of the element at some coordinates (R211), or of its group of four in T6 and T6B32. -/
def tensorDistance (x : Shape) (c : Nat → Int) : Int :=
  (if x.fmt = 4 ∨ x.fmt = 6 then 3 * (c 0 / 4) else c 0 * fmtBytes x.fmt) +
    ((List.range 6).map fun i => (x.str.getD (i + 1) 0 : Int) * c (i + 1)).sum

/-- The address of the element at some coordinates: in the scratchpad with its bank permuted (R211). -/
def tensorAddress (x : Shape) (c : Nat → Int) : Nat :=
  let a := ((x.base : Int) + tensorDistance x c).toNat
  if x.spad = true ∧ 0 < x.perm then
    a / 2 ^ 10 * 2 ^ 10 + (a / 2 ^ 4 % 2 ^ 6 ^^^ (a / 2 ^ 10 % 2 ^ x.perm)) * 2 ^ 4 + a % 2 ^ 4
  else a

/-- The address of the scale byte of the block of some coordinates (R211). -/
def tensorScale (x : Shape) (c : Nat → Int) : Int := x.base + 256 * x.soff + tensorDistance x c / fmtAlign x.fmt * x.sstr

/-- The elements of a byte range of a record's space: a T6 group's three bytes one by one, each at its place (R211, R230). -/
def RangeAt (s : State) (gid : Nat) (x : Shape) (lane : Nat) (a : Int) (n : Nat) (need : Need) (es : List Elem) : Prop :=
  0 ≤ a ∧ es.length = (if n = 3 then 3 else 1) ∧ ∀ i e, es[i]? = some e →
    let m := if n = 3 then 1 else n
    ∃ y, y.elem = e ∧ (if x.spad then spadAcc s (whoOf s gid) lane (a.toNat + i) m need.w else
      virtualAcc s (whoOf s gid) lane (a.toNat + i) m need) = .ok y

/-- The coordinates of a block's position `i` (R211). -/
def positionOf (c : Nat → Int) (i : Nat) : Nat → Int := fun k => if k = 0 then c 0 / 32 * 32 + i else c k

/-- What tld or tst takes in one lane at some coordinates (R211, R212, R230-R232): out of range, where PERMIT allows it, nothing, but for a
load of a block the scale byte of the block where a position of it is in range; in range the element, the scale byte of its block, and
for a store its data and every position of the block that is in range. -/
def TensorAt (s : State) (gid : Nat) (x : Shape) (store : Bool) (c : Nat → Int) (data : Word) (e : TElem) : Prop :=
  let need : Need := { rd := !store, w := store }
  let block := x.fmt = 5 ∨ x.fmt = 6
  let n := fmtBytes x.fmt
  (¬InRange x c → x.permit = true ∧ ∃ sc, e = { lane := e.lane, scale := sc } ∧
    (store = true ∨ ¬block ∨ (∀ i, i < 32 → ¬InRange x (positionOf c i)) → sc = []) ∧
    (store = false → block → ∀ i, i < 32 → InRange x (positionOf c i) →
      (∀ j, j < i → ¬InRange x (positionOf c j)) → RangeAt s gid x e.lane (tensorScale x (positionOf c i)) 1 need sc)) ∧
  (InRange x c → ∃ place sc ps, e = { lane := e.lane, place := place, sub := (c 0).toNat % 4, scale := sc, positions := ps
                                      pos := if block then (c 0).toNat % 32 else 0, data := if store = true ∨ ¬block then data else 0 } ∧
    RangeAt s gid x e.lane (tensorAddress x c) n need place ∧
    (¬block → sc = [] ∧ ps = []) ∧ (block → RangeAt s gid x e.lane (tensorScale x c) 1 need sc) ∧
    (block → store = false → ps = []) ∧
    (block → store = true → ps.length = 32 ∧ ∀ i, i < 32 →
      (InRange x (positionOf c i) → RangeAt s gid x e.lane (tensorAddress x (positionOf c i)) n need (ps.getD i [])) ∧
      (¬InRange x (positionOf c i) → ps.getD i [] = [])))

/-! ## Events -/

/-- The byte at a place of device memory, host memory or a core's scratchpad. -/
def placed (s : State) (core : Nat) (sp : Space) (a : Nat) : Byte :=
  match sp with
  | .dev => memGet s.mem a
  | .host => memGet s.hostMem a
  | .spad => memGet (coreOf s core).sp a
  | .peer => 0

/-- The little-endian value at a place (R7). -/
def placedVal (s : State) (core : Nat) (e : Elem) : Nat := ((List.range e.size).map fun i => (placed s core e.space (e.addr + i)).toNat * 2 ^ (8 * i)).sum

/-- The value that an element of a load gives: what it read where it was performed before the others (R245), else the value at its place. -/
def gotVal (s : State) (core : Nat) (e : Elem) : Nat :=
  match e.got with
  | some r => r.1
  | none => placedVal s core e

/-- Whether what an element of a load gives is poisoned. -/
def gotPoison (s : State) (core f : Nat) (e : Elem) : Bool :=
  match e.got with
  | some r => r.2
  | none => spacePoison s core f e.space e.addr e.size

/-- The value of the bytes that some elements of a load give, one after the other. -/
def gotVals (s : State) (core : Nat) : List Elem → Nat
  | [] => 0
  | e :: r => gotVal s core e % 2 ^ (8 * e.size) + 2 ^ (8 * e.size) * gotVals s core r

/-- The value of the bytes at some places, one after the other. -/
def placedVals (s : State) (core : Nat) : List Elem → Nat
  | [] => 0
  | e :: r => placedVal s core e + 2 ^ (8 * e.size) * placedVals s core r

/-- The dirty Polder lines that a test names have been written back (R205): the 128 bytes of each stand at its global address, unless another
of them has a byte there, and every other byte of device and host memory is as before. -/
def WrittenBack (w u : State) (core : Nat) (p : Nat → Prop) : Prop :=
  let goes (l : Nat) (y : PolderLine) : Prop := p l ∧ tget (coreOf w core).lines l = some y ∧ y.dirty = true
  (∀ l y, goes l y → y.frame.space = .dev ∨ y.frame.space = .host →
    (∀ l' y', goes l' y' → l' ≠ l → y'.frame.space = y.frame.space → y'.frame.pa + 128 ≤ y.frame.pa ∨ y.frame.pa + 128 ≤ y'.frame.pa) →
    ∀ i, i < 128 → placed u core y.frame.space (y.frame.pa + i) = memGet (coreOf w core).sp (128 * l + i)) ∧
  ∀ sp a, sp = .dev ∨ sp = .host → (∀ l y, goes l y → y.frame.space = sp → ¬(y.frame.pa ≤ a ∧ a < y.frame.pa + 128)) →
    placed u core sp a = placed w core sp a

/-- An operation that is the one of its number in its group, is not to be made again, and whose order lets it be performed now. -/
abbrev Performs (s : State) (gid seq : Nat) (op : MemOp) : Prop :=
  ((groupOf s gid).ops.filter fun o => decide (o.id = seq)) = [op] ∧ op.part = 0 ∧ op.replay = false ∧ opReady s gid op = true

/-- A byte lies in an element. -/
abbrev inElem (e : Elem) (sp : Space) (a : Nat) : Prop := e.space = sp ∧ e.addr ≤ a ∧ a < e.addr + e.size

/-- Plain stores have been made: each byte that an element covers holds the data of the last such element, every other byte is as before. -/
def Stored (s u : State) (core : Nat) (es : List Elem) : Prop :=
  (∀ sp a, sp ≠ .peer → (∀ e ∈ es, ¬inElem e sp a) → placed u core sp a = placed s core sp a) ∧
  (∀ pre e post i, es = pre ++ e :: post → e.space ≠ .peer → i < e.size → (∀ x ∈ post, ¬inElem x e.space (e.addr + i)) →
    placed u core e.space (e.addr + i) = BitVec.ofNat 8 (e.data / 2 ^ (8 * i))) ∧
  ∀ k, k ≠ core → (coreOf u k).sp = (coreOf s k).sp

/-- No team has changed but in the lines that its load-block units keep filled (R207). -/
def SameTeams (s v : State) : Prop :=
  (∀ k, teamOf v k = { teamOf s k with blocks := (teamOf v k).blocks }) ∧
    ∀ k n, (tget (teamOf v k).blocks n).map (fun b => { b with filled := [] }) = (tget (teamOf s k).blocks n).map fun b => { b with filled := [] }

/-- What reads of memory may change (R207): the filled lines of load-block units. -/
def Refilled (s v : State) : Prop := v = { s with teams := v.teams } ∧ SameTeams s v

/-- Load-block units of other cores, or of every one where the core is none, have lost the lines that a write of `n` bytes of device memory
meets (R207), and nothing else has changed. -/
def Invalidated (s : State) (core a n : Nat) (v : State) : Prop :=
  v = { s with teams := v.teams } ∧ ∀ k, (teamOf s k).core ≠ core → teamOf v k = { teamOf s k with
    blocks := (teamOf s k).blocks.map fun b => (b.1, { b.2 with filled := b.2.filled.filter fun l => decide (¬(l < a + n ∧ a < l + 128)) }) }

/-- Late bytes of an engine as the elements of stores (R255). -/
def lateElems (ws : List LateWrite) : List Elem :=
  ws.map fun w => { lane := 0, space := w.space, addr := w.addr, va := w.va, size := w.bytes.length, data := leVal w.bytes }

/-- A team whose batches hold no Lining bytes back. -/
def flushedTeam (t : Team) : Team :=
  { t with batches := t.batches.map fun b => { b with lining := [] }, openBatch := { t.openBatch with lining := [] } }

/-- What stores may change where no Polder line is held and no peer is written: bytes of memory and scratchpad with their poison, the requests
sent to the host, and the filled lines of load-block units. -/
def StoredFrame (s v : State) : Prop :=
  v = { s with
    mem := v.mem, memPoison := v.memPoison, hostMem := v.hostMem, hostPoison := v.hostPoison, tlps := v.tlps, cores := v.cores
    teams := v.teams } ∧
  (∀ k, teamOf v k = { teamOf s k with blocks := (teamOf v k).blocks }) ∧
  ∀ k, coreOf v k = { coreOf s k with sp := (coreOf v k).sp, spPoison := (coreOf v k).spPoison }

/-- The requests to the host that an operation of function `f` has sent for its elements there, in order (R258, R353): those of a release at
system scope carry no relaxed-ordering attribute. -/
def HostSent (s v : State) (f : Nat) (op : MemOp) (kind : TlpKind) (data : Elem → List Byte) : Prop :=
  ∃ ts, v.tlps = s.tlps ++ ts ∧ (∀ x ∈ ts, x.func = f ∧ (x.ro = true ↔ ¬(op.release = true ∧ op.scope = 5))) ∧
    (ts.map fun x => (x.addr, x.bytes, x.kind)) = (op.elems.filter fun e => decide (e.space = .host)).map fun e => (e.addr, data e, kind)

/-- A group after one of its operations is done with port values: the results of its number are filled and its counters fall. -/
def performed (s : State) (gid : Nat) (op : MemOp) (o x : Lanes) (poison : Mask) : State :=
  afterOp (setGroup s gid (opDone (deliverOp (groupOf s gid) op o x poison) op.id op.part)) gid

/-- The words of port o and port x that a load of a value gives (R220). -/
def loaded (op : LdOp) (v : Nat) : Word × Word :=
  match op with
  | .lb => (BitVec.ofInt 32 (Int.bmod v (2 ^ 8)), 0)
  | .lh => (BitVec.ofInt 32 (Int.bmod v (2 ^ 16)), 0)
  | _ => (BitVec.ofNat 32 v, BitVec.ofNat 32 (v / 2 ^ 32))

/-- The word that an integer atomic leaves (R226, R227). -/
def atomicValue (op : StOp) (old d c : Word) : Word :=
  match op with
  | .aadd | .radd => BitVec.ofNat 32 (old.toNat + d.toNat)
  | .amin => BitVec.ofInt 32 (min old.toInt d.toInt)
  | .amax => BitVec.ofInt 32 (max old.toInt d.toInt)
  | .aminu => BitVec.ofNat 32 (min old.toNat d.toNat)
  | .amaxu => BitVec.ofNat 32 (max old.toNat d.toNat)
  | .aand => BitVec.ofNat 32 (old.toNat &&& d.toNat)
  | .aor => BitVec.ofNat 32 (old.toNat ||| d.toNat)
  | .axor => BitVec.ofNat 32 (old.toNat ^^^ d.toNat)
  | .acas => if old = c then d else old
  | .afadd | .rfadd => (fmLane (.add .rn) old d 0).o
  | _ => d

/-- Atomics of some elements in their order (R219, R226, R227): each gives the word at its place and its poison, and leaves there the value of
its operation; one performed before the others has done so. -/
def Atomics (core f : Nat) (k : StOp) (o : Lanes) (p : Mask) : State → List Elem → State → Prop
  | s, [], v => v = s
  | s, e :: r, v =>
    let old := BitVec.ofNat 32 (gotVal s core e)
    ∃ u, Atomics core f k o p u r v ∧ (e.lane < 32 → laneGet o e.lane = old ∧ p.getLsbD e.lane = gotPoison s core f e) ∧
      (e.got ≠ none → u = s) ∧ (e.got = none → StoredFrame s u ∧
        Stored s u core [{ e with data := (atomicValue k old (BitVec.ofNat 32 e.data) (BitVec.ofNat 32 e.cmp)).toNat }])

/-- The places of some elements. -/
def placesOf (es : List Elem) : List (Space × Nat) := es.map fun e => (e.space, e.addr)

/-- The bytes of the T6 groups of a tst: three for each lane, and those of different groups apart. -/
abbrev GroupsApart (ts : List TElem) : Prop :=
  ∀ t ∈ ts, t.place.length = 3 ∧ (∀ e ∈ t.place, e.size = 1) ∧ (placesOf t.place).Nodup ∧ t.sub < 4 ∧
    ∀ x ∈ ts, sameGroup t x = false → ∀ q ∈ placesOf t.place, q ∉ placesOf x.place

/-- What a tst of T6 codes leaves (R232): each place named holds the code of the last lane that names it, and a place of their groups that none
names holds the code that stood there, now or when the store issued. -/
def GroupsStored (s v : State) (core : Nat) (ts : List TElem) : Prop :=
  let code (u : State) (t : TElem) (i : Nat) : Nat := placedVals u core t.place / 2 ^ (6 * i) % 2 ^ 6
  (∀ pre t post, ts = pre ++ t :: post → (∀ x ∈ post, sameGroup t x = true → x.sub ≠ t.sub) → code v t t.sub = t.data.toNat % 2 ^ 6) ∧
  ∀ t ∈ ts, ∀ i, i < 4 → (∀ x ∈ ts, sameGroup t x = true → x.sub ≠ i) →
    code v t i = code s t i ∨ ∃ x ∈ ts, sameGroup t x = true ∧ code v t i = x.before / 2 ^ (6 * i) % 2 ^ 6

/-- The bytes of the blocks of a tst with codes of body width B: a scale byte and 32 positions for each lane, of which those out of range have
none; different bytes, but that four T6 positions share three; and different blocks apart. -/
abbrev BlocksApart (B : Nat) (ts : List TElem) : Prop :=
  ∀ t ∈ ts, t.scale.length = 1 ∧ t.positions.length = 32 ∧ (∀ e ∈ t.scale ++ t.positions.flatten, e.size = 1) ∧
    (∀ q ∈ placesOf t.scale, q ∉ placesOf t.positions.flatten) ∧
    (∀ i j, i < 32 → j < 32 → let p := placesOf (t.positions.getD i []); let p' := placesOf (t.positions.getD j [])
      p ≠ [] → p.length = (if B = 7 then 1 else 3) ∧ p.Nodup ∧
        (p' ≠ [] → if i = j ∨ (B = 5 ∧ i / 4 = j / 4) then p' = p else ∀ q ∈ p, q ∉ p')) ∧
    ∀ x ∈ ts, if sameBlock t x = true then x.positions.map placesOf = t.positions.map placesOf
      else ∀ q ∈ placesOf (t.scale ++ t.positions.flatten), q ∉ placesOf (x.scale ++ x.positions.flatten)

/-- What a tst of blocks leaves (R70, R232): a position that lanes name has the value of one of them, every other in range +0; the block's scale
byte, and the code of each position in range, are those of these values; and the flags of their encoding are raised. -/
def BlocksStored (B : Nat) (s v : State) (core : Nat) (ts : List TElem) (fl : Flags) : Prop :=
  ∃ (value : TElem → Nat → Word) (S : TElem → Int) (r : TElem → Nat → FRes),
    let live (t : TElem) (i : Nat) : Prop := i < 32 ∧ t.positions.getD i [] ≠ []
    let code (u : State) (t : TElem) (i j : Nat) : Nat :=
      let x := placedVals u core (t.positions.getD i [])
      if B = 7 then x else x / 2 ^ (6 * (j % 4)) % 2 ^ 6
    (∀ t ∈ ts, ∀ i, (∀ x ∈ ts, sameBlock t x = true → x.pos ≠ i) → value t i = 0) ∧
    (∀ t ∈ ts, ∀ x ∈ ts, sameBlock t x = true → ∃ y ∈ ts, sameBlock t y = true ∧ y.pos = x.pos ∧ value t x.pos = y.data) ∧
    (∀ t ∈ ts, ScaleOf (fun w => ∃ i, live t i ∧ w = fp (value t i)) (S t) ∧
      (∀ e ∈ t.scale, placed v core e.space e.addr = BitVec.ofInt 8 (S t)) ∧
      ∀ i, live t i → CodeOf B (S t) (fp (value t i)) (r t i) ∧ code v t i i = (r t i).bits ∧
        ∀ j, j < 32 → ¬live t j → B = 5 → j / 4 = i / 4 → code v t i j = code s t i j) ∧
    ∀ k, fl.getLsbD k = true ↔ ∃ t ∈ ts, ∃ i, live t i ∧ (r t i).flags.getLsbD k = true

/-- A transfer command that has ended (R234, R239, R208): its channel is done up to it and keeps its first failure, its counter falls, its bank
locks and its place in the buffer go. -/
def transferEnded (s : State) (core : Nat) (x : CopyCmd) (cause : Option Nat) : State :=
  let t := teamOf s x.team
  let ch := tgetD t.channels x.channel {}
  let fail := if ch.fail = none then cause.map fun c => (x.num, c) else ch.fail
  let s := setTeam s x.team { t with
    channels := tset t.channels x.channel { last := ch.last, done := x.num, fail := fail, pend := false, prog := 0 } }
  let g := groupOf s x.gid
  let s := setGroup s x.gid { g with paths := g.paths.map fun e => (e.1, pathDone e.2 x.opId) }
  let c := coreOf s core
  setCore s core { c with
    locks := c.locks.filter fun l => decide (l.owner ≠ x.id), copies := c.copies.filter fun y => decide (y.id ≠ x.id) }

/-- A command's record replaced in the buffer of its core. -/
def transferNow (s : State) (core : Nat) (x : CopyCmd) : State :=
  setCore s core { coreOf s core with copies := (coreOf s core).copies.map fun y => if y.id = x.id then x else y }

/-- The scratchpads and device memory of two states are the same. -/
def SameBytes (u v : State) : Prop := u.mem = v.mem ∧ ∀ k, (coreOf u k).sp = (coreOf v k).sp

/-- The places of the bytes of pieces, in order. -/
def placesIn (ps : List Piece) : List (Space × Nat) := ps.flatMap fun p => (List.range p.n).map fun i => (p.frame.space, p.frame.pa + i)

/-- The places of a move's source bytes, none of a constant one. -/
def sourcePlaces (s : State) (x : CopyCmd) (m : CMove) : List (Space × Nat) :=
  let t := teamOf s x.team
  match m.src with
  | .glob va => placesIn (rangeX s t.core t.func t.asid va m.n { rd := true, w := false } x.sup).pieces
  | .spad off => (List.range m.n).map fun i => (.spad, t.spBase + off + i)
  | .const _ => []

/-- The source bytes of a move as they stand. -/
def sourceBytes (s : State) (x : CopyCmd) (m : CMove) : List Byte :=
  match m.src with
  | .const b => b
  | .glob _ | .spad _ => (sourcePlaces s x m).map fun c => placed s (teamOf s x.team).core c.1 c.2

/-- A place whose A and D bits the access to a move's pages may set (R197). -/
abbrev TouchedBy (s : State) (x : CopyCmd) (m : CMove) (c : Space × Nat) : Prop :=
  c.1 = .dev ∧ c.2 ∈ (moveX s x m).pieces.filterMap fun p => p.frame.leaf

/-- The places of a move: as many as its bytes, in the scratchpad and in device memory, different ones, apart from the page table entries that
translate them, and the same ones once its pages are touched. -/
abbrev MovePlaces (s : State) (x : CopyCmd) (m : CMove) : Prop :=
  let src := sourcePlaces s x m
  let dst := placesIn (moveSpots s x m)
  (∀ c ∈ src ++ dst, (c.1 = .dev ∨ c.1 = .spad) ∧ ¬TouchedBy s x m c) ∧ dst.Nodup ∧ dst.length = m.n ∧
    (sourceBytes s x m).length = m.n ∧ (m.code.isSome → m.n = 3) ∧
    let v := (moveRead s x m).2.2
    moveSpots v x m = moveSpots s x m ∧ moveSpots (moveOld v x m).2 x m = moveSpots s x m

/-- Bytes stand at a move's destination, byte `i` as `holds i` allows; every other byte is as before. -/
def Lands (s u : State) (x : CopyCmd) (m : CMove) (holds : Nat → Byte → Prop) : Prop :=
  let k := (teamOf s x.team).core
  let dst := placesIn (moveSpots s x m)
  (∀ i c, dst[i]? = some c → holds i (placed u k c.1 c.2)) ∧
    (∀ c : Space × Nat, c.1 = .dev ∨ c.1 = .spad → c ∉ dst → ¬TouchedBy s x m c → placed u k c.1 c.2 = placed s k c.1 c.2) ∧
    ∀ j, j ≠ k → (coreOf u j).sp = (coreOf s j).sp

/-- The byte that stood at byte `i` of a move's destination. -/
def oldByte (s : State) (x : CopyCmd) (m : CMove) (i : Nat) : Byte :=
  ((placesIn (moveSpots s x m))[i]?.map fun c => placed s (teamOf s x.team).core c.1 c.2).getD 0

/-- What a move makes of source bytes (R236): with a 6-bit code, the code replaced in the group that stood there. -/
def madeByte (s : State) (x : CopyCmd) (m : CMove) (src : List Byte) (i : Nat) : Byte :=
  match m.code with
  | none => src.getD i 0
  | some (a, b) =>
    let old := leVal ((List.range 3).map fun j => oldByte s x m j)
    let code := leVal src / 2 ^ (6 * a) % 2 ^ 6
    BitVec.ofNat 8 ((old % 2 ^ (6 * b) + code * 2 ^ (6 * b) + old / 2 ^ (6 * b + 6) * 2 ^ (6 * b + 6)) / 2 ^ (8 * i))

/-- Byte `k` of a command's cut moves goes from a source to a destination. -/
def MovesByte (ms : List CMove) (k : Nat) (src : CSrc) (spad : Bool) (dst : Nat) : Prop :=
  ∃ m ∈ ms, ∃ i, i < m.n ∧ m.pos + i = k ∧ srcTake (srcDrop m.src i) 1 = src ∧ m.dstSpad = spad ∧ m.dst + i = dst

/-! ## Tasks and teams -/

/-- The team that a task offers to a die for one index: it has no core of its own yet, no scratchpad and no groups (R11, R31, R38). -/
def offeredTeam (x : Task) (task index die : Nat) (coords : List Nat) (regs : List (Nat × DWord)) (chain : List Nat) : Team :=
  { noTeam with
    task := task, index := index, coords := coords, step := decide (taskKind x = 2), stepRegs := regs, chain := chain, arg := x.arg
    core := 48 * die, func := x.func, asid := x.asid, prio := x.prio, kd := x.kd.getD noKDesc, place := .offered }

/-- A task without a completion record and with none of its record's writes left to make. -/
abbrev Recordless (x : Task) : Prop := taskCrec x = 0 ∧ x.pendingWrites = [] ∧ x.finishing = false ∧ x.waits = []

/-- What the host reads of a task's failure (R33, R355): TERRLOG's code and count, and FEVENT.TASKERR. -/
def ErrorTold (s u : State) (f code : Nat) : Prop :=
  (funcOf u f).errCode = code ∧ (funcOf u f).errCount = min ((funcOf s f).errCount + 1) (2 ^ 32 - 1) ∧ (funcOf u f).event.getLsbD 0 = true

end Sys2Proof.Safety
end

