-- ==== Sys2Proof/Certificates/Slice0/Obligations.lean ====
section
/-!
DEFINITION. What the provers prove of the model. A statement names the rules of the spec that it says. `Issues`, `Ready` and `Traps` say when
a bundle issues or traps; `IssueOf s gid b w` says that `w` is `s` but for the counts that every issued bundle makes, so that what stands
after `w` is the operation's own effect and everything else is its frame.
-/

open Sys2Proof Sys2Proof.Machine Sys2Proof.Safety

/-! ## The scalar slot -/

/-- R119, R96: each of the seventeen two-operand operations, and LI, LIZ and LIH, writes its value to s[sd] modulo 2^64, writes nothing where sd is
s0, sets no flag, never traps, and goes on. -/
def Obligations.ScalarValues : Prop :=
  ∀ (sd sa sb : BitVec 6) (s : State) (gid sid : Nat),
    let W (op : ScalarOp) (i : Instr) (v : DWord) : Prop := Runs s gid sid (scalarBundle op) →
      ∃ w, IssueOf s gid (scalarBundle op) w ∧ exec i s = .next (goesOn (putS w gid sid sd v) gid sid)
    (∀ (op : AluOp) (imm : BitVec 22), W (.alu op sd sa sb imm) (aluInstr op sd sa sb imm)
      (aluValue op (sreg s gid sid sa) (operandT s gid sid sb imm))) ∧
    ∀ imm : BitVec 32,
      W (.li sd imm) (.li sd imm) (BitVec.ofInt 64 imm.toInt) ∧
      W (.liz sd imm) (.liz sd imm) (BitVec.ofNat 64 imm.toNat) ∧
      W (.lih sd imm) (.lih sd imm) (BitVec.ofNat 64 ((sreg s gid sid sd).toNat % 2 ^ 32 + imm.toNat * 2 ^ 32)) ∧
      sreg s gid sid 0 = 0 ∧ ∀ v, putS s gid sid 0 v = { s with groups := (putS s gid sid 0 v).groups } ∧
        ∀ k, groupOf (putS s gid sid 0 v) k = groupOf s k

/-- R123, R124, R126, R127: the transfers of control: RET, CALL and OVCALL with their link register s63 (R126), LOOP with its counter (R127), and BU.
They leave everything but the PC, the link register and the counter alone. -/
def Obligations.ControlTransfers : Prop :=
  ∀ (s : State) (gid sid : Nat),
    (∀ sa, Issues s gid sid (scalarBundle (.ret sa)) → ∃ w, IssueOf s gid (scalarBundle (.ret sa)) w ∧
      exec (.ret sa) s = .next (setPc w gid sid (sreg s gid sid sa).toNat)) ∧
    (∀ sa sb imm, Issues s gid sid (scalarBundle (.ovcall sa sb imm)) → ∃ w, IssueOf s gid (scalarBundle (.ovcall sa sb imm)) w ∧
      exec (.ovcall sa sb imm) s = .next (setPc (putS w gid sid 63 (BitVec.ofNat 64 (nextPc (pcOf s gid sid)))) gid sid
        (sreg s gid sid sa + operandT s gid sid sb imm).toNat)) ∧
    (∀ target, Issues s gid sid (scalarBundle (.call target)) → ∃ w, IssueOf s gid (scalarBundle (.call target)) w ∧
      exec (.call target) s = .next (setPc (putS w gid sid 63 (BitVec.ofNat 64 (nextPc (pcOf s gid sid)))) gid sid
        (bundleAway s gid sid target))) ∧
    (∀ target n, Issues s gid sid (scalarBundle (.loop target n)) → ∃ w, IssueOf s gid (scalarBundle (.loop target n)) w ∧
      exec (.loop target n) s = .next (setPc (putS w gid sid n (sreg s gid sid n - 1)) gid sid
        (if sreg s gid sid n = 1 then nextPc (pcOf s gid sid) else bundleAway s gid sid target))) ∧
    ∀ inv mask target, Issues s gid sid (scalarBundle (.bu inv mask target)) →
      (condOf s gid sid inv mask = 0 ∨ condOf s gid sid inv mask = activeMask (groupOf s gid) sid) ∧
      ∃ w, IssueOf s gid (scalarBundle (.bu inv mask target)) w ∧
        exec (.bu inv mask target) s = .next (setPc w gid sid
          (if condOf s gid sid inv mask = 0 then nextPc (pcOf s gid sid) else bundleAway s gid sid target))

/-- R20: BD's three outcomes, and the split or stack entry that a divergence makes. -/
def Obligations.DivergentBranch : Prop :=
  ∀ (inv : Bool) (mask : BitVec 4) (target : BitVec 24) (join : BitVec 16) (s : State) (gid sid : Nat),
    Issues s gid sid (scalarBundle (.bd inv mask target join)) → ∃ w, IssueOf s gid (scalarBundle (.bd inv mask target join)) w ∧
      let t := condOf s gid sid inv mask
      let n := activeMask (groupOf s gid) sid &&& ~~~t
      let g := groupOf w gid
      let sp := splitOf g sid
      let fall := nextPc (pcOf s gid sid)
      let j := bundleAway s gid sid join
      let a := bundleAway s gid sid target
      (t = 0 → exec (.bd inv mask target join) s = .next (setPc w gid sid fall)) ∧
      (t ≠ 0 → n = 0 → exec (.bd inv mask target join) s = .next (setPc w gid sid a)) ∧
      (t ≠ 0 → n ≠ 0 → ∀ i, freeSplit g (halfOf g sid) = some i →
        exec (.bd inv mask target join) s = .next (setGroup w gid (setSplit
          (setSplit g sid { sp with mask := n, pc := fall, join := some j, held := none }) i
          { pc := a, mask := t, join := some j, la := sp.la }))) ∧
      (t ≠ 0 → n ≠ 0 → freeSplit g (halfOf g sid) = none →
        exec (.bd inv mask target join) s = .next (setGroup w gid (setSplit g sid
          { sp with mask := t, pc := a, stack := { join := j, fall := fall, mask := n, second := false } :: sp.stack })))

/-- R121, R349: MRD reads a mask, m0 the active one, in legacy width the split's half of it; MWR sets a mask, whose value before it the
guards of the next bundle still see. -/
def Obligations.MaskReadAndWrite : Prop :=
  ∀ (s : State) (gid sid : Nat),
    (∀ sd mask, Runs s gid sid (scalarBundle (.mrd sd mask)) → ∃ w, IssueOf s gid (scalarBundle (.mrd sd mask)) w ∧
      let g := groupOf s gid
      let m := if mask = 0 then activeMask g sid else mget g mask.toNat
      exec (.mrd sd mask) s = .next (goesOn (putS w gid sid sd
        (BitVec.ofNat 64 (if g.lw then m.toNat / 2 ^ (16 * half s gid sid) % 2 ^ 16 else m.toNat))) gid sid)) ∧
    ∀ mask sa sb imm, sid < 4 → Runs s gid sid (scalarBundle (.mwr mask sa sb imm)) → ∃ w, IssueOf s gid (scalarBundle (.mwr mask sa sb imm)) w ∧
      let g := groupOf w gid
      let v := sreg s gid sid sa + operandT s gid sid sb imm
      let old := mget g mask.toNat
      ∃ new : Mask, (∀ l, l < 32 → new.getLsbD l =
          if g.lw then (if l / 16 = half s gid sid then v.getLsbD (l % 16) else old.getLsbD l) else v.getLsbD l) ∧
        exec (.mwr mask sa sb imm) s = .next (goesOn (setGroup w gid { g with
          m := tset g.m mask.toNat new, mPrev := [(mask.toNat, old)]
          mPoison := tset g.mPoison mask.toNat (if g.lw then tgetD g.mPoison mask.toNat 0 &&& ~~~halfMask g (half s gid sid) else 0)
          userPrev := if g.super then tdel g.userPrev mask.toNat else g.userPrev }) gid sid)

/-- R134: EXIT ends the active lanes of its split; the split resumes from its serialisation stack where lanes still run there, is freed
where none do, and the group ends with its last split. That a stack entry's lanes which have exited since its push stay out of it is the model's
reading (log 40, DEDUCED): R134's pseudo-code names the entry's mask alone. -/
def Obligations.LanesExit : Prop :=
  ∀ (s : State) (gid sid : Nat), Issues s gid sid (scalarBundle .exit) → ∃ w, IssueOf s gid (scalarBundle .exit) w ∧
    let g := groupOf w gid
    let a := activeMask g sid
    let drop (im : Image) : Image := { im with results := dropResults a im.results }
    let x := { g with exited := g.exited ||| a, image := drop g.image, user := g.user.map drop }
    let sp := splitOf g sid
    let stack := sp.stack.map fun e => { e with mask := e.mask &&& runningLanes x }
    let r := exitStack (nextPc sp.pc) (sp.mask &&& runningLanes x) stack
    sp.mask &&& runningLanes x = 0 ∧
    (r.1 ≠ 0 → exec .exit s = .next (setGroup w gid (setSplit x sid { sp with mask := r.1, pc := r.2.1, stack := r.2.2 }))) ∧
    (r.1 = 0 → (∃ k, k ≠ sid ∧ (tget g.splits k).isSome) →
      exec .exit s = .next (setGroup w gid { x with splits := tdel g.splits sid })) ∧
    (r.1 = 0 → (∀ k, k ≠ sid → tget g.splits k = none) →
      exec .exit s = .next (ended (setGroup w gid { x with splits := tdel g.splits sid }) gid))

/-! ## Traps -/

/-- R306-R311: a bundle that meets a trap condition in user mode has no effect; the reported trap is taken. -/
def Obligations.TrapEntry : Prop :=
  ∀ (i : Instr) (b : Bundle) (t : TrapInfo) (s : State) (gid sid : Nat), toBundle i = some b → Traps s gid sid b t →
    (groupOf s gid).super = false → ∃ h ports, exec i s = .next (setGroup s gid h) ∧
      Entered (seen s gid b) h sid t (pcOf s gid sid) ports ∧ (t.code ≠ 5 → ports = [])

/-- R110, R111: a fetched word with an illegal encoding, and a bundle instruction with one, trap with cause 0x01 and the first field that is
illegal, whatever else the bundle meets; in supervisor mode the trap ends the group (R312). -/
def Obligations.IllegalEncodings : Prop :=
  (∀ (s u : State) (cl gid sid : Nat) (after : State → State) (k : Nat), Turn s cl gid sid u after → Fetchable u gid sid →
    decode (fetched u gid sid) = .error k →
    ((groupOf u gid).super = false → ∃ h, step s = .next (tick (after (setGroup u gid h))) ∧
      Entered (groupOf u gid) h sid { code := 1, info := 0, slot := k } (pcOf u gid sid) []) ∧
    ((groupOf u gid).super = true → step s = .next (tick (after (killed u gid))))) ∧
  ∀ (i : Instr) (b : Bundle) (k : Nat) (s : State) (gid sid : Nat), toBundle i = some b → firstIllegal b = some k →
    s.cur = some (gid, sid) → (groupOf s gid).super = false →
    ∃ h, exec i s = .next (setGroup s gid h) ∧ Entered (groupOf s gid) h sid { code := 1, info := 0, slot := k } (pcOf s gid sid) []

/-- R312: a trap in supervisor mode ends the group, and its task fails with 0x0B unless it has failed already. -/
def Obligations.DoubleTrap : Prop :=
  ∀ (i : Instr) (b : Bundle) (t : TrapInfo) (s : State) (gid sid : Nat), toBundle i = some b → Traps s gid sid b t →
    (groupOf s gid).super = true → exec i s = .next (killed (delivered s gid b) gid)

/-- R145, R306-R308: SYS and TRAP complete and then trap: SYS with cause 0x0E at the next bundle, TRAP with cause 0x0D at its own. -/
def Obligations.SystemCallAndBreakpoint : Prop :=
  ∀ (code : BitVec 16) (s : State) (gid sid : Nat), (groupOf s gid).super = false → (groupOf s gid).place ≠ .ended →
    (Runs s gid sid (scalarBundle (.sys code)) → ∃ w h, IssueOf s gid (scalarBundle (.sys code)) w ∧
      exec (.sys code) s = .next (setGroup w gid h) ∧
      Entered (groupOf w gid) h sid { code := 0x0E, info := BitVec.ofNat 64 code.toNat, slot := 6, after := true }
        (nextPc (pcOf s gid sid)) []) ∧
    (Runs s gid sid (scalarBundle (.trap code)) → ∃ w h, IssueOf s gid (scalarBundle (.trap code)) w ∧
      exec (.trap code) s = .next (setGroup w gid h) ∧
      Entered (groupOf w gid) h sid { code := 0x0D, info := BitVec.ofNat 64 code.toNat, slot := 6, after := true } (pcOf s gid sid) [])

/-- R312, R313, R321: ERET in supervisor mode: the end of the group with KILL = 1; the return to EPC.PC; and with INJ = 1 the return with the access of
the trapping bundle replaced by register values, a double trap where the trap was no misaligned access, where its operation or trigger is none
that R313 replaces, or where VREG names no register of the group. That a value with an uncorrectable error counts as consumed as ERET reads it,
and so is a double trap (R321, R312), is the model's choice (log 43, DESIGN CHOICE). -/
def Obligations.ExceptionReturn : Prop :=
  ∀ (s : State) (gid sid : Nat), Issues s gid sid (scalarBundle .eret) → ∃ w, IssueOf s gid (scalarBundle .eret) w ∧
    let g := groupOf w gid
    let e := g.epc.toNat
    let pc := e % 2 ^ 19
    let v := e / 2 ^ 21 % 2 ^ 9
    let slot := g.ecause.toNat / 2 ^ 9 % 2 ^ 3
    let b := bundleAt (coreOf w (teamOf w g.team).core) pc
    let back (o : Lanes) (x : Option Lanes) : Host.Outcome State Fault Refusal := .next (setGroup w gid { leftGroup g sid pc with
      inject := some { split := sid, slot := slot, o := o, x := x, s0 := sget g (halfOf g sid) v, s1 := sget g (halfOf g sid) (v + 1) } })
    -- a register that stands for the access holds no uncorrectable error (R321)
    let okS (k : Nat) : Prop := 64 * halfOf g sid + k ∉ g.sPoison
    let okV (k : Nat) : Prop := activeMask g sid &&& tgetD g.vPoison k 0 = 0
    let two := e / 2 ^ 20 % 2 = 1
    g.super = true ∧
    (e / 2 ^ 63 = 1 → exec .eret s = .next (killed w gid)) ∧
    (e / 2 ^ 63 = 0 → e / 2 ^ 19 % 2 = 0 → exec .eret s = .next (setGroup w gid (leftGroup g sid pc))) ∧
    (e / 2 ^ 63 = 0 → e / 2 ^ 19 % 2 = 1 → g.ecause.toNat % 256 ≠ 5 → exec .eret s = .next (killed w gid)) ∧
    (e / 2 ^ 63 = 0 → e / 2 ^ 19 % 2 = 1 → g.ecause.toNat % 256 = 5 → slot = 6 →
      (∀ y sd sa sb imm, b = some y → y.scalar = some (.sld sd sa sb imm) → 1 ≤ v → v ≤ 63 → okS v → exec .eret s = back [] none) ∧
      (∀ y sd sa sb imm, b = some y → y.scalar = some (.sldq sd sa sb imm) → 1 ≤ v → v ≤ 62 → okS v → okS (v + 1) →
        exec .eret s = back [] none) ∧
      (∀ y sd sa sb imm, b = some y → y.scalar = some (.sst sd sa sb imm) ∨ y.scalar = some (.sstq sd sa sb imm) →
        exec .eret s = back [] none) ∧
      (∀ y sd sa sb imm, b = some y → y.scalar = some (.sld sd sa sb imm) → v = 0 ∨ 63 < v ∨ ¬okS v → exec .eret s = .next (killed w gid)) ∧
      (∀ y sd sa sb imm, b = some y → y.scalar = some (.sldq sd sa sb imm) → v = 0 ∨ 62 < v ∨ ¬okS v ∨ ¬okS (v + 1) →
        exec .eret s = .next (killed w gid)) ∧
      ((∀ y op, b = some y → y.scalar = some op → ∀ sd sa sb imm, op ≠ .sld sd sa sb imm ∧ op ≠ .sldq sd sa sb imm ∧
        op ≠ .sst sd sa sb imm ∧ op ≠ .sstq sd sa sb imm) → exec .eret s = .next (killed w gid))) ∧
    (e / 2 ^ 63 = 0 → e / 2 ^ 19 % 2 = 1 → g.ecause.toNat % 256 = 5 → slot ≠ 6 →
      (∀ y op, b = some y → slotTrigger y slot = some (.ld op) → v + e / 2 ^ 20 % 2 < g.regcnt → okV v → (two → okV (v + 1)) →
        exec .eret s = back (vget g v) (if two then some (vget g (v + 1)) else none)) ∧
      (∀ y op, b = some y → slotTrigger y slot = some (.ld op) → g.regcnt ≤ v + e / 2 ^ 20 % 2 ∨ ¬okV v ∨ (two ∧ ¬okV (v + 1)) →
        exec .eret s = .next (killed w gid)) ∧
      (∀ y op, b = some y → slotTrigger y slot = some (.st op) → ((portsWritten (.st op)).1 = true → okV v) →
        exec .eret s = back (vget g v) (if two then some (vget g (v + 1)) else none)) ∧
      (∀ y op, b = some y → slotTrigger y slot = some (.st op) → (portsWritten (.st op)).1 = true → ¬okV v →
        exec .eret s = .next (killed w gid)) ∧
      ((∀ y t, b = some y → slotTrigger y slot = some t → ∀ op op', t ≠ .ld op ∧ t ≠ .st op') → exec .eret s = .next (killed w gid)))

/-- R141, R145, R314: RDSR of a register hidden from user mode, WRSR of one it may not write, and ERET trap with cause 0x0C in user mode, unless
the value written is illegal, which outranks it (R111). -/
def Obligations.PrivilegedInUserMode : Prop :=
  ∀ (s : State) (gid sid : Nat), (groupOf s gid).super = false →
    (∀ (sd : BitVec 6) (reg : BitVec 16), Ready s gid sid (scalarBundle (.rdsr sd reg)) →
      reg.toNat ∈ [0x100, 0x101, 0x102, 0x103, 0x110, 0x120, 0x121, 0x122, 0x123, 0x128, 0x129, 0x12A, 0x12B, 0x12C, 0x12D, 0x12E, 0x12F] →
      ∃ h, exec (.rdsr sd reg) s = .next (setGroup s gid h) ∧
        Entered (seen s gid (scalarBundle (.rdsr sd reg))) h sid { code := 0x0C, info := BitVec.ofNat 64 reg.toNat, slot := 6 }
          (pcOf s gid sid) []) ∧
    (∀ (sa : BitVec 6) (reg : BitVec 16), Ready s gid sid (scalarBundle (.wrsr sa reg)) →
      reg.toNat ∉ [0, 1, 0x20, 0x21, 0x104] → ¬(0x23 ≤ reg.toNat ∧ reg.toNat ≤ 0x2A) → ¬(0x40 ≤ reg.toNat ∧ reg.toNat ≤ 0x5F) →
      writeCheck (groupOf s gid) (teamOf s (teamId s gid)) reg.toNat (sreg s gid sid sa) ≠ some 1 →
      ∃ h, exec (wrsrInstr sa reg) s = .next (setGroup s gid h) ∧
        Entered (seen s gid (scalarBundle (.wrsr sa reg))) h sid { code := 0x0C, info := BitVec.ofNat 64 reg.toNat, slot := 6 }
          (pcOf s gid sid) []) ∧
    (Ready s gid sid (scalarBundle .eret) → ∃ h, exec .eret s = .next (setGroup s gid h) ∧
      Entered (seen s gid (scalarBundle .eret)) h sid { code := 0x0C, info := 0, slot := 6 } (pcOf s gid sid) [])

/-! ## Special registers -/

/-- R4, R16, R18, R41, R53, R59, R132, R139, R141-R144, R207, R234, R262, R263, R287, R308-R310, R314, R325, R327, R329, R330, R334, R338, R341:
RDSR writes the value of the special register to s[sd], whose fields are those of the rules named beside them. That a legacy half reads its own
flags and its own dead-source bit is the model's reading (log 41, DEDUCED). -/
def Obligations.SpecialRegisterReads : Prop :=
  (∀ (sd : BitVec 6) (reg : BitVec 16) (s : State) (gid sid : Nat), Issues s gid sid (scalarBundle (.rdsr sd reg)) →
    ∃ w, IssueOf s gid (scalarBundle (.rdsr sd reg)) w ∧
      exec (.rdsr sd reg) s = .next (goesOn (putS w gid sid sd (specialValue w gid (half s gid sid) reg.toNat)) gid sid)) ∧
  ∀ (s : State) (gid h : Nat), let g := groupOf s gid; let t := teamOf s g.team; let c := coreOf s t.core
    let v (n : Nat) : Nat := (specialValue s gid h n).toNat
    -- FSTAT (R59), GSTAT (R142), ROLE (R16), DOM (R18), REGCNT (R141); a legacy half reads its own flags and its own dead-source bit (log 41)
    (g.lw = false → v 0x000 = g.fstat.toNat % 2 ^ 5) ∧
    (g.lw = true → h = 0 → v 0x000 = g.fstat.toNat % 2 ^ 5) ∧ (g.lw = true → h = 1 → v 0x000 = g.fstat.toNat / 2 ^ 8 * 2 ^ 8) ∧
    v 0x001 = (if g.deadSrc = true ∧ (g.lw = true → h ≠ 1) then 1 else 0) + (if g.deadSrcH = true ∧ g.lw = true ∧ h = 1 then 2 else 0) +
      (if g.super then 4 else 0) + (if g.lw then 8 else 0) + (if g.deleg then 16 else 0) ∧
    (g.role < 16 → g.rix < 16 → g.gix < 16 → v 0x002 % 16 = g.role ∧ v 0x002 / 16 % 16 = g.rix ∧ v 0x002 / 256 = g.gix) ∧
    (∀ a b d, t.dom = [a, b, d] → a < 2 ^ 16 → b < 2 ^ 16 → d < 2 ^ 16 →
      v 0x003 % 2 ^ 16 = a ∧ v 0x003 / 2 ^ 16 % 2 ^ 16 = b ∧ v 0x003 / 2 ^ 32 = d) ∧
    (g.regcnt < 2 ^ 9 → v 0x004 = g.regcnt) ∧
    -- GTIME (R4), UNDECL (R338), BATCHLAST and BATCHDONE (R132), MXTOK (R143)
    (s.gtime < 2 ^ 64 → v 0x008 = s.gtime) ∧ (g.undecl < 2 ^ 64 → v 0x00C = g.undecl) ∧
    (t.batchLast < 2 ^ 64 → v 0x010 = t.batchLast) ∧ (t.batchDone < 2 ^ 64 → v 0x011 = t.batchDone) ∧
    (t.token = none → v 0x012 = 0) ∧ (t.token = some gid → g.gix < 16 → v 0x012 = g.gix + 16 + 32) ∧
    (∀ k, t.token = some k → k ≠ gid → (groupOf s k).gix < 16 → v 0x012 = (groupOf s k).gix + 32) ∧
    -- CHDONEn (R234)
    (∀ n, n < 8 → let x := tgetD t.channels n {}; x.done < 2 ^ 32 → x.prog < 2 ^ 28 →
      v (0x018 + n) % 2 ^ 32 = x.done ∧ v (0x018 + n) / 2 ^ 32 % 2 ^ 28 = x.prog ∧
      v (0x018 + n) / 2 ^ 62 % 2 = (if x.pend then 1 else 0) ∧ v (0x018 + n) / 2 ^ 63 = (if x.fail.isSome then 1 else 0)) ∧
    -- LNBASE, LNSIZE, LNHEAD, GMAPn (R287), QW0 and QW1 (R262, R263), BFLAGS (R207), OVMASK (R144), OVRES (R139)
    (t.lnBase < 2 ^ 64 → v 0x020 = t.lnBase) ∧ (t.lnSize < 2 ^ 64 → v 0x021 = t.lnSize) ∧
    (t.lnHead < 2 ^ 26 → t.lnCur < 2 ^ 26 → t.lnSt < 4 →
      v 0x022 % 2 ^ 26 = t.lnHead ∧ v 0x022 / 2 ^ 26 % 2 ^ 26 = t.lnCur ∧ v 0x022 / 2 ^ 62 = t.lnSt) ∧
    (∀ n, n < 8 → specialValue s gid h (0x023 + n) = tgetD t.gmap n 0) ∧
    (∀ q, q < 16 → specialValue s gid h (0x040 + 2 * q) = (streamOf t q).qw0 ∧
      ((streamOf t q).head < 2 ^ 32 → (streamOf t q).tail < 2 ^ 32 →
        v (0x041 + 2 * q) % 2 ^ 32 = (streamOf t q).head ∧ v (0x041 + 2 * q) / 2 ^ 32 = (streamOf t q).tail)) ∧
    v 0x060 = t.bflags.toNat ∧ v 0x070 = t.ovmask.toNat ∧ v 0x071 = c.ovres.toNat ∧
    -- NUMVER (R341), EPC, ECAUSE, EINFO, ESCRATCH, TVEC (R308-R310, R314), SWAPTH (R41), PCAP (R334)
    v 0x082 = 1 ∧ specialValue s gid h 0x100 = g.epc ∧ specialValue s gid h 0x101 = g.ecause ∧ specialValue s gid h 0x102 = g.einfo ∧
    specialValue s gid h 0x103 = g.escratch ∧ specialValue s gid h 0x104 = g.tvec ∧
    (c.swapth < 2 ^ 64 → v 0x110 = c.swapth) ∧ (s.pcap < 2 ^ 64 → v 0x122 = s.pcap) ∧
    -- PSTATE (R330)
    (c.weir.level < 4 → let p := v 0x009; let w := c.weir; let hard := 16 * w.ilim.hard
      (p % 2 = 1 ↔ w.pred = true) ∧ (p / 2 % 2 = 1 ↔ w.forced = true) ∧ p / 2 ^ 2 % 4 = w.level ∧ (p / 2 ^ 4 % 2 = 1 ↔ w.throttled ≠ []) ∧
      (p / 2 ^ 5 % 2 = 1 ↔ w.budget < hard) ∧ (p / 2 ^ 6 % 2 = 1 ↔ w.ballast = true) ∧ p / 2 ^ 7 % 2 = 0 ∧
      p / 2 ^ 8 = min 255 (256 * min hard w.budget / hard)) ∧
    -- PORTWAIT (R53) and CLKPAT (R329) of the cluster, FRZCNT (R325), FEATVEC and MCREV (R341)
    (∀ k slot, g.place = .resident k slot → v 0x121 = (clusterOf s k).clkpat.toNat ∧
      ((clusterOf s k).portwait < 2 ^ 64 → v 0x00A = (clusterOf s k).portwait)) ∧
    (c.weir.frzcnt < 2 ^ 64 → v 0x00B = c.weir.frzcnt) ∧ v 0x080 = 0xFF ∧ v 0x081 / 2 ^ 32 = 0 ∧ v 0x081 ≠ 0 ∧
    -- ILIM (R327), EFFCAP and the floors (R334)
    (c.ilim.hard < 2 ^ 16 → c.ilim.soft < 2 ^ 16 → c.ilim.frz2 < 2 ^ 6 → c.ilim.fduty < 2 ^ 5 →
      v 0x120 % 2 ^ 16 = c.ilim.hard ∧ v 0x120 / 2 ^ 16 % 2 ^ 16 = c.ilim.soft ∧ v 0x120 / 2 ^ 32 % 2 ^ 6 = c.ilim.frz2 ∧
      v 0x120 / 2 ^ 38 = c.ilim.fduty) ∧
    (let floors := (List.range 8).map fun n => tgetD s.pfloor n 0
      let watts := max (max (min s.pcap 1600) s.idle) floors.sum
      watts < 2 ^ 11 → s.idle < 2 ^ 11 → v 0x123 % 2 ^ 11 = watts ∧
        v 0x123 / 2 ^ 11 % 2 ^ 5 = (if min s.pcap 1600 < watts then 1 else 0) ∧ v 0x123 / 2 ^ 16 = s.idle) ∧
    ∀ n, n < 8 → tgetD s.pfloor n 0 < 2 ^ 64 → v (0x128 + n) = tgetD s.pfloor n 0

/-- R141, R142, R144, R309, R310, R314, R327: a WRSR of a register that does not wait, and nothing else, writes the fields that the table
gives it. -/
def Obligations.SpecialRegisterWrites : Prop :=
  ∀ (sa : BitVec 6) (s : State) (gid sid : Nat),
    let v := sreg s gid sid sa
    let W (reg : BitVec 16) (i : Instr) (f : State → State) : Prop := Issues s gid sid (scalarBundle (.wrsr sa reg)) →
      ∃ w, IssueOf s gid (scalarBundle (.wrsr sa reg)) w ∧ exec i s = .next (goesOn (f w) gid sid)
    let onGroup (f : Group → Group) (w : State) : State := setGroup w gid (f (groupOf w gid))
    let onCore (f : Core → Core) (w : State) : State :=
      setCore w (teamOf w (teamId w gid)).core (f (coreOf w (teamOf w (teamId w gid)).core))
    -- the flags of the half that writes, which in native width are the five of the group; the other half's stay (log 41)
    let own (g : Group) : BitVec 13 := if g.lw = true ∧ half s gid sid = 1 then 0x1F00 else 0x1F
    let upper (g : Group) : Bool := g.lw && decide (half s gid sid = 1)
    ((groupOf s gid).lw = true → half s gid sid < 2) →
    W 0x000 (.wrsrFstat sa 0x000) (onGroup fun g => { g with fstat := (g.fstat &&& ~~~own g) ||| (v.setWidth 13 &&& own g) }) ∧
    W 0x001 (.wrsrGstat sa 0x001) (onGroup fun g => { g with
      deadSrc := g.deadSrc && !(v.getLsbD 0 && !upper g), deadSrcH := g.deadSrcH && !(v.getLsbD 1 && upper g)
      deleg := g.deleg || (g.super && v.getLsbD 4) }) ∧
    W 0x100 (.wrsrEpc sa 0x100) (onGroup fun g => { g with epc := v }) ∧
    W 0x103 (.wrsr sa 0x103) (onGroup fun g => { g with escratch := v }) ∧
    W 0x104 (.wrsrTvec sa 0x104) (onGroup fun g => { g with tvec := v }) ∧
    W 0x070 (.wrsrOvmask sa 0x070) (fun w => onTeam w gid fun t => { t with ovmask := BitVec.ofNat 8 v.toNat }) ∧
    W 0x110 (.wrsrSwapth sa 0x110) (onCore fun c => { c with swapth := v.toNat % 2 ^ 32 }) ∧
    W 0x120 (.wrsrIlim sa 0x120) (onCore fun c => { c with ilim :=
      { fduty := v.toNat / 2 ^ 38 % 2 ^ 5, frz2 := v.toNat / 2 ^ 32 % 2 ^ 6, soft := v.toNat / 2 ^ 16 % 2 ^ 16, hard := v.toNat % 2 ^ 16 } }) ∧
    (∀ k slot, (groupOf s gid).place = .resident k slot →
      W 0x121 (.wrsrClkpat sa 0x121) fun w => setCluster w k { clusterOf w k with clkpat := BitVec.ofNat 32 v.toNat })

/-- R264, R288: a WRSR of a stream register waits while an accepted command names the stream, one of a Lining register while the engine
holds any or the Lining's bytes cannot be written yet; where it need not wait it writes at once, a QW0 write setting HEAD and TAIL to 0, a Lining
write after the Lining bytes of the team's commands are performed (log 10). -/
def Obligations.StreamAndLiningWrites : Prop :=
  ∀ (sa : BitVec 6) (reg : BitVec 16) (s : State) (gid sid : Nat), Issues s gid sid (scalarBundle (.wrsr sa reg)) → Resident s gid →
    ∃ w, IssueOf s gid (scalarBundle (.wrsr sa reg)) w ∧
      let v := sreg s gid sid sa
      let n := reg.toNat
      let q := (n - 0x40) / 2
      let t := teamOf s (teamId s gid)
      let x := goesOn w gid sid
      (0x40 ≤ n → n ≤ 0x5F →
        (streamBusy t q = true → exec (.wrsrStream sa reg) s = .next (waiting x gid sid (.streamWrite n v))) ∧
        (streamBusy t q = false → n % 2 = 0 → exec (.wrsrStream sa reg) s =
          .next (onTeam (waited x gid sid) gid fun t => { t with streams := tset t.streams q { qw0 := v, head := 0, tail := 0 } })) ∧
        (streamBusy t q = false → n % 2 = 1 → exec (.wrsrStream sa reg) s =
          .next (onTeam (waited x gid sid) gid fun t => { t with
            streams := tset t.streams q { qw0 := (streamOf t q).qw0, head := v.toNat % 2 ^ 32, tail := v.toNat / 2 ^ 32 } }))) ∧
      (0x20 ≤ n → n ≤ 0x2A →
        let put (t : Team) : Team :=
          if n = 0x20 then { t with lnBase := v.toNat % 2 ^ 52 }
          else if n = 0x21 then { t with lnSize := v.toNat % 2 ^ 26 }
          else if n = 0x22 then
            { t with lnHead := v.toNat % 2 ^ 26, lnCur := v.toNat / 2 ^ 26 % 2 ^ 26, lnSt := v.toNat / 2 ^ 62, lnFresh := true }
          else { t with gmap := tset t.gmap (n - 0x23) v }
        let ws := lateWrites t
        (t.engine ≠ [] → exec (.wrsrLining sa reg) s = .next (waiting x gid sid (.liningWrite n v))) ∧
        (lateOpen x t.func ws = false → exec (.wrsrLining sa reg) s = .next (waiting x gid sid (.liningWrite n v))) ∧
        (t.engine = [] → ws = [] → exec (.wrsrLining sa reg) s = .next (onTeam (waited x gid sid) gid fun t => put (flushedTeam t))) ∧
        (t.engine = [] → NoPolder s → (∀ w ∈ ws, w.space = .dev ∨ w.space = .host) → ∃ u, StoredFrame (waited x gid sid) u ∧
          Stored (waited x gid sid) u t.core (lateElems ws) ∧
          exec (.wrsrLining sa reg) s = .next (onTeam u gid fun t => put (flushedTeam t))))

/-! ## Scalar memory, registers and the team -/

/-- R118, R120: a scalar load or store issues its one access: 8 or 16 bytes at s[sa] + t, an offset in the team's scratchpad where bits 63:52
are all ones, else a virtual address, with the place and the frame that its translation gives; a store carries s[sd], and s[sd + 1] above it.
Registers and bytes change when the access is performed: the issue marks the page as accessed, and nothing else. -/
def Obligations.ScalarMemoryIssue : Prop :=
  ∀ (sd sa sb : BitVec 6) (imm : BitVec 22) (s : State) (gid sid : Nat),
    let a := (sreg s gid sid sa + operandT s gid sid sb imm).toNat
    let I (op : ScalarOp) (i : Instr) (n : Nat) (kind : MemKind) (need : Need) (data : Nat) : Prop :=
      let d := delivered s gid (scalarBundle op)
      Issues s gid sid (scalarBundle op) → a % n = 0 ∧ (a / 2 ^ 52 = 0 ∨ a / 2 ^ 52 = 0xFFF) ∧
      ∃ w x, IssueOf s gid (scalarBundle op) w ∧
        (a / 2 ^ 52 = 0 → virtualAcc d (whoOf s gid) 0 a n need = .ok x) ∧
        (a / 2 ^ 52 = 0xFFF → spadAcc d (whoOf s gid) 0 (a % 2 ^ 52) n need.w = .ok x) ∧
        let e := { x.elem with data := data }
        exec i s = .next (setPc (addOp (touchAccs w gid [{ x with elem := e }]) gid
          { id := (seen s gid (scalarBundle op)).opId, half := half s gid sid, kind := kind, elems := [e], sup := (groupOf s gid).super })
          gid sid (nextPc (pcOf s gid sid)))
    I (.sld sd sa sb imm) (.sld sd sa sb imm) 8 (.scalarLoad (half s gid sid) sd.toNat false) { rd := true, w := false } 0 ∧
    I (.sldq sd sa sb imm) (.sldq sd sa sb imm) 16 (.scalarLoad (half s gid sid) sd.toNat true) { rd := true, w := false } 0 ∧
    I (.sst sd sa sb imm) (.sst sd sa sb imm) 8 .scalarStore { rd := false, w := true } (sreg s gid sid sd).toNat ∧
    I (.sstq sd sa sb imm) (.sstq sd sa sb imm) 16 .scalarStore { rd := false, w := true }
      ((sreg s gid sid sd).toNat + 2 ^ 64 * (sreg s gid sid (sd + 1)).toNat) ∧
    -- what an allowed access is
    (∀ w l va n need x, virtualAcc s w l va n need = .ok x → ∃ fr, xlate s w.core w.func w.asid va need w.sup = .ok fr ∧
      x = { elem := { lane := l, space := fr.space, addr := fr.pa, va := va, size := n }, frame := some fr, translated := true, write := need.w }) ∧
    (∀ w l off n write x, spadAcc s w l off n write = .ok x → off + n ≤ (teamOf s w.team).kd.spkb * 1024 ∧
      x.elem = { lane := l, space := .spad, addr := (teamOf s w.team).spBase + off, va := off, size := n } ∧ x.write = write) ∧
    ∀ as, Touched s (touchAccs s gid as) ∧ (NoPolder s → MarksOnly s (touchAccs s gid as) as)

/-- R122: BASEW translates s[sa] and sets the window's base, page and limit: t, but no further than the page and 4 GiB, and 0 where the page
allows neither read nor write. -/
def Obligations.WindowBase : Prop :=
  ∀ (win : BitVec 3) (sa sb : BitVec 6) (imm : BitVec 22) (s : State) (gid sid : Nat),
    Issues s gid sid (scalarBundle (.basew win sa sb imm)) → ∃ w fr, IssueOf s gid (scalarBundle (.basew win sa sb imm)) w ∧
      let a := (sreg s gid sid sa).toNat
      let t := teamOf w (teamId w gid)
      xlateRaw w t.core t.func t.asid a = .ok fr ∧
        let lim := if fr.rd || fr.w then min (operandT s gid sid sb imm).toNat (min (frameSize fr - a % frameSize fr) (2 ^ 32)) else 0
        let u := touchPage w t.core t.func t.asid a fr false
        let n := 8 * half s gid sid + win.toNat
        exec (.basew win sa sb imm) s = .next (setPc (setGroup u gid { groupOf u gid with
          w := tset (groupOf u gid).w n { base := a, frame := fr, limit := lim }
          wPoison := (groupOf u gid).wPoison.filter fun k => decide (k ≠ n) }) gid sid (nextPc (pcOf s gid sid)))

/-- R17, R135: REGGIVE lowers the register count, its highest registers' contents lost; REGCLAIM waits for the pool of its cluster, behind the
claims that came before it, and then raises the count. -/
def Obligations.RegisterCounts : Prop :=
  ∀ (sb : BitVec 6) (imm : BitVec 22) (s : State) (gid sid : Nat), let t := (operandT s gid sid sb imm).toNat
    (Issues s gid sid (scalarBundle (.reggive sb imm)) →
      0 < t ∧ t % 8 = 0 ∧ t + 8 ≤ (groupOf s gid).regcnt ∧
      ∃ w, IssueOf s gid (scalarBundle (.reggive sb imm)) w ∧
        let g := groupOf w gid
        ∃ v p, (∀ i, i < g.regcnt - t → tget v i = tget g.v i ∧ tget p i = tget g.vPoison i) ∧
          (∀ i, g.regcnt - t ≤ i → tget v i = none ∧ tget p i = none) ∧
          exec (.reggive sb imm) s = .next (goesOn (setGroup w gid { g with regcnt := g.regcnt - t, v := v, vPoison := p }) gid sid)) ∧
    ∀ c k, (groupOf s gid).place = .resident c k → Issues s gid sid (scalarBundle (.regclaim sb imm)) →
      0 < t ∧ t % 8 = 0 ∧ (groupOf s gid).regcnt + t ≤ 320 ∧
      ∃ w, IssueOf s gid (scalarBundle (.regclaim sb imm)) w ∧
        let x := { goesOn w gid sid with nextId := w.nextId + 1 }
        let y := waiting x gid sid (.regclaim t w.nextId)
        ((poolFree y c < t ∨ claimBefore y c w.nextId = true) → exec (.regclaim sb imm) s = .next y) ∧
        (t ≤ poolFree y c → claimBefore y c w.nextId = false → exec (.regclaim sb imm) s =
          .next (let z := waited x gid sid
            setGroup z gid { groupOf z gid with regcnt := (groupOf z gid).regcnt + t, regclaimReady := false }))

/-- R138, R290, R291, R297: RECBEG opens a segment at offset 0, RECEND closes it, REVERSE is accepted as an engine item that closes a batch of
its own, whose number it writes to s[sd]. -/
def Obligations.RecordSegments : Prop :=
  ∀ (s : State) (gid sid : Nat),
    (Issues s gid sid (scalarBundle .recbeg) → (teamOf s (teamId s gid)).token = some gid ∧
      ∃ w, IssueOf s gid (scalarBundle .recbeg) w ∧ exec .recbeg s = .next (goesOn (onTeam w gid fun t =>
        { t with lnSt := 1, lnHead := 0, lnCur := 0, lnFresh := false, lnPrev := none }) gid sid)) ∧
    (Issues s gid sid (scalarBundle .recend) → (teamOf s (teamId s gid)).token = some gid ∧ (teamOf s (teamId s gid)).lnSt = 1 ∧
      ∃ w, IssueOf s gid (scalarBundle .recend) w ∧ exec .recend s = .next (goesOn (onTeam w gid fun t => { t with lnSt := 2 }) gid sid)) ∧
    ∀ sd, Issues s gid sid (scalarBundle (.reverse sd)) → (teamOf s (teamId s gid)).token = some gid ∧
      ∃ w, IssueOf s gid (scalarBundle (.reverse sd)) w ∧
        let n := (teamOf w (teamId w gid)).batchLast + 1
        let close (t : Team) : Team := { t with
          lnSt := 3, batchLast := n, openBatch := {}
          engine := (t.engine ++ [({ id := w.nextId, op := .reverse, gid := gid, opId := (seen s gid (scalarBundle (.reverse sd))).opId }
              : EngineItem)]).map fun i => if i.batch = 0 then { i with batch := n } else i
          batches := t.batches ++ [{ t.openBatch with left := t.openBatch.left + 1, num := n, record := 0, reverse := true }] }
        exec (.reverse sd) s =
          .next (goesOn (putS (onTeam { w with nextId := w.nextId + 1 } gid close) gid sid sd (BitVec.ofNat 64 n)) gid sid)

/-- R133, R219, R242, R247, R256, R321, R349, R350: SPAWN copies the 64-byte descriptor at s[sa] into hardware task queue t[5:0] of its die: s[sd] is 3 where t has a bit outside its
fields, 0 once the descriptor is queued, 2 where it is to wait and no event of code 1 is due; it waits for room in a full queue, and for the
event. The descriptor is the 64 bytes at the place of s[sa] in virtual space, read once the accesses that come before it are performed (R219, R242,
R247). One read in error kills every lane of the group that runs (R321), in legacy width every one of its half (R349, R350): that a half's lanes are
the live ones there is the model's reading (log 41, DEDUCED). A tile step commits however the SPAWN ends. -/
def Obligations.TaskSpawn : Prop :=
  ∀ (sd sa sb : BitVec 6) (imm : BitVec 22) (s : State) (gid sid : Nat),
    Issues s gid sid (scalarBundle (.spawn sd sa sb imm)) → Resident s gid → ∃ w, IssueOf s gid (scalarBundle (.spawn sd sa sb imm)) w ∧
      let a := (sreg s gid sid sa).toNat
      let t := (operandT s gid sid sb imm).toNat
      let tm := teamOf s (teamId s gid)
      let bad := t / 2 ^ 9 ≠ 0 ∨ t / 2 ^ 6 % 4 ≠ 0
      a % 64 = 0 ∧
      (bad → exec (.spawn sd sa sb imm) s = .next (putS (committed (goesOn w gid sid) gid) gid sid sd 3)) ∧
      (¬bad → a < 2 ^ 52 ∧ ∃ x, virtualAcc (delivered s gid (scalarBundle (.spawn sd sa sb imm))) (whoOf s gid) 0 a 64
          { rd := true, w := false } = .ok x ∧
        let p := committed (setPc (touchAccs w gid [x]) gid sid (nextPc (pcOf s gid sid))) gid
        let got := placeGet p tm.core tm.func x.elem.space x.elem.addr 64
        let b := got.1
        let v := got.2.2
        let die := dieOfCore tm.core
        let q := hwQueue s die (t % 64)
        let n := w.nextId
        let y := setTask { v with nextId := n + 1 } n (newTask (descWords b) tm.func tm.asid (.hw die (t % 64)))
        let z := setDie y die { dieOf y die with queues := tset (dieOf y die).queues (t % 64) (q ++ [n]) }
        let codes := eventCodes (wordAt b 0)
        let waits := t / 2 ^ 8 % 2 = 1
        let id := (seen s gid (scalarBundle (.spawn sd sa sb imm))).opId
        let reads := readReady p gid id x.elem = true
        Touched p v ∧ b.length = 64 ∧
        (NoPolder s → x.elem.space ≠ .peer → ∀ i, i < 64 → b.getD i 0 = placed p tm.core x.elem.space (x.elem.addr + i)) ∧
        (reads ∨ exec (.spawn sd sa sb imm) s =
          .next (waiting p gid sid (.spawnRead sd.toNat (half s gid sid) (t % 64) (decide waits) id x.elem))) ∧
        (NoPolder s → x.elem.space = .dev → (got.2.1 = true ↔ ∃ g ∈ p.memPoison, x.elem.addr / 32 ≤ g ∧ g ≤ (x.elem.addr + 63) / 32)) ∧
        (reads → got.2.1 = true → exec (.spawn sd sa sb imm) s =
          .next (lanesDie v gid sid (scalarLanes (groupOf v gid) sid) 6 (splitOf (groupOf v gid) sid).pc)) ∧
        (reads → got.2.1 = false → 256 ≤ q.length →
          exec (.spawn sd sa sb imm) s = .next (waiting v gid sid (.spawnRoom sd.toNat (half s gid sid) (t % 64) (decide waits) b))) ∧
        (reads → got.2.1 = false → q.length < 256 → ¬waits →
          exec (.spawn sd sa sb imm) s = .next (putS (waited z gid sid) gid sid sd 0)) ∧
        (reads → got.2.1 = false → q.length < 256 → waits → codes.1 ≠ 1 → codes.2.1 ≠ 1 → codes.2.2 ≠ 1 →
          exec (.spawn sd sa sb imm) s = .next (putS (waited z gid sid) gid sid sd 2)) ∧
        (reads → got.2.1 = false → q.length < 256 → waits → (codes.1 = 1 ∨ codes.2.1 = 1 ∨ codes.2.2 = 1) →
          exec (.spawn sd sa sb imm) s = .next (waiting z gid sid (.spawnEvent sd.toNat (half s gid sid) n))))

/-- R140, R204, R205: PMAP touches the pages of its range, writes back the dirty lines of each granule of its range that is mapped, which leaves no
line there, then maps each granule onto its global address, or unmaps it where the address is 0; it leaves every other granule, line and
scratchpad byte. PFLUSH writes back the dirty lines of its range, which stay, clean, once the group's own scratchpad accesses are done and
the lines' banks and ports are free; the lines are those that are dirty then. -/
def Obligations.PolderRanges : Prop :=
  ∀ (sa sb : BitVec 6) (imm : BitVec 22) (s : State) (gid sid : Nat),
    let a := sreg s gid sid sa
    let t := (operandT s gid sid sb imm).toNat
    let tm := teamOf s (teamId s gid)
    (∀ sd, Issues s gid sid (scalarBundle (.pmap sd sa sb imm)) → t % 512 = 0 ∧ 512 ≤ t ∧ (sreg s gid sid sd).toNat % 512 = 0 ∧
      a.toNat % 512 = 0 ∧ ∃ w u, IssueOf s gid (scalarBundle (.pmap sd sa sb imm)) w ∧ exec (.pmap sd sa sb imm) s = .next u ∧
        let d := delivered s gid (scalarBundle (.pmap sd sa sb imm))
        let pages : List Access := if a = 0 then [] else
          (xlateRange d tm.core tm.func tm.asid a.toNat t { rd := true, w := false } (groupOf s gid).super).filterMap fun e => match e.2 with
            | .ok fr => some { elem := { lane := 0, space := fr.space, addr := fr.pa, va := e.1, size := 1 }, frame := some fr
                               translated := true, write := false }
            | _ => none
        let p := touchAccs w gid pages
        let x := goesOn w gid sid
        let first := (tm.spBase + (sreg s gid sid sd).toNat) / 512
        let mine (gr : Nat) : Prop := first ≤ gr ∧ gr < first + t / 512
        Touched (setCore x tm.core { coreOf x tm.core with pmap := (coreOf u tm.core).pmap }) u ∧
        (∀ gr, ((tget (coreOf u tm.core).pmap gr).map fun m => (m.va, m.asid, m.func)) =
            if first ≤ gr ∧ gr < first + t / 512 then (if a = 0 then none else some (a.toNat + 512 * (gr - first), tm.asid, tm.func))
            else (tget (coreOf w tm.core).pmap gr).map fun m => (m.va, m.asid, m.func)) ∧
        (∀ l, tget (coreOf u tm.core).lines l =
          if first ≤ l / 4 ∧ l / 4 < first + t / 512 ∧ (tget (coreOf w tm.core).pmap (l / 4)).isSome then none
          else tget (coreOf p tm.core).lines l) ∧
        (memoriesWf s = true → WrittenBack p u tm.core fun l => mine (l / 4) ∧ (tget (coreOf w tm.core).pmap (l / 4)).isSome) ∧
        (memoriesWf s = true → ∀ i, ¬(mine (i / 512) ∧ (tget (coreOf w tm.core).pmap (i / 512)).isSome ∧
            tget (coreOf p tm.core).lines (i / 128) = none) →
          memGet (coreOf u tm.core).sp i = memGet (coreOf p tm.core).sp i)) ∧
    (Issues s gid sid (scalarBundle (.pflush sa sb imm)) → Resident s gid → ∃ w, IssueOf s gid (scalarBundle (.pflush sa sb imm)) w ∧
      let x := goesOn w gid sid
      let c := coreOf w tm.core
      let ls := dirtyLines c (tm.spBase + a.toNat) t
      let free := spadQuiet (groupOf w gid) && ls.all fun l => !rangeLocked c none (128 * l) 128 && ((tget c.lines l).map (lineGoes w)).getD true
      (∀ l, l ∈ ls ↔ ∃ y, (l, y) ∈ c.lines ∧ y.dirty = true ∧ tm.spBase + a.toNat ≤ 128 * l ∧ 128 * l < tm.spBase + a.toNat + t) ∧
      (free = false → exec (.pflush sa sb imm) s = .next (waiting x gid sid (.pflush (tm.spBase + a.toNat) t))) ∧
      (free = true → ∃ u, exec (.pflush sa sb imm) s = .next u ∧ Touched (waited x gid sid) u ∧ SameTeams w u ∧
        (∀ l ∈ ls, tget (coreOf u tm.core).lines l = (tget c.lines l).map fun y => { y with dirty := false }) ∧
        (∀ l, l ∉ ls → tget (coreOf u tm.core).lines l = tget c.lines l) ∧ (∀ k, (coreOf u k).sp = (coreOf w k).sp) ∧
        (memoriesWf s = true → WrittenBack w u tm.core fun l => l ∈ ls)))

/-- R137, R139, R338: OVLOAD starts a load, whose slot is not resident from now on, and whose bytes are read after the accesses that the group's
earlier fences wait for; PHINT declares a burst from its onset, staggered by its die:
it waits behind the hints declared before it, or, where its effective onset is past, is the live one at once in place of them all; a changed
intensity ends the context's throttling (R337). -/
def Obligations.OverlayLoadAndPowerHint : Prop :=
  ∀ (sa sb : BitVec 6) (imm : BitVec 22) (s : State) (gid sid : Nat), let t := (operandT s gid sid sb imm).toNat
    (Issues s gid sid (scalarBundle (.ovload sa sb imm)) → t ≤ 7 ∧ (sreg s gid sid sa).toNat % 256 = 0 ∧
      ((teamOf s (teamId s gid)).ovmask.getLsbD t = true ∨ ((groupOf s gid).super = true ∧ (groupOf s gid).deleg = false)) ∧
      ∃ w, IssueOf s gid (scalarBundle (.ovload sa sb imm)) w ∧
        let tm := teamOf w (teamId w gid)
        let c := coreOf w tm.core
        exec (.ovload sa sb imm) s = .next (goesOn (setCore { w with nextId := w.nextId + 1 } tm.core { c with
          ovres := c.ovres &&& ~~~(1#8 <<< t), supplied := c.supplied && decide (t ≠ 7)
          loads := c.loads ++ [{ id := w.nextId, slot := t, va := (sreg s gid sid sa).toNat, asid := tm.asid, func := tm.func
                                 sup := (groupOf s gid).super, cmd := none
                                 after := some (gid, (seen s gid (scalarBundle (.ovload sa sb imm))).opId) }] }) gid sid)) ∧
    (Issues s gid sid (scalarBundle (.phint sa sb imm)) → t % 2 ^ 5 ≤ 16 ∧ 1 ≤ t / 2 ^ 16 ∧ t < 2 ^ 28 ∧ t / 2 ^ 5 % 2 ^ 11 = 0 ∧
      ∃ w k, IssueOf s gid (scalarBundle (.phint sa sb imm)) w ∧ k ≤ 15 ∧
        let g := groupOf w gid
        let d := dieOfCore (teamOf w g.team).core
        let on := max (sreg s gid sid sa).toNat w.gtime
        let rise := t % 2 ^ 5 - intensityOf w gid
        let slot (k : Nat) : Nat := (on + 250 * k) / 250
        let due (k : Nat) : Nat := tgetD (dieOf w d).rises (slot k) 0
        let v := setDie w d { dieOf w d with rises := tset (dieOf w d).rises (slot k) (due k + rise) }
        let h (live : Bool) : Hint :=
          { declared := on, onset := on + 250 * k, intensity := t % 2 ^ 5, length := t / 2 ^ 16 * 1000, active := live }
        let z := setGroup v gid { g with hints := [h true] }
        let core := (teamOf w g.team).core
        (∀ j, j < k → 64 < due j + rise) ∧ (due k + rise ≤ 64 ∨ k = 15) ∧
        (w.gtime < on + 250 * k →
          exec (.phint sa sb imm) s = .next (goesOn (setGroup v gid { g with hints := g.hints ++ [h false] }) gid sid)) ∧
        (on + 250 * k ≤ w.gtime → exec (.phint sa sb imm) s =
          .next (goesOn (if t % 2 ^ 5 ≠ intensityOf w gid ∧ gid ∈ (coreOf w core).weir.throttled then
            setCore z core (loosed (coreOf z core) gid) else z) gid sid)))

/-- R129, R131, R136: BARA arrives at once, or after the group's earlier accesses where it is a release; FENCE is recorded behind outstanding
accesses; MXGIVE frees the token. -/
def Obligations.ArrivalsFencesToken : Prop :=
  ∀ (s : State) (gid sid : Nat),
    (∀ sa sb id scope, Issues s gid sid (scalarBundle (.bara sa sb id scope)) →
      ∃ w, IssueOf s gid (scalarBundle (.bara sa sb id scope)) w ∧
      let g := groupOf w gid
      let h := half s gid sid
      let n := id.toNat
      let b := barrierOf (teamOf w g.team) n
      let weight := if sa = 0 then 1 else (sreg s gid sid sa).toNat % 2 ^ 16
      let next := if sb = 0 then none else some ((sreg s gid sid sb).toNat % 2 ^ 16)
      n < (teamOf w g.team).kd.nbar ∧ next ≠ some 0 ∧
      (g.arrivals = [] → (scope = 0 ∨ g.ops = []) → 0 < b.expect → 0 < b.nextexp →
        exec (.bara sa sb id scope) s = .next (goesOn (onTeam (setGroup w gid { g with ap := tset g.ap (32 * h + n) b.phase }) gid fun t =>
          { t with barriers := tset t.barriers n (arrived b weight next) }) gid sid)) ∧
      (g.arrivals = [] → scope = 1 → (∃ o ∈ g.ops, o.id < (seen s gid (scalarBundle (.bara sa sb id scope))).opId) →
        exec (.bara sa sb id scope) s = .next (goesOn (setGroup w gid { g with
          arrivals := [{ id := (seen s gid (scalarBundle (.bara sa sb id scope))).opId, bar := n, half := h, weight := weight
                         nextexp := next, release := true }] }) gid sid)) ∧
      exec (.bara sa sb id scope) s = .next (goesOn (afterOp (setGroup w gid { g with
        arrivals := g.arrivals ++ [{ id := (seen s gid (scalarBundle (.bara sa sb id scope))).opId, bar := n, half := h, weight := weight
                                     nextexp := next, release := decide (scope = 1) }] }) gid) gid sid)) ∧
    (∀ scope, Issues s gid sid (scalarBundle (.fence scope)) → ∃ w, IssueOf s gid (scalarBundle (.fence scope)) w ∧
      let v := if scope.toNat ≥ 2 then committed w gid else w
      let g := groupOf w gid
      (g.ops = [] → exec (.fence scope) s = .next (goesOn v gid sid)) ∧
      (g.ops ≠ [] → exec (.fence scope) s = .next (goesOn (setGroup v gid { g with
        fences := g.fences ++ [{ id := (seen s gid (scalarBundle (.fence scope))).opId, scope := scope.toNat }] }) gid sid))) ∧
    (Issues s gid sid (scalarBundle .mxgive) → (teamOf s (teamId s gid)).token = some gid ∧
      ∃ w, IssueOf s gid (scalarBundle .mxgive) w ∧
        exec .mxgive s = .next (goesOn (onTeam w gid fun t => { t with token := none }) gid sid))

/-- R117, R129, R132, R136, R239, R312: a waiting operation stalls its context while its condition does not hold, and completes at once where it holds:
BARW, WAITC, MXWAIT, CPWAIT and MXTAKE. An MXWAIT that covers a failed batch, and a CPWAIT of a failed command, complete and then trap with the
cause, the report or the channel's FAIL cleared: a double trap in supervisor mode (R312). -/
def Obligations.WaitsBegin : Prop :=
  ∀ (s : State) (gid sid : Nat), Resident s gid →
    let tm := teamOf s (teamId s gid)
    (∀ id scope, Issues s gid sid (scalarBundle (.barw id scope)) → ∃ w, IssueOf s gid (scalarBundle (.barw id scope)) w ∧
      let x := goesOn w gid sid
      let g := groupOf s gid
      let phase := (barrierOf tm id.toNat).phase
      let done := (g.arrivals.all fun a => decide (¬(a.half = half s gid sid ∧ a.bar = id.toNat))) &&
        decide (tgetD g.ap (32 * half s gid sid + id.toNat) phase ≠ phase)
      exec (.barw id scope) s =
        .next (if done then waited x gid sid else waiting x gid sid (.barw (half s gid sid) id.toNat phase scope.toNat))) ∧
    (∀ sa id, Issues s gid sid (scalarBundle (.waitc sa id)) → ∃ w, IssueOf s gid (scalarBundle (.waitc sa id)) w ∧
      let x := goesOn w gid sid
      let n := (sreg s gid sid sa).toNat
      exec (.waitc sa id) s =
        .next (if (tgetD (groupOf s gid).paths (8 * half s gid sid + id.toNat) []).length ≤ n then waited x gid sid
          else waiting x gid sid (.waitc (half s gid sid) id.toNat n))) ∧
    (∀ sa, Issues s gid sid (scalarBundle (.mxwait sa)) → ∃ w, IssueOf s gid (scalarBundle (.mxwait sa)) w ∧
      let x := goesOn w gid sid
      let n := (sreg s gid sid sa).toNat
      (tm.batchDone < n → exec (.mxwait sa) s = .next (waiting x gid sid (.mxwait n))) ∧
      (n ≤ tm.batchDone → (∀ r ∈ tm.reports, n < r.num) → exec (.mxwait sa) s = .next (waited x gid sid)) ∧
      ((groupOf s gid).super = false → ∀ r, n ≤ tm.batchDone → coveredReport tm n = some r → exec (.mxwait sa) s = .next
        (let y := onTeam (waited x gid sid) gid fun t => { t with reports := t.reports.filter fun z => decide (z.num ≠ r.num) }
         setGroup y gid { groupOf y gid with pendTraps := (groupOf y gid).pendTraps ++
           [({ code := r.code, info := r.info, slot := 6, after := true }, nextPc (pcOf s gid sid), sid)] })) ∧
      ((groupOf s gid).super = true → ∀ r, n ≤ tm.batchDone → coveredReport tm n = some r → exec (.mxwait sa) s = .next
        (killed (onTeam (waited x gid sid) gid fun t => { t with reports := t.reports.filter fun z => decide (z.num ≠ r.num) }) gid))) ∧
    (∀ sa id, Issues s gid sid (scalarBundle (.cpwait sa id)) → ∃ w, IssueOf s gid (scalarBundle (.cpwait sa id)) w ∧
      let x := goesOn w gid sid
      let n := (sreg s gid sid sa).toNat
      let c := tgetD tm.channels id.toNat {}
      (c.done < n → (∀ m cause, c.fail = some (m, cause) → n < m) → exec (.cpwait sa id) s = .next (waiting x gid sid (.cpwait id.toNat n))) ∧
      (n ≤ c.done → (∀ m cause, c.fail = some (m, cause) → n < m) → exec (.cpwait sa id) s = .next (waited x gid sid)) ∧
      ((groupOf s gid).super = false → ∀ m cause, c.fail = some (m, cause) → m ≤ n → exec (.cpwait sa id) s = .next
        (let y := onTeam (waited x gid sid) gid fun t => { t with channels := tset t.channels id.toNat { c with fail := none } }
         setGroup y gid { groupOf y gid with pendTraps := (groupOf y gid).pendTraps ++
           [({ code := cause, info := copyWord id.toNat m, slot := 6, after := true }, nextPc (pcOf s gid sid), sid)] })) ∧
      ((groupOf s gid).super = true → ∀ m cause, c.fail = some (m, cause) → m ≤ n → exec (.cpwait sa id) s = .next
        (killed (onTeam (waited x gid sid) gid fun t => { t with channels := tset t.channels id.toNat { c with fail := none } }) gid))) ∧
    (Issues s gid sid (scalarBundle .mxtake) → ∃ w, IssueOf s gid (scalarBundle .mxtake) w ∧
      let x := { goesOn w gid sid with nextId := w.nextId + 1 }
      let y := waiting x gid sid (.mxtake w.nextId)
      (tm.token = some gid ∨ (tm.token = none ∧ takeFirst y tm w.nextId = true) → exec .mxtake s =
        .next (onTeam (waited x gid sid) gid fun t => { t with token := some gid })) ∧
      (¬(tm.token = some gid ∨ (tm.token = none ∧ takeFirst y tm w.nextId = true)) → exec .mxtake s = .next y))

/-- R19, R130: a DSYNC is recorded for its half, and completes for every waiting member once all members have issued theirs and their earlier
accesses are performed; until then its context waits. -/
def Obligations.DomainSynchronisation : Prop :=
  ∀ (scope : BitVec 3) (s : State) (gid sid : Nat), Issues s gid sid (scalarBundle (.dsync scope)) →
    ∃ w, IssueOf s gid (scalarBundle (.dsync scope)) w ∧
      let level := scope.toNat + 1
      let x := goesOn w gid sid
      let n := tgetD (groupOf w gid).dsyncs (2 * level + half s gid sid) 0 + 1
      let y := waiting (setGroup x gid { groupOf x gid with dsyncs := tset (groupOf x gid).dsyncs (2 * level + half s gid sid) n }) gid sid
        (.dsync level n)
      let t := teamOf w (teamId w gid)
      t.dom.getD (level - 3) 0 ≠ 0 ∧
      (domainReady y gid level n = false → exec (.dsync scope) s = .next y) ∧
      (domainReady y gid level n = true → ∃ u, exec (.dsync scope) s = .next u ∧ u = { y with groups := u.groups } ∧
        ∀ k, groupOf u k =
          if (groupOf y k).wait = some (.dsync level n) ∧ k ∈ (domainMembers y t.task level (t.dom.getD (level - 3) 0)).map Prod.fst then
            { groupOf y k with wait := none }
          else groupOf y k)

/-! ## Lane units -/

/-- R84, R87-R89, R148, R153-R158: each of the thirty ia operations, on either unit, issues its result by lane, due two bundles on. -/
def Obligations.IntegerLanes : Prop :=
  ∀ (unit : Bool) (op : IaOp) (g : Guard) (src : Src) (s : State) (gid sid : Nat), let t := Trigger.ia unit op
    Issues s gid sid (triggerBundle t g src) → Clean s gid sid (triggerBundle t g src) →
    let v (l : Nat) : Word × Option Word :=
      let a := operands s gid sid t g src l
      iaValue op (a.getD 0 0) (a.getD 1 0) (a.getD 2 0)
    FiresWith s gid sid t g src (iaInstr unit op g src) (produced s gid sid t g src 2
      (decide (op = .add ∨ op = .addc ∨ op = .sub ∨ op = .subb)) 0 (fun l => (v l).1) (fun l => (v l).2.getD 0) fun _ => 0)

/-- R84, R159-R163: each of the twenty lg operations issues its result by lane, due one bundle on; the compares of FP32 values are those of
the numbers. -/
def Obligations.LogicLanes : Prop :=
  ∀ (op : LgOp) (g : Guard) (src : Src) (s : State) (gid sid : Nat), let t := Trigger.lg op
    Issues s gid sid (triggerBundle t g src) → Clean s gid sid (triggerBundle t g src) → ∃ v : Nat → LaneRes,
      (∀ l, l < 32 → let a := operands s gid sid t g src l
        LgSays op (if (groupOf s gid).lw then l % 16 else l) (a.getD 0 0) (a.getD 1 0) (a.getD 2 0) (v l)) ∧
      FiresWith s gid sid t g src (lgInstr op g src) (produced s gid sid t g src 1 false 0 (fun l => (v l).o) (fun _ => 0)
        fun l => (v l).flags)

/-- R84, R164-R177: each fm and sf operation issues its result by lane, with its flags: fm due 4 bundles on, div and sqrt 14, the other sf
operations 12. The values of `fmLane` and `sfLane` are those of RoundingKeepsRepresentable and FloatSpecialCases. -/
def Obligations.FloatLanes : Prop :=
  ∀ (g : Guard) (src : Src) (s : State) (gid sid : Nat),
    (∀ unit op, let t := Trigger.fm unit op
      Issues s gid sid (triggerBundle t g src) → Clean s gid sid (triggerBundle t g src) →
      let v (l : Nat) : LaneRes := let a := operands s gid sid t g src l; fmLane op (a.getD 0 0) (a.getD 1 0) (a.getD 2 0)
      FiresWith s gid sid t g src (fmInstr unit op g src) (produced s gid sid t g src 4 (decide (op = .cvtfh ∨ op = .cvtfb)) 0
        (fun l => (v l).o) (fun l => (v l).x.getD 0) fun l => (v l).flags)) ∧
    ∀ op, let t := Trigger.sf op
      Issues s gid sid (triggerBundle t g src) → Clean s gid sid (triggerBundle t g src) →
      let v (l : Nat) : LaneRes := let a := operands s gid sid t g src l; sfLane op (a.getD 0 0) (a.getD 1 0)
      FiresWith s gid sid t g src (sfInstr op g src) (produced s gid sid t g src (if op = .div ∨ op = .sqrt then 14 else 12)
        (decide (op = .scpi)) 0 (fun l => (v l).o) (fun l => (v l).x.getD 0) fun l => (v l).flags)

/-- R54, R58, R75, R165-R170: NaN operands give the canonical NaN, with invalid for a signalling one; opposite infinities and 0 x infinity are
invalid; neg, abs and csgn move the sign bit alone; min and max prefer a number to a NaN, with -0 below +0; cvti rounds to an integer in its
mode and saturates; the sf operations on zeros, infinities, NaNs and negative numbers. -/
def Obligations.FloatSpecialCases : Prop :=
  (∀ (m : Rounding) (a b c : Word), fNaN (fp a) = true ∨ fNaN (fp b) = true →
    let inv : BitVec 5 := if fSNaN (fp a) || fSNaN (fp b) then 1 else 0
    fmLane (.add m) a b c = { o := 0x7FC00000, flags := inv } ∧ fmLane (.sub m) a b c = { o := 0x7FC00000, flags := inv } ∧
      fmLane (.mul m) a b c = { o := 0x7FC00000, flags := inv }) ∧
  (∀ (m : Rounding) (a b c : Word) (n n' : Bool), fp a = .inf n →
    (fp b = .inf (!n) → fmLane (.add m) a b c = { o := 0x7FC00000, flags := 1 }) ∧
    (fp b = .inf n → fmLane (.sub m) a b c = { o := 0x7FC00000, flags := 1 } ∧ fmLane (.add m) a b c = { o := a }) ∧
    let product : LaneRes := { o := if n = n' then 0x7F800000 else 0xFF800000 }
    (fp b = .inf n' → fmLane (.mul m) a b c = product) ∧
    ∀ y, IsFin (fp b) n' y → fmLane (.add m) a b c = { o := a } ∧ fmLane (.add m) b a c = { o := a } ∧ fmLane (.sub m) a b c = { o := a } ∧
      fmLane (.sub m) b a c = { o := a ^^^ (1#32 <<< 31) } ∧
      (y ≠ 0 → fmLane (.mul m) a b c = product ∧ fmLane (.mul m) b a c = product)) ∧
  -- fma, fms and fnma of FP32, hfma and bfma of each element of a pair
  (∀ (m : Rounding) (a b c : Word),
    (∀ op np nz, (op, np, nz) ∈ [(FmOp.fma m, false, false), (.fms m, false, true), (.fnma m, true, false)] →
      ∃ r, fmLane op a b c = wordRes r ∧ FusedSpecial fp32 np nz (fp a) (fp b) (fp c) r) ∧
    ∀ op f, (op, f) ∈ [(FmOp.hfma m, fp16), (.bfma m, bf16)] →
      let elem (w : Word) (i : Nat) : FVal := fRead f (w.toNat / 2 ^ (16 * i) % 2 ^ 16)
      ∃ r r', fmLane op a b c = pairRes r r' ∧ FusedSpecial f false false (elem a 0) (elem b 0) (elem c 0) r ∧
        FusedSpecial f false false (elem a 1) (elem b 1) (elem c 1) r') ∧
  (∀ (m : Rounding) (a b c : Word) (n n' : Bool) (e : Int), fp a = .inf n → fp b = .fin n' 0 e →
    fmLane (.mul m) a b c = { o := 0x7FC00000, flags := 1 } ∧ fmLane (.mul m) b a c = { o := 0x7FC00000, flags := 1 }) ∧
  (∀ a b c : Word, fmLane .neg a b c = { o := a ^^^ (1#32 <<< 31) } ∧ fmLane .abs a b c = { o := BitVec.ofNat 32 (a.toNat % 2 ^ 31) } ∧
    fmLane .csgn a b c = { o := BitVec.ofNat 32 (a.toNat % 2 ^ 31 + b.toNat / 2 ^ 31 * 2 ^ 31) }) ∧
  (∀ a b c : Word,
    (∃ lo hi, fmLane .min a b c = wordRes lo ∧ fmLane .max a b c = wordRes hi ∧ LeastGreatest fp32 a.toNat b.toNat lo hi) ∧
    ∀ least most f, (least, most, f) ∈ [(FmOp.hmin, FmOp.hmax, fp16), (.bmin, .bmax, bf16)] →
      let elem (w : Word) (i : Nat) : Nat := w.toNat / 2 ^ (16 * i) % 2 ^ 16
      ∃ lo lo' hi hi', fmLane least a b c = pairRes lo lo' ∧ fmLane most a b c = pairRes hi hi' ∧
        LeastGreatest f (elem a 0) (elem b 0) lo hi ∧ LeastGreatest f (elem a 1) (elem b 1) lo' hi') ∧
  (∀ (m : Rounding) (a b c : Word), (fNaN (fp a) = true → fmLane (.cvti m) a b c = { o := 0, flags := 1 }) ∧
    ∀ n, fp a = .inf n → fmLane (.cvti m) a b c = { o := if n then 0x80000000 else 0x7FFFFFFF, flags := 1 }) ∧
  -- the sf operations (R75)
  (∀ a b : Word, fNaN (fp a) = true ∨ fNaN (fp b) = true →
    sfLane .div a b = { o := 0x7FC00000, flags := if fSNaN (fp a) || fSNaN (fp b) then 1 else 0 }) ∧
  (∀ (a b : Word) (n n' : Bool), let sign : Nat := if n = n' then 0 else 2 ^ 31
    (fp a = .inf n → fp b = .inf n' → sfLane .div a b = { o := 0x7FC00000, flags := 1 }) ∧
    (∀ y, fp a = .inf n → IsFin (fp b) n' y → sfLane .div a b = { o := BitVec.ofNat 32 (sign + 0x7F800000) }) ∧
    ∀ x, IsFin (fp a) n x → (fp b = .inf n' → sfLane .div a b = { o := BitVec.ofNat 32 sign }) ∧
      (IsFin (fp b) n' 0 → sfLane .div a b = if fp a matches .fin _ 0 _ then { o := 0x7FC00000, flags := 1 }
        else { o := BitVec.ofNat 32 (sign + 0x7F800000), flags := 2 })) ∧
  (∀ (a b : Word) (op : SfOp), op ∈ [SfOp.sqrt, .rcp, .rsqrt, .exp2, .log2, .sinpi, .cospi] →
    fNaN (fp a) = true → sfLane op a b = { o := 0x7FC00000, flags := if fSNaN (fp a) then 1 else 0 }) ∧
  (∀ (a b : Word) (n : Bool), let signed (x : Word) : Word := if n then x ||| (1#32 <<< 31) else x
    let bad : LaneRes := { o := 0x7FC00000, flags := 1 }
    (fp a = .inf n →
      sfLane .sqrt a b = (if n then bad else { o := a }) ∧ sfLane .rcp a b = { o := signed 0 } ∧
      sfLane .rsqrt a b = (if n then bad else { o := 0 }) ∧ sfLane .exp2 a b = { o := if n then 0 else a } ∧
      sfLane .log2 a b = (if n then bad else { o := a }) ∧ sfLane .sinpi a b = bad ∧ sfLane .cospi a b = bad) ∧
    (IsFin (fp a) n 0 →
      sfLane .sqrt a b = { o := a } ∧ sfLane .rcp a b = { o := signed 0x7F800000, flags := 2 } ∧
      sfLane .rsqrt a b = { o := signed 0x7F800000, flags := 2 } ∧ sfLane .exp2 a b = { o := 0x3F800000 } ∧
      sfLane .log2 a b = { o := 0xFF800000, flags := 2 } ∧ sfLane .sinpi a b = { o := a } ∧ sfLane .cospi a b = { o := 0x3F800000 }) ∧
    ∀ x, IsFin (fp a) true x → x ≠ 0 → sfLane .sqrt a b = bad ∧ sfLane .rsqrt a b = bad ∧ sfLane .log2 a b = bad) ∧
  (∀ (a b c : Word) (n : Bool) (man : Nat) (e : Int), fp a = .fin n man e →
    let v := finVal n man e
    let gives (m : Rounding) (x : Int) : Prop := fmLane (.cvti m) a b c =
      if x > 2 ^ 31 - 1 then { o := 0x7FFFFFFF, flags := 1 } else if x < -2 ^ 31 then { o := 0x80000000, flags := 1 }
      else { o := BitVec.ofInt 32 x, flags := if (x : Rat) = v then 0 else 16 }
    gives .rd ⌊v⌋ ∧ gives .ru ⌈v⌉ ∧ gives .rz (if v < 0 then ⌈v⌉ else ⌊v⌋) ∧
      gives .rn (if v - ⌊v⌋ < 1 / 2 then ⌊v⌋ else if v - ⌊v⌋ > 1 / 2 then ⌊v⌋ + 1 else if ⌊v⌋ % 2 = 0 then ⌊v⌋ else ⌊v⌋ + 1))

/-- R56-R58, R61, R62, R66, R68, R75, R165-R169, R172-R175: on numbers add, sub, mul and the fused operations give the exact result rounded once
in their mode, with its flags, and so do the elements of pairs and the conversions; div, sqrt, rcp and rsqrt give the quotient, the root and
their reciprocals rounded to nearest even; exp2, log2, sinpi and cospi are exact where their result is rational; the tapered conversions
round on the bit string. A number that a format holds survives a rounding to that format in every mode, exactly and without a flag. -/
def Obligations.RoundingKeepsRepresentable : Prop :=
  (∀ (f : Fmt) (m : Rounding) (x : Nat) (n : Bool) (man : Nat) (e : Int), f ∈ [fp32, fp16, bf16] → x < 2 * fmtSign f →
    fRead f x = .fin n man e → roundMag f m n man e false = { bits := x, flags := 0 }) ∧
  (∀ (m : Rounding) (a b c : Word),
    let elem (f : Fmt) (w : Word) (i : Nat) : FVal := fRead f (w.toNat / 2 ^ (16 * i) % 2 ^ 16)
    (∀ n n' x y, IsFin (fp a) n x → IsFin (fp b) n' y →
      (∃ r, fmLane (.add m) a b c = wordRes r ∧ Rounds fp32 m (x + y) (zeroSign m n n') r) ∧
      (∃ r, fmLane (.sub m) a b c = wordRes r ∧ Rounds fp32 m (x - y) (zeroSign m n (!n')) r) ∧
      (∃ r, fmLane (.mul m) a b c = wordRes r ∧ Rounds fp32 m (x * y) (n != n') r) ∧
      (y ≠ 0 → ∃ r, sfLane .div a b = wordRes r ∧ Rounds fp32 .rn (x / y) (n != n') r)) ∧
    (∀ op np nz, (op, np, nz) ∈ [(FmOp.fma m, false, false), (.fms m, false, true), (.fnma m, true, false)] →
      ∃ r, fmLane op a b c = wordRes r ∧ FusedFinite fp32 m np nz (fp a) (fp b) (fp c) r) ∧
    (∀ op f, (op, f) ∈ [(FmOp.hfma m, fp16), (.bfma m, bf16)] → ∃ r r', fmLane op a b c = pairRes r r' ∧
      FusedFinite f m false false (elem f a 0) (elem f b 0) (elem f c 0) r ∧ FusedFinite f m false false (elem f a 1) (elem f b 1) (elem f c 1) r') ∧
    -- narrowing, widening and integers
    (∀ op f, (op, f) ∈ [(FmOp.cvth m, fp16), (.cvtb m, bf16)] → ∃ r r', fmLane op a b c = pairRes r r' ∧
      ∀ v s, (v, s) ∈ [(fp a, r), (fp b, r')] → (∀ n x, IsFin v n x → Rounds f m x n s) ∧
        (∀ n, v = .inf n → s = { bits := (if n then fmtSign f else 0) + fmtInf f, flags := 0 }) ∧
        (fNaN v = true → s = { bits := qnan f, flags := if fSNaN v then 1 else 0 })) ∧
    (∀ op f, (op, f) ∈ [(FmOp.cvtfh, fp16), (.cvtfb, bf16)] → ∃ r r' : FRes,
      fmLane op a b c = { o := BitVec.ofNat 32 r.bits, x := some (BitVec.ofNat 32 r'.bits), flags := r.flags ||| r'.flags } ∧
      ∀ v s, (v, s) ∈ [(elem f a 0, r), (elem f a 1, r')] → (∀ n x, IsFin v n x → s.flags = 0 ∧ s.bits < 2 ^ 32 ∧ IsFin (fRead fp32 s.bits) n x) ∧
        (∀ n, v = .inf n → s = { bits := (if n then 2 ^ 31 else 0) + 0x7F800000, flags := 0 }) ∧
        (fNaN v = true → s = { bits := 0x7FC00000, flags := if fSNaN v then 1 else 0 })) ∧
    (∃ r, fmLane (.cvtf m) a b c = wordRes r ∧ Rounds fp32 m (a.toInt : ℝ) false r)) ∧
  -- roots and reciprocals
  (∀ (a b : Word) (n : Bool) (x : ℝ), IsFin (fp a) n x → x ≠ 0 →
    (∃ r, sfLane .rcp a b = wordRes r ∧ RoundsTo fp32 .rn (1 / x) r) ∧
    (0 < x → (∃ r, sfLane .sqrt a b = wordRes r ∧ RoundsTo fp32 .rn (Real.sqrt x) r) ∧
      ∃ r, sfLane .rsqrt a b = wordRes r ∧ RoundsTo fp32 .rn (1 / Real.sqrt x) r)) ∧
  -- the rational results of exp2, log2, sinpi and cospi, and those out of exp2's range
  (∀ (a b : Word) (n : Bool) (k : Int),
    (IsFin (fp a) n k → ∃ r, sfLane .exp2 a b = wordRes r ∧ RoundsTo fp32 .rn ((2 : ℝ) ^ k) r) ∧
    (∀ x, IsFin (fp a) n x → 256 ≤ |x| →
      sfLane .exp2 a b = if n then { o := 0, flags := 0x18 } else { o := 0x7F800000, flags := 0x14 }) ∧
    (IsFin (fp a) n ((2 : ℝ) ^ k) → ∃ r, sfLane .log2 a b = wordRes r ∧ Rounds fp32 .rn (k : ℝ) false r) ∧
    (IsFin (fp a) n ((k : ℝ) / 2) → k ≠ 0 →
      sfLane .sinpi a b = { o := if k % 4 = 1 then 0x3F800000 else if k % 4 = 3 then 0xBF800000 else if n then 0x80000000 else 0 } ∧
      sfLane .cospi a b = { o := if k % 2 = 1 then 0 else if k % 4 = 0 then 0x3F800000 else 0xBF800000 })) ∧
  (∀ a b : Word, let y := sfLane .sinpi a b; let z := sfLane .cospi a b
    sfLane .scpi a b = { o := y.o, x := some z.o, flags := y.flags ||| z.flags }) ∧
  -- tapered codes
  ∀ (a b c : Word) (B : Nat) (enc dec : FmOp), (B, enc, dec) ∈ [(7, FmOp.cvt8, FmOp.dec8), (5, .cvt6, .dec6)] →
    let w := B + 1
    (∃ r, (fmLane enc a b c).flags = r.flags ∧ (fmLane enc a b c).x = none ∧ r.bits < 2 ^ w ∧ CodeOf B 0 (fp a) r ∧
      ∀ i, i < 32 → (fmLane enc a b c).o.getLsbD i = if i / w = c.toNat % 4 ∧ i < 4 * w then r.bits.testBit (i % w)
        else b.getLsbD i && decide (i < 4 * w)) ∧
    let code := a.toNat / 2 ^ (w * (b.toNat % 4)) % 2 ^ w
    (code = 2 ^ B → fmLane dec a b c = { o := 0x7FC00000, flags := 1 }) ∧ (code = 0 → fmLane dec a b c = { o := 0 }) ∧
    (code ≠ 0 → code ≠ 2 ^ B → ∃ n x, (fmLane dec a b c).flags = 0 ∧ (fmLane dec a b c).x = none ∧ IsFin (fp (fmLane dec a b c).o) n x ∧
      TaperedValue B code x)

/-- R178-R186: each xl operation issues over its contributing lanes, shuffles, votes, ballot and match due 6 bundles on, scans, reductions
and block encodings 10. A shuffle gives a lane its source lane's value, a vote, ballot or match is taken over the contributing lanes, sums add in
rising lane order, and minima and maxima are values of contributing lanes. A block encoding takes its scale from the contributing lanes' numbers
and gives each lane its code. The flags are those of the FP32 additions and of the encodings; no other operation raises one. -/
def Obligations.CrossLanes : Prop :=
  (∀ (op : XlOp) (g : Guard) (src : Src) (s : State) (gid sid : Nat), let t := Trigger.xl op
    Issues s gid sid (triggerBundle t g src) → Clean s gid sid (triggerBundle t g src) →
    let b := triggerBundle t g src
    let r := xlGroup (groupOf s gid).lw op (groupOf s gid).dead (contributing s gid sid b g) (latchOf' (seen s gid b).image .xl .a).val
      (srcValue (delivered s gid b) gid sid b src)
    let shuffle := op = .shfl ∨ op = .shup ∨ op = .shdn ∨ op = .shxor ∨ op = .vany ∨ op = .vall ∨ op = .ballot ∨ op = .vmatch
    FiresWith s gid sid t g src (xlInstr op g src)
      { produced s gid sid t g src (if shuffle then 6 else 10) (decide (op = .scan ∨ op = .fscan ∨ op = .blk8 ∨ op = .blk6)) r.deadSrc
          (fun _ => 0) (fun _ => 0) (fun _ => 0) with o := r.o, x := r.x, flags := r.flags }) ∧
  ∀ (lw : Bool) (dead c : Mask) (a v : Lanes) (l : Nat), l < 32 → c.getLsbD l = true →
    (lw = true → ∀ j, c.getLsbD j = true → j / 16 = l / 16) →
    let n := if lw then 16 else 32
    let h := l / n * n
    let d := (laneGet v l).toNat
    let o (op : XlOp) : Word := laneGet (xlGroup lw op dead c a v).o l
    let x (op : XlOp) : Word := laneGet (xlGroup lw op dead c a v).x l
    let flags (op : XlOp) : BitVec 5 := (xlGroup lw op dead c a v).flags.getD l 0
    let From (op : XlOp) (j : Nat) : Prop := o op = (if dead.getLsbD j then 0 else if c.getLsbD j then laneGet a j else laneGet a l) ∧
      (xlGroup lw op dead c a v).deadSrc.getLsbD l = dead.getLsbD j
    let Own (op : XlOp) : Prop := o op = laneGet a l ∧ (xlGroup lw op dead c a v).deadSrc.getLsbD l = false
    let In (j : Nat) : Prop := j < 32 ∧ c.getLsbD j = true
    let upTo (k : Nat) : Word := (((List.range k).filter fun j => c.getLsbD j).map fun j => laneGet v j).sum
    From .shfl (h + d % n) ∧ (if l < h + d then Own .shup else From .shup (l - d)) ∧ (if h + n ≤ l + d then Own .shdn else From .shdn (l + d)) ∧
    From .shxor (h + ((l - h) ^^^ d % n)) ∧
    ((o .vany = 1 ∨ o .vany = 0) ∧ (o .vany = 1 ↔ ∃ j, In j ∧ (laneGet v j).getLsbD 0 = true)) ∧
    ((o .vall = 1 ∨ o .vall = 0) ∧ (o .vall = 1 ↔ ∀ j, In j → (laneGet v j).getLsbD 0 = true)) ∧
    (∀ k, (o .ballot).getLsbD k = (decide (k < n) && c.getLsbD (h + k) && (laneGet v (h + k)).getLsbD 0)) ∧
    (∀ k, (o .vmatch).getLsbD k = (decide (k < n) && c.getLsbD (h + k) && decide (laneGet v (h + k) = laneGet v l))) ∧
    o .scan = upTo (l + 1) ∧ x .scan = upTo l ∧ o .red = upTo 32 ∧
    ((∃ j, In j ∧ o .redmin = laneGet v j) ∧ ∀ j, In j → (o .redmin).toInt ≤ (laneGet v j).toInt) ∧
    ((∃ j, In j ∧ o .redmax = laneGet v j) ∧ ∀ j, In j → (laneGet v j).toInt ≤ (o .redmax).toInt) ∧
    ((∀ j, j < l → c.getLsbD j = false) → x .fscan = 0 ∧ o .fscan = if fNaN (fp (laneGet v l)) then 0x7FC00000 else laneGet v l) ∧
    (∀ p, p < l → c.getLsbD p = true → (∀ j, p < j → j < l → c.getLsbD j = false) →
      x .fscan = laneGet (xlGroup lw .fscan dead c a v).o p ∧
      o .fscan = (fmLane (.add .rn) (laneGet (xlGroup lw .fscan dead c a v).o p) (laneGet v l) 0).o) ∧
    ((∀ j, l < j → c.getLsbD j = false) → ∀ k, k < 32 → laneGet (xlGroup lw .fred dead c a v).o k = o .fscan) ∧
    (∃ step : Nat → BitVec 5,
      (∀ j, In j → (∀ i, i < j → c.getLsbD i = false) → step j = if fSNaN (fp (laneGet v j)) then 1 else 0) ∧
      (∀ p j, In j → p < j → c.getLsbD p = true → (∀ i, p < i → i < j → c.getLsbD i = false) →
        step j = (fmLane (.add .rn) (laneGet (xlGroup lw .fscan dead c a v).o p) (laneGet v j) 0).flags |||
          if fSNaN (fp (laneGet v j)) then 1 else 0) ∧
      flags .fscan = (maskLanes c).foldl (fun f j => f ||| step j) 0 ∧ flags .fred = flags .fscan) ∧
    (∀ op, op ∉ [XlOp.fscan, .fred, .blk8, .blk6] → flags op = 0) ∧
    ∀ op B, (op, B) ∈ [(XlOp.blk8, 7), (.blk6, 5)] → ∃ S r, ScaleOf (fun w => ∃ j, In j ∧ w = fp (laneGet v j)) S ∧
      CodeOf B S (fp (laneGet v l)) r ∧ o op = BitVec.ofNat 32 r.bits ∧ x op = (BitVec.ofInt 8 S).setWidth 32 ∧ flags op = r.flags

/-- R187-R189: a send enters its context's queue with its target and the lanes it writes: its own lanes, the lanes rotated, or one lane's value
for every lane; a broadcast from a lane that is neither dead nor contributing enters with no lane to write. The broadcast of a dead lane
sends 0 and sets DEADSRC, or DEADSRCH in the upper half, at issue unless the target has ended (the model's choice of the moment, log 44). -/
def Obligations.SeamSends : Prop :=
  ∀ (op : SmOp) (g : Guard) (src : Src) (s : State) (gid sid : Nat), let t := Trigger.sm op; let b := triggerBundle t g src
    Issues s gid sid b → Clean s gid sid b →
    let y := seen s gid b
    let c := contributing s gid sid b g
    let a := srcValue (delivered s gid b) gid sid b src
    let low := lowestLane c
    let target := laneGet (latchOf' y.image .sm .b).val low
    let k := (laneGet (latchOf' y.image .sm .c).val low).toNat
    let n := if y.lw then 16 else 32
    let h := if y.lw then low / 16 * 16 else 0
    let lt := consumed y.image .sm (latchesRead t) c
    let from_ (l : Nat) : Nat := match op with
      | .send => l
      | .sendr => h + (l - h + n - k % n) % n
      | .sendb => h + k % n
    let dead := decide (op = .sendb) && y.dead.getLsbD (h + k % n)
    let gone := ((teamOf s (teamId s gid)).groups.find? fun i => decide ((groupOf s i).gix = target.toNat % 16)).all
      fun i => decide ((groupOf s i).place = .ended)
    let ds := dead && !gone
    (c = 0 → FiresWith s gid sid t g src (smInstr op g src) (produced s gid sid t g src 0 false 0 (fun _ => 0) (fun _ => 0) fun _ => 0)) ∧
    (c ≠ 0 →
      y.seam.length < 8 ∧ target.toNat / 2 ^ 6 = 0 ∧ target.toNat % 16 < (teamOf s (teamId s gid)).kd.ngrp ∧
      ∃ w e, Counts (setGroup (fired s gid b lt []) gid { groupOf (fired s gid b lt []) gid with
          seam := y.seam ++ [e], deadSrc := y.deadSrc || (ds && decide (low < 16 ∨ y.lw = false))
          deadSrcH := y.deadSrcH || (ds && decide (16 ≤ low ∧ y.lw = true)) }) w gid ∧
        exec (smInstr op g src) s = .next (goesOn w gid sid) ∧
        e.gix = target.toNat % 16 ∧ e.slot = target.toNat / 16 % 4 ∧
        ∀ l, l < 32 → (e.lanes.getLsbD l = true ↔
            (op ≠ .send → h ≤ l ∧ l < h + n) ∧ (c.getLsbD (from_ l) = true ∨ dead = true)) ∧
          (e.lanes.getLsbD l = true → laneGet e.val l = if dead then 0 else laneGet a (from_ l)))

/-! ## Memory triggers -/

/-- R208, R215-R221: a plain or ordered load issues one access for each contributing lane, raises its counters, and leaves its result to be
filled; the ordered loads take their offsets from latch a and their order from the trigger. An operation whose lanes use both windows and the
scratchpad is outstanding as two, one for each counter, unless two of its lanes share a byte. -/
def Obligations.LaneLoads : Prop :=
  (∀ (op : LdOp) (n : Nat) (hasX ordered : Bool), (op, n, hasX, ordered) ∈ [(LdOp.lb, 1, false, false), (.lbz, 1, false, false),
      (.lh, 2, false, false), (.lhz, 2, false, false), (.lw, 4, false, false), (.ld, 8, true, false), (.lwo, 4, false, true),
      (.ldo, 8, true, true)] →
    ∀ (g : Guard) (src : Src) (s : State) (gid sid : Nat), let t := Trigger.ld op; let b := triggerBundle t g src
    Issues s gid sid b → Clean s gid sid b →
    let c := contributing s gid sid b g
    let a := srcValue (delivered s gid b) gid sid b src
    let off (l : Nat) : Nat := if ordered then (laneGet (latchOf' (seen s gid b).image .ld .a).val l).toNat else (laneGet a l).toNat
    let order := (laneGet a (lowestLane c)).toNat
    let ps := countersOf (refOf s gid b .ld) c 0
    let r := { produced s gid sid t g src (if ps.contains 0 then 26 else 16) hasX 0 (fun _ => 0) (fun _ => 0) (fun _ => 0) with
      o := [], x := [], flags := [] }
    (c = 0 → ∃ w, Counts (fireBase s gid b) w gid ∧ exec (ldInstr op g src) s = .next (goesOn w gid sid)) ∧
    (c ≠ 0 → ∃ w as, AccessesAt s gid sid b .ld c n { rd := true, w := false } off (fun _ => 0) (fun _ => 0) as ∧
      Counts (outstandingLanes (onPaths (fired s gid b (consumed (seen s gid b).image .ld (latchesRead t) c) [r]) gid (half s gid sid)
        (seen s gid b).opId ps) gid as
        { id := (seen s gid b).opId, half := half s gid sid, kind := .load op, elems := as.map fun x => x.elem
          acquire := ordered && decide (order % 2 = 1), release := ordered && decide (order / 2 % 2 = 1)
          scope := if ordered then order / 4 else 0, sup := (groupOf s gid).super }) w gid ∧
      exec (ldInstr op g src) s = .next (goesOn w gid sid))) ∧
  ∀ (v : State) (gid : Nat) (op : MemOp), let t := teamOf v (teamId v gid)
    let win := op.elems.filter fun e => decide (e.space ≠ .spad)
    let spad := op.elems.filter fun e => decide (e.space = .spad)
    let meet := ∃ x ∈ win, ∃ y ∈ spad, elemsMeet v t.core t.func x y = true
    (win = [] ∨ spad = [] ∨ meet → addLanes v gid op = addOp v gid op) ∧
    (win ≠ [] → spad ≠ [] → ¬meet →
      addLanes v gid op = addOp (addOp v gid { op with part := 1, elems := win }) gid { op with part := 2, elems := spad })

/-- R208, R215-R218, R224-R227, R256: a store, ordered store, atomic or reducing store issues one access for each contributing lane with its
data (and for acas the compare word), and raises its counters; an atomic's result is left to be filled; an atomic or reducing store through a
window, and a release of core scope or wider, commit the team's step. -/
def Obligations.LaneStores : Prop :=
  ∀ (op : StOp) (n : Nat), (op, n) ∈ [(StOp.sb, 1), (.sh, 2), (.sw, 4), (.sd, 8), (.swo, 4), (.sdo, 8), (.aadd, 4), (.afadd, 4), (.amin, 4),
      (.amax, 4), (.aminu, 4), (.amaxu, 4), (.aand, 4), (.aor, 4), (.axor, 4), (.axch, 4), (.acas, 4), (.radd, 4), (.rfadd, 4)] →
    ∀ (g : Guard) (src : Src) (s : State) (gid sid : Nat), let t := Trigger.st op; let b := triggerBundle t g src
    Issues s gid sid b → Clean s gid sid b →
    let c := contributing s gid sid b g
    let v (l : Nat) : Nat := (laneGet (srcValue (delivered s gid b) gid sid b src) l).toNat
    let latch (x : LatchName) (l : Nat) : Nat := (laneGet (latchOf' (seen s gid b).image .st x).val l).toNat
    let reduces := op = .radd ∨ op = .rfadd
    let plain := op = .sb ∨ op = .sh ∨ op = .sw ∨ op = .sd
    let atomic := ¬(plain ∨ op = .swo ∨ op = .sdo)
    let order := v (lowestLane c)
    let data (l : Nat) : Nat := if op = .sb ∨ op = .sh ∨ op = .sw then v l else if op = .sd then latch .b l + 2 ^ 32 * v l
      else if op = .sdo then latch .b l + 2 ^ 32 * latch .c l else latch .b l
    let ps := countersOf (refOf s gid b .st) c 1
    let r := { produced s gid sid t g src 26 false 0 (fun _ => 0) (fun _ => 0) (fun _ => 0) with o := [], x := [], flags := [] }
    let commits := ps.contains 1 = true ∧ (atomic ∨ (¬plain ∧ order % 4 = 2 ∧ 2 ≤ order / 4))
    let base := onPaths (fired s gid b (consumed (seen s gid b).image .st (latchesRead t) c) (if atomic ∧ ¬reduces then [r] else [])) gid
      (half s gid sid) (seen s gid b).opId ps
    (c = 0 → ∃ w, Counts (fireBase s gid b) w gid ∧ exec (stInstr op g src) s = .next (goesOn w gid sid)) ∧
    (c ≠ 0 → ∃ w as, AccessesAt s gid sid b .st c n { rd := decide (atomic ∧ ¬reduces), w := true } (latch .a) data (latch .c) as ∧
      Counts (outstandingLanes (if commits then committed base gid else base) gid as
        { id := (seen s gid b).opId, half := half s gid sid, kind := .store op, elems := as.map fun x => x.elem
          acquire := decide (¬plain) && decide (order % 2 = 1), release := decide (¬plain) && decide (order / 2 % 2 = 1)
          scope := if plain then 0 else order / 4, sup := (groupOf s gid).super }) w gid ∧
      exec (stInstr op g src) s = .next (goesOn w gid sid))

/-- R208-R212, R228-R232: tld, tst and mcst read 64 bytes through the `w` of the lowest contributing lane at the offset their operand gives, which
are well formed, and issue what the record or list says. tld and tst take in each contributing lane the element at its coordinates: c0 of
latch b, c1 of the trigger or latch c, the others of the scalar registers from KREG on. mcst stores one word for each lane and address of
its list. -/
def Obligations.RecordTriggers : Prop :=
  ∀ (g : Guard) (src : Src) (s : State) (gid sid : Nat),
    let who := whoOf s gid
    let T (t : Trigger) (i : Instr) (p : Nat) (off : Nat) (Says : List Byte → Plan → MemOp → State → Prop) : Prop :=
      let b := triggerBundle t g src
      let c := contributing s gid sid b g
      let u := triggerUnit t
      let low := lowestLane c
      let plan := lonePlan s gid sid t g src
      let r := { produced s gid sid t g src (if (countersOf (refOf s gid b u) c 1).contains 1 then 26 else 16) false 0 (fun _ => 0) (fun _ => 0)
                  (fun _ => 0) with o := [], x := [], flags := [] }
      Issues s gid sid b → Clean s gid sid b →
      (c = 0 → ∃ w, Counts (fireBase s gid b) w gid ∧ exec i s = .next (goesOn w gid sid)) ∧
      (c ≠ 0 → off % 64 = 0 ∧ ∃ w x op, refAcc s gid (half s gid sid) who (refOf s gid b u low) low off 64 { rd := true, w := false } = .ok x ∧
        x.elem.va % 64 = 0 ∧
        let v := touchPlan (onPaths (fired s gid b (consumed (seen s gid b).image u (latchesRead t) c) (if p = 5 then [r] else []))
          gid (half s gid sid) (seen s gid b).opId [p]) gid plan
        -- the free values that a store of blocks will draw
        let room := match op.kind with
          | .tensorStore f => if f = 5 ∨ f = 6 then 1024 else 0
          | _ => 0
        plan.reads = [x] ∧ Says (placeGet (fireBase s gid b) who.core who.func x.elem.space x.elem.addr 64).1 plan op v ∧
        op.id = (seen s gid b).opId ∧ op.part = 0 ∧ op.half = half s gid sid ∧ op.acquire = false ∧ op.release = false ∧ op.scope = 0 ∧
        op.sup = (groupOf s gid).super ∧ op.replay = false ∧ (room ≠ 0 → op.draw = v.free) ∧
        Counts (addOp { v with free := v.free + room } gid op) w gid ∧ exec i s = .next (goesOn w gid sid))
    let latch (t : Trigger) (n : LatchName) (l : Nat) : Word :=
      laneGet (latchOf' (seen s gid (triggerBundle t g src)).image (triggerUnit t) n).val l
    let value (t : Trigger) (l : Nat) : Word :=
      laneGet (srcValue (delivered s gid (triggerBundle t g src)) gid sid (triggerBundle t g src) src) l
    let mine (t : Trigger) : Mask := contributing s gid sid (triggerBundle t g src) g
    let selector (t : Trigger) : Nat := (latch t .a (lowestLane (mine t))).toNat
    let tensor (t : Trigger) (store : Bool) (bytes : List Byte) (plan : Plan) (ts : List TElem) (x : Shape) : Prop :=
      let k := selector t % 64
      RecordSays bytes x ∧ (2 < x.ndim → 0 < k ∧ k + x.ndim - 3 ≤ 62) ∧ (ts.map fun e => e.lane) = maskLanes (mine t) ∧
        ∀ e ∈ ts, TensorAt s gid x store (fun i => if x.ndim ≤ i then 0 else if i = 0 then (latch t .b e.lane).toInt
            else if i = 1 then (if store then latch t .c e.lane else value t e.lane).toInt
            else ((sget (groupOf s gid) (half s gid sid) (k + i - 2)).setWidth 32).toInt) (value t e.lane) { e with before := 0 } ∧
          ∀ y ∈ e.place ++ e.scale ++ e.positions.flatten, ∃ z ∈ plan.accs, z.elem = y
    T (.ld .tld) (ldInstr .tld g src) 5 (selector (.ld .tld) / 64 * 64) (fun bytes plan op _ => ∃ x,
      op.kind = .tensorLoad x.fmt x.hem ∧ op.elems = [] ∧ tensor (.ld .tld) false bytes plan op.tensor x ∧ ∀ e ∈ op.tensor, e.before = 0) ∧
    T (.st .tst) (stInstr .tst g src) 1 (selector (.st .tst) / 64 * 64) (fun bytes plan op v => ∃ x,
      op.kind = .tensorStore x.fmt ∧ op.elems = [] ∧ tensor (.st .tst) true bytes plan op.tensor x ∧
      ∀ e ∈ op.tensor, e.before = if x.fmt = 4 then leVal (bytesOf v who.core who.func e.place).1 else 0) ∧
    T (.st .mcst) (stInstr .mcst g src) 1 (value (.st .mcst) (lowestLane (mine (.st .mcst)))).toNat (fun bytes plan op _ =>
      op.kind = .multicast ∧ op.tensor = [] ∧ op.elems = plan.accs.map (fun y => y.elem) ∧
      let n := leVal bytes % 2 ^ 3
      let dest (k : Nat) : Nat := leVal bytes / 2 ^ (64 * (k + 1)) % 2 ^ 64
      1 ≤ n ∧ leVal bytes / 2 ^ 3 % 2 ^ 61 = 0 ∧ (∀ k, k < n → dest k < 2 ^ 52) ∧ (∀ k, n ≤ k → k < 7 → dest k = 0) ∧
      (op.elems.map fun e => (e.lane, e.va, e.size, e.data)) = (maskLanes (mine (.st .mcst))).flatMap (fun l =>
        (List.range n).map fun k => (l, dest k + (latch (.st .mcst) .a l).toNat, 4, (latch (.st .mcst) .b l).toNat)) ∧
      ∀ y ∈ plan.accs, y.elem.va % 4 = 0 ∧ ∃ z, virtualAcc s who y.elem.lane y.elem.va 4 { rd := false, w := true } = .ok z ∧
        y = { z with elem := { z.elem with data := y.elem.data } }) ∧
    ∀ p : Plan, Touched s (touchPlan s gid p) ∧ (NoPolder s → MarksOnly s (touchPlan s gid p) (p.reads ++ p.accs))

/-- R207, R222, R223: lblk makes a load-block unit of its lines under its flag, which clears; pf asks for the lines of the lanes that use a
window and may read there, raises P0, and through the scratchpad does nothing. -/
def Obligations.BlocksAndPrefetches : Prop :=
  ∀ (g : Guard) (src : Src) (s : State) (gid sid : Nat),
    let need : Need := { rd := true, w := false }
    (let t := Trigger.ld .lblk; let b := triggerBundle t g src
      Issues s gid sid b → Clean s gid sid b →
      let c := contributing s gid sid b g
      let low := lowestLane c
      let v := (laneGet (srcValue (delivered s gid b) gid sid b src) low).toNat
      let off := (laneGet (latchOf' (seen s gid b).image .ld .a).val low).toNat
      let ref := refOf s gid b .ld low
      let n := v / 2 ^ 8 % 2 ^ 4
      (c = 0 → ∃ w, Counts (fireBase s gid b) w gid ∧ exec (ldInstr .lblk g src) s = .next (goesOn w gid sid)) ∧
      (c ≠ 0 → v / 2 ^ 12 = 0 ∧ v / 2 ^ 6 % 4 = 0 ∧ off % 128 = 0 ∧ ref ≠ 8 ∧
        ∃ w as, as.length = v % 2 ^ 6 + 1 ∧
          (∀ i x, as[i]? = some x →
            windowAcc s (whoOf s gid) (wget (groupOf s gid) (half s gid sid) ref) low (off + 128 * i) 128 need = .ok x) ∧
          exec (ldInstr .lblk g src) s = .next (goesOn w gid sid) ∧
          let x := touchAccs (onPaths (fired s gid b (consumed (seen s gid b).image .ld (latchesRead t) c) []) gid (half s gid sid)
            (seen s gid b).opId [4]) gid as
          let block : LoadBlock := { lines := as.map fun x => x.elem.addr, filled := [], gid := gid, half := half s gid sid
                                     op := (seen s gid b).opId, complete := false }
          let put (x : State) : State := onTeam x gid fun t => { t with blocks := tset t.blocks n block, bflags := t.bflags &&& ~~~(1#16 <<< n) }
          (tget (teamOf x (teamId s gid)).blocks n = none → Counts (put x) w gid) ∧
          (∀ old, tget (teamOf x (teamId s gid)).blocks n = some old → Counts (put (setGroup x old.gid { groupOf x old.gid with
            paths := (groupOf x old.gid).paths.map fun e => (e.1, pathDone e.2 old.op) })) w gid))) ∧
    (let t := Trigger.ld .pf; let b := triggerBundle t g src
      Issues s gid sid b → Clean s gid sid b →
      let c := contributing s gid sid b g
      let uses := lanes.any fun l => c.getLsbD l && decide (refOf s gid b .ld l ≠ 8)
      let base := fired s gid b (consumed (seen s gid b).image .ld (latchesRead t) c) []
      let as := (maskLanes c).filterMap fun l => let ref := refOf s gid b .ld l
        if ref = 8 then none else
          match windowAcc s (whoOf s gid) (wget (groupOf s gid) (half s gid sid) ref) l
            (laneGet (srcValue (delivered s gid b) gid sid b src) l).toNat 1 need with
          | .ok x => some x
          | _ => none
      (c = 0 → ∃ w, Counts (fireBase s gid b) w gid ∧ exec (ldInstr .pf g src) s = .next (goesOn w gid sid)) ∧
      (c ≠ 0 → uses = false → ∃ w, Counts base w gid ∧ exec (ldInstr .pf g src) s = .next (goesOn w gid sid)) ∧
      (c ≠ 0 → uses = true → ∃ w, Counts (outstanding (onPaths base gid (half s gid sid) (seen s gid b).opId [0]) gid as
          { id := (seen s gid b).opId, half := half s gid sid, kind := .prefetch, sup := (groupOf s gid).super
            elems := as.map fun x => { x.elem with addr := x.elem.addr / 128 * 128, size := 128 } }) w gid ∧
        exec (ldInstr .pf g src) s = .next (goesOn w gid sid)))

/-! ## Engines -/

/-- R84, R261, R267, R278, R294: a tile command or table load that passes its checks joins the open batch and the team's engine order, with
its Lining entry at LNHEAD while a segment is open; it does nothing else until it starts. -/
def Obligations.TileCommands : Prop :=
  ∀ (op : MxOp) (i : Instr) (src : Src) (s : State) (gid sid : Nat),
    (op, i) ∈ [(MxOp.tmma, Instr.mxTmma src), (.tout, .mxTout src), (.tfill, .mxTfill src), (.tfill, .mxTableLoad src), (.tzero, .mxTzero src),
      (.tewadd, .mxTewAdd src), (.tewmul, .mxTewMul src), (.tewscale, .mxTewScale src), (.tredrow, .mxTredRow src),
      (.tredcol, .mxTredCol src), (.ttrn, .mxTtrn src)] →
    let b := triggerBundle (.mx op) noGuard src
    Issues s gid sid b → Clean s gid sid b →
    let y := seen s gid b
    let t := teamOf s (teamId s gid)
    let hi := uniformValue y (half s gid sid) b src
    t.token = some gid ∧ absentLanes y sid = 0 ∧ unstarted t < 32 ∧
    ∃ lo w, uniLatch y (half s gid sid) .mx .a = some lo ∧ exec i s = .next (goesOn w gid sid) ∧
      let base := { uniFired s gid b (uniConsumed y.image .mx (half s gid sid) [.a]) [] with nextId := s.nextId + 1 }
      let item : EngineItem := { id := s.nextId, op := .tile op lo hi, gid := gid, opId := y.opId }
      (t.lnSt ≠ 1 → Counts (onTeam base gid fun t => { t with
        engine := t.engine ++ [item], openBatch := { t.openBatch with left := t.openBatch.left + 1 } }) w gid) ∧
      -- the entry, its number and its cycles go on from the entry before it (R294, R295, R302)
      (t.lnSt = 1 →
        let before := cycleBase s t
        let ga := geoOf (streamOf t (cQA lo)).qw0
        let own := adjointCycles op (tmmaK lo ga) (fmtNarrow ga.fmt)
        let again := recomputeCycles lo (precedingHeader s t)
        let e : LogEntry := { off := t.lnHead, size := entrySize t op lo, prev := if t.lnHead = 0 then 0 else t.lnCur
                              first := decide (t.lnHead = 0), seq := before.2.2 % 2 ^ 32
                              acyc := min (before.1 + own.1 + again.1) (2 ^ 32 - 1), mcyc := min (before.2.1 + own.2 + again.2) (2 ^ 32 - 1) }
        let d := flaggedDescs t op lo hi
        t.lnHead + e.size ≤ t.lnSize ∧ (t.lnHead = 0 → before = (0, 0, 0)) ∧
        (t.lnHead ≠ 0 → t.lnFresh = false → before = (t.lnAcyc, t.lnMcyc, t.lnSeq)) ∧
        Counts (onTeam base gid fun t => { t with
          engine := t.engine ++ [{ item with log := some e, descs := d }], openBatch := { t.openBatch with left := t.openBatch.left + 1 }
          lnCur := e.off, lnHead := e.off + e.size, lnSeq := before.2.2 + 1, lnAcyc := e.acyc, lnMcyc := e.mcyc, lnFresh := false
          lnPrev := some (headerWords op lo hi e d), committed := t.committed || t.step }) w gid)

/-- R84, R280, R281: QADV advances HEAD or TAIL of its stream, which has the tiles or the room; MXFENCE closes the open batch and gives its number. -/
def Obligations.StreamAdvanceAndFence : Prop :=
  ∀ (src : Src) (s : State) (gid sid : Nat),
    (let b := triggerBundle (.mx .qadv) noGuard src;
      Issues s gid sid b → Clean s gid sid b →
      let v := (uniformValue (seen s gid b) (half s gid sid) b src).toNat
      let x := streamOf (teamOf s (teamId s gid)) (v % 16)
      let n := v / 2 ^ 8 % 2 ^ 8
      let base := uniFired s gid b (seen s gid b).image.uniform []
      v / 2 ^ 17 = 0 ∧ v / 2 ^ 4 % 2 ^ 4 = 0 ∧ 0 < n ∧
      (v / 2 ^ 16 = 1 → n ≤ occupancy x) ∧ (v / 2 ^ 16 = 0 → occupancy x + n ≤ qCap x.qw0) ∧
      ∃ w, exec (.mxQadv src) s = .next (goesOn w gid sid) ∧ Counts (onTeam base gid fun t => { t with
        qadvOps := tset t.qadvOps gid (seen s gid b).opId
        streams := tset t.streams (v % 16) (if v / 2 ^ 16 = 1 then { x with head := (x.head + n) % 2 ^ 32 }
          else { x with tail := (x.tail + n) % 2 ^ 32 }) }) w gid) ∧
    (let b := triggerBundle (.mx .mxfence) noGuard src;
      Issues s gid sid b → Clean s gid sid b →
      let k := (uniformValue (seen s gid b) (half s gid sid) b src).toNat % 2 ^ 12
      let n := (teamOf s (teamId s gid)).batchLast + 1
      let base := uniFired s gid b (seen s gid b).image.uniform (numbered s gid sid (.mx .mxfence) src n)
      k < 2 ^ 11 ∧ n < 2 ^ 32 ∧ ∃ w, exec (.mxMxfence src) s = .next (goesOn w gid sid) ∧ Counts (onTeam base gid fun t => { t with
        batchLast := n, openBatch := {}, batches := t.batches ++ [{ t.openBatch with num := n, record := k, reverse := false }]
        engine := t.engine.map fun i => if i.batch = 0 then { i with batch := n } else i }) w gid)

/-- R84, R216, R233, R234, R256: a cp command that passes its checks takes the next transfer identifier of its channel, which its port gives,
joins the engine's buffer of at most 64, and raises P3; coll commits the team's step. -/
def Obligations.TransferCommands : Prop :=
  ∀ (op : CpOp) (i : Instr) (src : Src) (s : State) (gid sid : Nat),
    (op, i) ∈ [(CpOp.copy1, Instr.cpCopy1 src), (.copy2, .cpCopy2 src), (.copyt, .cpCopyt src), (.mcast, .cpMcast src), (.fill, .cpFill src),
      (.coll, .cpColl src), (.ovl, .cpOvl src)] →
    let t := Trigger.cp op
    let b := triggerBundle t noGuard src
    Issues s gid sid b → Clean s gid sid b →
    let y := seen s gid b
    let tm := teamOf s (teamId s gid)
    let ctl := uniformValue y (half s gid sid) b src
    let ch := ctl.toNat % 8
    let n := (tgetD tm.channels ch {}).last + 1
    n < 2 ^ 32 ∧ ((coreOf s tm.core).copies.filter fun x => decide (x.state = .buffered)).length < 64 ∧
    ∃ a d c w, uniLatch y (half s gid sid) .cp .a = some a ∧ uniLatch y (half s gid sid) .cp .b = some d ∧
      uniLatch y (half s gid sid) .cp .c = some c ∧ exec i s = .next (goesOn w gid sid) ∧
      let base := uniFired s gid b (uniConsumed y.image .cp (half s gid sid) [.a, .b, .c]) (numbered s gid sid t src n)
      let x := onPaths { base with nextId := s.nextId + 1 } gid (half s gid sid) y.opId
        (if contributing s gid sid b noGuard = 0 then [] else [3])
      let z := setCore x tm.core { coreOf x tm.core with copies := (coreOf x tm.core).copies ++
        [{ id := s.nextId, op := op, team := teamId s gid, gid := gid, half := half s gid sid, opId := y.opId, channel := ch, num := n, a := a
           b := d, time := c, ctl := ctl, sup := false }] }
      Counts (onTeam z gid fun t => { t with
        channels := tset t.channels ch { tgetD t.channels ch {} with last := n }
        committed := t.committed || (t.step && decide (op = .coll)) }) w gid

/-! ## Whole bundles -/

/-- R76, R86: every other bundle instruction is the issue of the bundle that holds just that operation. -/
def Obligations.EveryFormIsABundle : Prop :=
  ∀ (i : Instr) (b : Bundle) (s : State), toBundle i = some b → exec i s = exec (.bundleIssue b) s

/-- R79, R80, R85-R87, R90-R92: every bundle that passes its checks issues, whatever its moves, triggers and scalar operation: its moves are
made in one group, then its triggers fire, and then its scalar operation takes effect. Every source of a move is read before anything is
written; a lane in which the guard holds takes the source's value in the destination, and every other lane, register, latch, mask and slot
keeps what it held. A bundle without trigger or scalar operation does nothing else. -/
def Obligations.BundleMoves : Prop :=
  ∀ (b : Bundle) (s : State) (gid sid : Nat), Issues s gid sid b →
    let d := delivered s gid b
    let g := seen s gid b
    let h := bundleMoved d gid sid b
    exec (.bundleIssue b) s =
      .next (issueBundle d gid sid b g h (readMoves d gid sid b) (bundleFires d gid sid b) (bundleScalar d gid sid b)) ∧
    (Clean s gid sid b →
      (b.scalar = none → (∀ p ∈ bundleMoves b, ∀ t, p.2.dst ≠ .trig t) → ∃ w, Counts (setGroup d gid h) w gid ∧
        exec (.bundleIssue b) s = .next (goesOn (setGroup w gid { groupOf w gid with
          mPrev := h.mPrev, yieldUntil := (yields w gid b).orElse fun _ => g.yieldUntil }) gid sid)) ∧
      h = { g with v := h.v, vPoison := h.vPoison, image := { g.image with latches := h.image.latches, uniform := h.image.uniform }
                   m := h.m, mPoison := h.mPoison, mPrev := h.mPrev, userPrev := h.userPrev, e := h.e, fstat := h.fstat } ∧
      (∀ i : Nat, tget h.mPrev i = if ∃ p ∈ bundleMoves b, ∃ j : BitVec 4, p.2.dst = .mask j ∧ j.toNat = i then some (mget g i) else none) ∧
      (∀ k, k < 13 → h.fstat.getLsbD k = (g.fstat.getLsbD k && decide (∀ p ∈ bundleMoves b, p.2.dst = .fclr → guardLanes g sid p.2.g ≠ 0 →
        (uniformValue g (half s gid sid) b p.2.src).getLsbD k = true →
          (if g.lw = true ∧ half s gid sid ≠ 0 then k < 8 else 5 ≤ k)))) ∧
      (∀ u x hold k m, unitUniform u = true → (k, m) ∈ bundleMoves b → m.dst = .latch u x hold →
        (∀ k' m', (k', m') ∈ bundleMoves b → (∃ o, m'.dst = .latch u x o) → k' ≤ k) →
        tget h.image.uniform (uniformKey u (half s gid sid) x) =
          some { val := uniformValue g (half s gid sid) b m.src, full := true, hold := hold }) ∧
      (∀ n, (∀ p ∈ bundleMoves b, ∀ u x o, unitUniform u = true → p.2.dst = .latch u x o → uniformKey u (half s gid sid) x ≠ n) →
        tget h.image.uniform n = tget g.image.uniform n) ∧
      ∀ l, l < 32 →
        (∀ (i : BitVec 10) k m, LastMove s gid sid b (fun d => d = .v i) l k m → laneGet (vget h i.toNat) l = carried s gid sid b m.src l) ∧
        (∀ i : Nat, (∀ (j : BitVec 10) k m, j.toNat = i → ¬Moves s gid sid b (fun d => d = .v j) l k m) →
          laneGet (vget h i) l = laneGet (vget g i) l) ∧
        (∀ u x hold k m, unitUniform u = false → LastMove s gid sid b (fun d => ∃ o, d = .latch u x o) l k m → m.dst = .latch u x hold →
          laneGet (latchOf' h.image u x).val l = carried s gid sid b m.src l ∧ (latchOf' h.image u x).full.getLsbD l = true ∧
            (latchOf' h.image u x).hold.getLsbD l = hold) ∧
        (∀ u x, unitUniform u = false → (∀ k m, ¬Moves s gid sid b (fun d => ∃ o, d = .latch u x o) l k m) →
          laneGet (latchOf' h.image u x).val l = laneGet (latchOf' g.image u x).val l ∧
            (latchOf' h.image u x).full.getLsbD l = (latchOf' g.image u x).full.getLsbD l) ∧
        (∀ (i : BitVec 4) k m, LastMove s gid sid b (fun d => d = .mask i) l k m →
          (mget h i.toNat).getLsbD l = (carried s gid sid b m.src l).getLsbD 0) ∧
        (∀ i : Nat, (∀ (j : BitVec 4) k m, j.toNat = i → ¬Moves s gid sid b (fun d => d = .mask j) l k m) →
          (mget h i).getLsbD l = (mget g i).getLsbD l) ∧
        ∀ i : BitVec 2, (tgetD h.e i.toNat {}).full.getLsbD l =
          ((tgetD g.e i.toNat {}).full.getLsbD l && decide (∀ p ∈ bundleMoves b, ¬(p.2.dst = .e i ∧
            (guardLanes g sid p.2.g).getLsbD l = true))))

/-- R26, R152, R321: a bundle of register moves that reads poisoned values or guards in some lanes writes nothing in those lanes; they die, and the
group takes the after-trap 0x0A with their mask, unless none is left or its team may start again. A bundle whose scalar operation reads a
poisoned scalar or mask register kills every running lane of its half in the same way, and its operation has no effect (log 43). -/
def Obligations.PoisonedMoves : Prop :=
  ∀ (b : Bundle) (killed : Mask) (s : State) (gid sid : Nat), Passes s gid sid b →
    let g := seen s gid b
    let Dies (w : State) (slot : Nat) : Prop := ∃ x, exec (.bundleIssue b) s = .next (setGroup w gid x) ∧
      Entered { groupOf (goesOn w gid sid) gid with
          yieldUntil := (yields w gid b).orElse fun _ => g.yieldUntil, dead := g.dead ||| killed } x sid
        { code := 0x0A, info := killed.setWidth 64, slot := slot, lane := some (lowestLane killed), after := true }
        (nextPc (pcOf s gid sid)) []
    let bad (m : Move) (l : Nat) : Bool :=
      ((guardLanes g sid m.g).getLsbD l && (srcPoison g (halfOf g sid) m.src).getLsbD l) || (guardPoison g sid m.g).getLsbD l
    killed ≠ 0 → g.super = false → g.place ≠ .ended → g.wait = none → restartable (teamOf s (teamId s gid)) = false →
    ~~~(g.dead ||| g.exited) &&& ~~~killed ≠ 0 →
    (Sound s gid sid b → b.scalar = none → (∀ p ∈ bundleMoves b, ∃ i, p.2.dst = .v i) →
      (∀ l, killed.getLsbD l = (bundleMoves b).any fun p => bad p.2 l) →
      ∃ w h slot, Counts (setGroup (delivered s gid b) gid { g with v := h.v, vPoison := h.vPoison }) w gid ∧ Dies w slot ∧
        (∃ m, (slot, m) ∈ bundleMoves b ∧ ∃ l, bad m l = true) ∧
        ∀ (i : BitVec 10) l, l < 32 → (∀ p ∈ bundleMoves b, p.2.dst = .v i → bad p.2 l = true) →
          laneGet (vget h i.toNat) l = laneGet (vget g i.toNat) l) ∧
    (∀ op, b.scalar = some op → bundleMoves b = [] →
      ((∃ i ∈ scalarSources op, 64 * half s gid sid + i ∈ g.sPoison) ∨
        ∃ i ∈ scalarMasks op, activeMask g sid &&& tgetD g.mPoison i 0 ≠ 0) →
      (∀ l, killed.getLsbD l = (decide (l < 32) && !g.dead.getLsbD l && !g.exited.getLsbD l &&
        (!g.lw || decide (l / 16 = half s gid sid)))) →
      ∃ w, IssueOf s gid b w ∧ Dies w 6)

/-! ## Encodings and steps -/

/-- R76, R110: decoding the word of a well-formed instruction gives that instruction back, with every operand at every value; a table load's word
is a tfill's (R278). -/
def Obligations.DecodeEncode : Prop :=
  ∀ (i : Instr) (w : BundleWord), WellFormed.wf i = true → encode i = some w → decode w = .ok (WellFormed.canonical i)

/-- R8, R110: a word that decodes is the one word of its instruction, which is well formed: no encoding and no reserved bit is ignored. -/
def Obligations.EncodeDecode : Prop :=
  ∀ (w : BundleWord) (i : Instr), decode w = .ok i → WellFormed.wf i = true ∧ encode i = some w

/-- R97-R109: words of the spec's own examples decode to the instructions it writes beside them. -/
def Obligations.SpecWordsDecode : Prop :=
  let scalar (w6 w7 : Nat) : BundleWord := BitVec.ofNat 256 (2 ^ 192 * w6 + 2 ^ 224 * w7)
  -- LI s41, 0; LIH s41, 0x80000000; WRSR 0x100, s41; ERET (R313, R321)
  decode (scalar 0 0x002040A4) = .ok (.li 41 0) ∧ decode (scalar 0x80000000 0x002042A4) = .ok (.lih 41 0x80000000) ∧
  decode (scalar 0x90100000 0x0020C102) = .ok (.wrsrEpc 41 0x100) ∧ decode (scalar 0 0x0020C400) = .ok .eret ∧
  -- OVCALL s20, 0x40; LOOP 0x0160, s30 at 0x0160; -
  decode (scalar 0x40000040 0x00202301) = .ok (.ovcall 20 0 0x40) ∧ decode (scalar 0x1E 0x0020A100) = .ok (.loop 0 30) ∧
  -- fm0.o -> fm0.fma with v4 -> fm0.b, and the same of fm1 (Program E, 0x0120)
  decode (BitVec.ofNat 256 (0x02480008 + 2 ^ 32 * 0x04402100 + 2 ^ 64 * 0x0268000A + 2 ^ 96 * 0x04602180)) = .ok (.bundleIssue
    { la := 0, y := false, scalar := none, slots := [
        .move { g := noGuard, dst := .latch .fm0 .b false, src := .v 4 },
        .move { g := noGuard, dst := .trig (.fm false (.fma .rn)), src := .port .fm0 false },
        .move { g := noGuard, dst := .latch .fm1 .b false, src := .v 5 },
        .move { g := noGuard, dst := .trig (.fm true (.fma .rn)), src := .port .fm1 false }, .empty, .empty] })

/-- R45, R46, R76, R86, R316: at a cluster's turn the bundle that the chosen context's split presents is fetched at its PC, 32 bytes
little-endian in instruction memory, and the step is `exec` of the instruction it decodes to; a PC in a slot that is neither resident nor being
loaded traps with cause 0x0B. The turn makes the boundaries of the cluster's contexts and chooses the pair before it, and time passes after it.
A scheduled event of the device runs its meaning; a bundle is issued by a cluster alone, so one scheduled as an event changes nothing (log 1). -/
def Obligations.StepRunsDecoded : Prop :=
  (∀ (s u : State) (cl gid sid : Nat) (after : State → State), Turn s cl gid sid u after →
    (∀ i, Fetchable u gid sid → decode (fetched u gid sid) = .ok i →
      step s = onNext tick (onNext after (onNext (fun t => { t with cur := none }) (exec i { u with cur := some (gid, sid) })))) ∧
    let c := coreOf u (groupCore u gid)
    let slot := pcOf u gid sid / 65536
    (groupOf u gid).super = false → c.ovres.getLsbD slot = false → (∀ l ∈ c.loads, l.slot ≠ slot) →
      ∃ h, step s = .next (tick (after (setGroup u gid h))) ∧
        Entered (groupOf u gid) h sid { code := 0x0B, info := BitVec.ofNat 64 slot, slot := 7 } (pcOf u gid sid) []) ∧
  ∀ (s : State) (i : Instr) (rest : List Act), s.agenda = .event i :: rest →
    (toBundle i = none → step s = onNext tick (exec i { s with agenda := rest })) ∧
    ∀ b, toBundle i = some b → step s = .next (tick { s with agenda := rest })

/-! ## Memory and reset -/

/-- R7: bytes written are read back from their addresses, least significant first, and every other address keeps its byte; the canonical form
of a memory is kept. -/
def Obligations.MemoryReadsBack : Prop :=
  (∀ (m : Mem) (a : Nat) (bs : List Byte), memWf m = true → memWf (memWrite m a bs) = true ∧
    memRead (memWrite m a bs) a bs.length = bs ∧
    ∀ x, (x < a ∨ a + bs.length ≤ x) → memGet (memWrite m a bs) x = memGet m x) ∧
  (∀ n v, (leBytes n v).length = n ∧ leVal (leBytes n v) = v % 2 ^ (8 * n) ∧
    ∀ k, k < n → ((leBytes n v).getD k 0).toNat = v / 2 ^ (8 * k) % 256) ∧
  ∀ m m' : Mem, memWf m = true → memWf m' = true → (∀ a, memGet m a = memGet m' a) → m = m'

/-- R41, R139, R144, R329, R333, R334, R373, R376: the values that a module reset leaves. Memory reads 0, as R376 says of device memory, in the
model's form of a memory that lists nothing (log 3); that no time has passed by the tick at which DEVREADY is set is the model's choice (log 4). -/
def Obligations.ResetValues : Prop :=
  let s := State.reset
  s.gtime = 0 ∧ s.devReady = true ∧ s.groups = [] ∧ s.teams = [] ∧ s.tasks = [] ∧ (∀ a, memGet s.mem a = 0) ∧
  (∀ k, (coreOf s k).ovres = 0x80 ∧ (coreOf s k).swapth = 20000 ∧ (coreOf s k).sp = [] ∧
    (coreOf s k).ilim = { fduty := 0x10, frz2 := 0x08, soft := 0x0888, hard := 0x09C4 } ∧ (coreOf s k).weir.frzcnt = 0) ∧
  (∀ k, (clusterOf s k).clkpat = 0xFFFFFFFF ∧ (clusterOf s k).portwait = 0) ∧
  (∀ q, (queueOf s q).en = false) ∧ (∀ h, tgetD s.partmap h 0 = 0) ∧ (∀ f, tgetD s.fpart f 0 = 0) ∧
  (∀ f, (funcOf s f).event = 0 ∧ (funcOf s f).ovdef = 0x7F) ∧
  s.pcap = 0x640 ∧ s.didtDn = 0x20 ∧ ∀ k, 2 ≤ k → k < 8 → tget s.measure k = none

/-- Every memory of the machine as reset leaves it is in canonical form. -/
def Obligations.ResetMemories : Prop := memoriesWf State.reset = true

/-- Every step keeps every memory of the machine in canonical form: device memory, the host's and the peers', scratchpads and instruction
memories. -/
def Obligations.StepsKeepMemories : Prop :=
  ∀ s t : State, memoriesWf s = true → step s = .next t → memoriesWf t = true

/-! ## Events of the contexts -/

/-- R70, R89, R152, R189, R208, R220-R227, R230-R232, R243, R245, R258, R321, R349, R350, R370: what comes to a context. A result becomes due and is shown on its
port with its flags; an access is performed: a load fills its port with the bytes at its elements, a scalar load its registers, stores, atomics
and tensor stores change the bytes of their elements and no others; the access leaves its counters; a seam delivery fills the empty slot of its
target. A scalar load of poisoned data kills the live lanes (R321), in legacy width those of its half: that a half's lanes are the live ones there is
the model's reading (log 41, DEDUCED). Which element comes before the others, which lane's value a position that several name takes, and which of its
two values a T6 neighbour keeps, are free (log 10). -/
def Obligations.ContextDeliveries : Prop :=
  ∀ (s : State) (gid seq : Nat), let g := groupOf s gid; let tm := teamOf s (teamId s gid)
    -- RESULT_DELIVERY, to the group's image or the one set aside: lanes retried after a residue error are counted, those in which it persisted
    -- poisoned (R370)
    (∀ pre r post retried poisoned, r.id = seq → fixedLatency r.unit = true → frozenCore s tm.core = false → let m := r.mask &&& ~~~r.filled
      let bad := if r.residue then poisoned &&& m else 0
      let again := if r.residue then (retried ||| poisoned) &&& m else 0
      let x := { r with poison := r.poison ||| bad }
      let y : Group := { g with
        fstat := g.fstat ||| resultFlags g x m
        deadSrc := g.deadSrc || decide (r.dead &&& m &&& (if g.lw then 0x0000FFFF else 0xFFFFFFFF) ≠ 0)
        deadSrcH := g.deadSrcH || decide (g.lw ∧ r.dead &&& m &&& 0xFFFF0000 ≠ 0) }
      let filled := pre ++ { x with filled := r.filled ||| m } :: post
      let Gives (h : Group) : Prop := let z := { setGroup s gid h with rasRes := min (s.rasRes + (maskLanes again).length) (2 ^ 16 - 1) }
        exec (.resultDelivery gid seq retried poisoned) s =
          .next (if bad = 0 then z else groupError { z with rasUe := min (s.rasUe + 1) (2 ^ 16 - 1) } gid)
      (g.image.results = pre ++ r :: post → (∀ x ∈ pre ++ post, x.id ≠ seq) → g.user = none →
        Gives { y with image := settle { g.image with results := filled } }) ∧
      ∀ u, g.user = some u → u.results = pre ++ r :: post → (∀ x ∈ pre ++ post ++ g.image.results, x.id ≠ seq) →
        Gives { y with image := settle g.image, user := some (settle { u with results := filled }) }) ∧
    (∀ c k, g.place = .resident c k → (clusterOf s c).errors < 3 →
      groupError s gid = setCluster s c { clusterOf s c with errors := (clusterOf s c).errors + 1 }) ∧
    (∀ im u x l, l < 32 → (im.results.map fun r => (r.unit, r.id)).Nodup → portSelect (settle im) u x l = portSelect im u x l) ∧
    -- LOAD_DATA_RETURN
    (∀ op k, Performs s gid seq op → NoPolder s → op.kind = .load k → op.tensor = [] → (∀ e ∈ op.elems, e.space ≠ .peer) →
      (op.elems.map fun e => e.lane).Nodup → ∃ v o x p, exec (.loadDataReturn gid seq) s = .next (performed v gid op o x p) ∧ Refilled s v ∧
        ∀ e ∈ op.elems, e.lane < 32 → (laneGet o e.lane, laneGet x e.lane) = loaded k (gotVal s tm.core e) ∧
          p.getLsbD e.lane = gotPoison s tm.core tm.func e) ∧
    (∀ op f n, Performs s gid seq op → NoPolder s → op.kind = .tensorLoad f n → (∀ e ∈ opElems op, e.space ≠ .peer) →
      (op.tensor.map fun e => e.lane).Nodup → ∃ v o p, exec (.loadDataReturn gid seq) s = .next (performed v gid op o [] p) ∧ Refilled s v ∧
        ∀ e ∈ op.tensor, e.lane < 32 →
          -- a T6 group's three bytes, or the element's own; and the scale byte of its block (R231)
          let code := gotVals s tm.core e.place
          let bits : Nat := match f with
            | 1 => 16
            | 2 => 16
            | 3 => 8
            | 4 => 6
            | 5 => 8
            | 6 => 6
            | _ => 32
          let value := if e.place = [] then n.toNat % 2 ^ bits else if f = 4 ∨ f = 6 then code / 2 ^ (6 * e.sub) % 2 ^ 6 else code
          (laneGet o e.lane).toNat = (if f = 5 ∨ f = 6 then value % 2 ^ 8 + 2 ^ 8 * gotVals s tm.core e.scale else value) % 2 ^ 32 ∧
            p.getLsbD e.lane = (e.place ++ e.scale).any (gotPoison s tm.core tm.func)) ∧
    -- SCALAR_LOAD_RETURN
    (∀ op e h sd quad, Performs s gid seq op → NoPolder s → op.kind = .scalarLoad h sd quad → op.elems = [e] → op.tensor = [] → e.lane = 0 →
      e.space ≠ .peer →
      let y := sput g h sd (BitVec.ofNat 64 (gotVal s tm.core e))
      ∃ v, Refilled s v ∧
      let u := performed
        (setGroup v gid (if quad then sput y h (sd + 1) (BitVec.ofNat 64 (gotVal s tm.core e / 2 ^ 64)) else y)) gid op [] [] 0
      let bad := gotPoison s tm.core tm.func e
      (bad = false → exec (.scalarLoadReturn gid seq) s = .next u) ∧
      (bad = true → (∀ e ∈ g.splits, halfOf g e.1 ≠ op.half) → exec (.scalarLoadReturn gid seq) s = .next u) ∧
      ∀ sid x after before, bad = true → g.splits = before ++ (sid, x) :: after → halfOf g sid = op.half → (∀ e ∈ before, halfOf g e.1 ≠ op.half) →
        exec (.scalarLoadReturn gid seq) s =
          .next (lanesDie u gid sid (scalarLanes (groupOf u gid) sid) 6 (splitOf (groupOf u gid) sid).pc)) ∧
    -- STORE_ACCEPT of plain stores
    (∀ op, Performs s gid seq op → NoPolder s → op.tensor = [] → (∀ e ∈ op.elems, e.space ≠ .peer) →
      op.kind = .scalarStore ∨ op.kind = .multicast ∨ (∃ k, op.kind = .store k ∧ k ∈ [StOp.sb, .sh, .sw, .sd, .swo, .sdo]) →
      ∃ v, exec (.storeAccept gid seq) s = .next (performed v gid op [] [] 0) ∧ StoredFrame s v ∧ Stored s v tm.core (undone op.elems) ∧
        HostSent s v tm.func { op with elems := undone op.elems } .write fun e => leBytes e.size e.data) ∧
    -- of an atomic or reducing store of one lane, with its request to the host, and of several lanes, one after the other
    (∀ op e k, Performs s gid seq op → NoPolder s → op.tensor = [] → op.elems = [e] → e.got = none → e.space ≠ .peer → e.size = 4 →
      op.kind = .store k → k ∈ [StOp.aadd, .afadd, .amin, .amax, .aminu, .amaxu, .aand, .aor, .axor, .axch, .acas, .radd, .rfadd] →
      let old := BitVec.ofNat 32 (placedVal s tm.core e)
      let new := atomicValue k old (BitVec.ofNat 32 e.data) (BitVec.ofNat 32 e.cmp)
      ∃ v o p, exec (.storeAccept gid seq) s = .next (performed v gid op o [] p) ∧ StoredFrame s v ∧
        (e.lane < 32 → laneGet o e.lane = old ∧ p.getLsbD e.lane = spacePoison s tm.core tm.func e.space e.addr e.size) ∧
        Stored s v tm.core [{ e with data := new.toNat }] ∧
        HostSent s v tm.func op (if k = .aadd then .fetchAdd else if k = .axch then .swap else if k = .acas then .cas else .write)
          fun _ => leBytes 4 new.toNat) ∧
    (∀ op k, Performs s gid seq op → NoPolder s → op.tensor = [] → (∀ e ∈ op.elems, e.space ≠ .peer ∧ e.size = 4) →
      (op.elems.map fun e => e.lane).Nodup → op.kind = .store k →
      k ∈ [StOp.aadd, .afadd, .amin, .amax, .aminu, .amaxu, .aand, .aor, .axor, .axch, .acas, .radd, .rfadd] →
      ∃ u v o p, exec (.storeAccept gid seq) s = .next (performed v gid op o [] p) ∧ v = { u with tlps := v.tlps } ∧
        Atomics tm.core tm.func k o p s op.elems u) ∧
    -- of a tensor store: elements, T6 codes, and blocks with their scales and flags (R232)
    (∀ op f, Performs s gid seq op → NoPolder s → op.kind = .tensorStore f → op.elems = [] →
      let ts := op.tensor.filter fun t => decide (t.place ≠ [])
      let es := ts.flatMap fun t => t.place ++ t.scale ++ t.positions.flatten
      (∀ e ∈ es, e.space ≠ .peer ∧ e.got = none) → (∀ t ∈ op.tensor, t ∉ ts → t.scale = [] ∧ t.positions.flatten = []) →
      let B := if f = 5 then 7 else 5
      (f ∉ [4, 5, 6] → (∀ t ∈ ts, t.place.length = 1 ∧ t.scale = [] ∧ t.positions = [])) → (f = 4 → GroupsApart ts) →
      (f ∈ [5, 6] → BlocksApart B ts) →
      ∃ v fl, exec (.storeAccept gid seq) s =
          .next (performed (setGroup v gid { g with fstat := g.fstat ||| fstatPlace g (16 * op.half) fl }) gid op [] [] 0) ∧
        StoredFrame { s with free := v.free } v ∧ (∀ k, k ≠ tm.core → (coreOf v k).sp = (coreOf s k).sp) ∧
        (∀ sp a, sp ≠ .peer → (∀ e ∈ es, ¬inElem e sp a) → placed v tm.core sp a = placed s tm.core sp a) ∧
        (f ∉ [4, 5, 6] → fl = 0 ∧ Stored s v tm.core (ts.flatMap fun t => t.place.map fun e => { e with data := t.data.toNat })) ∧
        (f = 4 → fl = 0 ∧ GroupsStored s v tm.core ts) ∧ (f ∈ [5, 6] → BlocksStored B s v tm.core ts fl)) ∧
    -- one access of an operation before the others: a load notes what it read, a store is made (R243, R245)
    (∀ part k rest op e, s.agenda = .elements gid seq part [k] :: rest → let v := { s with agenda := rest }
      (tget s.groups gid).isSome → NoPolder s → (g.ops.filter fun o => decide (o.id = seq ∧ o.part = part)) = [op] → op.replay = false →
      op.tensor = [] → op.elems[k]? = some e → e.got = none → e.space ≠ .peer → op.release = false →
      opReady v gid { op with elems := [e] } = true → elemOpen v tm.core tm.func e = true →
      (∀ j x, j < k → op.elems[j]? = some x → x.got = none → elemsMeet v tm.core tm.func x e = false) →
      let marked (r : Nat × Bool) (u : State) : State := setGroup u gid { g with
        ops := g.ops.map fun o => if o.id = seq ∧ o.part = part then { op with elems := op.elems.set k { e with got := some r } } else o }
      (∀ l, op.kind = .load l → ∃ u, Refilled v u ∧
        step s = .next (tick (marked (placedVal s tm.core e, spacePoison s tm.core tm.func e.space e.addr e.size) u))) ∧
      (op.kind = .multicast ∨ (∃ t, op.kind = .store t ∧ stAtomic t = false) → ∃ u, StoredFrame v u ∧ Stored v u tm.core [e] ∧
        step s = .next (tick (marked (0, false) u)))) ∧
    -- PREFETCH_FILL, and the peer's acknowledgement of a store
    (∀ op, Performs s gid seq op → NoPolder s → op.kind = .prefetch → (∀ e ∈ opElems op, e.space ≠ .peer) →
      ∃ v, Refilled s v ∧ exec (.prefetchFill gid seq) s = .next (performed v gid op [] [] 0)) ∧
    (∀ op e k, Performs s gid seq op → NoPolder s → op.kind = .store k → k ∈ [StOp.sb, .sh, .sw, .sd, .swo, .sdo] → op.elems = [e] →
      op.tensor = [] → e.got = none → e.space = .peer → e.size ≠ 0 → windowPorts s tm.func e.addr ≠ [] →
      s.peerRefuses.contains (peerTarget s tm.func e.addr).1 = false →
      ∃ v, exec (.peerAcknowledge gid seq) s = .next (performed v gid op [] [] 0) ∧
        let m := (peerTarget s tm.func e.addr).1
        v = { s with free := v.free, ports := v.ports, flitsOut := v.flitsOut, peerMem := v.peerMem, peerPoison := v.peerPoison } ∧
        tgetD v.peerMem m [] = memWrite (tgetD s.peerMem m []) (peerTarget s tm.func e.addr).2 (leBytes e.size e.data) ∧
        (∀ k, k ≠ m → tget v.peerMem k = tget s.peerMem k) ∧ ∀ k, k ≠ m → tget v.peerPoison k = tget s.peerPoison k) ∧
    -- an access that is not outstanding is not performed
    (findOp s gid seq = none → exec (.loadDataReturn gid seq) s = .next s ∧ exec (.scalarLoadReturn gid seq) s = .next s ∧
      exec (.storeAccept gid seq) s = .next s ∧ exec (.prefetchFill gid seq) s = .next s ∧ exec (.peerAcknowledge gid seq) s = .next s) ∧
    -- SEAM_DELIVERY: a saved sender's sends wait for it, those of an ended one do not
    (∀ x rest, g.seam = x :: rest →
      let drop (v : State) : State := setGroup v gid { groupOf v gid with seam := rest }
      (g.place = .saved ∨ g.place = .admitted ∨ frozenCore s tm.core = true → exec (.seamDelivery gid) s = .next s) ∧
      (Resident s gid ∨ g.place = .ended → frozenCore s tm.core = false →
        (groupAt s tm x.gix = none → exec (.seamDelivery gid) s = .next (drop s)) ∧
        ∀ k, groupAt s tm x.gix = some k →
          let y := groupOf s k
          let m := x.lanes &&& liveMask y
          let e := tgetD y.e x.slot {}
          (y.place = .ended → exec (.seamDelivery gid) s = .next (drop s)) ∧
          (Resident s k → m &&& e.full ≠ 0 → exec (.seamDelivery gid) s = .next s) ∧
          (Resident s k → m &&& e.full = 0 → exec (.seamDelivery gid) s = .next (drop (setGroup s k { y with
            e := tset y.e x.slot { val := laneMerge e.val x.val m, full := e.full ||| m, poison := e.poison &&& ~~~m } })))))

/-- R22, R24, R46, R49, R131, R204, R207, R242, R246: a load-block unit completes under its flag and loses a line; a Polder line is recalled, its
dirty bytes written back, or stays where no port to its peer is up; a hold of 1,024 bundles ends; a starved split, and the context that has been
ready longest, come next; a yield ends; a fence completes once the group's earlier accesses are performed, of which one of group scope waits for
those that give a value: R242 and R246 let the group's own accesses see its stores from their issue on (log 9, DEDUCED). "Comes next" is a turn put
first on the agenda, by which the model orders events (log 1). A line that is written back leaves the load-block units that hold its bytes. -/
def Obligations.CacheAndSchedulingEvents : Prop :=
  ∀ (s : State) (gid : Nat), let g := groupOf s gid
    -- LBLK_FILL_COMPLETE, LBLK_LINE_INVALIDATE
    (∀ tid n b, tget (teamOf s tid).blocks n = some b → let t := teamOf s tid
      let v := setTeam s tid { t with
        blocks := tset t.blocks n { b with complete := true, filled := b.lines }, bflags := t.bflags ||| (1#16 <<< n) }
      (b.complete = false → blockLines s t.core + b.lines.length ≤ 6144 → exec (.lblkFillComplete t.core tid n) s =
        .next (setGroup v b.gid { groupOf v b.gid with paths := (groupOf s b.gid).paths.map fun e => (e.1, pathDone e.2 b.op) })) ∧
      (b.complete = true ∨ 6144 < blockLines s t.core + b.lines.length → exec (.lblkFillComplete t.core tid n) s = .next s) ∧
      ∀ line, exec (.lblkLineInvalidate t.core tid n line) s = .next (setTeam s tid { t with
        blocks := tset t.blocks n { b with filled := b.filled.filter fun a => decide (a ≠ line) } })) ∧
    -- POLDER_RECALL
    (∀ core line l ex, tget (coreOf s core).lines line = some l → let c := coreOf s core
      let drop (v : State) : State := setCore v core { c with lines := tdel c.lines line }
      (l.dirty = false → exec (.polderRecall core line ex) s = .next (if ex then drop s else s)) ∧
      -- the poison of the line's granules goes with its bytes (R369)
      let Poison (old new : List Nat) : Prop := l.frame.pa % 32 = 0 → ∀ k, k ∈ new ↔
        if l.frame.pa / 32 ≤ k ∧ k < l.frame.pa / 32 + 4 then 4 * line + (k - l.frame.pa / 32) ∈ c.spPoison else k ∈ old
      (l.dirty = true → l.frame.space = .dev → ∃ p v, Poison s.memPoison p ∧
        Invalidated { s with mem := memWrite s.mem l.frame.pa (memRead c.sp (128 * line) 128), memPoison := p } 192 l.frame.pa 128 v ∧
        exec (.polderRecall core line ex) s = .next (drop v)) ∧
      (l.dirty = true → l.frame.space = .host → ∃ p ts, Poison s.hostPoison p ∧ exec (.polderRecall core line ex) s =
        .next (drop { s with hostMem := memWrite s.hostMem l.frame.pa (memRead c.sp (128 * line) 128), hostPoison := p, tlps := s.tlps ++ ts }) ∧
        (ts.map fun x => (x.func, x.addr, x.bytes, x.poisoned)) = (List.range 4).map fun i =>
          (l.func, l.frame.pa + 32 * i, memRead c.sp (128 * line + 32 * i) 32, c.spPoison.contains (4 * line + i))) ∧
      (l.dirty = true → l.frame.space = .peer → windowPorts s l.func l.frame.pa = [] → exec (.polderRecall core line ex) s = .next s)) ∧
    -- HELD_SPLIT_TIMEOUT
    (∀ sid sp, tget g.splits sid = some sp → ∀ n, sp.held = some n → exec (.heldSplitTimeout gid sid) s =
      .next (setGroup s gid (if 1024 ≤ n then { g with splits := tset g.splits sid { sp with join := none, held := none } } else g))) ∧
    -- SPLIT_STARVATION_PRESENT, CONTEXT_STARVATION_PRIMARY, YIELD_END
    (∀ c k, g.place = .resident c k →
      (∀ sid, (tget g.splits sid).isSome → eligible g sid = true → exec (.splitStarvationPresent gid sid) s =
        .next (if 256 ≤ (splitOf g sid).waiting then { s with agenda := .issue c :: s.agenda } else s)) ∧
      (∀ n, g.readySince = some n → (s.groups.map Prod.fst).Nodup → (tget s.groups gid).isSome →
        (n + 64 ≤ (clusterOf s c).cycles → (∀ e ∈ residents s c, e.1 ≠ gid → ∀ m, e.2.readySince = some m →
            n < m ∨ (n = m ∧ slotOfGroup g < slotOfGroup e.2)) →
          exec (.contextStarvationPrimary gid) s =
            .next { s with agenda := .issue c :: s.agenda } ∧
            ∀ rs, (∀ e ∈ rs, e ∈ residents s c ∧ e.2.readySince.isSome) → (gid, g) ∈ rs → primaryOf (clusterOf s c) rs = some gid) ∧
        ((clusterOf s c).cycles < n + 64 ∨ (∃ e ∈ residents s c, ∃ m, e.2.readySince = some m ∧ m < n) →
          exec (.contextStarvationPrimary gid) s = .next s)) ∧
      ∀ n, g.yieldUntil = some n → exec (.yieldEnd gid) s =
        .next (if n ≤ (clusterOf s c).cycles then setGroup s gid { g with yieldUntil := none } else s)) ∧
    -- FENCE_COMPLETE
    (∀ f ∈ g.fences, (g.fences.filter fun x => decide (x.id = f.id)) = [f] →
      let only (o : MemOp) : Bool := decide (f.scope = 0) && match o.kind with
        | .scalarStore | .tensorStore _ | .multicast | .prefetch => true
        | .store op => !stAtomic op || op == .radd || op == .rfadd
        | .load _ | .scalarLoad _ _ _ | .tensorLoad _ _ => false
      exec (.fenceComplete gid f.id) s = .next (if ∀ o ∈ g.ops, f.id ≤ o.id ∨ only o = true then
        setGroup s gid { g with fences := g.fences.filter fun x => decide (x.id ≠ f.id) } else s)) ∧
    ∀ id, (∀ f ∈ g.fences, f.id ≠ id) → exec (.fenceComplete gid id) s = .next s

/-- R17, R19, R117, R129, R132, R133, R136, R140, R239, R264, R288: a wait of a resident context ends where its condition holds, with its effect,
and leaves the state as it is where it does not. -/
def Obligations.WaitsEnd : Prop :=
  ∀ (s : State) (gid : Nat), Resident s gid →
    let g := groupOf s gid
    let tm := teamOf s (teamId s gid)
    let woken := setGroup s gid { g with wait := none }
    let trapped (v : State) (code : Nat) (info : DWord) : State := setGroup v gid { groupOf v gid with
      pendTraps := g.pendTraps ++ [({ code := code, info := info, slot := 6, after := true }, (splitOf g g.waitSplit).pc, g.waitSplit)] }
    -- WAITC_COMPLETE, MXWAIT_COMPLETE, CPWAIT_COMPLETE
    (∀ h p n, g.wait = some (.waitc h p n) → exec (.waitcComplete gid) s =
      .next (if (tgetD g.paths (8 * h + p) []).length ≤ n then woken else s)) ∧
    (∀ n, g.wait = some (.mxwait n) →
      (tm.batchDone < n → exec (.mxwaitComplete gid) s = .next s) ∧
      (n ≤ tm.batchDone → (∀ r ∈ tm.reports, n < r.num) → exec (.mxwaitComplete gid) s = .next woken) ∧
      (∀ r, n ≤ tm.batchDone → coveredReport tm n = some r → g.super = false → exec (.mxwaitComplete gid) s = .next (trapped
        (onTeam woken gid fun t => { t with reports := t.reports.filter fun x => decide (x.num ≠ r.num) }) r.code r.info)) ∧
      ∀ r, n ≤ tm.batchDone → coveredReport tm n = some r → g.super = true → exec (.mxwaitComplete gid) s = .next (killed
        (onTeam woken gid fun t => { t with reports := t.reports.filter fun x => decide (x.num ≠ r.num) }) gid)) ∧
    (∀ ch n, g.wait = some (.cpwait ch n) → let c := tgetD tm.channels ch {}
      (c.done < n → c.fail = none → exec (.cpwaitComplete gid) s = .next s) ∧
      (n ≤ c.done → c.fail = none → exec (.cpwaitComplete gid) s = .next woken) ∧
      (∀ m cause, c.fail = some (m, cause) → m ≤ n → g.super = false → exec (.cpwaitComplete gid) s = .next (trapped
        (onTeam woken gid fun t => { t with channels := tset t.channels ch { c with fail := none } }) cause (copyWord ch m))) ∧
      ∀ m cause, c.fail = some (m, cause) → m ≤ n → g.super = true → exec (.cpwaitComplete gid) s = .next (killed
        (onTeam woken gid fun t => { t with channels := tset t.channels ch { c with fail := none } }) gid)) ∧
    -- MXTAKE_GRANT
    (∀ order, g.wait = some (.mxtake order) → tm.token = none → gid ∈ tm.groups →
      (∀ k ∈ tm.groups, (groupOf s k).team = teamId s gid ∧ ∀ n, k ≠ gid → (groupOf s k).wait = some (.mxtake n) → order < n) →
      exec (.mxtakeGrant (teamId s gid)) s = .next (onTeam woken gid fun t => { t with token := some gid })) ∧
    -- BARRIER_PHASE_COMPLETE
    (∀ h id phase scope, g.wait = some (.barw h id phase scope) → gid ∈ tm.groups → ∃ u,
      exec (.barrierPhaseComplete (teamId s gid) id) s = .next u ∧ u = { s with groups := u.groups } ∧
        groupOf u gid = (if (∀ a ∈ g.arrivals, ¬(a.half = h ∧ a.bar = id)) ∧ (barrierOf tm id).phase ≠ tgetD g.ap (32 * h + id) phase then
          { g with wait := none } else g) ∧
        ∀ k, groupOf u k = groupOf s k ∨ (groupOf u k = { groupOf s k with wait := none } ∧
          ∃ h' p sc, (groupOf s k).wait = some (.barw h' id p sc))) ∧
    -- DSYNC_COMPLETE
    (∀ l p, g.wait = some (.dsync l p) → (tget s.groups gid).isSome → (s.groups.map Prod.fst).Nodup → ∃ u,
      exec (.dsyncComplete (tm.dom.getD (l - 3) 0)) s = .next u ∧ u = { s with groups := u.groups } ∧
        groupOf u gid = (if domainReady s gid l p = true then { g with wait := none } else g) ∧
        ∀ k, groupOf u k = groupOf s k ∨ (groupOf u k = { groupOf s k with wait := none } ∧ ∃ l' p', (groupOf s k).wait = some (.dsync l' p'))) ∧
    -- REGCLAIM_SERVED
    (∀ c k n order, g.place = .resident c k → g.wait = some (.regclaim n order) → (tget s.groups gid).isSome →
      (∀ e ∈ s.groups, e.1 ≠ gid → ∀ m o k', e.2.place = .resident c k' → e.2.wait = some (.regclaim m o) → order < o) →
      (s.groups.map Prod.fst).Nodup → exec (.regclaimServed c) s = .next (if n ≤ poolFree s c then
        setGroup s gid { g with wait := none, regcnt := g.regcnt + n, regclaimReady := false } else s)) ∧
    -- SPAWN_QUEUE_ROOM, of one whose descriptor is still to be read too, SPAWN_EVENT_WAKE
    (∀ sd h q waits id e, g.wait = some (.spawnRead sd h q waits id e) →
      let got := placeGet woken tm.core tm.func e.space e.addr e.size
      let v := got.2.2
      (readReady s gid id e = false → exec (.spawnQueueRoom gid) s = .next s) ∧
      (readReady s gid id e = true → Touched woken v ∧ exec (.spawnQueueRoom gid) s = .next (if got.2.1 then
        lanesDie v gid g.waitSplit (runningLanes g &&& halfMask g h) 6 (splitOf g g.waitSplit).pc
        else setGroup v gid { groupOf v gid with wait := some (.spawnRoom sd h q waits got.1) }))) ∧
    (∀ sd h q waits b, g.wait = some (.spawnRoom sd h q waits b) →
      let die := dieOfCore tm.core
      let n := s.nextId
      let y := setTask { woken with nextId := n + 1 } n (newTask (descWords b) tm.func tm.asid (.hw die q))
      let z := setDie y die { dieOf y die with queues := tset (dieOf y die).queues q (hwQueue s die q ++ [n]) }
      let codes := eventCodes (wordAt b 0)
      let one := codes.1 = 1 ∨ codes.2.1 = 1 ∨ codes.2.2 = 1
      (256 ≤ (hwQueue s die q).length → exec (.spawnQueueRoom gid) s = .next s) ∧
      ((hwQueue s die q).length < 256 → waits = false → exec (.spawnQueueRoom gid) s = .next (writeS z gid h sd 0)) ∧
      ((hwQueue s die q).length < 256 → waits = true → ¬one → exec (.spawnQueueRoom gid) s = .next (writeS z gid h sd 2)) ∧
      ((hwQueue s die q).length < 256 → waits = true → one → exec (.spawnQueueRoom gid) s =
        .next (setGroup z gid { groupOf z gid with wait := some (.spawnEvent sd h n) }))) ∧
    (∀ sd h task, g.wait = some (.spawnEvent sd h task) → exec (.spawnEventWake gid) s =
      .next (if eventReached (taskOf s task) tm.core then writeS woken gid h sd 0 else s)) ∧
    -- PFLUSH_COMPLETE
    (∀ a n, g.wait = some (.pflush a n) →
      let c := coreOf s tm.core
      let ls := dirtyLines c a n
      let free := (∀ o ∈ g.ops, ∀ e ∈ opElems o, e.space ≠ .spad) ∧
        ∀ l ∈ ls, rangeLocked c none (128 * l) 128 = false ∧ ∀ y, tget c.lines l = some y → lineGoes s y = true
      (¬free → exec (.pflushComplete gid) s = .next s) ∧
      (free → ∃ u, exec (.pflushComplete gid) s = .next u ∧ Touched woken u ∧ SameTeams s u ∧
        (∀ l ∈ ls, tget (coreOf u tm.core).lines l = (tget c.lines l).map fun y => { y with dirty := false }) ∧
        (∀ l, l ∉ ls → tget (coreOf u tm.core).lines l = tget c.lines l) ∧ (∀ k, (coreOf u k).sp = (coreOf s k).sp) ∧
        (memoriesWf s = true → WrittenBack s u tm.core fun l => l ∈ ls))) ∧
    -- STREAM_WRITE_WAIT_END, LINING_WRITE_WAIT_END
    (∀ reg v, g.wait = some (.streamWrite reg v) → let q := (reg - 0x40) / 2
      let x := streamOf tm q
      let put (y : Stream) : State := onTeam woken gid fun t => { t with streams := tset t.streams q y }
      (streamBusy tm q = true → exec (.streamWriteWaitEnd gid) s = .next s) ∧
      (streamBusy tm q = false → reg % 2 = 0 → exec (.streamWriteWaitEnd gid) s = .next (put { qw0 := v, head := 0, tail := 0 })) ∧
      (streamBusy tm q = false → reg % 2 = 1 → qw1Bad x v = false → exec (.streamWriteWaitEnd gid) s =
        .next (put { x with head := v.toNat % 2 ^ 32, tail := v.toNat / 2 ^ 32 })) ∧
      (streamBusy tm q = false → reg % 2 = 1 → qw1Bad x v = true → g.super = false → exec (.streamWriteWaitEnd gid) s =
        .next (trapped woken 2 (BitVec.ofNat 64 reg)))) ∧
    ∀ reg v, g.wait = some (.liningWrite reg v) →
      (tm.engine ≠ [] → exec (.liningWriteWaitEnd gid) s = .next s) ∧
      (lateOpen s tm.func (lateWrites tm) = false → exec (.liningWriteWaitEnd gid) s = .next s) ∧
      (tm.engine = [] → NoPolder s → (∀ w ∈ lateWrites tm, w.space = .dev ∨ w.space = .host) → ∃ u, StoredFrame woken u ∧
        Stored woken u tm.core (lateElems (lateWrites tm)) ∧ let z := onTeam u gid flushedTeam
        (liningStateBad tm reg v = false → exec (.liningWriteWaitEnd gid) s = .next (onTeam z gid fun t => liningApply t reg v)) ∧
        (liningStateBad tm reg v = true → g.super = false → exec (.liningWriteWaitEnd gid) s =
          .next (trapped z 2 (BitVec.ofNat 64 reg))) ∧
        (liningStateBad tm reg v = true → g.super = true → exec (.liningWriteWaitEnd gid) s = .next (killed z gid)))

/-- R70-R74, R132, R206, R252-R255, R261, R265, R268-R279, R281-R284, R286, R298-R304, R377: what each tile command and each adjoint computes,
element by element, by chunks, products and activations stated on exact values. The first item of a team's engine order starts where its
streams, accesses, banks and pages allow and the throttle leaves it a cycle, noting its operands; it retires with its elements, bytes and stream
pointers written; a batch whose items have retired completes with its record; a REVERSE enters and finishes each entry, and is suspended between
entries. A frozen core's engine does nothing. The model's choices: a status record whose page is denied completes the batch or the REVERSE with
FAULT (log 45, DEDUCED); the LSZ field of the access word (log 38, DESIGN CHOICE); which bytes of a tile are written before its command retires,
and the Lining bytes seen before the batch completes (log 10). -/
def Obligations.EngineEvents : Prop :=
  -- chunks, products, elements and activations (R70-R74, R272, R277)
  (∀ (acc : Word) (ps : List PVal), ChunkSays acc ps (chunkRes acc.toNat ps)) ∧
  (∀ (x y : FVal) (n : Int), ProductSays x y n (chunkProduct x y n)) ∧
  (∀ (byte : Nat → Byte) (base : Nat) (w0 : DWord) (i j : Nat), tFmt w0 < 7 → j < tCols w0 → let x := elemVal byte base (geoOf w0) i j
    ElementSays byte base w0 i j x ∧ FilledSays byte base w0 i j x (elemFill byte base (geoOf w0) i j)) ∧
  (∀ (t : ActTable) (team : Nat) (d : Bool) (x : Word), t.owner = some team → ActSays t d x (actApply t team d x.toNat)) ∧
  -- what each tile command computes (R271-R279)
  (∀ (v : TileView) (lo hi : DWord),
    let at_ (a i j : Nat) : Nat := (accAt (accTile v.core v.team a) i j).toNat
    let w0 (q : Nat) : DWord := (streamOf v.tm q).qw0
    let region := regionOf (cM lo) (cN lo)
    let Gives (op : MxOp) (keys : List (Nat × Nat)) (f : Nat → Nat → FRes) : Prop := let r := tileRes v op lo hi
      r.bytes = [] ∧ r.table = none ∧ (∀ k, r.flags.getLsbD k = true ↔ ∃ p ∈ keys, (f p.1 p.2).flags.getLsbD k = true) ∧
        ∃ es, r.acc = some (cAcc lo, es) ∧ (es.map Prod.fst) = keys.map (fun p => 128 * p.1 + p.2) ∧
          ∀ p ∈ keys, (128 * p.1 + p.2, BitVec.ofNat 32 (f p.1 p.2).bits) ∈ es
    let start (i j : Nat) : Nat := if cCLR lo then 0 else at_ (cAcc lo) i j
    (let elem (q : Nat) (turn : Bool) (r c : Nat) := if turn then elemVal v.byte (v.slot q) (geoOf (w0 q)) c r
        else elemVal v.byte (v.slot q) (geoOf (w0 q)) r c
      let depth := if cTA lo then tRows (w0 (cQA lo)) else tCols (w0 (cQA lo))
      Gives .tmma region fun i j => chunkedAll (if 2 < tFmt (w0 (cQA lo)) then 64 else 32) depth (start i j) fun k =>
        operandProduct (elem (cQA lo) (cTA lo) i k) (elem (cQB lo) (cTB lo) k j)) ∧
    (hTBL hi = false → Gives .tfill region fun i j => elemFill v.byte (v.slot (cQA lo)) (geoOf (w0 (cQA lo))) i j) ∧
    (hTBL hi = true → (tileRes v .tfill lo hi).acc = none ∧ (tileRes v .tfill lo hi).bytes = [] ∧
      ∃ x, (tileRes v .tfill lo hi).table = some (hLoadTab hi, x) ∧ x.owner = some v.team ∧ x.xlo = BitVec.ofNat 32 hi.toNat ∧ x.w = hW hi ∧
        ∀ k, k < 1024 → tgetD x.vals k 0 = BitVec.ofNat 32 (leVal ((List.range 4).map fun i => v.byte (v.tm.spBase + hLoadOff hi + 4 * k + i)))) ∧
    (∀ op, op ∈ [MxOp.tewadd, .tewmul, .tewscale] → Gives op region fun i j =>
      let x := at_ (cAcc2 lo) i j
      let b : FRes := if op = .tewscale then { bits := hi.toNat % 2 ^ 32, flags := 0 }
        else if cSB lo then { bits := at_ (cAcc3 lo) i j, flags := 0 }
        else elemFill v.byte (v.slot (cQB lo)) (geoOf (w0 (cQB lo))) i j
      let r := if op = .tewadd then chunkRes x [plainProduct b.bits] else chunkRes 0 [chunkProduct (fRead fp32 x) (fRead fp32 b.bits) 0]
      { r with flags := r.flags ||| b.flags }) ∧
    (Gives .tredrow ((List.range (cM lo)).map fun i => (i, 0)) fun i _ =>
      chunkedAll 32 (cN lo) (start i 0) fun k => plainProduct (at_ (cAcc2 lo) i k)) ∧
    (Gives .tredcol ((List.range (cN lo)).map fun j => (0, j)) fun _ j =>
      chunkedAll 32 (cM lo) (start 0 j) fun k => plainProduct (at_ (cAcc2 lo) k j)) ∧
    (let q := w0 (cQO lo); let r := tileRes v .tout lo hi
      Writable q → tRows q = cM lo → tCols q = cN lo → r.acc = none ∧ r.table = none ∧ ∃ y fl, EncodedAs (v.slot (cQO lo)) q y r.bytes fl ∧
        let bias (j : Nat) : Nat := leVal ((List.range 4).map fun k => v.byte (v.tm.spBase + hBias hi + 4 * j + k))
        let x1 (i j : Nat) : FRes := if hBE hi then chunkRes (at_ (cAcc lo) i j) [plainProduct (bias j)]
          else { bits := at_ (cAcc lo) i j, flags := 0 }
        let x2 (i j : Nat) : FRes := if hAE hi then actApply (tgetD v.core.tables (hTab hi) {}) v.team false (x1 i j).bits
          else { bits := (x1 i j).bits, flags := 0 }
        let p (i j : Nat) : PVal := chunkProduct (fRead fp32 (x2 i j).bits) (fRead fp32 (hi.toNat % 2 ^ 32)) 0
        (∀ i j, i < cM lo → j < cN lo → (hQE hi = false → y i j = fRead fp32 (x2 i j).bits) ∧
          (hQE hi = true → (pNaN (p i j) = true → fNaN (y i j) = true) ∧ (∀ n, p i j = .inf n → y i j = .inf n) ∧
            ∀ n m e, p i j = .fin n m e → y i j = .fin n m e)) ∧
        ∀ k, r.flags.getLsbD k = true ↔ fl.getLsbD k = true ∨ ∃ i j, i < cM lo ∧ j < cN lo ∧
          ((x1 i j).flags ||| (x2 i j).flags ||| if hQE hi && decide (p i j = .nan false) then 1 else 0).getLsbD k = true)) ∧
  -- what each adjoint computes (R299, R300), a and b being the operands as R298 gives them
  (∀ (s : State) (tid : Nat) (rd : Nat → Byte) (p : Option Entry) (e : Entry) (g : Nat), let t := teamOf s tid; let c := coreOf s t.core
    gradAcc t (cAcc e.lo) = some g →
    let o := adjoint s tid rd p e
    let a := revOperand s tid rd p e 0
    let b := revOperand s tid rd p e 1
    let old (x i j : Nat) : Nat := (accAt (accTile c tid x) i j).toNat
    let gd := old g
    let Is (x i j : Nat) (r : FRes) : Prop := accAt (accTile o.core tid x) i j = BitVec.ofNat 32 r.bits
    let w0 (q : Nat) : DWord := (streamOf t q).qw0
    let In (i j : Nat) : Prop := i < cM e.lo ∧ j < cN e.lo
    let Pushed (q k : Nat) (bs : List (Nat × Byte)) (f : Nat → Nat → FRes) : Prop := ∃ fl,
      EncodedAs (t.spBase + slotOff (w0 q) ((streamOf t q).tail + k)) (w0 q) (fun i j => fRead fp32 (f i j).bits) bs fl
    let fits (q rows cols : Nat) : Prop := Writable (w0 q) ∧ tRows (w0 q) = rows ∧ tCols (w0 q) = cols
    (e.op = .tfill ∨ (e.op = .tmma ∧ cCLR e.lo = true) → ∀ i j, In i j → Is g i j { bits := 0, flags := 0 }) ∧
    (∀ x, e.op = .tewscale → gradAcc t (cAcc2 e.lo) = some x → x ≠ g → ∀ i j, In i j →
      Is x i j (chunkRes (old x i j) [chunkProduct (fRead fp32 (e.hi.toNat % 2 ^ 32)) (fRead fp32 (gd i j)) 0])) ∧
    (e.op = .tewadd ∨ e.op = .tewmul →
      let by_ (f : Nat → Nat → Nat) (i j : Nat) : PVal :=
        if e.op = .tewmul then chunkProduct (fRead fp32 (gd i j)) (fRead fp32 (f i j)) 0 else plainProduct (gd i j)
      (∀ x, gradAcc t (cAcc2 e.lo) = some x → x ≠ g → (cSB e.lo = true → gradAcc t (cAcc3 e.lo) ≠ some x) → ∀ i j, In i j →
        Is x i j (chunkRes (old x i j) [by_ b.word i j])) ∧
      (∀ x, cSB e.lo = true → gradAcc t (cAcc3 e.lo) = some x → x ≠ g → gradAcc t (cAcc2 e.lo) ≠ some x → ∀ i j, In i j →
        Is x i j (chunkRes (old x i j) [by_ a.word i j])) ∧
      ∀ q, cSB e.lo = false → gradStream t (cQB e.lo) = some q → fits q (cM e.lo) (cN e.lo) → Pushed q 0 o.bytes fun i j =>
        if e.op = .tewmul then chunkRes 0 [by_ a.word i j] else { bits := gd i j, flags := 0 }) ∧
    (∀ q, e.op = .tfill → gradStream t (cQA e.lo) = some q → fits q (cM e.lo) (cN e.lo) → Pushed q 0 o.bytes fun i j => { bits := gd i j, flags := 0 }) ∧
    (∀ q q', e.op = .tmma → gradStream t (cQA e.lo) = some q → gradStream t (cQB e.lo) = some q' →
      let ga := descGeo (e.descs.getD 0 0)
      let gb := descGeo (e.descs.getD 1 0)
      fits q ga.rows ga.cols → fits q' gb.rows gb.cols →
      let elem (x : RevOperand) (turn : Bool) (r c : Nat) := if turn then x.val c r else x.val r c
      let da (i k : Nat) : FRes := chunkedAll (if 2 < gb.fmt then 64 else 32) (cN e.lo) 0 fun j =>
        operandProduct (fRead fp32 (gd i j), 0) (elem b (cTB e.lo) k j)
      let db (k j : Nat) : FRes := chunkedAll (if 2 < ga.fmt then 64 else 32) (cM e.lo) 0 fun i =>
        operandProduct (fRead fp32 (gd i j), 0) (elem a (cTA e.lo) i k)
      ga.fmt ∈ [1, 2, 3, 4, 5, 6] → gb.fmt ∈ [1, 2, 3, 4, 5, 6] → ∃ bs bs', o.bytes = bs ++ bs' ∧
        (Pushed q 0 bs fun r c => if cTA e.lo then da c r else da r c) ∧
        Pushed q' (if q = q' then 1 else 0) bs' fun r c => if cTB e.lo then db c r else db r c) ∧
    ∀ q, e.op = .tout → gradStream t (cQO e.lo) = some q →
      let scaled (r : Nat) (k : Nat) : Nat := (chunkRes 0 [chunkProduct (fRead fp32 r) (fRead fp32 k) 0]).bits
      let u (i j : Nat) : Nat := if hBE e.hi then (chunkRes (a.word i j) [plainProduct (b.word 0 j)]).bits else a.word i j
      let y1 (i j : Nat) : Nat := (elemFill rd (t.spBase + slotOff (w0 q) (streamOf t q).head) (geoOf (w0 q)) i j).bits
      let y2 (i j : Nat) : Nat := if hQE e.hi then scaled (y1 i j) (e.hi.toNat % 2 ^ 32) else y1 i j
      let gy (i j : Nat) : Nat :=
        if hAE e.hi then scaled (y2 i j) (actApply (tgetD c.tables (hTab e.hi) {}) tid true (u i j)).bits else y2 i j
      ((hBE e.hi = true → gradBias t ≠ some g) → ∀ i j, In i j → Is g i j (chunkRes (old g i j) [plainProduct (gy i j)])) ∧
      ∀ x, hBE e.hi = true → gradBias t = some x → x ≠ g → ∀ j, j < cN e.lo →
        Is x 0 j (chunkedAll 32 (cM e.lo) (old x 0 j) fun i => plainProduct (gy i j))) ∧
  ∀ (s : State) (tid : Nat), let t := teamOf s tid; let c := coreOf s t.core
    let word (va : Nat) : DWord := accessWord va (Config.accessLsz va).val 7 false false
    (frozenCore s t.core = true → exec (.mxCommandStart tid) s = .next s ∧ exec (.batchComplete tid) s = .next s ∧
      exec (.reverseSuspend tid) s = .next s ∧ ∀ p, exec (.mxCommandRetire tid p) s = .next s ∧ exec (.reverseEntry tid p) s = .next s) ∧
    (frozenCore s t.core = false → ∀ i rest, t.engine = i :: rest →
      let first (j : EngineItem) (t : Team) : Team := { t with engine := j :: rest }
      let held (gid id : Nat) : Prop := (∀ o ∈ (groupOf s gid).ops, o.id < id → o.acquire = false ∧ ∀ e ∈ opElems o, e.space ≠ .spad) ∧
        ∀ f ∈ (groupOf s gid).fences, id ≤ f.id
      let advanced : Prop := ∀ q ∈ t.qadvOps, held q.1 q.2
      let settled (w : State) : Prop := w = { s with teams := w.teams, cores := w.cores, free := w.free } ∧
        (coreOf w t.core).locks = (c.locks.filter fun l => decide (l.owner ≠ i.id))
      let wrote (w : State) (bs : List (Nat × Byte)) : Prop :=
        ((bs.map Prod.fst).Nodup → ∀ b ∈ bs, memGet (coreOf w t.core).sp b.1 = b.2) ∧
        ∀ k, k ∉ bs.map Prod.fst → memGet (coreOf w t.core).sp k = memGet c.sp k
      let unshown (bs : List (Nat × Byte)) : List (Nat × Byte) := bs.filter fun b => !i.shown.contains b.1
      (cyclesLeft s t.core i.gid = 0 → exec (.mxCommandStart tid) s = .next s ∧ ∀ p, exec (.reverseEntry tid p) s = .next s) ∧
      (∀ op lo hi, i.op = .tile op lo hi →
        let rs := tileSources t op lo hi
        let tg := tileTarget t op lo
        -- MX_COMMAND_START
        (∀ w0, cyclesLeft s t.core i.gid ≠ 0 → i.started = false → i.waits = [] → i.denied = some w0 →
          exec (.mxCommandStart tid) s = .next (setTeam s tid (first { i with started := true } t))) ∧
        (cyclesLeft s t.core i.gid ≠ 0 → i.denied = none →
          let may : Prop := i.started = false ∧ i.waits = [] ∧ (∀ q ∈ popStreams op lo hi, 1 ≤ occupancy (streamOf t q.1)) ∧
            (∀ q, pushStream op lo = some q → occupancy (streamOf t q) < qCap (streamOf t q).qw0) ∧
            held i.gid i.opId ∧ advanced ∧ banksHeld c i.id (rs ++ tg) = false
          let x := tileX s t op lo hi i.log
          (¬may → exec (.mxCommandStart tid) s = .next s) ∧
          (may → (∀ va, x.denied = some va →
              exec (.mxCommandStart tid) s = .next (setTeam s tid (first { i with started := true, denied := some (word va) } t))) ∧
            (x.denied = none → x.missing ≠ [] → exec (.mxCommandStart tid) s = .next
              (let r := raiseAll s t.func t.asid missKind 4 [.engine tid] x.missing
               setTeam r.2 tid (first { i with waits := r.1 } (teamOf r.2 tid)))) ∧
            (x.denied = none → x.missing = [] → piecesOpen s t.func x.pieces = false → exec (.mxCommandStart tid) s = .next s) ∧
            (x.denied = none → x.missing = [] → piecesOpen s t.func x.pieces = true → ∃ v, Touched s v ∧ (NoPolder s → i.log = none → v = s) ∧
              exec (.mxCommandStart tid) s = .next (setTeam (setCore v t.core (lockBanks (coreOf v t.core) i.id tg)) tid (first
                { i with
                  started := true, ranges := rs, snap := snapRanges (coreOf v t.core) rs, base := snapRanges (coreOf v t.core) rs
                  heads := ((popStreams op lo hi).map fun q => (q.1, (streamOf t q.1).head)) ++
                    (pushStream op lo).toList.map fun q => (q, (streamOf t q).tail)
                  table := if op = .tout then some (tgetD c.tables (hTab hi) {}) else none } (teamOf v tid)))))) ∧
        -- MX_COMMAND_RETIRE
        (∀ p, i.started = false → exec (.mxCommandRetire tid p) s = .next s) ∧
        (∀ p w0, i.started = true → i.denied = some w0 → ∃ w, exec (.mxCommandRetire tid p) s = .next (if p then countPersistent w else w) ∧
          settled w ∧ wrote w [] ∧ (∀ a k, tgetD (accTile (coreOf w t.core) tid a) k 0 = tgetD (accTile c tid a) k 0) ∧
          teamOf w tid = noteBatch (signalBarrier (moveStreams { t with engine := rest } op lo hi) lo) i.batch
            (itemEnds 0 false (some w0) none)) ∧
        (∀ p, i.started = true → i.denied = none → piecesOpen s t.func (tileX s t op lo hi i.log).pieces = false →
          exec (.mxCommandRetire tid p) s = .next s) ∧
        (∀ p, i.started = true → i.denied = none → piecesOpen s t.func (tileX s t op lo hi i.log).pieces = true → NoPolder s →
          let bad := p || itemPoisoned s tid i (usedTiles op lo hi)
          let r := tileRes (viewOf s tid i) op lo hi
          let done (b : Batch) : Batch := itemEnds r.flags bad none none b
          ∃ w, exec (.mxCommandRetire tid p) s = .next (if p then countPersistent w else w) ∧ let d := coreOf w t.core
            d.locks = (c.locks.filter fun l => decide (l.owner ≠ i.id)) ∧
            -- its elements and bytes, the new ones where nothing it read is poisoned
            (∀ a es, r.acc = some (a, es) → (es.map Prod.fst).Nodup → (bad = false → ∀ e ∈ es, tgetD (accTile d tid a) e.1 0 = e.2) ∧
              ∀ k, k ∉ es.map Prod.fst → tgetD (accTile d tid a) k 0 = tgetD (accTile c tid a) k 0) ∧
            (∀ a, r.acc.map Prod.fst ≠ some a → ∀ k, tgetD (accTile d tid a) k 0 = tgetD (accTile c tid a) k 0) ∧
            (i.log = none → (bad = false → wrote w (unshown r.bytes)) ∧
              ∀ k, k ∉ r.bytes.map Prod.fst ∨ k ∈ i.shown → memGet d.sp k = memGet c.sp k) ∧
            (bad = false → op = .tzero → ∀ i j, i < cM lo → j < cN lo → accAt (accTile d tid (cAcc lo)) i j = 0) ∧
            (bad = false → op = .ttrn → ∀ i j, i < cM lo → j < cN lo →
              accAt (accTile d tid (cAcc lo)) j i = accAt (accTile c tid (cAcc2 lo)) i j) ∧
            -- the team, and its Lining entry while a segment is open
            (i.log = none → settled w ∧ teamOf w tid =
              noteBatch (signalBarrier (moveStreams { t with engine := rest } op lo hi) lo) i.batch done) ∧
            ∀ e, i.log = some e → let va := t.lnBase + 64 * e.off
              let bs := entryBytes (viewOf s tid i) op lo hi e i.descs
              let ps := (rangeX s t.core t.func t.asid va bs.length { rd := false, w := true } false).pieces
              let dirty := itemPoisoned s tid i (usedTiles op lo hi)
              { teamOf w tid with blocks := t.blocks } = noteBatch (signalBarrier (moveStreams { t with engine := rest } op lo hi) lo) i.batch
                (fun b => done { b with lining := b.lining ++ lateOf dirty ps bs }) ∧
              ∀ q, ps = [q] → q.frame.space = .dev → ∀ k, k < q.n → k < bs.length →
                memGet w.mem (q.frame.pa + k) = memGet s.mem (q.frame.pa + k) ∨ memGet w.mem (q.frame.pa + k) = bs.getD k 0)) ∧
      (i.op = .reverse →
        -- MX_COMMAND_START of a REVERSE: its power phase
        (i.started = false → i.waits = [] → i.denied = none → cyclesLeft s t.core i.gid ≠ 0 →
          let x := rangeX s t.core t.func t.asid (t.lnBase + 64 * t.lnCur) 64 { rd := true, w := false } false
          let goes (n us : Nat) : State := let u := declareHint s i.gid s.gtime n us false
            setTeam u tid (first { i with started := true } (teamOf u tid))
          (t.lnHead = 0 → exec (.mxCommandStart tid) s = .next (goes 0 1)) ∧
          (t.lnHead ≠ 0 → x.missing = [] → x.pieces ≠ [] →
            let e := ((lnHeader s t t.lnCur).getD 6 0).toNat
            let a := e % 2 ^ 32
            let us := max 1 (min 4095 ((a + 1899) / 1900))
            exec (.mxCommandStart tid) s = .next (if a = 0 then goes 0 us else goes ((16 * (e / 2 ^ 32 % 2 ^ 32) + a - 1) / a) us))) ∧
        -- MX_COMMAND_RETIRE of a REVERSE
        (i.started = true → i.walkDone = true → i.waits = [] →
          let ends (b : Batch) : Batch := itemEnds 0 false none none b
          let t' : Team := { t with engine := rest, suspended := false }
          (i.stopped = true → exec (.mxCommandRetire tid false) s = .next (setTeam s tid (noteBatch t' i.batch ends))) ∧
          (i.stopped = false → i.denied = none → lateWrites t = [] →
            let x := rangeX s t.core t.func t.asid t.lnBase 16 { rd := false, w := true } false
            let t'' : Team := { t' with lnSt := 0, lnHead := 0, lnCur := 0 }
            (∀ va, x.denied = some va → exec (.mxCommandRetire tid false) s = .next
              (setTeam s tid (noteBatch t'' i.batch (itemEnds 0 false (some (word va)) none)))) ∧
            ∀ q b, x.denied = none → x.missing = [] → x.pieces = [q] → q.frame.space = .dev → NoPolder s →
              (t.batches.find? fun b => decide (b.num = i.batch)) = some b → ∃ u, exec (.mxCommandRetire tid false) s = .next u ∧
                (∀ k, k < 16 → memGet u.mem (q.frame.pa + k) = (statusRecord b s.gtime).getD k 0) ∧
                (teamOf u tid).lnSt = 0 ∧ (teamOf u tid).lnHead = 0 ∧ (teamOf u tid).lnCur = 0 ∧ (teamOf u tid).engine = rest)) ∧
        (i.started = true → i.walkDone = false →
          -- REVERSE_SUSPEND
          (i.entry = false → exec (.reverseSuspend tid) s = .next (setTeam s tid { t with suspended := !t.suspended })) ∧
          (i.entry = true → exec (.reverseSuspend tid) s = .next s) ∧
          -- REVERSE_ENTRY, between entries
          (∀ p, t.suspended = true ∨ i.waits ≠ [] → exec (.reverseEntry tid p) s = .next s) ∧
          (cyclesLeft s t.core i.gid ≠ 0 → t.suspended = false → i.waits = [] → i.entry = false →
            let stops (rev : Option Nat) (fault : Option DWord) : State := setTeam s tid (noteBatch (first { i with walkDone := true, stopped := true }
              { t with lnSt := 2 }) i.batch fun b => { b with revFail := b.revFail.orElse fun _ => rev, fault := b.fault.orElse fun _ => fault })
            (∀ w, i.denied = some w → exec (.reverseEntry tid false) s = .next (stops none (some w))) ∧
            (i.denied = none → t.lnHead = 0 → exec (.reverseEntry tid false) s = .next (setTeam s tid (first { i with walkDone := true } t))) ∧
            (i.denied = none → t.lnHead ≠ 0 →
              let h := lnHeader s t t.lnCur
              let hx := rangeX s t.core t.func t.asid (t.lnBase + 64 * t.lnCur) 64 { rd := true, w := false } false
              (∀ va, hx.denied = some va → exec (.reverseEntry tid false) s = .next (stops none (some (word va)))) ∧
              (hx.denied = none → hx.missing = [] → entryBad t h = true →
                exec (.reverseEntry tid false) s = .next (stops (some t.lnCur) none)) ∧
              ∀ e, hx.denied = none → hx.missing = [] → entryBad t h = false → entryOf t.lnCur h = some e →
                let p := rerunOf e (lnHeader s t e.prev)
                let x := entryX s tid p e
                let rs := entryReads t p e
                let ws := pushSlots t (pushedTo t e)
                let may : Prop := entryStreamsReady t e = true ∧ advanced ∧ banksHeld c i.id (rs ++ ws) = false ∧
                  piecesOpen s t.func x.pieces = true
                (∀ va, x.denied = some va → exec (.reverseEntry tid false) s = .next (stops none (some (word va)))) ∧
                (x.denied = none → x.missing ≠ [] → exec (.reverseEntry tid false) s = .next
                  (let r := raiseAll s t.func t.asid missKind 4 [.engine tid] x.missing
                   setTeam r.2 tid (first { i with waits := r.1 } (teamOf r.2 tid)))) ∧
                (x.denied = none → x.missing = [] → ¬may → exec (.reverseEntry tid false) s = .next s) ∧
                (x.denied = none → x.missing = [] → may → ∃ v, Touched s v ∧ exec (.reverseEntry tid false) s = .next
                  (setTeam (setCore v t.core (lockBanks (coreOf v t.core) i.id ws)) tid (first
                    { i with
                      entry := true, descs := h ++ lnHeader s t e.prev, ranges := rs
                      snap := snapRanges (coreOf v t.core) rs, base := snapRanges (coreOf v t.core) rs } (teamOf v tid)))))) ∧
          -- REVERSE_ENTRY, at the end of an entry
          (cyclesLeft s t.core i.gid ≠ 0 → t.suspended = false → i.waits = [] → i.entry = true → ∀ e, entryOf t.lnCur (i.descs.take 8) = some e →
            let p := rerunOf e (i.descs.drop 8)
            (piecesOpen s t.func (entryX s tid p e).pieces = false → exec (.reverseEntry tid false) s = .next s) ∧
            (piecesOpen s t.func (entryX s tid p e).pieces = true → NoPolder s →
            let o := adjoint s tid (engineByte c i s.free) p e
            let bad := itemPoisoned s tid i (entryTiles t p e) || (lnRead s t e.off (64 * (e.npay + 1))).2
            let j : EngineItem := { i with entry := false, ranges := [], snap := [], base := [], descs := [], shown := [], walkDone := e.first }
            let t' := noteBatch (first j (entryMoves t e)) i.batch fun b => { b with flags := b.flags ||| o.flags, poison := b.poison || bad }
            ∃ w, exec (.reverseEntry tid false) s = .next w ∧ settled w ∧ let d := coreOf w t.core
              teamOf w tid = (if e.first then t' else { t' with lnCur := e.prev }) ∧
              (bad = false → wrote w (unshown o.bytes) ∧ ∀ a k, tgetD (accTile d tid a) k 0 = tgetD (accTile o.core tid a) k 0) ∧
              -- a gradient that an overwriting operation used is +0 after it; the reductions and the transpose hand theirs back
              ∀ g, gradAcc t (cAcc e.lo) = some g → bad = false →
                (e.op = .tzero → ∀ i j, i < cM e.lo → j < cN e.lo → accAt (accTile d tid g) i j = 0) ∧
                ∀ g', gradAcc t (cAcc2 e.lo) = some g' → g' ≠ g → ∀ (back : Nat → Nat → Nat),
                  (e.op = .ttrn ∧ back = fun i j => 128 * j + i) ∨ (e.op = .tredrow ∧ back = fun i _ => 128 * i) ∨
                    (e.op = .tredcol ∧ back = fun _ j => j) →
                  ∀ i j, i < cM e.lo → j < cN e.lo → accAt (accTile d tid g') i j = BitVec.ofNat 32
                    (chunkRes (accAt (accTile c tid g') i j).toNat [plainProduct (tgetD (accTile c tid g) (back i j) 0).toNat]).bits))))) ∧
    -- some bytes of a running command's tile are written before it retires (R253)
    (∀ i rest agenda ks op lo hi, s.agenda = .tileBytes tid ks :: agenda → (tget s.teams tid).isSome → frozenCore s t.core = false →
      t.engine = i :: rest → i.op = .tile op lo hi → i.started = true → i.denied = none → itemPoisoned s tid i (usedTiles op lo hi) = false →
      piecesOpen s t.func (tileX s t op lo hi i.log).pieces = true → NoPolder s →
      let v : State := { s with agenda := agenda }
      let bs := (tileRes (viewOf v tid i) op lo hi).bytes
      let new := (ks.filterMap fun k => bs[k]?).filter fun b => !i.shown.contains b.1
      (new = [] → step s = .next (tick v)) ∧
      (new ≠ [] → ∃ u, step s = .next (tick u) ∧ u = { v with teams := u.teams, cores := u.cores, free := u.free } ∧
        ((new.map Prod.fst).Nodup → ∀ b ∈ new, memGet (coreOf u t.core).sp b.1 = b.2) ∧
        (∀ k, k ∉ new.map Prod.fst → memGet (coreOf u t.core).sp k = memGet c.sp k) ∧
        teamOf u tid = { t with engine := { i with
          snap := i.snap.map fun b => (b.1, engineByte c i s.free b.1), base := [], shown := i.shown ++ new.map Prod.fst } :: rest })) ∧
    -- BATCH_COMPLETE
    ∀ b rest, t.batches = b :: rest → frozenCore s t.core = false →
      let ends (v : State) (b : Batch) : State := let u := performLate v t.func b.lining
        setTeam u tid { teamOf u tid with batches := rest, batchDone := b.num, reports := t.reports ++ (batchReport b).toList }
      (b.left ≠ 0 ∨ b.waits ≠ [] ∨ lateOpen s t.func b.lining = false → exec (.batchComplete tid) s = .next s) ∧
      (b.left = 0 → b.waits = [] → lateOpen s t.func b.lining = true → b.record = 0 → exec (.batchComplete tid) s = .next (ends s b)) ∧
      (b.left = 0 → b.waits = [] → lateOpen s t.func b.lining = true → b.record ≠ 0 →
        let a := t.spBase + 16 * b.record
        let x := spadX s t.core a 16 true
        let bits := b.num % 2 ^ 32 + b.flags.toNat * 2 ^ 32 + (if b.fault.isSome then 2 ^ 37 else 0) + (if b.poison then 2 ^ 40 else 0)
        (b.fault.isSome ∧ b.failed = true → exec (.batchComplete tid) s = .next (ends s b)) ∧
        (¬(b.fault.isSome ∧ b.failed = true) →
          (∀ va, x.denied = some va →
            exec (.batchComplete tid) s = .next (ends s { b with fault := b.fault.orElse fun _ => some (word va) })) ∧
          (x.denied = none → x.missing ≠ [] → exec (.batchComplete tid) s = .next
            (let r := raiseAll s t.func t.asid missKind 4 [.batch tid] x.missing
             setTeam r.2 tid { teamOf r.2 tid with batches := { b with waits := r.1 } :: rest })) ∧
          (x.denied = none → x.missing = [] →
            (rangeLocked c none a 16 = true ∨ piecesOpen s t.func x.pieces = false → exec (.batchComplete tid) s = .next s) ∧
            (rangeLocked c none a 16 = false → NoPolder s → exec (.batchComplete tid) s = .next (ends (setCore s t.core { c with
              sp := memWrite c.sp a (leBytes 8 bits ++ leBytes 8 s.gtime), spPoison := poisonAfter c.spPoison a 16 false }) b)))))

/-- R139, R234-R239, R251-R253, R365-R367, R373: what each transfer command moves where; commands start in the order of their issue times, run,
stop at a missing page, resume and complete on their channels, each byte written at the command's start or at its end; an overlay load copies
64 KiB and sets OVRES, or fails leaving it clear; a collective reduces the ranks' blocks or fails. The model's choices: when each byte is read and
written, and what PROG counts (log 10); that a copyt of 2^30 bytes or more fails with 0x01 (log 44); the ranks of this module by RTAB, the moment at
which their sources are read, the ticks that a call may wait, and a call out of reach only with no port up (log 18). -/
def Obligations.TransferEvents : Prop :=
  -- a move reads its source and writes its destination, and no other byte
  (∀ (s : State) (x : CopyCmd) (m : CMove), NoPolder s → MovePlaces s x m → let now := sourceBytes s x m
    (moveRead s x m).1 = now ∧
    (∀ b p, b.length = m.n → Lands s (moveWrite s x m b p) x m fun i y => y = b.getD i 0) ∧
    ∀ (part : CopyPart) (at_ : Nat) (first : List Byte),
      -- a destination byte of the scratchpad, or a line of memory, is written at the start or at the end; a source line is read at either
      let due (i : Nat) : Prop := part = .whole ∨
        (part = .start ↔ Config.freeBit (x.draw + (2 * (if m.dstSpad then m.dst + i else (m.dst + i) / 128) + 1)) = true)
      let src := (List.range m.n).map fun i => if first ≠ [] ∧ readEarly x (srcKey m i) = true then first.getD i 0 else now.getD i 0
      Lands s (runMove s x part at_ m first) x m (fun i y => y = if at_ ≤ m.pos + i ∧ due i then madeByte s x m src i else oldByte s x m i) ∧
      -- from a fault on, each byte is old or new
      ∀ q, q < m.pos + m.n → moveFault s x m = none → Lands s (blurMoves s x part q [m]) x m fun i y =>
        y = oldByte s x m i ∨ (q ≤ m.pos + i ∧ due i ∧ y = madeByte s x m now i)) ∧
  -- the moves of a command
  (∀ (s : State) (x : CopyCmd) (ms : List CMove) (fail : Option (Nat × Nat)), cmdPlan s x = .moves ms fail →
    let t := teamOf s x.team
    let ls := cutMoves ms
    let a := x.a.toNat
    let b := x.b.toNat
    let at_ (spad : Bool) (k : Nat) : CSrc := if spad then .spad k else .glob k
    let total (n : Nat) : Prop := (ls.map fun m => m.n).sum = n
    (x.op = .copy1 → fail = none ∧ total (kLEN x.ctl) ∧ ∀ k, k < kLEN x.ctl → MovesByte ls k (at_ (kSPS x.ctl) (a + k)) (kSPD x.ctl) (b + k)) ∧
    (x.op = .copy2 → fail = none ∧ total (kROWS x.ctl * kROWB x.ctl) ∧ ∀ r j, r < kROWS x.ctl → j < kROWB x.ctl →
      MovesByte ls (r * kROWB x.ctl + j) (at_ (kSPS x.ctl) (a + r * kSSTR x.ctl + j)) (kSPD x.ctl) (b + r * kDSTR x.ctl + j)) ∧
    (x.op = .fill → fail = none ∧ total (kLEN x.ctl) ∧ ∀ k, k < kLEN x.ctl →
      MovesByte ls k (.const [BitVec.ofNat 8 (a / 2 ^ (8 * (k % 8)))]) (kSPD x.ctl) (b + k)) ∧
    (x.op = .mcast → (readRecord s t b 64 x.sup = .denied → ls = [] ∧ fail = some (0, 6)) ∧ ∀ rec, readRecord s t b 64 x.sup = .ok rec →
      let n := wordAt rec 0
      let good : Prop := 1 ≤ n ∧ n < 8 ∧ ∀ d, d < 7 → if d < n then wordAt rec (d + 1) < 2 ^ 52 else wordAt rec (d + 1) = 0
      (¬good → ls = [] ∧ fail = some (0, 1)) ∧ (good → fail = none ∧ total (n * kLEN x.ctl) ∧ ∀ d k, d < n → k < kLEN x.ctl →
        MovesByte ls (d * kLEN x.ctl + k) (at_ (kSPS x.ctl) (a + k)) false (wordAt rec (d + 1) + k))) ∧
    (x.op = .copyt → (readRecord s t a 64 x.sup = .denied → ls = [] ∧ fail = some (0, 6)) ∧
      ∀ ra, readRecord s t a 64 x.sup = .ok ra →
        (readRecord s t b 64 x.sup = .denied → ls = [] ∧ fail = some (0, 6)) ∧ ∀ rb, readRecord s t b 64 x.sup = .ok rb →
        let A := shapeOf ra
        let B := shapeOf rb
        let bad : Prop := shapeBad ra = true ∨ shapeBad rb = true ∨ A.fmt ≠ B.fmt ∨ 2 ^ 30 ≤ copytBytes B
        let t6 : Prop := B.fmt = 4 ∨ B.fmt = 6
        let block : Prop := B.fmt = 5 ∨ B.fmt = 6
        (bad → ls = [] ∧ fail = some (0, 1)) ∧ (¬bad →
          let within (c : List Int) : Prop := c.length = 7 ∧ ∀ i, i < 7 →
            if i < B.ndim then 0 ≤ c.getD i 0 ∧ c.getD i 0 < B.ext.getD i 0 else c.getD i 0 = 0
          let head (c : List Int) : Prop := block ∧ (c.getD 0 0).toNat % 32 = 0
          let out (c : List Int) : Prop := (outDim A c).isSome
          let below (c : List Int) : Prop := head c ∧ (scaleAddr B (elemOffset B c) < 0 ∨ (¬out c ∧ scaleAddr A (elemOffset A c) < 0))
          (fail = none ↔ ∀ c, within c → ¬(out c ∧ A.permit = false) ∧ ¬below c) ∧
          (∀ q k, fail = some (q, k) → (k = 7 ∧ A.permit = false ∧ ∃ c, within c ∧ out c) ∨ (k = 6 ∧ ∃ c, within c ∧ below c)) ∧
          ∀ c, within c → ¬(out c ∧ A.permit = false) → ¬below c →
            let n := fmtBytes B.fmt
            let sub := (c.getD 0 0).toNat % 4
            let hem := (hemValue A.fmt A.hem).toNat
            (¬t6 → ¬out c → ∀ i, i < n → ∃ k, MovesByte ls k (at_ A.spad (elemAddr A c + i)) B.spad (elemAddr B c + i)) ∧
            (¬t6 → out c → ∀ i, i < n → ∃ k, MovesByte ls k (.const [BitVec.ofNat 8 (hem / 2 ^ (8 * i))]) B.spad (elemAddr B c + i)) ∧
            (t6 → ∃ m ∈ ls, m.dst = elemAddr B c ∧ m.dstSpad = B.spad ∧ m.n = 3 ∧ m.code = some (sub, sub) ∧
              if out c then ∃ bs, m.src = .const bs ∧ leVal bs / 2 ^ (6 * sub) % 2 ^ 6 = hem % 2 ^ 6 else m.src = at_ A.spad (elemAddr A c)) ∧
            (head c → ∃ k, MovesByte ls k (if out c then .const [0] else at_ A.spad (scaleAddr A (elemOffset A c)).toNat) B.spad
              (scaleAddr B (elemOffset B c)).toNat)))) ∧
  -- the engine's events
  ∀ (s : State) (core id : Nat) (x : CopyCmd), findCmd (coreOf s core) id = some x →
    let t := teamOf s x.team
    let c := coreOf s core
    let ch := tgetD t.channels x.channel {}
    let ready (y : CopyCmd) : Prop :=
      y.state = .buffered ∧ y.time.toNat ≤ s.gtime ∧ y.num = (tgetD (teamOf s y.team).channels y.channel {}).done + 1
    let before (y : CopyCmd) : Prop := y.time.toNat < x.time.toNat ∨ (y.time = x.time ∧ y.id < x.id)
    let replaced (y : CopyCmd) : List CopyCmd := c.copies.map fun z => if z.id = x.id then y else z
    let shows (u : State) (y : CopyCmd) (prog : Nat) (pend : Bool) : Prop := u.groups = s.groups ∧ (coreOf u core).copies = replaced y ∧
      (teamOf u x.team).channels = tset t.channels x.channel { ch with prog := prog, pend := pend }
    let bytes (u v : State) : Prop := NoPolder s → SameBytes u v
    let ended (e : Instr) (v : State) (cause : Option Nat) : Prop := exec e s = .next (transferEnded v core x cause)
    let lock (ms : List CMove) : State := let v := readOperands s x
      setCore v core (lockBanks { coreOf v core with locks := (coreOf v core).locks.filter fun l => decide (l.owner ≠ x.id) } x.id (cmdTargets t ms))
    -- a command goes on from command byte `q`: it runs, stops at a missing page, or fails at a denied one or at its records
    let goesOn (e : Instr) (y0 : CopyCmd) (q : Nat) : Prop := (∀ m, cmdPlan s x = .missing m → ∃ u w, exec e s = .next u ∧ w ≠ [] ∧
        shows u { y0 with state := .stopped q, waits := w, resumeAt := q } q true) ∧ ∀ ms fail, cmdPlan s x = .moves ms fail →
      let ls := cutMoves ms
      let z := lock ms
      let y : CopyCmd := { y0 with moves := [], snap := [] }
      let pages := planPages z y ls
      let stop := firstFault (planFault z y q ls) (fail.map fun f => (f.1, .cause f.2))
      let halted (n : Nat) : State := cmdHalts z core y .whole q n ls
      (x.op ≠ .mcast ∨ (pages.denied = none ∧ pages.missing = []) →
        (stop = none → let y' : CopyCmd := { y with state := .running, resumeAt := q, moves := ls, snap := snapMoves z y ls, draw := z.free }
          let v := runMoves (setProg (setCmd { z with free := z.free + keyRoom ls } core y') y' (q + earlyBytes y' q ls) false) y' .start q ls y'.snap
          ∃ u late, exec e s = .next u ∧ (t.core = core → (coreOf u core).locks = (coreOf z core).locks) ∧
            shows u { y' with late := late } (q + earlyBytes y' q ls) false ∧
            (x.op ≠ .mcast → late = y.late ∧ bytes u v) ∧ (x.op = .mcast → late = lateMoves v y' ls y'.snap ∧
              bytes u (touchLate (setCmd v core { y' with late := late }) y' ls))) ∧
        (∀ n cause, stop = some (n, .cause cause) → ended e (halted n) (some cause)) ∧
        (∀ n, stop = some (n, .denied) → ended e (halted n) (some 6)) ∧
        ∀ n m, stop = some (n, .missing m) → ∃ u w, exec e s = .next u ∧ w ≠ [] ∧
          shows u { y with state := .stopped n, waits := w, resumeAt := n } n true ∧ bytes u (halted n)) ∧
      (x.op = .mcast → pages.denied.isSome → ended e z (some 6)) ∧
      (x.op = .mcast → pages.denied = none → pages.missing ≠ [] → ∃ u w, exec e s = .next u ∧ w ≠ [] ∧
        shows u { y with state := .stopped 0, waits := w, resumeAt := 0 } 0 true ∧ bytes u z)
    -- COPY_START
    (¬ready x ∨ (∃ y ∈ c.copies, ready y ∧ before y) → exec (.copyStart core id) s = .next s) ∧
    (ready x → (∀ y ∈ c.copies, ready y → ¬before y) → cmdBlocked s core x = true → exec (.copyStart core id) s = .next s) ∧
    (ready x → (∀ y ∈ c.copies, ready y → ¬before y) → cmdBlocked s core x = false →
      (x.op = .coll → exec (.copyStart core id) s = .next (transferNow s core { x with state := .collective, started := s.gtime })) ∧
      (x.op = .ovl → exec (.copyStart core id) s = .next
        (let v := transferNow s core { x with state := .running, started := s.gtime }
         setCore { v with nextId := s.nextId + 1 } core { coreOf v core with
           ovres := c.ovres &&& ~~~(1#8 <<< x.b.toNat), supplied := c.supplied && decide (x.b.toNat ≠ 7)
           loads := c.loads ++ [{ id := s.nextId, slot := x.b.toNat, va := x.a.toNat, asid := t.asid, func := t.func, sup := x.sup
                                  cmd := some x.id, after := none }] })) ∧
      (x.op ≠ .coll → x.op ≠ .ovl → goesOn (.copyStart core id) { x with started := s.gtime } 0)) ∧
    -- COPY_RESUME
    (∀ q, x.state = .stopped q →
      (x.waits ≠ [] → exec (.copyResume core id) s = .next s) ∧
      (x.waits = [] → x.failed = true → exec (.copyResume core id) s = .next (transferEnded s core x (some 6))) ∧
      (x.waits = [] → x.failed = false → x.op = .coll → ∃ u, exec (.copyResume core id) s = .next u ∧
        shows u { x with state := .collective } 0 false) ∧
      (x.waits = [] → x.failed = false → x.op ≠ .coll → cmdBlocked s core x = true → exec (.copyResume core id) s = .next s) ∧
      (x.waits = [] → x.failed = false → x.op ≠ .coll → cmdBlocked s core x = false →
        goesOn (.copyResume core id) { x with state := .running } q)) ∧
    -- COPY_COMPLETE
    (x.state ≠ .running ∨ x.op = .ovl → exec (.copyComplete core id) s = .next s) ∧
    (x.state = .running → x.op = .mcast →
      (lateOpen s t.func x.late = false → exec (.copyComplete core id) s = .next s) ∧
      (lateOpen s t.func x.late = true → ∃ v, v.groups = s.groups ∧ exec (.copyComplete core id) s = .next (transferEnded v core x none) ∧
        (NoPolder s → (∀ w ∈ x.late, w.space = .dev) → (∀ m ∈ x.moves, ∀ p ∈ moveSpots s x m, p.frame.space = .dev) →
          StoredFrame s v ∧ Stored s v core (lateElems x.late)))) ∧
    (x.state = .running → x.op ≠ .ovl → x.op ≠ .mcast →
      let halted (n : Nat) : State := cmdHalts s core x .finish x.resumeAt n x.moves
      (movesBlocked s core x x.moves = true → exec (.copyComplete core id) s = .next s) ∧
      (movesBlocked s core x x.moves = false →
        (planFault s x x.resumeAt x.moves = none →
          ∃ u, u.groups = s.groups ∧ bytes u (runMoves s x .finish x.resumeAt x.moves x.snap) ∧
            exec (.copyComplete core id) s = .next (transferEnded u core x none)) ∧
        (∀ n, planFault s x x.resumeAt x.moves = some (n, .denied) → ended (.copyComplete core id) (halted n) (some 6)) ∧
        ∀ n m, planFault s x x.resumeAt x.moves = some (n, .missing m) → ∃ u w, exec (.copyComplete core id) s = .next u ∧ w ≠ [] ∧
          shows u { x with state := .stopped n, waits := w, resumeAt := n } n true ∧ bytes u (halted n))) ∧
    -- a fill: its pattern, each byte at its start or at its end, and no other byte
    (x.op = .fill → kSPD x.ctl = true → NoPolder s → t.core = core → x.b.toNat + kLEN x.ctl ≤ t.kd.spkb * 1024 → 0 < kLEN x.ctl →
      let at_ := t.spBase + x.b.toNat
      let pattern (a : Nat) : Byte := BitVec.ofNat 8 (x.a.toNat / 2 ^ (8 * ((a - at_) % 8)))
      let written (u : State) (draw : Nat) (part : Bool) : Prop := u.mem = s.mem ∧ ∀ a, memGet (coreOf u core).sp a =
        if at_ ≤ a ∧ a < at_ + kLEN x.ctl ∧ Config.freeBit (draw + (2 * (a - t.spBase) + 1)) = part then pattern a else memGet c.sp a
      (ready x → (∀ y ∈ c.copies, ready y → ¬before y) → cmdBlocked s core x = false →
        ∃ u, exec (.copyStart core id) s = .next u ∧ written u s.free true) ∧
      (x.state = .running → x.resumeAt = 0 → (∀ f ∈ x.snap, f = []) → (∀ ms, cmdPlan s x = .moves ms none → x.moves = cutMoves ms) →
        movesBlocked s core x x.moves = false → ∃ u, exec (.copyComplete core id) s = .next u ∧ written u x.draw false)) ∧
    -- OVERLAY_LOAD_COMPLETE
    (∀ slot l, slotLoad c slot = some l →
      let r := rangeX s core l.func l.asid l.va 65536 { rd := true, w := false } l.sup
      let rest := c.loads.filter fun y => decide (y.id ≠ l.id)
      let ends (cause : Option Nat) (v : State) : State := match l.cmd with
        | none => v
        | some k => match findCmd c k with
          | none => v
          | some y => transferEnded v core y cause
      let held : Prop := l.waits ≠ [] ∨ (∃ g o, l.after = some (g, o) ∧ ∃ f ∈ (groupOf s g).fences, 3 ≤ f.scope ∧ f.id < o) ∨
        piecesOpen s l.func r.pieces = false
      let denied : Prop := ∃ d, r.denied = some d ∧ ∀ m ∈ r.missing, d < m.va
      let outside (v : State) : Prop := memoriesWf s = true →
        ∀ a, a < 65536 * slot ∨ 65536 * slot + 65536 ≤ a → memGet (coreOf v core).imem a = memGet c.imem a
      (held → exec (.overlayLoadComplete core slot) s = .next s) ∧
      (¬held → l.failed = true ∨ denied → ∃ v, exec (.overlayLoadComplete core slot) s = .next (ends (some 6) v) ∧
        v.groups = s.groups ∧ (coreOf v core).ovres = c.ovres ∧ (coreOf v core).loads = rest ∧ v.measure = s.measure ∧ outside v) ∧
      (¬held → l.failed = false → ¬denied → r.missing ≠ [] →
        let ms := if l.cmd = none then r.missing else r.missing.take 1
        let q := raiseAll s l.func l.asid (fun _ => 2) 3 [.overlay core l.id] ms
        let u := setCore q.2 core { coreOf q.2 core with loads := c.loads.map fun y => if y.id = l.id then { y with waits := q.1 } else y }
        (l.cmd = none → exec (.overlayLoadComplete core slot) s = .next u) ∧
        ∀ k y m, l.cmd = some k → findCmd c k = some y → r.missing.head? = some m → ∃ v, exec (.overlayLoadComplete core slot) s = .next v ∧
          (coreOf v core).loads = (coreOf u core).loads ∧ (coreOf v core).ovres = c.ovres ∧ outside v ∧
          tgetD (teamOf v y.team).channels y.channel {} =
            { tgetD (teamOf s y.team).channels y.channel {} with prog := m.va - l.va, pend := true }) ∧
      (¬held → l.failed = false → r.denied = none → r.missing = [] → (c.loads.filter fun y => decide (y.slot = slot)) = [l] →
        ∃ v : State, exec (.overlayLoadComplete core slot) s = .next (ends none v) ∧ v.groups = s.groups ∧
          (coreOf v core).ovres = c.ovres ||| (1#8 <<< slot) ∧ (coreOf v core).loads = rest ∧ outside v ∧
          (∀ p ∈ r.pieces, p.frame.space = .dev → NoPolder s → ∀ k, k < p.n → (∀ q ∈ r.pieces, q.frame.leaf ≠ some (p.frame.pa + k)) →
            memGet (coreOf v core).imem (65536 * slot + (p.va - l.va) + k) = memGet s.mem (p.frame.pa + k)) ∧
          (slot ≠ 7 → v.measure = s.measure) ∧
          (slot = 7 → v.measure = (extendMeasure s 1 (memRead (coreOf v core).imem (65536 * 7) 65536)).measure))) ∧
    -- COLL_JOIN_TIMEOUT and COLL_CALL
    (x.state ≠ .collective →
      exec (.collJoinTimeout core id) s = .next s ∧ ∀ ranks, exec (.collCall core id ranks) s = .next s) ∧
    (x.state = .collective →
      let desc := readRecord s t x.a.toNat 64 x.sup
      let late : Prop := x.sources = none ∧ x.started + 100000000 ≤ s.gtime
      let timesOut (cause : Nat) : Prop := exec (.collJoinTimeout core id) s = .next (transferEnded s core x (some cause))
      (¬late → exec (.collJoinTimeout core id) s = .next s) ∧
      (late → (∀ b, desc ≠ .ok b) → timesOut 6) ∧
      (recordBlocked s t x.a.toNat 64 x.sup = true → ∀ ranks, exec (.collCall core id ranks) s = .next s) ∧
      (recordBlocked s t x.a.toNat 64 x.sup = false → ∀ ranks,
        (desc = .denied → exec (.collCall core id ranks) s = .next (transferEnded s core x (some 6))) ∧
        ∀ m, desc = .missing m → ∃ u w, exec (.collCall core id ranks) s = .next u ∧ w ≠ [] ∧
          shows u { x with state := .stopped 0, waits := w, resumeAt := 0 } 0 true) ∧
      ∀ b, desc = .ok b → let d := collOf b
        let malformed : Prop := collBad b = true ∨ x.a.toNat % 64 ≠ 0
        let table := readRecord s t d.rtab (8 * d.nrank) x.sup
        (malformed → (late → timesOut 1) ∧ (recordBlocked s t x.a.toNat 64 x.sup = false → ∀ ranks,
          exec (.collCall core id ranks) s = .next (transferEnded s core x (some 1)))) ∧
        (¬malformed → (late → (∀ rt, table ≠ .ok rt) → timesOut 6) ∧ ∀ rt, table = .ok rt →
          let entry (r : Nat) : Nat := leVal ((rt.drop (8 * r)).take 8)
          let reserved : Prop := ∃ r, r < d.nrank ∧ 2 ^ 14 ≤ entry r
          let here (r : Nat) : Prop := entry r % 2 ^ 12 = s.modid
          let far : Prop := ∃ r, r < d.nrank ∧ ¬here r
          let member (k : Nat) (y : CopyCmd) (r : Nat) : Prop := (∃ e ∈ s.cores, e.1 = k ∧ y ∈ e.2.copies) ∧ y.op = .coll ∧ y.state = .collective ∧
            ∃ f, readRecord s (teamOf s y.team) y.a.toNat 64 y.sup = .ok f ∧ collBad f = false ∧ y.a.toNat % 64 = 0 ∧
              (collOf f).group = d.group ∧ (collOf f).seq = d.seq ∧ (collOf f).rank = r
          -- a rank of this module is its command here, read from its own source; one of another module is what the event names
          (∀ ranks r, r < d.nrank → let part := (rankParts s d rt ranks).getD r none
            (here r → (∀ k y, ¬member k y r) → part = none) ∧
            (here r → ∀ k y f, (∀ k' y', member k' y' r ↔ k' = k ∧ y' = y) → readRecord s (teamOf s y.team) y.a.toNat 64 y.sup = .ok f →
              let ty := teamOf s y.team
              let sx := rangeX s ty.core ty.func ty.asid (collOf f).src (collSource (collOf f) r) { rd := true, w := false } y.sup
              let open_ : Prop := sx.denied = none ∧ sx.missing = [] ∧ piecesOpen s ty.func sx.pieces = true
              (¬open_ → part = none) ∧ (open_ → ∃ p, part = some p ∧ p.desc0 = BitVec.ofNat 64 (wordAt f 0) ∧ p.count = (collOf f).count ∧
                p.joined = y.started ∧ p.src = (readPieces s ty.core ty.func sx.pieces).1)) ∧
            (¬here r → (∀ k ∈ ranks, ¬(k.group = d.group ∧ k.seq = d.seq ∧ k.rank = r)) → part = none) ∧
            (¬here r → ∀ k, (ranks.filter fun k => decide (k.group = d.group ∧ k.seq = d.seq ∧ k.rank = r)) = [k] → ∃ p, part = some p ∧
              p.desc0 = k.desc0 ∧ p.count = k.count ∧ p.joined = k.joined ∧ p.src = k.src)) ∧
          (late → reserved → timesOut 1) ∧
          (late → ¬reserved → (∀ p ∈ rankParts s d rt [], p ≠ none) → exec (.collJoinTimeout core id) s = .next s) ∧
          (late → ¬reserved → none ∈ rankParts s d rt [] → timesOut 6) ∧
          (recordBlocked s t x.a.toNat 64 x.sup = false → recordBlocked s t d.rtab (8 * d.nrank) x.sup = false → ∀ ranks,
            let ps := rankParts s d rt ranks
            let all := ps.filterMap fun p => p
            let fails (cause : Nat) : Prop := exec (.collCall core id ranks) s = .next (transferEnded s core x (some cause))
            let stops : Prop := ∃ u w, exec (.collCall core id ranks) s = .next u ∧ w ≠ [] ∧
              shows u { x with state := .stopped 0, waits := w, resumeAt := 0 } 0 true
            -- the sources known, the destination's pages are checked and the result is written
            let runs (v : State) (srcs : List (List Byte × List Bool)) : Prop :=
              let y : CopyCmd := { x with sources := some srcs }
              let out := collResult d (srcs.map Prod.fst)
              let dx := rangeX v t.core t.func t.asid x.b.toNat out.length { rd := false, w := true } x.sup
              (dx.denied.isSome → exec (.collCall core id ranks) s = .next (transferEnded v core y (some 6))) ∧
              (dx.denied = none → dx.missing ≠ [] → ∃ u w, exec (.collCall core id ranks) s = .next u ∧ w ≠ [] ∧
                (coreOf u core).copies = (coreOf v core).copies.map fun z =>
                  if z.id = x.id then { y with state := .stopped 0, waits := w, resumeAt := 0 } else z) ∧
              (dx.denied = none → dx.missing = [] → piecesOpen v t.func dx.pieces = false → exec (.collCall core id ranks) s = .next v) ∧
              (dx.denied = none → dx.missing = [] → piecesOpen v t.func dx.pieces = true → x.acked = 0 → out.length ≤ 65536 → ¬far →
                exec (.collCall core id ranks) s = .next (transferEnded
                  (writeMixed out.length v y x.b.toNat out (collBadBytes d (srcs.map Prod.snd))) core y none))
            (reserved → fails 1) ∧
            (¬reserved → ∀ srcs, x.sources = some srcs → runs s srcs) ∧
            (¬reserved → x.sources = none → let sx := rangeX s t.core t.func t.asid d.src (collSource d d.rank) { rd := true, w := false } x.sup
              (sx.denied.isSome → fails 6) ∧
              (sx.denied = none → sx.missing ≠ [] → stops) ∧
              (sx.denied = none → sx.missing = [] → none ∈ ps → exec (.collCall core id ranks) s = .next s) ∧
              (sx.denied = none → sx.missing = [] → none ∉ ps →
                let differ : Prop := ∃ p ∈ all, ∃ q ∈ all, collAgree p.desc0 p.count ≠ collAgree q.desc0 q.count
                let apart : Prop := ∃ p ∈ all, ∃ q ∈ all, p.joined + 100000000 ≤ q.joined
                let noWay : Prop := far ∧ ∀ p, p < 12 → (portOf s p).up = false
                (differ ∨ apart ∨ noWay → ∃ u, exec (.collCall core id ranks) s = .next u ∧ ∀ e ∈ collMembers s d.group d.seq,
                  findCmd (coreOf u e.1) e.2.1.id = none ∧ (tgetD (teamOf u e.2.1.team).channels e.2.1.channel {}).fail.isSome) ∧
                (¬(differ ∨ apart ∨ noWay) → ∃ v, v.groups = s.groups ∧ runs v (all.map fun p => (p.src, p.bad)) ∧
                  ∀ e ∈ collMembers s d.group d.seq, findCmd (coreOf s e.1) e.2.1.id = some e.2.1 →
                    (findCmd (coreOf v e.1) e.2.1.id).map (fun y => y.sources) = some (some (all.map fun p => (p.src, p.bad))))))))) ∧
    ∀ (d : Coll) (srcs : List (List Byte)) (i : Nat), d.fmt = 7 → d.red = 0 → srcs ≠ [] →
      reduceElem d srcs i = (srcs.map fun b => leVal ((b.drop (4 * i)).take 4)).sum % 2 ^ 32

/-! ## Events of tasks and teams -/

/-- R28, R29, R31-R38, R43, R359, R360, R379: a dispatcher reads and judges a queue's head, polls its dependences, raises its priority, and
dispatches the eligible head of highest priority, whose teams go to a die able to admit them; the walker takes an operator task, whose steps
launch with the registers of their place in the nest, a discarded one also after the task has failed (log 42). The model's choices: the teams offered to a
die before that come first there, and the admission of a domain task in one step (log 25, DEDUCED); that EVC and EVD come again when a later team
admitted there has retired (log 42). -/
def Obligations.TaskEvents : Prop :=
  ∀ (s : State) (q : QueueRef) (t : Nat), let x := taskOf s t
    -- TASK_FETCH
    (∀ rest, queueTasks s q = t :: rest →
      (x.stage ≠ .queued ∨ x.waits ≠ [] → exec (.taskFetch q) s = .next s) ∧
      (x.stage = .queued → x.waits = [] →
        ((taskKind x ≠ 1 ∧ taskKind x ≠ 2) ∨ taskNdep x > 4 → Recordless x → x.error = none → x.src = q →
          ∃ u, exec (.taskFetch q) s = .next u ∧ taskOf u t = { x with error := some 1, stage := .ended, remainDone := true } ∧
            queueTasks u q = (rest.filter fun y => decide (y ≠ t)) ∧ ErrorTold s u x.func 1 ∧ u.groups = s.groups ∧ u.teams = s.teams) ∧
        let j := judgeTask s x
        (j.missing ≠ [] → ∃ u ws, exec (.taskFetch q) s = .next u ∧ taskOf u t = { x with waits := ws } ∧ ws.length = j.missing.length) ∧
        (j.missing = [] → j.codes = [] → ∃ u y, exec (.taskFetch q) s = .next u ∧ taskOf u t = y ∧ queueTasks u q = queueTasks s q ∧
          y = { x with
            stage := .waiting, kd := j.kd, levels := y.levels, seqlev := y.seqlev, arg := y.arg, total := y.total, left := y.total
            depsMet := decide (taskNdep x = 0), since := if taskNdep x = 0 then some s.gtime else none, failedPage := false } ∧
          (taskKind x = 1 → y.arg = x.words.getD 2 0 ∧ y.total = (taskExtents x).1 * (taskExtents x).2.1 * (taskExtents x).2.2)))) ∧
    (∀ n, queueTasks s (.host n) = [] → let h := queueOf s n
      let read := sysRead s 0 (ownerOf s n) h.qasid (h.base + 64 * (h.head % 2 ^ h.log2n)) 64
      ((h.reading = false ∧ (h.en = false ∨ h.head = h.tail)) ∨ h.waits ≠ [] → exec (.taskFetch (.host n)) s = .next s) ∧
      (h.reading = true ∨ (h.en = true ∧ h.head ≠ h.tail) → h.waits = [] →
        (read = .denied → ∃ u, exec (.taskFetch (.host n)) s = .next u ∧ (queueOf u n).head = (h.head + 1) % 2 ^ 32 ∧
          queueTasks u (.host n) = [] ∧ (queueOf u n).reading = false ∧
          (taskOf u s.nextId).error = some 6 ∧ (taskOf u s.nextId).stage = .ended ∧ ErrorTold s u (ownerOf s n) 6) ∧
        (∀ ms, read = .missing ms → ∃ u ws, exec (.taskFetch (.host n)) s = .next u ∧ ws.length = ms.length ∧
          queueOf u n = { h with reading := true, waits := ws }) ∧
        ∀ b, read = .got b → ∃ u, exec (.taskFetch (.host n)) s = .next u ∧ (queueOf u n).head = (h.head + 1) % 2 ^ 32 ∧
          (queueOf u n).reading = false ∧ (taskOf u s.nextId).words = descWords b ∧ (taskOf u s.nextId).func = ownerOf s n ∧
          (taskOf u s.nextId).asid = h.qasid ∧ (taskOf u s.nextId).src = .host n)) ∧
    (∀ d n, queueTasks s (.hw d n) = [] → exec (.taskFetch (.hw d n)) s = .next s) ∧
    -- DEPENDENCE_POLL
    (∀ rest, queueTasks s q = t :: rest →
      let dep (i : Nat) : SysRead := sysRead s (queueCore x.src) x.func x.asid (taskDep x i) 16
      let done (b : List Byte) : Prop := wordAt b 1 / 2 ^ 63 % 2 = 1
      let err (b : List Byte) : Nat := wordAt b 1 % 2 ^ 8
      (x.stage ≠ .waiting ∨ x.depsMet = true ∨ x.waits ≠ [] → exec (.dependencePoll q) s = .next s) ∧
      (x.stage = .waiting → x.depsMet = false → x.waits = [] → (∀ i, i < taskNdep x → ∃ b, dep i = .got b) →
        (x.failedPage = true → 0 < taskNdep x → Recordless x → x.error = none → ∃ u, exec (.dependencePoll q) s = .next u ∧
          taskOf u t = { x with error := some 6, stage := .ended, remainDone := true } ∧ ErrorTold s u x.func 6) ∧
        (x.failedPage = false → (∀ i b, i < taskNdep x → dep i = .got b → done b ∧ err b = 0) → ∃ u, exec (.dependencePoll q) s = .next u ∧
          taskOf u t = { x with depsMet := true, since := some s.gtime, failedPage := false } ∧ queueTasks u q = queueTasks s q) ∧
        (x.failedPage = false → (∀ i b, i < taskNdep x → dep i = .got b → done b → err b = 0) → (∃ i b, i < taskNdep x ∧ dep i = .got b ∧ ¬done b) →
          ∃ u, exec (.dependencePoll q) s = .next u ∧ taskOf u t = { x with lastCheck := s.gtime, failedPage := false }) ∧
        (x.failedPage = false → (∃ i b, i < taskNdep x ∧ dep i = .got b ∧ done b ∧ err b ≠ 0) → Recordless x → x.error = none → ∃ u,
          exec (.dependencePoll q) s = .next u ∧ taskOf u t = { x with error := some 7, stage := .ended, remainDone := true } ∧
          ErrorTold s u x.func 7))) ∧
    -- TASK_PRIORITY_RISE
    (∀ rest n, queueTasks s q = t :: rest → x.stage = .waiting → x.depsMet = true → x.since = some n →
      exec (.taskPriorityRise q) s = .next (if n + 1000000 ≤ s.gtime then
        setTask s t { x with prio := min 3 (x.prio + 1), since := some (n + 1000000) } else s)) ∧
    -- TASK_DISPATCH
    (∀ d, (∀ r k, r ∈ dispatcherQueues d → (queueTasks s r).head? = some k → (taskOf s k).error = none) →
      (selectHead s d = none → exec (.taskDispatch d) s = .next s) ∧
      (selectHead s d = some (q, t) →
        (q ∈ dispatcherQueues d ∧ (queueTasks s q).head? = some t ∧ canDispatch s t = true ∧
          ∀ r k, r ∈ dispatcherQueues d → (queueTasks s r).head? = some k → canDispatch s k = true →
            (taskOf s k).prio ≤ x.prio ∧ ((taskOf s k).prio = x.prio →
              let turn (r : QueueRef) : Nat := queueNum r + if servedLast s d < queueNum r then 0 else 256
              turn q ≤ turn r)) ∧
        let v := setServed s d (queueNum q)
        (x.stage = .waiting → attestRefused s x.func = false → Recordless x → taskKind x = 1 →
          exec (.taskDispatch d) s = .next (setTask v t { x with stage := .dispatched, remainDone := true })) ∧
        (x.stage = .waiting → attestRefused s x.func = false → Recordless x → taskKind x = 2 → x.total ≠ 0 → x.src = q →
          let e := (maskDies (taskDiemask x)).headD 0
          ∃ u, exec (.taskDispatch d) s = .next u ∧ taskOf u t = { x with stage := .dispatched, remainDone := true } ∧
            (dieOf u e).walker = (dieOf s e).walker ++ [t] ∧ t ∉ queueTasks u q) ∧
        (x.stage = .waiting → attestRefused s x.func = true → Recordless x → x.src = q → ∃ u, exec (.taskDispatch d) s = .next u ∧
          taskOf u t = { x with error := some 0xC, stage := .ended, remainDone := true } ∧ t ∉ queueTasks u q) ∧
        (x.stage = .dispatched → taskDlev x = 0 → x.src = q → ∃ u e, exec (.taskDispatch d) s = .next u ∧ e ∈ ableDies s x ∧
          let w := (taskExtents x).1
          let h := (taskExtents x).2.1
          tget u.teams s.nextId =
            some (offeredTeam x t x.offered e [x.offered % w, x.offered / w % h, x.offered / (w * h)] [] []) ∧
          taskOf u t = { x with
            live := x.live + 1, offered := x.offered + 1, allOffered := decide (x.offered + 1 = x.total)
            coreEvents := (taskOf u t).coreEvents, dieEvents := (taskOf u t).dieEvents
            coreReached := (taskOf u t).coreReached, dieReached := (taskOf u t).dieReached } ∧
          -- with the last team, the events of the cores whose teams have all retired already
          (x.offered + 1 = x.total → t ∉ queueTasks u q ∧ (x.redo = [] → (taskOf u t).coreEvents = x.coreEvents ++
            x.coresUsed.filter fun k => !x.coreEvents.contains k && !teamsLeft u t fun j => decide (j = k))) ∧
          (x.offered + 1 ≠ x.total → queueTasks u q = queueTasks s q ∧ (taskOf u t).coreEvents = x.coreEvents ∧
            (taskOf u t).dieEvents = x.dieEvents ∧ (taskOf u t).coreReached = x.coreReached ∧ (taskOf u t).dieReached = x.dieReached)) ∧
        ∀ w, x.stage = .dispatched → taskDlev x ≠ 0 → admitAll x.total v t = some w → exec (.taskDispatch d) s =
          .next (levelEvents (leaveQueue (setTask w t { taskOf w t with allOffered := true }) t) t))) ∧
    -- a die is able to admit a team where a core of it is, beside the teams that were offered to it before and come first
    (∀ d, (∀ e ∈ s.teams, e.2.place = .offered → e.2.core / 48 = d → partOfFunc s e.2.func = partOfFunc s x.func → e.2.prio < x.prio) →
      x.prio < 4 → (d ∈ ableDies s x ↔ d ∈ maskDies (taskDiemask x) ∧ placeCore s d x.func (x.kd.getD noKDesc) ≠ none)) ∧
    -- WALKER_EXPAND
    (let e := (maskDies (taskDiemask x)).headD 0
     exec (.walkerExpand t) s = .next (if t ∈ (dieOf s e).walker then
       setTask (setDie s e { dieOf s e with walker := (dieOf s e).walker.filter fun y => decide (y ≠ t) }) t { x with expanded := true }
       else s)) ∧
    -- TILE_STEP_LAUNCH
    (nextStep x = none → exec (.tileStepLaunch t) s = .next s) ∧
    (∀ k, nextStep x = some k → let e := (maskDies (taskDiemask x)).headD 0
      let may : Prop := x.stage = .dispatched ∧ x.expanded = true ∧ x.remainDone = true ∧ x.finishing = false ∧ (x.error = none ∨ x.redo ≠ []) ∧
        dieAble s e x = true
      (¬may → exec (.tileStepLaunch t) s = .next s) ∧
      (may → let n := chainLength x
        exec (.tileStepLaunch t) s = .next (levelEvents (setTask
          (setTeam { s with nextId := s.nextId + 1 } s.nextId
            { offeredTeam x t k e [k, 0, 0] (stepRegs x k) [k / n] with again := decide (x.redo ≠ []) }) t
          (if x.redo = [] then { x with
              live := x.live + 1, chainNext := tset x.chainNext (k / n) (k % n + 1), chainBusy := (k / n) :: x.chainBusy
              offered := x.offered + 1, allOffered := decide (x.offered + 1 = x.total) }
            else { x with live := x.live + 1, redo := x.redo.drop 1 })) t))) ∧
    -- a step's place in the nest, outermost level first, and its registers
    (∀ ls k, k < (ls.map fun l : LoopLevel => l.bound).prod → (stepIndices ls k).length = ls.length ∧
      (∀ p ∈ ls.zip (stepIndices ls k), p.2 < p.1.bound) ∧ (ls.zip (stepIndices ls k)).foldl (fun n p => n * p.1.bound + p.2) 0 = k) ∧
    (∀ k r v, (r, v) ∈ stepRegs x k ↔ ∃ p ∈ x.levels.zip (stepIndices x.levels k), p.1.mapped = true ∧ r = p.1.sreg ∧
      v = BitVec.ofInt 64 (p.1.start + p.2 * p.1.stride)) ∧
    -- EVC and EVD: for each core, and each die, whose teams have all retired while no further one is to be offered, until a team is
    -- admitted there again (log 42); a core or die that it has reached stays noted for the waits of R133
    let more := (x.error = none ∧ x.allOffered = false) ∨ x.redo ≠ []
    let left (p : Nat → Bool) : Bool := s.teams.any fun e => decide (e.2.task = t ∧ e.2.place ≠ .retired ∧ e.2.place ≠ .offered) && p e.2.core
    let cs := x.coresUsed.filter fun k => !x.coreEvents.contains k && !left fun j => decide (j = k)
    let ds := ((x.coresUsed.map fun k => k / 48).dedup).filter fun k => !x.dieEvents.contains k && !left fun j => decide (j / 48 = k)
    let evc := descWord x.words 0 / 2 ^ 51 % 2 ^ 2
    let evd := descWord x.words 0 / 2 ^ 49 % 2 ^ 2
    (more → levelEvents s t = s) ∧
    (¬more → levelEvents s t = { setTask s t { x with
        coreEvents := x.coreEvents ++ cs, dieEvents := x.dieEvents ++ ds
        coreReached := x.coreReached ++ cs.filter fun k => decide (k ∉ x.coreReached)
        dieReached := x.dieReached ++ ds.filter fun k => decide (k ∉ x.dieReached) } with
      tlps := s.tlps ++ List.replicate ((if evc = 3 then cs.length else 0) + if evd = 3 then ds.length else 0) (msixTlp x.func (taskMsiv x)) })

/-- R11, R12, R17, R32, R33, R38-R43, R144, R203, R317-R320, R323, R325, R338, R349, R361, R371, R378: a core admits the first offered team with its
scratchpad cleared and its groups at launch; a team becomes resident where contexts and registers are free, is parked after SWAPTH ticks of
waiting where the park area has room, becomes ready, is switched out for a team of higher priority or by its partition's PREEMPT bit, once no
trap is due, its drains are over and its core is not frozen (R325), and retires. A switch-out saves each context and frees its slot; a restartable
tile step may be discarded instead. The model's choices: PREEMPT and a switch-out take every resident group of a team in one step, and the team is
ready again at that moment (log 26 and log 9, DEDUCED). -/
def Obligations.TeamEvents : Prop :=
  ∀ (s : State) (tid : Nat), let t := teamOf s tid; let x := taskOf s t.task
    let saved (u : State) (gid : Nat) : Prop := (groupOf u gid).place = .saved ∧ (groupOf u gid).wait = (groupOf s gid).wait ∧
      (groupOf u gid).v = (groupOf s gid).v ∧ (groupOf u gid).s = (groupOf s gid).s ∧ (groupOf u gid).m = (groupOf s gid).m ∧
      (groupOf u gid).w = (groupOf s gid).w ∧ ∀ sid, (splitOf (groupOf u gid) sid).pc = (splitOf (groupOf s gid) sid).pc
    -- TEAM_ADMIT
    (∀ core, (t.place ≠ .offered ∨ (x.error ≠ none ∧ t.again = false) ∨ placeCore s (t.core / 48) t.func t.kd ≠ some core ∨
          (∃ e ∈ s.teams, e.2.place = .offered ∧ e.2.core / 48 = t.core / 48 ∧ partOfFunc s e.2.func = partOfFunc s t.func ∧ e.1 ≠ tid ∧
            (t.prio < e.2.prio ∨ (t.prio = e.2.prio ∧ e.1 < tid))) →
        exec (.teamAdmit tid core) s = .next s) ∧
      (t.place = .offered → x.error = none ∨ t.again = true → placeCore s (t.core / 48) t.func t.kd = some core →
        (∀ e ∈ s.teams, e.2.place = .offered → e.2.core / 48 = t.core / 48 → partOfFunc s e.2.func = partOfFunc s t.func → e.1 ≠ tid →
          e.2.prio < t.prio ∨ (e.2.prio = t.prio ∧ tid < e.1)) → memoriesWf s = true → ∃ u base, exec (.teamAdmit tid core) s = .next u ∧ padHole s core t.kd = some base ∧
          teamOf u tid = { t with
            core := core, spBase := base, place := .admitted, ovmask := (funcOf s t.func).ovdef.setWidth 8
            groups := (List.range t.kd.ngrp).map fun i => s.nextId + i } ∧
          (∀ a, memGet (coreOf u core).sp a = if base ≤ a ∧ a < base + 1024 * t.kd.spkb then 0 else memGet (coreOf s core).sp a) ∧
          (∀ k, k ∈ (coreOf u core).spPoison ↔ k ∈ (coreOf s core).spPoison ∧ ¬(base ≤ 32 * k ∧ 32 * k < base + 1024 * t.kd.spkb)) ∧
          taskOf u t.task = { x with
            coresUsed := if x.coresUsed.contains core then x.coresUsed else x.coresUsed ++ [core]
            coreEvents := x.coreEvents.filter fun k => decide (k ≠ core)
            dieEvents := x.dieEvents.filter fun k => decide (k ≠ core / 48) } ∧
          ∀ i, i < t.kd.ngrp → let g := groupOf u (s.nextId + i)
            g = launchGroup tid t i ∧ g.team = tid ∧ g.gix = i ∧ g.place = .admitted ∧ g.regcnt = 8 * t.kd.nreg ∧ g.v = [] ∧ g.m = [] ∧
              g.w = [] ∧ g.fstat = 0 ∧
              (t.kd.lw = false → splitOf g 0 = { pc := t.kd.entry, mask := 0xFFFFFFFF } ∧ g.splits.length = 1) ∧
              (t.kd.lw = true → splitOf g 0 = { pc := t.kd.entry, mask := 0x0000FFFF } ∧
                splitOf g 2 = { pc := t.kd.entry, mask := 0xFFFF0000 } ∧ g.splits.length = 2) ∧
              (t.stepRegs = [] → ∀ h, h < (if t.kd.lw then 2 else 1) → sget g h 1 = t.arg ∧ sget g h 2 = BitVec.ofNat 64 (t.coords.getD 0 0) ∧
                sget g h 3 = BitVec.ofNat 64 (t.coords.getD 1 0) ∧ sget g h 4 = BitVec.ofNat 64 (t.coords.getD 2 0) ∧
                sget g h 5 = BitVec.ofNat 64 (if t.kd.lw then 2 * i + h else i) ∧ ∀ r, 6 ≤ r → r < 64 → sget g h r = 0))) ∧
    -- TEAM_RESIDENT
    (∀ cls, (teamTurn s tid = false ∨ residentSet s t = none → exec (.teamResident tid cls) s = .next s) ∧
      ∀ gs, teamTurn s tid = true → residentSet s t = some gs →
        (gs.length ≠ cls.length ∨ (∃ cl ∈ cls, claimWaits s cl = true) → exec (.teamResident tid cls) s = .next s) ∧
        (∀ v, (∀ cl ∈ cls, claimWaits s cl = false) → placeGroups t.core s.nextId { s with nextId := s.nextId + 1 } gs cls = some v →
          exec (.teamResident tid cls) s = .next (setTeam v tid { teamOf v tid with place := .resident })) ∧
        ∀ gid cl, gs = [gid] → cls = [cl] → let g := groupOf s gid
          (cl / 8 ≠ t.core ∨ freeSlot s cl = none ∨ poolFree s cl < g.regcnt ∨ (clusterOf s cl).retired = true ∨ claimWaits s cl = true →
            exec (.teamResident tid cls) s = .next s) ∧
          ∀ k, cl / 8 = t.core → freeSlot s cl = some k → g.regcnt ≤ poolFree s cl → (clusterOf s cl).retired = false →
            claimWaits s cl = false → exec (.teamResident tid cls) s = .next
              (setTeam (setGroup { s with nextId := s.nextId + 1 } gid { g with
                place := .resident cl k, reserve := false, since := s.nextId, waitSince := s.gtime }) tid { t with place := .resident })) ∧
    (∀ cl k, freeSlot s cl = some k → k < 16 ∧ ∀ e ∈ s.groups, e.2.place ≠ .resident cl k) ∧
    -- TEAM_PARK
    (let th := (coreOf s t.core).swapth
     (waitStart s t = none ∨ th = 0 → exec (.teamPark tid) s = .next s) ∧
     ∀ n, waitStart s t = some n → th ≠ 0 →
      let drain : Prop := ∀ gid ∈ t.groups, (groupOf s gid).place ≠ .ended → switchable s gid = true
      let parked (u : State) : Prop := teamOf u tid = { t with place := .parked } ∧ u.mem = s.mem ∧
        (∀ gid ∈ t.groups, (groupOf s gid).place ≠ .ended → saved u gid) ∧ ∀ gid, t.groups = [gid] → (groupOf s gid).team = tid → (groupOf u gid).reserve = false
      (s.gtime < n + th ∨ ¬drain → exec (.teamPark tid) s = .next s) ∧
      (n + th ≤ s.gtime → drain → parkUsed s t.core + teamImage s t ≤ 524288 → ∃ u, exec (.teamPark tid) s = .next u ∧ parked u ∧
        ∀ k, k ∉ t.groups → groupOf u k = groupOf s k) ∧
      -- without room, images may be moved to the save reserve first
      (n + th ≤ s.gtime → drain → 524288 < parkUsed s t.core + teamImage s t → ∃ u, exec (.teamPark tid) s = .next u ∧
        (u = { s with free := s.free + 1 } ∨ (parked u ∧ parkUsed u t.core ≤ 524288 ∧
          ∀ k, k ∉ t.groups → groupOf u k = groupOf s k ∨ groupOf u k = { groupOf s k with reserve := true })))) ∧
    -- TEAM_READY
    (exec (.teamReady tid) s = .next (if t.place = .parked ∧ (∃ gid ∈ t.groups, (groupOf s gid).place ≠ .ended ∧
        ((groupOf s gid).wait = none ∨ ∃ w, (groupOf s gid).wait = some w ∧ waitMet s gid w = true)) then
      setTeam { s with nextId := s.nextId + 1 } tid { t with place := .ready, readyAt := s.nextId } else s)) ∧
    -- PREEMPT
    (t.place ≠ .resident ∨ needsContexts s t.core t.prio = false → exec (.preempt tid) s = .next s) ∧
    (t.place = .resident → needsContexts s t.core t.prio = true →
      let due (gid : Nat) : Prop := (groupOf s gid).pendTraps ≠ [] ∧ (groupOf s gid).super = false ∧ (groupOf s gid).wait = none ∧ Resident s gid
      let drain : Prop := ∀ gid ∈ t.groups, Resident s gid → switchable s gid = true
      let discarded (u : State) : Prop := tget u.teams tid = none ∧ (∀ gid ∈ t.groups, tget u.groups gid = none) ∧
        (taskOf u t.task).redo = x.redo ++ [t.index]
      let out (u : State) : Prop := teamOf u tid = { t with place := .ready, readyAt := s.nextId } ∧
        (∀ gid ∈ t.groups, Resident s gid → saved u gid) ∧ ∀ k, k ∉ t.groups → groupOf u k = groupOf s k
      (frozenCore s t.core = true → exec (.preempt tid) s = .next s) ∧
      (frozenCore s t.core = false → (∀ gid ∈ t.groups, ¬due gid) → ¬drain → exec (.preempt tid) s = .next s) ∧
      (∀ gid tr pc sid r, frozenCore s t.core = false → t.groups = [gid] → due gid → (groupOf s gid).pendTraps = (tr, pc, sid) :: r →
        exec (.preempt tid) s = .next (takeTrap (setGroup s gid { groupOf s gid with pendTraps := r }) gid sid tr pc [])) ∧
      (frozenCore s t.core = false → (∀ gid ∈ t.groups, ¬due gid) → drain →
        (restartable t = false ∨ engineBusy t = true → ∃ u, exec (.preempt tid) s = .next u ∧ out u) ∧
        (restartable t = true → engineBusy t = false → ∃ u, exec (.preempt tid) s = .next u ∧ (out u ∨ discarded u)))) ∧
    -- PARTITION_PREEMPT
    (∀ p, p < 8 →
      (s.preempting.getLsbD p = false → exec (.partitionPreempt p) s = .next s) ∧
      (s.preempting.getLsbD p = true → ∃ u, exec (.partitionPreempt p) s = .next u ∧
        ((∀ e ∈ s.teams, e.2.step = false) → (s.teams.map Prod.fst).Nodup →
          (∃ e ∈ s.teams, e.2.place = .resident ∧ partOfCore s e.2.core = p ∧ frozenCore s e.2.core = true) → u.preempting = s.preempting) ∧
        ((∀ e ∈ s.teams, e.2.step = false) → (s.teams.map Prod.fst).Nodup →
          (∀ e ∈ s.teams, e.2.place = .resident → partOfCore s e.2.core = p → frozenCore s e.2.core = false ∧
            ∀ gid ∈ e.2.groups, trapDue (groupOf s gid) = false ∧ (Resident s gid → switchable s gid = true)) →
          u.preempting = s.preempting &&& ~~~(1#8 <<< p) ∧
          ∀ k y, tget s.teams k = some y →
            (y.place = .resident → partOfCore s y.core = p → (teamOf u k).place = .ready ∧ ∀ gid ∈ y.groups, ¬Resident u gid) ∧
            (y.place ≠ .resident ∨ partOfCore s y.core ≠ p → teamOf u k = y)))) ∧
    -- TEAM_RETIRE
    ((canRetire s tid = false → (coreOf s t.core).closing = false → exec (.teamRetire tid) s = .next s) ∧
     (canRetire s tid = true → (coreOf s t.core).closing = false → ∃ u, exec (.teamRetire tid) s = .next u ∧
      tget u.teams tid = none ∧ (∀ gid ∈ t.groups, tget u.groups gid = none) ∧
      (Recordless x → (taskOf u t.task).left = x.left - 1 ∧ ((coreOf s t.core).pmap = [] → ∀ k, coreOf u k = coreOf s k) ∧
        (x.error = none → 1 < x.left → (taskOf u t.task).stage = x.stage) ∧
        (x.error = none → x.left = 1 → x.stage = .dispatched → (taskOf u t.task).stage = .ended) ∧
        -- a failed task ends with its last live team; those offered and not admitted are withdrawn
        let offered := (s.teams.filter fun e => decide (e.2.task = t.task ∧ e.2.place = .offered) && !e.2.again).length
        ((s.teams.map Prod.fst).Nodup → x.error ≠ none → x.redo = [] → x.live = 1 + offered → (taskOf u t.task).stage = .ended) ∧
        ((s.teams.map Prod.fst).Nodup → x.error ≠ none → 1 + offered < x.live → (taskOf u t.task).stage = x.stage))) ∧
     -- a closing core's last cluster is retired with its last team
     (canRetire s tid = true → (coreOf s t.core).closing = true → coreTeams s t.core = [(tid, t)] → ∃ u, exec (.teamRetire tid) s = .next u ∧
      (coreOf u t.core).closing = false ∧ ∀ i, i < 8 → (clusterOf u (8 * t.core + i)).retired = true))

/-! ## Events of the host -/

/-- R200, R213, R214, R238, R315, R354, R357, R358, R377: a response lets its requester go on, or fails its access; an INVCMD write begins the
one invalidation of its function, which ends with the translations gone and every old access performed. Writes that no rule takes are dropped
with FEVENT.BADREG. The model's readings (log 22, DEDUCED): which accesses an invalidation waits for, that it takes the windows whose base lies in
the page, and that the ATS invalidations of a function end together. -/
def Obligations.TranslationEvents : Prop :=
  ∀ (s : State) (f : Nat) (tag : BitVec 16), let x := funcOf s f; let n := tag.toNat
    let without (u : State) : State := setFunc u f { x with reqs := x.reqs.filter fun q => decide (q.tag ≠ n) }
    let less (ws : List PageWait) : List PageWait := ws.filter fun w => decide (w.tag ≠ n)
    -- PEND of a command's channel clears once its responses have all succeeded (R238)
    let cleared (u : State) (y : CopyCmd) (ws : List PageWait) (failed : Bool) : State :=
      let ch := tgetD (teamOf u y.team).channels y.channel {}
      if ws = [] ∧ failed = false then setTeam u y.team { teamOf u y.team with
        channels := tset (teamOf u y.team).channels y.channel { ch with pend := false } } else u
    -- the effect on the one requester of a request for a device page or a host page
    let Answers (host ok : Bool) (r : PageReq) (i : Instr) : Prop :=
      (∀ gid, r.who = [.group gid] → let g := groupOf s gid
        (g.pageFault = none → exec i s = .next (without s)) ∧
        ∀ p, g.pageFault = some p → exec i s = .next (without (setGroup s gid { g with pageFault := some { p with
          waits := less p.waits
          failed := p.failed ++ if ok then [] else (p.accesses.filter fun a => decide (a.1 = missPage host r.va)).map Prod.snd } }))) ∧
      (∀ core cmd y, r.who = [.copy core cmd] → findCmd (coreOf s core) cmd = some y →
        exec i s = .next (without (cleared (transferNow s core { y with waits := less y.waits, failed := y.failed || !ok }) y
          (less y.waits) (y.failed || !ok)))) ∧
      (∀ core l, r.who = [.overlay core l] → let v := setCore s core { coreOf s core with
          loads := (coreOf s core).loads.map fun y => if y.id = l then { y with waits := less y.waits, failed := y.failed || !ok } else y }
        let first := (coreOf s core).loads.find? fun y => decide (y.id = l)
        (∀ y, first = some y → y.cmd = none → exec i s = .next (without v)) ∧
        ∀ y k z, first = some y → y.cmd = some k → findCmd (coreOf s core) k = some z →
          exec i s = .next (without (cleared v z (less y.waits) (y.failed || !ok)))) ∧
      (∀ tid y rest, r.who = [.engine tid] → (teamOf s tid).engine = y :: rest →
        exec i s = .next (without (setTeam s tid { teamOf s tid with engine := { y with
          waits := less y.waits
          denied := if ok ∨ y.denied.isSome then y.denied else some (accessWord r.va (Config.accessLsz r.va).val 7 false true) } :: rest }))) ∧
      (∀ tid b rest, r.who = [.batch tid] → (teamOf s tid).batches = b :: rest →
        exec i s = .next (without (setTeam s tid { teamOf s tid with batches := { b with
          waits := less b.waits, failed := b.failed || !ok
          fault := if ok ∨ b.fault.isSome then b.fault else some (accessWord r.va (Config.accessLsz r.va).val 7 false true) } :: rest }))) ∧
      (∀ q, r.who = [.queue (.host q)] → queueTasks s (.host q) = [] → (∃ w ∈ (queueOf s q).waits, w.tag = n) → ok = true →
        exec i s = .next (without (setQueue s q { queueOf s q with waits := less (queueOf s q).waits }))) ∧
      ∀ q t rest, r.who = [.queue q] → queueTasks s q = t :: rest → exec i s = .next (without (setTask s t { taskOf s t with
        waits := less (taskOf s t).waits, failedPage := (taskOf s t).failedPage || !ok }))
    -- PAGE_RESPONSE_OK, PAGE_RESPONSE_FAIL, PRI_RESPONSE
    (s.devReady = false ∨ 16 < f → exec (.pageResponseOk f tag) s = .next s ∧ exec (.pageResponseFail f tag) s = .next s) ∧
    (s.devReady = true → f ≤ 16 →
      (findReq s f n false = none → exec (.pageResponseOk f tag) s = .next (setEvent s f 10) ∧
        exec (.pageResponseFail f tag) s = .next (setEvent s f 10)) ∧
      ∀ r, findReq s f n false = some r → Answers false true r (.pageResponseOk f tag) ∧ Answers false false r (.pageResponseFail f tag)) ∧
    (∀ ok, (findReq s f n true = none → exec (.priResponse f tag ok) s = .next s) ∧
      ∀ r, findReq s f n true = some r → Answers true ok r (.priResponse f tag ok)) ∧
    (∀ host, findReq s f n host = x.reqs.find? fun r => decide (r.tag = n ∧ r.host = host)) ∧
    -- INV_PAGE, INV_ASID, INV_FUNCTION
    (let Begins (i : Instr) (k a : Nat) : Prop :=
      (s.devReady = false ∨ 16 < f → exec i s = .next s) ∧
      (s.devReady = true → f ≤ 16 → (x.inval ≠ none → exec i s = .next (setEvent s f 10)) ∧
        (x.inval = none → exec i s = .next (setFunc s f { x with inval := some { kind := k, asid := a, page := x.invaddr } })))
     ∀ asid, Begins (.invPage f asid) 0 asid.toNat ∧ Begins (.invAsid f asid) 1 asid.toNat ∧ Begins (.invFunction f) 2 0) ∧
    -- ATS_INVALIDATE_REQUEST
    (∀ asid va, exec (.atsInvalidateRequest f asid va) s = .next (setFunc
      { s with ats := s.ats.filter fun e => decide (¬(e.func = f ∧ e.asid = asid.toNat ∧ e.page = va / 4096)) } f
      { x with atsInval := x.atsInval ++ [{ kind := 3, asid := asid.toNat, page := 4096 * (va / 4096) }] })) ∧
    -- INVALIDATION_END
    (x.inval = none → x.atsInval = [] → exec (.invalidationEnd f) s = .next s) ∧
    (∀ i, (x.inval = some i ∧ x.atsInval = [] ∨ x.inval = none ∧ x.atsInval = [i]) →
      ((∃ e ∈ s.groups, invalBlocks s f i e.1 e.2 = true) → exec (.invalidationEnd f) s = .next s) ∧
      ((∀ e ∈ s.groups, invalBlocks s f i e.1 e.2 = false) → (∀ e ∈ s.groups, ∀ o ∈ e.2.ops, o.replay = false) →
        ∃ u, exec (.invalidationEnd f) s = .next u ∧ u.mem = s.mem ∧ u.teams = s.teams ∧
          (funcOf u f).inval = none ∧ (funcOf u f).atsInval = [] ∧ (x.inval ≠ none → (funcOf u f).event.getLsbD 9 = true) ∧
          let gone (asid va : Nat) (fr : Frame) : Prop :=
            (i.kind = 0 ∧ asid = i.asid ∧ va / fr.span = i.page / fr.span) ∨ (i.kind = 1 ∧ asid = i.asid) ∨ i.kind = 2 ∨
            (i.kind = 3 ∧ asid = i.asid ∧ fr.space = .host ∧ va / 4096 = i.page / 4096)
          i.kind ≤ 3 →
          (∀ k, (∀ e ∈ (coreOf u k).tlb, e ∈ (coreOf s k).tlb ∧ ¬(e.func = f ∧ gone e.asid e.page e.frame)) ∧
            ∀ e ∈ (coreOf s k).tlb, ¬(e.func = f ∧ gone e.asid e.page e.frame) → e ∈ (coreOf u k).tlb) ∧
          (∀ d, ∀ e ∈ (dieOf u d).tlb, e ∈ (dieOf s d).tlb ∧ ¬(e.func = f ∧ gone e.asid e.page e.frame)) ∧
          ∀ gid g, tget s.groups gid = some g → let t := teamOf s g.team
            ∃ ws, tget u.groups gid = some { g with w := ws } ∧
              ∀ k w, tget g.w k = some w →
                tget ws k = some (if t.func = f ∧ gone t.asid w.base w.frame then { w with limit := 0 } else w)))

/-- R8, R258, R259, R333, R334, R354, R355, R358-R362, R369, R373, R374: what each host write of the register block does, and what a read gives. A
write of 4 bytes keeps the other half; one that a rule drops, one with a nonzero reserved bit (log 19), and one of a register the function does
not have, sets FEVENT.BADREG and nothing else; before DEVREADY nothing is written. A notify of a queue's tail is taken within its ring, and
without relaxed ordering after the host's earlier posted writes. The model's readings (log 23, DEDUCED): a queue register that the function does
not own is dropped with BADREG, LOG2N is checked only where the low half is written, a write of PARTCTL's high half is not measured, and M2 extends
by the merged value; and that a notified entry counts as a queued task (log 19). -/
def Obligations.RegisterWrites : Prop :=
  ∀ (s : State) (f : Nat) (part : WPart) (v : DWord), let x := funcOf s f; let bad := setEvent s f 10
    let W (i : Instr) (r : State) : Prop := exec i s = .next (if s.devReady = true ∧ f ≤ 16 then r else s)
    let P (i : Instr) (r : State) : Prop := exec i s = .next (if s.devReady = true ∧ f ≤ 16 then (if f = 0 then r else bad) else s)
    let M (old : Nat) : Nat := mergeWrite old part v
    (∀ old, (part = .whole → M old = v.toNat) ∧ (part = .low → M old % 2 ^ 32 = v.toNat % 2 ^ 32 ∧ M old / 2 ^ 32 = old / 2 ^ 32 % 2 ^ 32) ∧
      (part = .high → M old % 2 ^ 32 = old % 2 ^ 32 ∧ M old / 2 ^ 32 = v.toNat % 2 ^ 32)) ∧
    -- the host's posted writes of a function arrive in their order
    (NoPolder s → let ps := s.hostPosted.filter fun p => decide (p.1 = f)
      postedArrive s f = { s with
        hostMem := ps.foldl (fun m p => memWrite m p.2.1 p.2.2) s.hostMem
        hostPoison := ps.foldl (fun m p => poisonAfter m p.2.1 p.2.2.length false) s.hostPoison
        hostPosted := s.hostPosted.filter fun p => decide (p.1 ≠ f) }) ∧
    -- a read of the block: the register, or one half of it; any other size or offset is an Unsupported Request
    (∀ off size, (off < 0x10000 → off % 8 = 0 → hostRead s f off 8 = some (regRead s f off)) ∧
      (off < 0x10000 → off % 8 = 0 → hostRead s f off 4 = some (regRead s f off % 2 ^ 32) ∧
        hostRead s f (off + 4) 4 = some (regRead s f off / 2 ^ 32 % 2 ^ 32)) ∧
      (0x10000 ≤ off ∨ off % size ≠ 0 ∨ (size ≠ 4 ∧ size ≠ 8) → hostRead s f off size = none)) ∧
    (∀ q, let h := queueOf s q; let mine := q < 256 ∧ ownerOf s q = f
      -- QTAIL_NOTIFY
      (∀ relaxed, let T : Nat := v.toNat % 2 ^ 32
        let new := ((T : Int) - h.head) % 2 ^ 32
        h.head < 2 ^ 32 → h.tail < 2 ^ 32 → W (.qtailNotify f q part relaxed v)
          (if ¬mine ∨ part = .high ∨ (part = .whole ∧ v.toNat / 2 ^ 32 ≠ 0) then bad
          else if h.en = false ∨ (2 : Int) ^ h.log2n < new ∨ new < ((h.tail : Int) - h.head) % 2 ^ 32 then
            setEvent (setQueue s q { h with badtail := true }) f 3
          else if relaxed = true then
            setEvent (setQueue s q { h with tail := T, notifyro := true, rlxcnt := min (h.rlxcnt + 1) (2 ^ 16 - 1) }) f 2
          else setQueue (postedArrive s f) q { h with tail := T })) ∧
      -- QUEUE_CONFIG_WRITE
      (let n := M (qctlWord h)
       W (.queueConfigWrite f q true part v) (if ¬mine ∨ n / 2 ^ 52 % 2 ^ 12 ≠ 0 ∨ n / 2 ^ 8 % 2 ^ 24 ≠ 0 ∨ n / 2 ^ 5 % 2 ^ 2 ≠ 0 ∨
          (part ≠ .high ∧ (n % 2 ^ 5 < 4 ∨ 16 < n % 2 ^ 5)) ∨ (h.en = true ∧ n ≠ qctlWord { h with en := false }) then bad
        else setQueue s q { h with qasid := n / 2 ^ 32 % 2 ^ 20, en := decide (n / 2 ^ 7 % 2 = 1), log2n := n % 2 ^ 5 })) ∧
      W (.queueConfigWrite f q false part v) (if ¬mine ∨ h.en = true ∨ M h.base / 2 ^ 52 % 2 ^ 12 ≠ 0 ∨ M h.base % 2 ^ 6 ≠ 0 then bad
        else setQueue s q { h with base := M h.base })) ∧
    -- QOWN_WRITE
    (∀ off, 0x200 ≤ off → off < 0x300 → off % 8 = 0 → let base := off - 0x200
      let owner (j : Nat) : Nat := M (qownWord s (base / 8)) / 2 ^ (8 * j) % 2 ^ 8
      let wrong := ∃ j, j < 8 ∧ ((17 ≤ owner j ∧ owner j ≤ 0xFE) ∨ ((queueOf s (base + j)).en = true ∧ owner j ≠ ownerOf s (base + j)))
      (wrong ∨ f ≠ 0 → W (.qownWrite f off part v) bad) ∧
      (¬wrong → f = 0 → s.devReady = true → ∃ u, exec (.qownWrite f off part v) s = .next u ∧ u = { s with qown := u.qown } ∧
        ∀ k, ownerOf u k = if base ≤ k ∧ k < base + 8 then owner (k - base) else ownerOf s k)) ∧
    -- FQCTL_WRITE
    (let n := M (fqctlWord x)
     (12 ≤ n % 2 ^ 4 → W (.fqctlWrite f part v) bad) ∧
     (n % 2 ^ 4 < 12 → (∀ r ∈ x.reqs, r.queued = false) → W (.fqctlWrite f part v)
      (setFunc s f { x with fqHead := n / 2 ^ 48 % 2 ^ 16, fqVec := n / 2 ^ 4 % 2 ^ 11, fqLog2n := n % 2 ^ 4 }))) ∧
    -- PCAP_WRITE, PFLOOR_WRITE, DIDT_DN_WRITE
    (let told (t : State) : State := if min s.pcap 1600 < effcapWatts s ∨ effcapWatts t ≤ min t.pcap 1600 then t else setEvent t 0 1
     let floors (t : State) : Nat := ((List.range 8).map fun p => tgetD t.pfloor p 0).sum
     (∀ t : State, effcapWatts t = max (max (min t.pcap 1600) t.idle) (floors t)) ∧
     P (.pcapWrite f part v) (told { s with pcap := M s.pcap % 2 ^ 11 }) ∧
     (∀ i, let t := { s with pfloor := tset s.pfloor i (M (tgetD s.pfloor i 0) % 2 ^ 11) }
      P (.pfloorWrite f i part v) (if 7 < i ∨ 1600 < floors t then bad else told t)) ∧
     P (.didtDnWrite f part v) (if M s.didtDn % 2 ^ 8 = 0 then bad else { s with didtDn := M s.didtDn % 2 ^ 8 })) ∧
    -- LINKCFG_WRITE
    (let n := M (linkcfgWord s)
     let reserved : Prop := n / 2 ^ 24 % 2 ^ 28 ≠ 0
     (f ≠ 0 ∨ reserved → W (.linkcfgWrite f part v) bad) ∧
     (f = 0 → ¬reserved → s.devReady = true → ∃ u, exec (.linkcfgWrite f part v) s = .next u ∧
      u = { s with modid := n / 2 ^ 52 % 2 ^ 12, minw := u.minw, ports := u.ports } ∧
      ∀ p, p < 12 → let w := n / 2 ^ (2 * p) % 2 ^ 2
        tgetD u.minw p 0 = w ∧ portOf u p =
          { portOf s p with txWidth := max (portOf s p).txWidth (2 ^ w), rxWidth := max (portOf s p).rxWidth (2 ^ w) })) ∧
    -- PARTMAP_WRITE, FPART_WRITE, PARTCTL_WRITE
    (let Measured (u : State) (n : Nat) : Prop :=
       measureOf u 2 = digestVal (sha256 (digestBytes (measureOf s 2) ++ sha256 (leBytes 8 n))) ∧
         ∀ k, k ≠ 2 → measureOf u k = measureOf s k
     (let n := M (partmapWord s)
      let to_ (h : Nat) : Nat := n / 2 ^ (4 * h) % 2 ^ 4
      let wrong := n / 2 ^ 32 % 2 ^ 32 ≠ 0 ∨ ∃ h, h < 8 ∧ ((8 ≤ to_ h ∧ to_ h ≤ 0xE) ∨ (to_ h ≠ tgetD s.partmap h 0 ∧
        ∃ e ∈ s.teams, e.2.core / 24 = h ∧ e.2.place ≠ .offered ∧ e.2.place ≠ .retired))
      (wrong ∨ f ≠ 0 → W (.partmapWrite f part v) bad) ∧
      (¬wrong → f = 0 → s.devReady = true → ∃ u, exec (.partmapWrite f part v) s = .next u ∧
        u = { s with partmap := u.partmap, measure := u.measure } ∧ (∀ h, h < 8 → tgetD u.partmap h 0 = to_ h) ∧ Measured u n)) ∧
     (let n := M (fpartWord s)
      let to_ (k : Nat) : Nat := n / 2 ^ (3 * k) % 2 ^ 3
      let wrong := n / 2 ^ 51 % 2 ^ 13 ≠ 0 ∨ ∃ k, k < 17 ∧ to_ k ≠ tgetD s.fpart k 0 ∧ ((∃ e ∈ s.tasks, e.2.func = k ∧ e.2.stage ≠ .ended) ∨
        ∃ e ∈ s.queues, ownerOf s e.1 = k ∧ e.2.tail ≠ e.2.head)
      (wrong ∨ f ≠ 0 → W (.fpartWrite f part v) bad) ∧
      (¬wrong → f = 0 → s.devReady = true → ∃ u, exec (.fpartWrite f part v) s = .next u ∧
        u = { s with fpart := u.fpart, measure := u.measure } ∧ (∀ k, k < 17 → tgetD u.fpart k 0 = to_ k) ∧ Measured u n)) ∧
     (let n := M (partctlWord s)
      let reserved : Prop := n / 2 ^ 24 % 2 ^ 40 ≠ 0
      (f ≠ 0 ∨ reserved → W (.partctlWrite f part v) bad) ∧ (¬reserved → part = .high → P (.partctlWrite f part v) s) ∧
      (f = 0 → ¬reserved → part ≠ .high → s.devReady = true → ∃ u, exec (.partctlWrite f part v) s = .next u ∧ Measured u n ∧
        u = { s with
          secure := BitVec.ofNat 8 (n / 2 ^ 16), hold := BitVec.ofNat 8 (n / 2 ^ 8)
          preempting := s.preempting ||| BitVec.ofNat 8 v.toNat, measure := u.measure }))) ∧
    -- SVLOAD_GO, SVLOAD_LOAD_END
    (let a := v.toNat / 2 ^ 16 % 2 ^ 32 * 2 ^ 16
     let reserved : Prop := v.toNat / 2 ^ 48 ≠ 0 ∨ v.toNat / 2 % 2 ^ 15 ≠ 0
     (part ≠ .whole ∨ reserved → P (.svloadGo f part v) bad) ∧
     (part = .whole → ¬reserved → v.toNat % 2 = 0 → P (.svloadGo f part v) { s with svAddr := a }) ∧
     (part = .whole → ¬reserved → v.toNat % 2 = 1 → s.svload ≠ none → P (.svloadGo f part v) bad) ∧
     (part = .whole → ¬reserved → v.toNat % 2 = 1 → s.svload = none → f = 0 → s.devReady = true → ∃ u, exec (.svloadGo f part v) s = .next u ∧
      u = { s with svAddr := a, svload := some { addr := a, cores := List.range 192 }, cores := u.cores, measure := u.measure } ∧
      measureOf u 1 = digestVal (sha256 (digestBytes (measureOf s 1) ++ sha256 (devRead s a 65536))) ∧
      ∀ k, k < 192 → coreOf u k = { coreOf s k with ovres := (coreOf s k).ovres &&& 0x7F })) ∧
    (∀ core, (s.svload = none → exec (.svloadLoadEnd core) s = .next s) ∧
      ∀ l, s.svload = some l → let c := coreOf s core
        (core ∉ l.cores → exec (.svloadLoadEnd core) s = .next s) ∧
        (core ∈ l.cores → exec (.svloadLoadEnd core) s = .next (
          let left := l.cores.filter fun k => decide (k ≠ core)
          setCore { s with svload := if left = [] then none else some { l with cores := left } } core { c with
            imem := memWrite c.imem 0x70000 (devRead s l.addr 65536), ovres := c.ovres ||| 0x80, supplied := false
            imemPoison := (c.imemPoison.filter fun k => decide (k < 0x70000 / 32)) ++ imagePoison s l.addr }))) ∧
    -- MBOX_REPORT, MBOX_ALARM_LOG, MBOX_BAD_COMMAND, MAILBOX_COMMAND_END
    (let begun (cmd : Nat) : State := if x.mboxCmd ≠ none then bad else setFunc s f { x with mboxCmd := some cmd }
     W (.mboxReport f) (begun 1) ∧ W (.mboxAlarmLog f) (begun 2) ∧
     (∀ cmd : BitVec 8, cmd ≠ 1 → cmd ≠ 2 → W (.mboxBadCommand f cmd) (begun cmd.toNat)) ∧
     let done (u : State) (status : Nat) : State := setFunc u f { x with mboxCmd := none, mboxStatus := status }
     (x.mboxCmd = none → exec (.mailboxCommandEnd f) s = .next s) ∧
     (x.mboxCmd = some 1 → s.attKey = false ∨ s.keyLost = true → exec (.mailboxCommandEnd f) s = .next (done s 1)) ∧
     (x.mboxCmd = some 1 → s.attKey = true → s.keyLost = false → NoPolder s → exec (.mailboxCommandEnd f) s = .next (done
        { hostSend s f (x.mboxAddr + 0x1000) .write (reportBytes s f) false with free := s.free + 25 } 0)) ∧
     (x.mboxCmd = some 1 → s.attKey = true → s.keyLost = false → ∃ u, exec (.mailboxCommandEnd f) s = .next u ∧ (funcOf u f).mboxCmd = none ∧
        (funcOf u f).mboxStatus = 0) ∧
     (reportBytes s f).length = 8200 ∧ (reportBytes s f).take 32 = memRead s.hostMem x.mboxAddr 32 ∧
     (∀ i, i < 8 → ((reportBytes s f).drop (32 + 32 * i)).take 32 = digestBytes (measureOf s i)) ∧
     (x.mboxCmd = some 2 → NoPolder s → exec (.mailboxCommandEnd f) s = .next (done
        (hostSend s f (x.mboxAddr + 0x1000) .write (alarmBytes s) false) 0)) ∧
     (x.mboxCmd = some 2 → ∃ u, exec (.mailboxCommandEnd f) s = .next u ∧ (funcOf u f).mboxCmd = none ∧ (funcOf u f).mboxStatus = 0) ∧
     ∀ k, x.mboxCmd = some k → k ≠ 1 → k ≠ 2 → exec (.mailboxCommandEnd f) s = .next (done s 2)) ∧
    -- REGISTER_WRITE
    ∀ off, let R := Instr.registerWrite f off part v
      (off % 8 ≠ 0 ∨ 0x10000 ≤ off → exec R s = .next s) ∧
      (off = 0x000 ∨ off = 0x018 → W R s) ∧
      (off = 0x008 → W R (setFunc s f { x with event := x.event &&& ~~~BitVec.ofNat 11 (M 0) })) ∧
      (off = 0x010 → W R (setFunc s f { x with evvec := M x.evvec % 2 ^ 11 })) ∧
      (off = 0x020 → W R (let n := M (x.rootAddr + x.rootLog2n)
        if n / 2 ^ 48 % 2 ^ 16 ≠ 0 ∨ n / 2 ^ 5 % 2 ^ 7 ≠ 0 ∨ 20 < n % 2 ^ 5 then bad
        else setFunc s f { x with rootAddr := n / 2 ^ 12 % 2 ^ 36 * 2 ^ 12, rootLog2n := n % 2 ^ 5 })) ∧
      (off = 0x028 → W R (setFunc s f { x with invaddr := M x.invaddr / 2 ^ 16 % 2 ^ 36 * 2 ^ 16 })) ∧
      (off = 0x030 → part = .whole → let k := v.toNat / 2 ^ 20 % 2 ^ 2
        let asid := BitVec.ofNat 20 v.toNat
        (k = 0 → exec R s = exec (.invPage f asid) s) ∧ (k = 1 → exec R s = exec (.invAsid f asid) s) ∧
        (k = 2 → v.toNat % 2 ^ 20 = 0 → exec R s = exec (.invFunction f) s) ∧ (k = 3 → W R bad)) ∧
      (off = 0x038 → W R (setFunc s f { x with fqbase := M (x.fqbase * 4096) / 2 ^ 12 % 2 ^ 52 })) ∧
      (off = 0x040 → exec R s = exec (.fqctlWrite f part v) s) ∧
      (off = 0x048 → part = .whole → let tag := BitVec.ofNat 16 (v.toNat / 2 ^ 32)
        (v.toNat / 2 ^ 48 ≠ 0 ∨ v.toNat / 2 % 2 ^ 31 ≠ 0 → W R bad) ∧
        (v.toNat / 2 ^ 48 = 0 → v.toNat / 2 % 2 ^ 31 = 0 →
          exec R s = if v.toNat % 2 = 1 then exec (.pageResponseOk f tag) s else exec (.pageResponseFail f tag) s)) ∧
      (off = 0x050 → W R (setFunc s f { x with mboxAddr := M x.mboxAddr / 2 ^ 12 % 2 ^ 52 * 2 ^ 12 })) ∧
      (off = 0x058 → part = .whole → let k := v.toNat % 2 ^ 8
        (k = 1 → exec R s = exec (.mboxReport f) s) ∧ (k = 2 → exec R s = exec (.mboxAlarmLog f) s) ∧
        (k ≠ 1 → k ≠ 2 → exec R s = exec (.mboxBadCommand f (BitVec.ofNat 8 v.toNat)) s)) ∧
      (off = 0x030 ∨ off = 0x048 ∨ off = 0x058 → part ≠ .whole → W R bad) ∧
      (off = 0x060 → W R (if M x.ovdef.toNat / 2 ^ 7 % 2 ^ 57 ≠ 0 then bad
        else setFunc s f { x with ovdef := BitVec.ofNat 7 (M x.ovdef.toNat) })) ∧
      (off = 0x068 ∨ off = 0x070 ∨ off = 0x078 → W R bad) ∧
      (∀ w, w < 16 → off = 0x080 + 8 * w → let n := M (tgetD x.pwin w 0).toNat
        let y : DWord := BitVec.ofNat 64 (n / 2 ^ 63 % 2 * 2 ^ 63 + n / 2 ^ 27 % 2 ^ 24 * 2 ^ 27 + n % 2 ^ 8)
        W R (if n / 2 ^ 51 % 2 ^ 12 ≠ 0 ∨ n / 2 ^ 8 % 2 ^ 19 ≠ 0 then bad else setFunc s f { x with pwin := tset x.pwin w y })) ∧
      (s.devReady = true → f ≤ 16 →
        (off = 0x100 → exec R s = exec (.pcapWrite f part v) s) ∧
        (∀ i, i < 8 → off = 0x108 + 8 * i → exec R s = exec (.pfloorWrite f i part v) s) ∧
        (off = 0x148 → exec R s = exec (.didtDnWrite f part v) s) ∧ (off = 0x150 → exec R s = exec (.linkcfgWrite f part v) s) ∧
        (off = 0x158 → exec R s = exec (.partmapWrite f part v) s) ∧ (off = 0x160 → exec R s = exec (.fpartWrite f part v) s) ∧
        (off = 0x168 → exec R s = exec (.partctlWrite f part v) s) ∧ (off = 0x170 → exec R s = exec (.svloadGo f part v) s) ∧
        (off = 0x178 → P R s) ∧ (0x200 ≤ off → off < 0x300 → off % 8 = 0 → exec R s = exec (.qownWrite f off part v) s) ∧
        ∀ q, q < 256 → (off = 0x1000 + 32 * q → exec R s = exec (.queueConfigWrite f q false part v) s) ∧
          (off = 0x1008 + 32 * q → exec R s = exec (.queueConfigWrite f q true part v) s) ∧
          (off = 0x1010 + 32 * q → exec R s = exec (.qtailNotify f q part false v) s) ∧
          (off = 0x1018 + 32 * q → exec R s = .next (if ownerOf s q = f then setQueue s q { queueOf s q with
              badtail := (queueOf s q).badtail && decide (M 0 / 2 ^ 49 % 2 = 0)
              notifyro := (queueOf s q).notifyro && decide (M 0 / 2 ^ 48 % 2 = 0) } else bad)) ∧
          (off % 8 = 0 → 0x3000 ≤ off ∧ off < 0x10000 ∨ 0x300 ≤ off ∧ off < 0x1000 → exec R s = .next bad))

/-! ## Events of links, power and the module -/

/-- R340, R354, R363, R364, R367, R371: a port sends numbered flits while its replay buffer has room, takes flits in their order and answers
each, replays after a NAK, goes down and is retired, comes up, and changes width; a collective call fails with the last port to its ranks; an
access of another module is served where a window of the PF names the sender, and is answered either way. The model's choices: a reserved TYPE is
answered with a NAK, flits wait in order for room in a full buffer, an access through the aperture is refused, and a call is out of reach only with
no port up (log 18); what a link measures comes with the event (log 46). -/
def Obligations.LinkEvents : Prop :=
  ∀ (s : State) (p : Nat), let x := portOf s p
    let reply (u : State) (nak : Bool) : State := { u with
      flitsOut := u.flitsOut ++ [(p, flitOf 4 (Config.freeNat u.free) (portOf u p).rxSeq nak (freePayload u.free))], free := u.free + 1 }
    -- FLIT_RECEIVE
    (∀ f : List Byte,
      let head := leVal (f.take 8)
      let type := head % 2 ^ 4
      let seq := head / 2 ^ 4 % 2 ^ 12
      let ack := head / 2 ^ 16 % 2 ^ 12
      let whole := leVal (f.drop 248) = (flitCrc (f.take 248)).toNat ∧ head / 2 ^ 29 % 2 ^ 35 = 0 ∧ type ≤ 4
      let buf := x.buffer.filter fun e => decide (2048 ≤ (ack + 4096 - e.1) % 4096)
      let moved := buf.length < x.buffer.length
      let y : Port := { x with
        buffer := buf, replayReq := x.replayReq || decide (head / 2 ^ 28 % 2 = 1)
        replays := if moved then 0 else x.replays, ackSince := if moved then s.gtime else x.ackSince }
      (x.up = false ∨ f.length ≠ 256 → exec (.flitReceive p f) s = .next s) ∧
      let base := pumpPort x.waiting.length (setPort s p y) p
      (x.up = true → f.length = 256 →
        (¬whole → exec (.flitReceive p f) s = .next (reply s true)) ∧
        (whole → exec (.flitReceive p f) s = .next (
          if type = 0 ∨ type = 4 then base
          else if seq = (x.rxSeq + 1) % 4096 then reply (setPort base p { portOf base p with rxSeq := seq }) false
          else reply base (decide (2048 ≤ (x.rxSeq + 4096 - seq) % 4096))))) ∧
      (x.waiting = [] → base = setPort s p y)) ∧
    -- a numbered flit is sent while fewer than 512 are unacknowledged, and else waits, in order
    (∀ type, let sent (t : Nat) (u : State) : State :=
        let z := portOf u p
        let f := flitOf t z.txSeq z.rxSeq false (freePayload u.free)
        { setPort u p { z with
            txSeq := (z.txSeq + 1) % 4096, buffer := z.buffer ++ [(z.txSeq, f)]
            ackSince := if z.buffer = [] then u.gtime else z.ackSince } with
          flitsOut := u.flitsOut ++ [(p, f)], free := u.free + 1 }
      (x.buffer.length < 512 → x.waiting = [] → sendFlit s p type = sent type s) ∧
      (512 ≤ x.buffer.length ∨ x.waiting ≠ [] → sendFlit s p type = setPort s p { x with waiting := x.waiting ++ [type] }) ∧
      (∀ n, x.waiting = [] ∨ 512 ≤ x.buffer.length → pumpPort n s p = s) ∧
      ∀ n rest, x.waiting = type :: rest → x.buffer.length < 512 →
        pumpPort (n + 1) s p = pumpPort n (sent type (setPort s p { x with waiting := rest })) p) ∧
    (∀ type seq ack nak payload, payload.length = 240 → type < 16 → let f := flitOf type seq ack nak payload
      f.length = 256 ∧ leVal (f.take 8) = type + seq % 4096 * 2 ^ 4 + ack % 4096 * 2 ^ 16 + (if nak then 2 ^ 28 else 0) ∧
        (f.drop 8).take 240 = payload ∧ leVal (f.drop 248) = (flitCrc (f.take 248)).toNat) ∧
    -- FLIT_REPLAY
    (exec (.flitReplay p) s = .next (if x.up = true ∧ x.replayReq = true then
      { setPort s p { x with replayReq := false, replays := x.replays + 1 } with
        flitsOut := s.flitsOut ++ x.buffer.map fun e => (p, e.2) } else s)) ∧
    -- PORT_DOWN
    (∀ cause : PortDownCause,
      let holds := match cause with
        | .replays => 8 ≤ x.replays
        | .lossOfLock => True
        | .ackTimeout => x.buffer ≠ [] ∧ x.ackSince + 1000000 ≤ s.gtime
      let times := (x.downs.filter fun t => decide (s.gtime < t + 3600000000000)) ++ [s.gtime]
      let fallen (gone : Bool) : State :=
        collReform (setEvent (setPort s p { x with up := false, downs := times, retired := gone, replays := 0, replayReq := false }) 0 7)
      (x.up = false ∨ ¬holds → exec (.portDown p cause) s = .next s) ∧
      (x.up = true → holds → times.length < 4 → exec (.portDown p cause) s = .next (fallen false)) ∧
      (x.up = true → holds → 4 ≤ times.length → let v := setEvent { fallen true with retlnk := s.retlnk + 1 } 0 4
        exec (.portDown p cause) s = .next (if 2 < s.retlnk + 1 ∧ s.replace = false then setEvent { v with replace := true } 0 5 else v))) ∧
    -- collective calls go on while a port is up; without one a call with ranks on other modules, part of it done, fails
    ((∃ k, k < 12 ∧ (portOf s k).up = true) → collReform s = s) ∧
    (∀ core c y b rt, (∀ k, k < 12 → (portOf s k).up = false) → s.cores = [(core, c)] → c.copies = [y] → y.state = .collective → y.sources.isSome →
      readRecord s (teamOf s y.team) y.a.toNat 64 y.sup = .ok b →
      readRecord s (teamOf s y.team) (collOf b).rtab (8 * (collOf b).nrank) y.sup = .ok rt →
      collReform s = if ∃ r, r < (collOf b).nrank ∧ leVal ((rt.drop (8 * r)).take 8) % 2 ^ 12 ≠ s.modid then transferEnded s core y (some 6) else s) ∧
    -- PORT_UP
    (exec (.portUp p) s = .next (if x.up = true ∨ x.retired = true ∨ 12 ≤ p ∨ s.devReady = false then s else setEvent (setPort s p { x with
      up := true, txWidth := 8, rxWidth := 8, replayReq := decide (x.buffer ≠ []), ackSince := s.gtime }) 0 7)) ∧
    -- LINK_NARROW, LINK_WIDEN
    (∀ queue busy : Nat,
      let least := 2 ^ tgetD s.minw p 0
      let N (w : Nat) : Prop := busy < 25 ∧ x.up = true ∧ least ≤ w / 2 ∧ 1 < w
      let W (w : Nat) : Prop := (4 < queue ∨ 75 < busy) ∧ x.up = true ∧ w ≤ 4
      exec (.linkNarrow p ⟨true, queue, busy⟩) s = .next (if N x.txWidth then setPort s p { x with txWidth := x.txWidth / 2 } else s) ∧
      exec (.linkNarrow p ⟨false, queue, busy⟩) s = .next (if N x.rxWidth then setPort s p { x with rxWidth := x.rxWidth / 2 } else s) ∧
      exec (.linkWiden p ⟨true, queue, busy⟩) s = .next (if W x.txWidth then setPort s p { x with txWidth := 2 * x.txWidth } else s) ∧
      exec (.linkWiden p ⟨false, queue, busy⟩) s = .next (if W x.rxWidth then setPort s p { x with rxWidth := 2 * x.rxWidth } else s)) ∧
    -- PEER_INBOUND_ACCESS
    ∀ a : PeerAccess,
      let served := (∃ w, w < 16 ∧ let n := (tgetD (funcOf s 0).pwin w 0).toNat
        n / 2 ^ 63 = 1 ∧ n / 2 ^ 39 % 2 ^ 12 = a.sender.toNat) ∧ a.addr / 2 ^ 44 % 2 ^ 4 ≠ 0xF
      let old := BitVec.ofNat 32 (leVal (memRead s.mem a.addr 4))
      let data := BitVec.ofNat 32 (leVal a.data)
      let word (w : Word) : Mem := memWrite s.mem a.addr (leBytes 4 w.toNat)
      (s.modid = 0 ∨ (∀ k, k < 12 → (portOf s k).up = false) → exec (.peerInboundAccess a) s = .next s) ∧
      (s.modid ≠ 0 → (∃ k, k < 12 ∧ (portOf s k).up = true) → NoPolder s → ∃ u k, exec (.peerInboundAccess a) s = .next u ∧
        k < 12 ∧ (portOf s k).up = true ∧
        ((portOf s k).buffer.length < 512 → (portOf s k).waiting = [] → ∃ f, u.flitsOut = s.flitsOut ++ [(k, f)] ∧ leVal (f.take 8) % 2 ^ 4 = 2) ∧
        (¬served → u.mem = s.mem) ∧
        (served → u.mem = match a.kind with
          | .load => s.mem
          | .store => memWrite s.mem a.addr (a.data.take a.size)
          | .atomic op c => word (atomicValue op old data c)) ∧
        -- a poisoned store poisons the granules it reaches, and so does a poisoned atomic (R369)
        (served → a.poison = true → let n := match a.kind with
            | .load => 0
            | .store => (a.data.take a.size).length
            | .atomic _ _ => 4
          ∀ k, a.addr < 32 * (k + 1) → 32 * k < a.addr + n → k ∈ u.memPoison))

/-- R324-R327, R330-R332, R334-R339, R372, R373, R375, R376: the Weir's cycle, the predicate and the forced check, the cap controller's period,
charging and throttling of undeclared engine work, hints, alarms, a reset of the module with its bring-up, which ends for good where the
firmware fails its checks, and a reset of a virtual function. The model's choices: firmware of an equal security version passes (log 43); what a
reset keeps and the steps of bring-up (log 24); the budget's dropped fraction (log 17); the engine cycles that a window leaves (log 37). -/
def Obligations.PowerAndResetEvents : Prop :=
  (∀ (s : State) (core : Nat), let c := coreOf s core; let w := c.weir
    let put (y : Weir) : State := setCore s core { c with weir := y }
    let between (k : Nat) : Prop := ∃ h ∈ (groupOf s k).hints, h.active = false ∧ h.declared ≤ s.gtime ∧ s.gtime < h.onset
    let ran (k : Nat) : List Nat := (w.busy.filter fun e => decide (e.1 = k)).map Prod.snd
    -- WEIR_CYCLE
    (∃ u e y, exec (.weirCycle core) s = .next u ∧ u = { setCore s core { c with weir := y } with free := u.free } ∧
      let copies := if ∃ x ∈ c.copies, x.state = .running ∨ x.state = .collective then 16 else 0
      let wc := w.cur + e + copies
      let window := (wc :: w.hist).take 64
      let froze := (((w.frozen :: w.marks).take 64).filter fun b => b).length
      let limit := min (16 * c.ilim.hard) w.budget
      (w.frozen = true → e = 0) ∧
      ((∀ x ∈ s.teams, x.2.core = core → ∀ i rest, x.2.engine = i :: rest → i.started = false) → e = 0 ∧ y.busy = w.busy) ∧
      (∀ tid tm i rest, w.frozen = false → s.teams = [(tid, tm)] → tm.core = core → tm.engine = i :: rest → i.started = true →
        ∃ n, n ≤ cyclesLeft s core i.gid ∧ ∃ wt ∈ [160, 512, 600], e = n * wt ∧
          (i.op = .reverse → wt = 160) ∧ (∀ op lo hi, i.op = .tile op lo hi → op ≠ .tmma → wt = 160) ∧
          (∀ lo hi, i.op = .tile .tmma lo hi → wt = if fmtNarrow (geoOf (streamOf tm (cQA lo)).qw0).fmt then 600 else 512) ∧
          y.busy = w.busy ++ ((chargedGroup s i.gid).toList.flatMap fun k => List.replicate n (k, wt))) ∧
      y.cur = 0 ∧ y.hist = window ∧ y.marks = (w.frozen :: w.marks).take 64 ∧ y.ilim = c.ilim ∧
      y.frozen = decide (limit < window.sum) ∧ limit ∈ y.held ∧
      y.level = (if c.ilim.frz2 ≤ froze then 2 else if window.sum < 16 * c.ilim.soft ∧ froze = 0 then 0 else 1) ∧
      y.highRun = (if y.level = 0 then 0 else w.highRun + 1) ∧ y.lowRun = (if y.level = 0 then w.lowRun + 1 else 0) ∧
      y.frzcnt = (if w.frozen then min (w.frzcnt + 1) (2 ^ 64 - 1) else w.frzcnt) ∧
      (s.input ≤ 1000 * effcapWatts s → y.total = max wc (w.total - s.didtDn) ∧ y.ballastEnergy = w.ballastEnergy ∧ y.rampUsed = w.rampUsed) ∧
      wc ≤ y.total ∧ y.pred = w.pred ∧ y.forced = w.forced ∧ y.checkAt = w.checkAt ∧ y.budget = w.budget ∧ y.throttled = w.throttled) ∧
    -- PRED_RISE, PRED_FALL, FORCED_CHECK
    exec (.predRise core) s = .next (put (if 256 ≤ w.highRun ∧ w.pred = false then
      { w with pred := true, checkAt := some (s.gtime + 10000) } else w)) ∧
    exec (.predFall core) s = .next (put (if 256 ≤ w.lowRun ∧ w.pred = true then
      { w with pred := false, forced := false, checkAt := none } else w)) ∧
    (w.checkAt = none → exec (.forcedCheck core) s = .next (put w)) ∧
    (∀ t, w.checkAt = some t → exec (.forcedCheck core) s = .next (put (if t ≤ s.gtime then
      { w with checkAt := none, forced := w.forced || decide (w.level ≠ 0) } else w))) ∧
    -- the engine cycles that a window has left for a group's commands, charged to it, or to the token's holder where it has ended
    (∀ gid k, ((groupOf s gid).place ≠ .ended ∧ k = gid ∨ (groupOf s gid).place = .ended ∧ (teamOf s (teamId s gid)).token = some k) →
      (k ∈ w.throttled ∨ between k → cyclesLeft s core gid = 4 * max (intensityOf s k) 1 - (ran k).length) ∧
      (k ∉ w.throttled → ¬between k → cyclesLeft s core gid = 64 - (ran k).length)) ∧
    -- ENGINE_THROTTLE_WINDOW
    ∀ gid busy narrow wide, let i := Instr.engineThrottleWindow core gid busy narrow wide
      let n := intensityOf s gid
      let beyond := (ran gid).drop (4 * n)
      let told : Prop := (ran gid).length = busy ∧ beyond.count 600 = narrow ∧ beyond.count 512 = wide
      let left := w.busy.filter fun e => decide (e.1 ≠ gid)
      (¬told → exec i s = .next s) ∧
      (told → busy ≤ 4 * n + 4 ∨ between gid ∨ (groupOf s gid).place = .ended → exec i s = .next (put { w with busy := left })) ∧
      (told → 4 * n + 4 < busy → ¬between gid → (groupOf s gid).place ≠ .ended →
        exec i s = .next (setCore (setGroup s gid { groupOf s gid with undecl := min ((groupOf s gid).undecl + beyond.sum) (2 ^ 64 - 1) }) core
          { c with weir := { w with
            busy := left, throttled := if gid ∈ w.throttled then w.throttled else w.throttled ++ [gid] } }))) ∧
  -- CAP_CONTROLLER_PERIOD
  (∀ (s : State) (m : PowerMeasure),
    (s.gtime < s.capAt + 1000 → exec (.capControllerPeriod m) s = .next s) ∧
    (s.capAt + 1000 ≤ s.gtime → ∃ u, exec (.capControllerPeriod m) s = .next u ∧
      let floor := m.idle / 1000 % 2 ^ 11
      let cap := effcapWatts { s with idle := floor }
      u.idle = floor ∧ u.capAt = s.gtime ∧ u.input = m.input ∧ effcapWatts u = cap ∧
      (capclamp s = false → min s.pcap 1600 < cap → (funcOf u 0).event.getLsbD 1 = true) ∧
      ∀ k, k < 192 → let c := coreOf s k; let b := (coreOf u k).weir.budget
        let top := 16 * c.weir.ilim.hard
        coreOf u k = { c with weir := { c.weir with budget := b, held := [min top b], ballastEnergy := 0, rampUsed := false } } ∧
        (m.draw.getD k 0 = 0 → b = top) ∧
        (m.draw.getD k 0 ≠ 0 → 2048 ≤ top → 2048 ≤ b ∧ b ≤ top) ∧
        ∀ l, c.weir.held = [l] → c.weir.ballastEnergy = 0 → m.draw.getD k 0 ≠ 0 → (∀ h, tgetD s.partmap h 0 = 0) →
          (∀ q, tgetD s.pfloor q 0 = 0) →
          b = min top (max 2048 (l * (1000 * (cap - floor)) / ((List.range 192).map fun j => m.draw.getD j 0).sum)))) ∧
  -- HINT_ONSET, HINT_EXPIRY
  (∀ (s : State) (gid : Nat), let g := groupOf s gid; let tm := teamOf s (teamId s gid); let c := coreOf s tm.core
    let freed (u : State) : State := if gid ∈ c.weir.throttled then setCore u tm.core { c with
      weir := { c.weir with throttled := c.weir.throttled.filter fun x => decide (x ≠ gid) } } else u
    (∀ n, n = intensityOf s gid → (∀ h ∈ g.hints, h.active = false) → n = tm.kd.pcls) ∧
    ((∀ h ∈ g.hints, h.active = true ∨ s.gtime < h.onset) → exec (.hintOnset gid) s = .next s) ∧
    -- a due hint replaces every one declared before it
    (∀ pre h post, g.hints = pre ++ h :: post → (∀ x ∈ pre, x.active = true ∨ s.gtime < x.onset) → h.active = false → h.onset ≤ s.gtime →
      let v := setGroup s gid { g with hints := { h with active := true } :: post }
      intensityOf v gid = h.intensity ∧
        exec (.hintOnset gid) s = .next (if intensityOf s gid = h.intensity then v else freed v)) ∧
    ((∀ h ∈ g.hints, h.active = false ∨ s.gtime < h.onset + h.length) → exec (.hintExpiry gid) s = .next s) ∧
    ((∃ h ∈ g.hints, h.active = true ∧ h.onset + h.length ≤ s.gtime) →
      let v := setGroup s gid { g with hints := g.hints.filter fun x => !x.active }
      intensityOf v gid = tm.kd.pcls ∧
      exec (.hintExpiry gid) s = .next (if intensityOf s gid = tm.kd.pcls then v else freed v))) ∧
  -- TAMPER_ALARM
  (∀ (s : State) (x : Sensor), ∃ n level, (x = .temperature → level = 1) ∧ (x = .voltageGlitch ∨ x = .clockGlitch → level = 2) ∧
    (x = .mesh ∨ x = .debugUnlock → level = 3) ∧
    exec (.tamperAlarm x) s = .next (setEvent { s with
      alarm := max s.alarm level, alarms := s.alarms ++ [{ sensor := n, level := level, time := s.gtime }]
      attKey := s.attKey && decide (level < 2), keyLost := s.keyLost || decide (level = 3) } 0 6)) ∧
  -- MODULE_RESET
  (∀ (s : State) (cause : ResetCause),
    (cause = .pfFlr → s.devReady = false → exec (.moduleReset cause) s = .next s) ∧
    (cause = .conventional ∨ s.devReady = true → (s.clusters.map Prod.fst).Nodup → (s.ports.map Prod.fst).Nodup →
    ∃ u, exec (.moduleReset cause) s = .next u ∧ u = { State.reset with
      agenda := s.agenda, focus := s.focus, free := u.free, nextId := s.nextId, idle := u.idle, devReady := false, bring := .train, measure := []
      hostMem := s.hostMem, hostPoison := s.hostPoison, tlps := s.tlps, hostPosted := s.hostPosted, peerMem := s.peerMem
      peerPoison := s.peerPoison, peerRefuses := s.peerRefuses, ats := s.ats
      flitsOut := s.flitsOut, clusters := u.clusters, ports := u.ports, retcl := s.retcl, retlnk := s.retlnk, replace := s.replace
      keyLost := s.keyLost, attKey := !s.keyLost, alarms := s.alarms } ∧
    (∀ k, clusterOf u k = { ({} : Cluster) with retired := (clusterOf s k).retired }) ∧
    ∀ p, portOf u p = { ({} : Port) with retired := (portOf s p).retired })) ∧
  -- bring-up: training, the firmware's signature and security version, the memories' test, the supplied routine, DEVREADY
  (∀ (s : State) (rest : List Act), s.agenda = .bringUp :: rest → let v := { s with agenda := rest }
    (s.bring = .train → step s = .next (tick { v with bring := .verify })) ∧
    (s.bring = .verify → Config.firmwareSigned = true → Config.fusedVersion ≤ Config.firmwareVersion →
      step s = .next (tick { v with bring := .test, measure := tset s.measure 0 Config.firmwareMeasure })) ∧
    (s.bring = .verify → Config.firmwareSigned = false ∨ Config.firmwareVersion < Config.fusedVersion →
      step s = .next (tick { v with bring := .failed })) ∧
    (s.bring = .test → step s = .next (tick { v with bring := .load })) ∧
    (s.bring = .load → step s = .next (tick { v with bring := .ready, measure := tset s.measure 1 Config.supervisorMeasure })) ∧
    (s.bring = .ready → step s = .next (tick { v with bring := .done, devReady := true })) ∧
    (s.bring = .done ∨ s.bring = .failed → step s = .next (tick v)) ∧
    (s.bring ≠ .done → s.bring ≠ .failed → (tick s).gtime ≤ 2000000000)) ∧
  -- VF_FLR
  ∀ (s : State) (f : Nat),
    (f = 0 ∨ 16 < f ∨ s.devReady = false → exec (.vfFlr f) s = .next s) ∧
    (0 < f → f ≤ 16 → s.devReady = true → (s.tasks.map Prod.fst).Nodup → ∃ u, exec (.vfFlr f) s = .next u ∧ funcOf u f = {} ∧
      (∀ e ∈ u.teams, e.2.func ≠ f) ∧ (∀ q, ownerOf s q = f → (queueOf u q).en = false ∧ (queueOf u q).head = 0 ∧ (queueOf u q).tail = 0) ∧
      (∀ k, ∀ e ∈ (coreOf u k).tlb, e.func ≠ f) ∧ (∀ d, ∀ e ∈ (dieOf u d).tlb, e.func ≠ f) ∧
      ∀ t x, tget s.tasks t = some x → x.func = f → x.stage = .dispatched → Recordless x → x.error = none →
        (taskOf u t).stage = .ended ∧ (taskOf u t).error = some 0x0B)
end

