-- ==== Sys2Proof/Laws/State.lean ====
section
/-!
SUPPORT. The fields of State under the updates of its tables, and the tables read back.
-/

namespace Sys2Proof.Machine

/-! ## Tables -/

@[simp] theorem tget_tset_same {α : Type} (t : Table α) (k : Nat) (a : α) : tget (tset t k a) k = some a := by
  induction t with
  | nil => simp [tset, tget]
  | cons e r ih =>
    obtain ⟨j, b⟩ := e
    simp only [tset]
    split
    · simp [tget]
    · split <;> simp_all [tget]

theorem tget_tset_ne {α : Type} (t : Table α) {j k : Nat} (h : j ≠ k) (a : α) : tget (tset t k a) j = tget t j := by
  induction t with
  | nil => simp [tset, tget, Ne.symm h]
  | cons e r ih =>
    obtain ⟨i, b⟩ := e
    simp only [tset]
    split
    · simp [tget, Ne.symm h]
    · split
      · subst_vars; simp [tget, Ne.symm h]
      · simp only [tget]; split <;> simp_all

@[simp] theorem tgetD_tset_same {α : Type} (t : Table α) (k : Nat) (a d : α) : tgetD (tset t k a) k d = a := by simp [tgetD]

theorem tgetD_tset_ne {α : Type} (t : Table α) {j k : Nat} (h : j ≠ k) (a d : α) : tgetD (tset t k a) j d = tgetD t j d := by
  simp [tgetD, tget_tset_ne t h]

theorem tget_tdel_same {α : Type} (t : Table α) (k : Nat) : tget (tdel t k) k = none := by
  induction t with
  | nil => rfl
  | cons e r ih =>
    obtain ⟨j, b⟩ := e
    by_cases h : j = k <;> simp_all [tdel, tget]

theorem tget_tdel_ne {α : Type} (t : Table α) {j k : Nat} (h : j ≠ k) : tget (tdel t k) j = tget t j := by
  induction t with
  | nil => rfl
  | cons e r ih =>
    obtain ⟨i, b⟩ := e
    by_cases hi : i = k
    · subst hi; simp_all [tdel, tget, Ne.symm h]
    · simp_all [tdel, tget]

/-! ## Fields under table updates -/

@[simp] theorem setGroup_agenda (s : State) (k : Nat) (x : Group) : (setGroup s k x).agenda = s.agenda := rfl
@[simp] theorem setGroup_focus (s : State) (k : Nat) (x : Group) : (setGroup s k x).focus = s.focus := rfl
@[simp] theorem setGroup_cur (s : State) (k : Nat) (x : Group) : (setGroup s k x).cur = s.cur := rfl
@[simp] theorem setGroup_free (s : State) (k : Nat) (x : Group) : (setGroup s k x).free = s.free := rfl
@[simp] theorem setGroup_nextId (s : State) (k : Nat) (x : Group) : (setGroup s k x).nextId = s.nextId := rfl
@[simp] theorem setGroup_gtime (s : State) (k : Nat) (x : Group) : (setGroup s k x).gtime = s.gtime := rfl
@[simp] theorem setGroup_mem (s : State) (k : Nat) (x : Group) : (setGroup s k x).mem = s.mem := rfl
@[simp] theorem setGroup_memPoison (s : State) (k : Nat) (x : Group) : (setGroup s k x).memPoison = s.memPoison := rfl
@[simp] theorem setGroup_hostMem (s : State) (k : Nat) (x : Group) : (setGroup s k x).hostMem = s.hostMem := rfl
@[simp] theorem setGroup_hostPoison (s : State) (k : Nat) (x : Group) : (setGroup s k x).hostPoison = s.hostPoison := rfl
@[simp] theorem setGroup_tlps (s : State) (k : Nat) (x : Group) : (setGroup s k x).tlps = s.tlps := rfl
@[simp] theorem setGroup_hostPosted (s : State) (k : Nat) (x : Group) : (setGroup s k x).hostPosted = s.hostPosted := rfl
@[simp] theorem setGroup_peerMem (s : State) (k : Nat) (x : Group) : (setGroup s k x).peerMem = s.peerMem := rfl
@[simp] theorem setGroup_peerPoison (s : State) (k : Nat) (x : Group) : (setGroup s k x).peerPoison = s.peerPoison := rfl
@[simp] theorem setGroup_peerRefuses (s : State) (k : Nat) (x : Group) : (setGroup s k x).peerRefuses = s.peerRefuses := rfl
@[simp] theorem setGroup_ats (s : State) (k : Nat) (x : Group) : (setGroup s k x).ats = s.ats := rfl
@[simp] theorem setGroup_groups (s : State) (k : Nat) (x : Group) : (setGroup s k x).groups = tset s.groups k x := rfl
@[simp] theorem setGroup_teams (s : State) (k : Nat) (x : Group) : (setGroup s k x).teams = s.teams := rfl
@[simp] theorem setGroup_cores (s : State) (k : Nat) (x : Group) : (setGroup s k x).cores = s.cores := rfl
@[simp] theorem setGroup_clusters (s : State) (k : Nat) (x : Group) : (setGroup s k x).clusters = s.clusters := rfl
@[simp] theorem setGroup_dies (s : State) (k : Nat) (x : Group) : (setGroup s k x).dies = s.dies := rfl
@[simp] theorem setGroup_tasks (s : State) (k : Nat) (x : Group) : (setGroup s k x).tasks = s.tasks := rfl
@[simp] theorem setGroup_domains (s : State) (k : Nat) (x : Group) : (setGroup s k x).domains = s.domains := rfl
@[simp] theorem setGroup_hubServed (s : State) (k : Nat) (x : Group) : (setGroup s k x).hubServed = s.hubServed := rfl
@[simp] theorem setGroup_queues (s : State) (k : Nat) (x : Group) : (setGroup s k x).queues = s.queues := rfl
@[simp] theorem setGroup_qown (s : State) (k : Nat) (x : Group) : (setGroup s k x).qown = s.qown := rfl
@[simp] theorem setGroup_funcs (s : State) (k : Nat) (x : Group) : (setGroup s k x).funcs = s.funcs := rfl
@[simp] theorem setGroup_pcap (s : State) (k : Nat) (x : Group) : (setGroup s k x).pcap = s.pcap := rfl
@[simp] theorem setGroup_pfloor (s : State) (k : Nat) (x : Group) : (setGroup s k x).pfloor = s.pfloor := rfl
@[simp] theorem setGroup_idle (s : State) (k : Nat) (x : Group) : (setGroup s k x).idle = s.idle := rfl
@[simp] theorem setGroup_capAt (s : State) (k : Nat) (x : Group) : (setGroup s k x).capAt = s.capAt := rfl
@[simp] theorem setGroup_input (s : State) (k : Nat) (x : Group) : (setGroup s k x).input = s.input := rfl
@[simp] theorem setGroup_didtDn (s : State) (k : Nat) (x : Group) : (setGroup s k x).didtDn = s.didtDn := rfl
@[simp] theorem setGroup_modid (s : State) (k : Nat) (x : Group) : (setGroup s k x).modid = s.modid := rfl
@[simp] theorem setGroup_minw (s : State) (k : Nat) (x : Group) : (setGroup s k x).minw = s.minw := rfl
@[simp] theorem setGroup_partmap (s : State) (k : Nat) (x : Group) : (setGroup s k x).partmap = s.partmap := rfl
@[simp] theorem setGroup_fpart (s : State) (k : Nat) (x : Group) : (setGroup s k x).fpart = s.fpart := rfl
@[simp] theorem setGroup_secure (s : State) (k : Nat) (x : Group) : (setGroup s k x).secure = s.secure := rfl
@[simp] theorem setGroup_hold (s : State) (k : Nat) (x : Group) : (setGroup s k x).hold = s.hold := rfl
@[simp] theorem setGroup_preempting (s : State) (k : Nat) (x : Group) : (setGroup s k x).preempting = s.preempting := rfl
@[simp] theorem setGroup_svload (s : State) (k : Nat) (x : Group) : (setGroup s k x).svload = s.svload := rfl
@[simp] theorem setGroup_svAddr (s : State) (k : Nat) (x : Group) : (setGroup s k x).svAddr = s.svAddr := rfl
@[simp] theorem setGroup_rasCe (s : State) (k : Nat) (x : Group) : (setGroup s k x).rasCe = s.rasCe := rfl
@[simp] theorem setGroup_rasUe (s : State) (k : Nat) (x : Group) : (setGroup s k x).rasUe = s.rasUe := rfl
@[simp] theorem setGroup_rasRes (s : State) (k : Nat) (x : Group) : (setGroup s k x).rasRes = s.rasRes := rfl
@[simp] theorem setGroup_devReady (s : State) (k : Nat) (x : Group) : (setGroup s k x).devReady = s.devReady := rfl
@[simp] theorem setGroup_bring (s : State) (k : Nat) (x : Group) : (setGroup s k x).bring = s.bring := rfl
@[simp] theorem setGroup_retcl (s : State) (k : Nat) (x : Group) : (setGroup s k x).retcl = s.retcl := rfl
@[simp] theorem setGroup_retlnk (s : State) (k : Nat) (x : Group) : (setGroup s k x).retlnk = s.retlnk := rfl
@[simp] theorem setGroup_alarm (s : State) (k : Nat) (x : Group) : (setGroup s k x).alarm = s.alarm := rfl
@[simp] theorem setGroup_keyLost (s : State) (k : Nat) (x : Group) : (setGroup s k x).keyLost = s.keyLost := rfl
@[simp] theorem setGroup_attKey (s : State) (k : Nat) (x : Group) : (setGroup s k x).attKey = s.attKey := rfl
@[simp] theorem setGroup_replace (s : State) (k : Nat) (x : Group) : (setGroup s k x).replace = s.replace := rfl
@[simp] theorem setGroup_measure (s : State) (k : Nat) (x : Group) : (setGroup s k x).measure = s.measure := rfl
@[simp] theorem setGroup_alarms (s : State) (k : Nat) (x : Group) : (setGroup s k x).alarms = s.alarms := rfl
@[simp] theorem setGroup_ports (s : State) (k : Nat) (x : Group) : (setGroup s k x).ports = s.ports := rfl
@[simp] theorem setGroup_flitsOut (s : State) (k : Nat) (x : Group) : (setGroup s k x).flitsOut = s.flitsOut := rfl

@[simp] theorem setTeam_agenda (s : State) (k : Nat) (x : Team) : (setTeam s k x).agenda = s.agenda := rfl
@[simp] theorem setTeam_focus (s : State) (k : Nat) (x : Team) : (setTeam s k x).focus = s.focus := rfl
@[simp] theorem setTeam_cur (s : State) (k : Nat) (x : Team) : (setTeam s k x).cur = s.cur := rfl
@[simp] theorem setTeam_free (s : State) (k : Nat) (x : Team) : (setTeam s k x).free = s.free := rfl
@[simp] theorem setTeam_nextId (s : State) (k : Nat) (x : Team) : (setTeam s k x).nextId = s.nextId := rfl
@[simp] theorem setTeam_gtime (s : State) (k : Nat) (x : Team) : (setTeam s k x).gtime = s.gtime := rfl
@[simp] theorem setTeam_mem (s : State) (k : Nat) (x : Team) : (setTeam s k x).mem = s.mem := rfl
@[simp] theorem setTeam_memPoison (s : State) (k : Nat) (x : Team) : (setTeam s k x).memPoison = s.memPoison := rfl
@[simp] theorem setTeam_hostMem (s : State) (k : Nat) (x : Team) : (setTeam s k x).hostMem = s.hostMem := rfl
@[simp] theorem setTeam_hostPoison (s : State) (k : Nat) (x : Team) : (setTeam s k x).hostPoison = s.hostPoison := rfl
@[simp] theorem setTeam_tlps (s : State) (k : Nat) (x : Team) : (setTeam s k x).tlps = s.tlps := rfl
@[simp] theorem setTeam_hostPosted (s : State) (k : Nat) (x : Team) : (setTeam s k x).hostPosted = s.hostPosted := rfl
@[simp] theorem setTeam_peerMem (s : State) (k : Nat) (x : Team) : (setTeam s k x).peerMem = s.peerMem := rfl
@[simp] theorem setTeam_peerPoison (s : State) (k : Nat) (x : Team) : (setTeam s k x).peerPoison = s.peerPoison := rfl
@[simp] theorem setTeam_peerRefuses (s : State) (k : Nat) (x : Team) : (setTeam s k x).peerRefuses = s.peerRefuses := rfl
@[simp] theorem setTeam_ats (s : State) (k : Nat) (x : Team) : (setTeam s k x).ats = s.ats := rfl
@[simp] theorem setTeam_groups (s : State) (k : Nat) (x : Team) : (setTeam s k x).groups = s.groups := rfl
@[simp] theorem setTeam_teams (s : State) (k : Nat) (x : Team) : (setTeam s k x).teams = tset s.teams k x := rfl
@[simp] theorem setTeam_cores (s : State) (k : Nat) (x : Team) : (setTeam s k x).cores = s.cores := rfl
@[simp] theorem setTeam_clusters (s : State) (k : Nat) (x : Team) : (setTeam s k x).clusters = s.clusters := rfl
@[simp] theorem setTeam_dies (s : State) (k : Nat) (x : Team) : (setTeam s k x).dies = s.dies := rfl
@[simp] theorem setTeam_tasks (s : State) (k : Nat) (x : Team) : (setTeam s k x).tasks = s.tasks := rfl
@[simp] theorem setTeam_domains (s : State) (k : Nat) (x : Team) : (setTeam s k x).domains = s.domains := rfl
@[simp] theorem setTeam_hubServed (s : State) (k : Nat) (x : Team) : (setTeam s k x).hubServed = s.hubServed := rfl
@[simp] theorem setTeam_queues (s : State) (k : Nat) (x : Team) : (setTeam s k x).queues = s.queues := rfl
@[simp] theorem setTeam_qown (s : State) (k : Nat) (x : Team) : (setTeam s k x).qown = s.qown := rfl
@[simp] theorem setTeam_funcs (s : State) (k : Nat) (x : Team) : (setTeam s k x).funcs = s.funcs := rfl
@[simp] theorem setTeam_pcap (s : State) (k : Nat) (x : Team) : (setTeam s k x).pcap = s.pcap := rfl
@[simp] theorem setTeam_pfloor (s : State) (k : Nat) (x : Team) : (setTeam s k x).pfloor = s.pfloor := rfl
@[simp] theorem setTeam_idle (s : State) (k : Nat) (x : Team) : (setTeam s k x).idle = s.idle := rfl
@[simp] theorem setTeam_capAt (s : State) (k : Nat) (x : Team) : (setTeam s k x).capAt = s.capAt := rfl
@[simp] theorem setTeam_input (s : State) (k : Nat) (x : Team) : (setTeam s k x).input = s.input := rfl
@[simp] theorem setTeam_didtDn (s : State) (k : Nat) (x : Team) : (setTeam s k x).didtDn = s.didtDn := rfl
@[simp] theorem setTeam_modid (s : State) (k : Nat) (x : Team) : (setTeam s k x).modid = s.modid := rfl
@[simp] theorem setTeam_minw (s : State) (k : Nat) (x : Team) : (setTeam s k x).minw = s.minw := rfl
@[simp] theorem setTeam_partmap (s : State) (k : Nat) (x : Team) : (setTeam s k x).partmap = s.partmap := rfl
@[simp] theorem setTeam_fpart (s : State) (k : Nat) (x : Team) : (setTeam s k x).fpart = s.fpart := rfl
@[simp] theorem setTeam_secure (s : State) (k : Nat) (x : Team) : (setTeam s k x).secure = s.secure := rfl
@[simp] theorem setTeam_hold (s : State) (k : Nat) (x : Team) : (setTeam s k x).hold = s.hold := rfl
@[simp] theorem setTeam_preempting (s : State) (k : Nat) (x : Team) : (setTeam s k x).preempting = s.preempting := rfl
@[simp] theorem setTeam_svload (s : State) (k : Nat) (x : Team) : (setTeam s k x).svload = s.svload := rfl
@[simp] theorem setTeam_svAddr (s : State) (k : Nat) (x : Team) : (setTeam s k x).svAddr = s.svAddr := rfl
@[simp] theorem setTeam_rasCe (s : State) (k : Nat) (x : Team) : (setTeam s k x).rasCe = s.rasCe := rfl
@[simp] theorem setTeam_rasUe (s : State) (k : Nat) (x : Team) : (setTeam s k x).rasUe = s.rasUe := rfl
@[simp] theorem setTeam_rasRes (s : State) (k : Nat) (x : Team) : (setTeam s k x).rasRes = s.rasRes := rfl
@[simp] theorem setTeam_devReady (s : State) (k : Nat) (x : Team) : (setTeam s k x).devReady = s.devReady := rfl
@[simp] theorem setTeam_bring (s : State) (k : Nat) (x : Team) : (setTeam s k x).bring = s.bring := rfl
@[simp] theorem setTeam_retcl (s : State) (k : Nat) (x : Team) : (setTeam s k x).retcl = s.retcl := rfl
@[simp] theorem setTeam_retlnk (s : State) (k : Nat) (x : Team) : (setTeam s k x).retlnk = s.retlnk := rfl
@[simp] theorem setTeam_alarm (s : State) (k : Nat) (x : Team) : (setTeam s k x).alarm = s.alarm := rfl
@[simp] theorem setTeam_keyLost (s : State) (k : Nat) (x : Team) : (setTeam s k x).keyLost = s.keyLost := rfl
@[simp] theorem setTeam_attKey (s : State) (k : Nat) (x : Team) : (setTeam s k x).attKey = s.attKey := rfl
@[simp] theorem setTeam_replace (s : State) (k : Nat) (x : Team) : (setTeam s k x).replace = s.replace := rfl
@[simp] theorem setTeam_measure (s : State) (k : Nat) (x : Team) : (setTeam s k x).measure = s.measure := rfl
@[simp] theorem setTeam_alarms (s : State) (k : Nat) (x : Team) : (setTeam s k x).alarms = s.alarms := rfl
@[simp] theorem setTeam_ports (s : State) (k : Nat) (x : Team) : (setTeam s k x).ports = s.ports := rfl
@[simp] theorem setTeam_flitsOut (s : State) (k : Nat) (x : Team) : (setTeam s k x).flitsOut = s.flitsOut := rfl

@[simp] theorem setCore_agenda (s : State) (k : Nat) (x : Core) : (setCore s k x).agenda = s.agenda := rfl
@[simp] theorem setCore_focus (s : State) (k : Nat) (x : Core) : (setCore s k x).focus = s.focus := rfl
@[simp] theorem setCore_cur (s : State) (k : Nat) (x : Core) : (setCore s k x).cur = s.cur := rfl
@[simp] theorem setCore_free (s : State) (k : Nat) (x : Core) : (setCore s k x).free = s.free := rfl
@[simp] theorem setCore_nextId (s : State) (k : Nat) (x : Core) : (setCore s k x).nextId = s.nextId := rfl
@[simp] theorem setCore_gtime (s : State) (k : Nat) (x : Core) : (setCore s k x).gtime = s.gtime := rfl
@[simp] theorem setCore_mem (s : State) (k : Nat) (x : Core) : (setCore s k x).mem = s.mem := rfl
@[simp] theorem setCore_memPoison (s : State) (k : Nat) (x : Core) : (setCore s k x).memPoison = s.memPoison := rfl
@[simp] theorem setCore_hostMem (s : State) (k : Nat) (x : Core) : (setCore s k x).hostMem = s.hostMem := rfl
@[simp] theorem setCore_hostPoison (s : State) (k : Nat) (x : Core) : (setCore s k x).hostPoison = s.hostPoison := rfl
@[simp] theorem setCore_tlps (s : State) (k : Nat) (x : Core) : (setCore s k x).tlps = s.tlps := rfl
@[simp] theorem setCore_hostPosted (s : State) (k : Nat) (x : Core) : (setCore s k x).hostPosted = s.hostPosted := rfl
@[simp] theorem setCore_peerMem (s : State) (k : Nat) (x : Core) : (setCore s k x).peerMem = s.peerMem := rfl
@[simp] theorem setCore_peerPoison (s : State) (k : Nat) (x : Core) : (setCore s k x).peerPoison = s.peerPoison := rfl
@[simp] theorem setCore_peerRefuses (s : State) (k : Nat) (x : Core) : (setCore s k x).peerRefuses = s.peerRefuses := rfl
@[simp] theorem setCore_ats (s : State) (k : Nat) (x : Core) : (setCore s k x).ats = s.ats := rfl
@[simp] theorem setCore_groups (s : State) (k : Nat) (x : Core) : (setCore s k x).groups = s.groups := rfl
@[simp] theorem setCore_teams (s : State) (k : Nat) (x : Core) : (setCore s k x).teams = s.teams := rfl
@[simp] theorem setCore_cores (s : State) (k : Nat) (x : Core) : (setCore s k x).cores = tset s.cores k x := rfl
@[simp] theorem setCore_clusters (s : State) (k : Nat) (x : Core) : (setCore s k x).clusters = s.clusters := rfl
@[simp] theorem setCore_dies (s : State) (k : Nat) (x : Core) : (setCore s k x).dies = s.dies := rfl
@[simp] theorem setCore_tasks (s : State) (k : Nat) (x : Core) : (setCore s k x).tasks = s.tasks := rfl
@[simp] theorem setCore_domains (s : State) (k : Nat) (x : Core) : (setCore s k x).domains = s.domains := rfl
@[simp] theorem setCore_hubServed (s : State) (k : Nat) (x : Core) : (setCore s k x).hubServed = s.hubServed := rfl
@[simp] theorem setCore_queues (s : State) (k : Nat) (x : Core) : (setCore s k x).queues = s.queues := rfl
@[simp] theorem setCore_qown (s : State) (k : Nat) (x : Core) : (setCore s k x).qown = s.qown := rfl
@[simp] theorem setCore_funcs (s : State) (k : Nat) (x : Core) : (setCore s k x).funcs = s.funcs := rfl
@[simp] theorem setCore_pcap (s : State) (k : Nat) (x : Core) : (setCore s k x).pcap = s.pcap := rfl
@[simp] theorem setCore_pfloor (s : State) (k : Nat) (x : Core) : (setCore s k x).pfloor = s.pfloor := rfl
@[simp] theorem setCore_idle (s : State) (k : Nat) (x : Core) : (setCore s k x).idle = s.idle := rfl
@[simp] theorem setCore_capAt (s : State) (k : Nat) (x : Core) : (setCore s k x).capAt = s.capAt := rfl
@[simp] theorem setCore_input (s : State) (k : Nat) (x : Core) : (setCore s k x).input = s.input := rfl
@[simp] theorem setCore_didtDn (s : State) (k : Nat) (x : Core) : (setCore s k x).didtDn = s.didtDn := rfl
@[simp] theorem setCore_modid (s : State) (k : Nat) (x : Core) : (setCore s k x).modid = s.modid := rfl
@[simp] theorem setCore_minw (s : State) (k : Nat) (x : Core) : (setCore s k x).minw = s.minw := rfl
@[simp] theorem setCore_partmap (s : State) (k : Nat) (x : Core) : (setCore s k x).partmap = s.partmap := rfl
@[simp] theorem setCore_fpart (s : State) (k : Nat) (x : Core) : (setCore s k x).fpart = s.fpart := rfl
@[simp] theorem setCore_secure (s : State) (k : Nat) (x : Core) : (setCore s k x).secure = s.secure := rfl
@[simp] theorem setCore_hold (s : State) (k : Nat) (x : Core) : (setCore s k x).hold = s.hold := rfl
@[simp] theorem setCore_preempting (s : State) (k : Nat) (x : Core) : (setCore s k x).preempting = s.preempting := rfl
@[simp] theorem setCore_svload (s : State) (k : Nat) (x : Core) : (setCore s k x).svload = s.svload := rfl
@[simp] theorem setCore_svAddr (s : State) (k : Nat) (x : Core) : (setCore s k x).svAddr = s.svAddr := rfl
@[simp] theorem setCore_rasCe (s : State) (k : Nat) (x : Core) : (setCore s k x).rasCe = s.rasCe := rfl
@[simp] theorem setCore_rasUe (s : State) (k : Nat) (x : Core) : (setCore s k x).rasUe = s.rasUe := rfl
@[simp] theorem setCore_rasRes (s : State) (k : Nat) (x : Core) : (setCore s k x).rasRes = s.rasRes := rfl
@[simp] theorem setCore_devReady (s : State) (k : Nat) (x : Core) : (setCore s k x).devReady = s.devReady := rfl
@[simp] theorem setCore_bring (s : State) (k : Nat) (x : Core) : (setCore s k x).bring = s.bring := rfl
@[simp] theorem setCore_retcl (s : State) (k : Nat) (x : Core) : (setCore s k x).retcl = s.retcl := rfl
@[simp] theorem setCore_retlnk (s : State) (k : Nat) (x : Core) : (setCore s k x).retlnk = s.retlnk := rfl
@[simp] theorem setCore_alarm (s : State) (k : Nat) (x : Core) : (setCore s k x).alarm = s.alarm := rfl
@[simp] theorem setCore_keyLost (s : State) (k : Nat) (x : Core) : (setCore s k x).keyLost = s.keyLost := rfl
@[simp] theorem setCore_attKey (s : State) (k : Nat) (x : Core) : (setCore s k x).attKey = s.attKey := rfl
@[simp] theorem setCore_replace (s : State) (k : Nat) (x : Core) : (setCore s k x).replace = s.replace := rfl
@[simp] theorem setCore_measure (s : State) (k : Nat) (x : Core) : (setCore s k x).measure = s.measure := rfl
@[simp] theorem setCore_alarms (s : State) (k : Nat) (x : Core) : (setCore s k x).alarms = s.alarms := rfl
@[simp] theorem setCore_ports (s : State) (k : Nat) (x : Core) : (setCore s k x).ports = s.ports := rfl
@[simp] theorem setCore_flitsOut (s : State) (k : Nat) (x : Core) : (setCore s k x).flitsOut = s.flitsOut := rfl

@[simp] theorem setCluster_agenda (s : State) (k : Nat) (x : Cluster) : (setCluster s k x).agenda = s.agenda := rfl
@[simp] theorem setCluster_focus (s : State) (k : Nat) (x : Cluster) : (setCluster s k x).focus = s.focus := rfl
@[simp] theorem setCluster_cur (s : State) (k : Nat) (x : Cluster) : (setCluster s k x).cur = s.cur := rfl
@[simp] theorem setCluster_free (s : State) (k : Nat) (x : Cluster) : (setCluster s k x).free = s.free := rfl
@[simp] theorem setCluster_nextId (s : State) (k : Nat) (x : Cluster) : (setCluster s k x).nextId = s.nextId := rfl
@[simp] theorem setCluster_gtime (s : State) (k : Nat) (x : Cluster) : (setCluster s k x).gtime = s.gtime := rfl
@[simp] theorem setCluster_mem (s : State) (k : Nat) (x : Cluster) : (setCluster s k x).mem = s.mem := rfl
@[simp] theorem setCluster_memPoison (s : State) (k : Nat) (x : Cluster) : (setCluster s k x).memPoison = s.memPoison := rfl
@[simp] theorem setCluster_hostMem (s : State) (k : Nat) (x : Cluster) : (setCluster s k x).hostMem = s.hostMem := rfl
@[simp] theorem setCluster_hostPoison (s : State) (k : Nat) (x : Cluster) : (setCluster s k x).hostPoison = s.hostPoison := rfl
@[simp] theorem setCluster_tlps (s : State) (k : Nat) (x : Cluster) : (setCluster s k x).tlps = s.tlps := rfl
@[simp] theorem setCluster_hostPosted (s : State) (k : Nat) (x : Cluster) : (setCluster s k x).hostPosted = s.hostPosted := rfl
@[simp] theorem setCluster_peerMem (s : State) (k : Nat) (x : Cluster) : (setCluster s k x).peerMem = s.peerMem := rfl
@[simp] theorem setCluster_peerPoison (s : State) (k : Nat) (x : Cluster) : (setCluster s k x).peerPoison = s.peerPoison := rfl
@[simp] theorem setCluster_peerRefuses (s : State) (k : Nat) (x : Cluster) : (setCluster s k x).peerRefuses = s.peerRefuses := rfl
@[simp] theorem setCluster_ats (s : State) (k : Nat) (x : Cluster) : (setCluster s k x).ats = s.ats := rfl
@[simp] theorem setCluster_groups (s : State) (k : Nat) (x : Cluster) : (setCluster s k x).groups = s.groups := rfl
@[simp] theorem setCluster_teams (s : State) (k : Nat) (x : Cluster) : (setCluster s k x).teams = s.teams := rfl
@[simp] theorem setCluster_cores (s : State) (k : Nat) (x : Cluster) : (setCluster s k x).cores = s.cores := rfl
@[simp] theorem setCluster_clusters (s : State) (k : Nat) (x : Cluster) : (setCluster s k x).clusters = tset s.clusters k x := rfl
@[simp] theorem setCluster_dies (s : State) (k : Nat) (x : Cluster) : (setCluster s k x).dies = s.dies := rfl
@[simp] theorem setCluster_tasks (s : State) (k : Nat) (x : Cluster) : (setCluster s k x).tasks = s.tasks := rfl
@[simp] theorem setCluster_domains (s : State) (k : Nat) (x : Cluster) : (setCluster s k x).domains = s.domains := rfl
@[simp] theorem setCluster_hubServed (s : State) (k : Nat) (x : Cluster) : (setCluster s k x).hubServed = s.hubServed := rfl
@[simp] theorem setCluster_queues (s : State) (k : Nat) (x : Cluster) : (setCluster s k x).queues = s.queues := rfl
@[simp] theorem setCluster_qown (s : State) (k : Nat) (x : Cluster) : (setCluster s k x).qown = s.qown := rfl
@[simp] theorem setCluster_funcs (s : State) (k : Nat) (x : Cluster) : (setCluster s k x).funcs = s.funcs := rfl
@[simp] theorem setCluster_pcap (s : State) (k : Nat) (x : Cluster) : (setCluster s k x).pcap = s.pcap := rfl
@[simp] theorem setCluster_pfloor (s : State) (k : Nat) (x : Cluster) : (setCluster s k x).pfloor = s.pfloor := rfl
@[simp] theorem setCluster_idle (s : State) (k : Nat) (x : Cluster) : (setCluster s k x).idle = s.idle := rfl
@[simp] theorem setCluster_capAt (s : State) (k : Nat) (x : Cluster) : (setCluster s k x).capAt = s.capAt := rfl
@[simp] theorem setCluster_input (s : State) (k : Nat) (x : Cluster) : (setCluster s k x).input = s.input := rfl
@[simp] theorem setCluster_didtDn (s : State) (k : Nat) (x : Cluster) : (setCluster s k x).didtDn = s.didtDn := rfl
@[simp] theorem setCluster_modid (s : State) (k : Nat) (x : Cluster) : (setCluster s k x).modid = s.modid := rfl
@[simp] theorem setCluster_minw (s : State) (k : Nat) (x : Cluster) : (setCluster s k x).minw = s.minw := rfl
@[simp] theorem setCluster_partmap (s : State) (k : Nat) (x : Cluster) : (setCluster s k x).partmap = s.partmap := rfl
@[simp] theorem setCluster_fpart (s : State) (k : Nat) (x : Cluster) : (setCluster s k x).fpart = s.fpart := rfl
@[simp] theorem setCluster_secure (s : State) (k : Nat) (x : Cluster) : (setCluster s k x).secure = s.secure := rfl
@[simp] theorem setCluster_hold (s : State) (k : Nat) (x : Cluster) : (setCluster s k x).hold = s.hold := rfl
@[simp] theorem setCluster_preempting (s : State) (k : Nat) (x : Cluster) : (setCluster s k x).preempting = s.preempting := rfl
@[simp] theorem setCluster_svload (s : State) (k : Nat) (x : Cluster) : (setCluster s k x).svload = s.svload := rfl
@[simp] theorem setCluster_svAddr (s : State) (k : Nat) (x : Cluster) : (setCluster s k x).svAddr = s.svAddr := rfl
@[simp] theorem setCluster_rasCe (s : State) (k : Nat) (x : Cluster) : (setCluster s k x).rasCe = s.rasCe := rfl
@[simp] theorem setCluster_rasUe (s : State) (k : Nat) (x : Cluster) : (setCluster s k x).rasUe = s.rasUe := rfl
@[simp] theorem setCluster_rasRes (s : State) (k : Nat) (x : Cluster) : (setCluster s k x).rasRes = s.rasRes := rfl
@[simp] theorem setCluster_devReady (s : State) (k : Nat) (x : Cluster) : (setCluster s k x).devReady = s.devReady := rfl
@[simp] theorem setCluster_bring (s : State) (k : Nat) (x : Cluster) : (setCluster s k x).bring = s.bring := rfl
@[simp] theorem setCluster_retcl (s : State) (k : Nat) (x : Cluster) : (setCluster s k x).retcl = s.retcl := rfl
@[simp] theorem setCluster_retlnk (s : State) (k : Nat) (x : Cluster) : (setCluster s k x).retlnk = s.retlnk := rfl
@[simp] theorem setCluster_alarm (s : State) (k : Nat) (x : Cluster) : (setCluster s k x).alarm = s.alarm := rfl
@[simp] theorem setCluster_keyLost (s : State) (k : Nat) (x : Cluster) : (setCluster s k x).keyLost = s.keyLost := rfl
@[simp] theorem setCluster_attKey (s : State) (k : Nat) (x : Cluster) : (setCluster s k x).attKey = s.attKey := rfl
@[simp] theorem setCluster_replace (s : State) (k : Nat) (x : Cluster) : (setCluster s k x).replace = s.replace := rfl
@[simp] theorem setCluster_measure (s : State) (k : Nat) (x : Cluster) : (setCluster s k x).measure = s.measure := rfl
@[simp] theorem setCluster_alarms (s : State) (k : Nat) (x : Cluster) : (setCluster s k x).alarms = s.alarms := rfl
@[simp] theorem setCluster_ports (s : State) (k : Nat) (x : Cluster) : (setCluster s k x).ports = s.ports := rfl
@[simp] theorem setCluster_flitsOut (s : State) (k : Nat) (x : Cluster) : (setCluster s k x).flitsOut = s.flitsOut := rfl

@[simp] theorem setDie_agenda (s : State) (k : Nat) (x : Die) : (setDie s k x).agenda = s.agenda := rfl
@[simp] theorem setDie_focus (s : State) (k : Nat) (x : Die) : (setDie s k x).focus = s.focus := rfl
@[simp] theorem setDie_cur (s : State) (k : Nat) (x : Die) : (setDie s k x).cur = s.cur := rfl
@[simp] theorem setDie_free (s : State) (k : Nat) (x : Die) : (setDie s k x).free = s.free := rfl
@[simp] theorem setDie_nextId (s : State) (k : Nat) (x : Die) : (setDie s k x).nextId = s.nextId := rfl
@[simp] theorem setDie_gtime (s : State) (k : Nat) (x : Die) : (setDie s k x).gtime = s.gtime := rfl
@[simp] theorem setDie_mem (s : State) (k : Nat) (x : Die) : (setDie s k x).mem = s.mem := rfl
@[simp] theorem setDie_memPoison (s : State) (k : Nat) (x : Die) : (setDie s k x).memPoison = s.memPoison := rfl
@[simp] theorem setDie_hostMem (s : State) (k : Nat) (x : Die) : (setDie s k x).hostMem = s.hostMem := rfl
@[simp] theorem setDie_hostPoison (s : State) (k : Nat) (x : Die) : (setDie s k x).hostPoison = s.hostPoison := rfl
@[simp] theorem setDie_tlps (s : State) (k : Nat) (x : Die) : (setDie s k x).tlps = s.tlps := rfl
@[simp] theorem setDie_hostPosted (s : State) (k : Nat) (x : Die) : (setDie s k x).hostPosted = s.hostPosted := rfl
@[simp] theorem setDie_peerMem (s : State) (k : Nat) (x : Die) : (setDie s k x).peerMem = s.peerMem := rfl
@[simp] theorem setDie_peerPoison (s : State) (k : Nat) (x : Die) : (setDie s k x).peerPoison = s.peerPoison := rfl
@[simp] theorem setDie_peerRefuses (s : State) (k : Nat) (x : Die) : (setDie s k x).peerRefuses = s.peerRefuses := rfl
@[simp] theorem setDie_ats (s : State) (k : Nat) (x : Die) : (setDie s k x).ats = s.ats := rfl
@[simp] theorem setDie_groups (s : State) (k : Nat) (x : Die) : (setDie s k x).groups = s.groups := rfl
@[simp] theorem setDie_teams (s : State) (k : Nat) (x : Die) : (setDie s k x).teams = s.teams := rfl
@[simp] theorem setDie_cores (s : State) (k : Nat) (x : Die) : (setDie s k x).cores = s.cores := rfl
@[simp] theorem setDie_clusters (s : State) (k : Nat) (x : Die) : (setDie s k x).clusters = s.clusters := rfl
@[simp] theorem setDie_dies (s : State) (k : Nat) (x : Die) : (setDie s k x).dies = tset s.dies k x := rfl
@[simp] theorem setDie_tasks (s : State) (k : Nat) (x : Die) : (setDie s k x).tasks = s.tasks := rfl
@[simp] theorem setDie_domains (s : State) (k : Nat) (x : Die) : (setDie s k x).domains = s.domains := rfl
@[simp] theorem setDie_hubServed (s : State) (k : Nat) (x : Die) : (setDie s k x).hubServed = s.hubServed := rfl
@[simp] theorem setDie_queues (s : State) (k : Nat) (x : Die) : (setDie s k x).queues = s.queues := rfl
@[simp] theorem setDie_qown (s : State) (k : Nat) (x : Die) : (setDie s k x).qown = s.qown := rfl
@[simp] theorem setDie_funcs (s : State) (k : Nat) (x : Die) : (setDie s k x).funcs = s.funcs := rfl
@[simp] theorem setDie_pcap (s : State) (k : Nat) (x : Die) : (setDie s k x).pcap = s.pcap := rfl
@[simp] theorem setDie_pfloor (s : State) (k : Nat) (x : Die) : (setDie s k x).pfloor = s.pfloor := rfl
@[simp] theorem setDie_idle (s : State) (k : Nat) (x : Die) : (setDie s k x).idle = s.idle := rfl
@[simp] theorem setDie_capAt (s : State) (k : Nat) (x : Die) : (setDie s k x).capAt = s.capAt := rfl
@[simp] theorem setDie_input (s : State) (k : Nat) (x : Die) : (setDie s k x).input = s.input := rfl
@[simp] theorem setDie_didtDn (s : State) (k : Nat) (x : Die) : (setDie s k x).didtDn = s.didtDn := rfl
@[simp] theorem setDie_modid (s : State) (k : Nat) (x : Die) : (setDie s k x).modid = s.modid := rfl
@[simp] theorem setDie_minw (s : State) (k : Nat) (x : Die) : (setDie s k x).minw = s.minw := rfl
@[simp] theorem setDie_partmap (s : State) (k : Nat) (x : Die) : (setDie s k x).partmap = s.partmap := rfl
@[simp] theorem setDie_fpart (s : State) (k : Nat) (x : Die) : (setDie s k x).fpart = s.fpart := rfl
@[simp] theorem setDie_secure (s : State) (k : Nat) (x : Die) : (setDie s k x).secure = s.secure := rfl
@[simp] theorem setDie_hold (s : State) (k : Nat) (x : Die) : (setDie s k x).hold = s.hold := rfl
@[simp] theorem setDie_preempting (s : State) (k : Nat) (x : Die) : (setDie s k x).preempting = s.preempting := rfl
@[simp] theorem setDie_svload (s : State) (k : Nat) (x : Die) : (setDie s k x).svload = s.svload := rfl
@[simp] theorem setDie_svAddr (s : State) (k : Nat) (x : Die) : (setDie s k x).svAddr = s.svAddr := rfl
@[simp] theorem setDie_rasCe (s : State) (k : Nat) (x : Die) : (setDie s k x).rasCe = s.rasCe := rfl
@[simp] theorem setDie_rasUe (s : State) (k : Nat) (x : Die) : (setDie s k x).rasUe = s.rasUe := rfl
@[simp] theorem setDie_rasRes (s : State) (k : Nat) (x : Die) : (setDie s k x).rasRes = s.rasRes := rfl
@[simp] theorem setDie_devReady (s : State) (k : Nat) (x : Die) : (setDie s k x).devReady = s.devReady := rfl
@[simp] theorem setDie_bring (s : State) (k : Nat) (x : Die) : (setDie s k x).bring = s.bring := rfl
@[simp] theorem setDie_retcl (s : State) (k : Nat) (x : Die) : (setDie s k x).retcl = s.retcl := rfl
@[simp] theorem setDie_retlnk (s : State) (k : Nat) (x : Die) : (setDie s k x).retlnk = s.retlnk := rfl
@[simp] theorem setDie_alarm (s : State) (k : Nat) (x : Die) : (setDie s k x).alarm = s.alarm := rfl
@[simp] theorem setDie_keyLost (s : State) (k : Nat) (x : Die) : (setDie s k x).keyLost = s.keyLost := rfl
@[simp] theorem setDie_attKey (s : State) (k : Nat) (x : Die) : (setDie s k x).attKey = s.attKey := rfl
@[simp] theorem setDie_replace (s : State) (k : Nat) (x : Die) : (setDie s k x).replace = s.replace := rfl
@[simp] theorem setDie_measure (s : State) (k : Nat) (x : Die) : (setDie s k x).measure = s.measure := rfl
@[simp] theorem setDie_alarms (s : State) (k : Nat) (x : Die) : (setDie s k x).alarms = s.alarms := rfl
@[simp] theorem setDie_ports (s : State) (k : Nat) (x : Die) : (setDie s k x).ports = s.ports := rfl
@[simp] theorem setDie_flitsOut (s : State) (k : Nat) (x : Die) : (setDie s k x).flitsOut = s.flitsOut := rfl

@[simp] theorem setFunc_agenda (s : State) (k : Nat) (x : Func) : (setFunc s k x).agenda = s.agenda := rfl
@[simp] theorem setFunc_focus (s : State) (k : Nat) (x : Func) : (setFunc s k x).focus = s.focus := rfl
@[simp] theorem setFunc_cur (s : State) (k : Nat) (x : Func) : (setFunc s k x).cur = s.cur := rfl
@[simp] theorem setFunc_free (s : State) (k : Nat) (x : Func) : (setFunc s k x).free = s.free := rfl
@[simp] theorem setFunc_nextId (s : State) (k : Nat) (x : Func) : (setFunc s k x).nextId = s.nextId := rfl
@[simp] theorem setFunc_gtime (s : State) (k : Nat) (x : Func) : (setFunc s k x).gtime = s.gtime := rfl
@[simp] theorem setFunc_mem (s : State) (k : Nat) (x : Func) : (setFunc s k x).mem = s.mem := rfl
@[simp] theorem setFunc_memPoison (s : State) (k : Nat) (x : Func) : (setFunc s k x).memPoison = s.memPoison := rfl
@[simp] theorem setFunc_hostMem (s : State) (k : Nat) (x : Func) : (setFunc s k x).hostMem = s.hostMem := rfl
@[simp] theorem setFunc_hostPoison (s : State) (k : Nat) (x : Func) : (setFunc s k x).hostPoison = s.hostPoison := rfl
@[simp] theorem setFunc_tlps (s : State) (k : Nat) (x : Func) : (setFunc s k x).tlps = s.tlps := rfl
@[simp] theorem setFunc_hostPosted (s : State) (k : Nat) (x : Func) : (setFunc s k x).hostPosted = s.hostPosted := rfl
@[simp] theorem setFunc_peerMem (s : State) (k : Nat) (x : Func) : (setFunc s k x).peerMem = s.peerMem := rfl
@[simp] theorem setFunc_peerPoison (s : State) (k : Nat) (x : Func) : (setFunc s k x).peerPoison = s.peerPoison := rfl
@[simp] theorem setFunc_peerRefuses (s : State) (k : Nat) (x : Func) : (setFunc s k x).peerRefuses = s.peerRefuses := rfl
@[simp] theorem setFunc_ats (s : State) (k : Nat) (x : Func) : (setFunc s k x).ats = s.ats := rfl
@[simp] theorem setFunc_groups (s : State) (k : Nat) (x : Func) : (setFunc s k x).groups = s.groups := rfl
@[simp] theorem setFunc_teams (s : State) (k : Nat) (x : Func) : (setFunc s k x).teams = s.teams := rfl
@[simp] theorem setFunc_cores (s : State) (k : Nat) (x : Func) : (setFunc s k x).cores = s.cores := rfl
@[simp] theorem setFunc_clusters (s : State) (k : Nat) (x : Func) : (setFunc s k x).clusters = s.clusters := rfl
@[simp] theorem setFunc_dies (s : State) (k : Nat) (x : Func) : (setFunc s k x).dies = s.dies := rfl
@[simp] theorem setFunc_tasks (s : State) (k : Nat) (x : Func) : (setFunc s k x).tasks = s.tasks := rfl
@[simp] theorem setFunc_domains (s : State) (k : Nat) (x : Func) : (setFunc s k x).domains = s.domains := rfl
@[simp] theorem setFunc_hubServed (s : State) (k : Nat) (x : Func) : (setFunc s k x).hubServed = s.hubServed := rfl
@[simp] theorem setFunc_queues (s : State) (k : Nat) (x : Func) : (setFunc s k x).queues = s.queues := rfl
@[simp] theorem setFunc_qown (s : State) (k : Nat) (x : Func) : (setFunc s k x).qown = s.qown := rfl
@[simp] theorem setFunc_funcs (s : State) (k : Nat) (x : Func) : (setFunc s k x).funcs = tset s.funcs k x := rfl
@[simp] theorem setFunc_pcap (s : State) (k : Nat) (x : Func) : (setFunc s k x).pcap = s.pcap := rfl
@[simp] theorem setFunc_pfloor (s : State) (k : Nat) (x : Func) : (setFunc s k x).pfloor = s.pfloor := rfl
@[simp] theorem setFunc_idle (s : State) (k : Nat) (x : Func) : (setFunc s k x).idle = s.idle := rfl
@[simp] theorem setFunc_capAt (s : State) (k : Nat) (x : Func) : (setFunc s k x).capAt = s.capAt := rfl
@[simp] theorem setFunc_input (s : State) (k : Nat) (x : Func) : (setFunc s k x).input = s.input := rfl
@[simp] theorem setFunc_didtDn (s : State) (k : Nat) (x : Func) : (setFunc s k x).didtDn = s.didtDn := rfl
@[simp] theorem setFunc_modid (s : State) (k : Nat) (x : Func) : (setFunc s k x).modid = s.modid := rfl
@[simp] theorem setFunc_minw (s : State) (k : Nat) (x : Func) : (setFunc s k x).minw = s.minw := rfl
@[simp] theorem setFunc_partmap (s : State) (k : Nat) (x : Func) : (setFunc s k x).partmap = s.partmap := rfl
@[simp] theorem setFunc_fpart (s : State) (k : Nat) (x : Func) : (setFunc s k x).fpart = s.fpart := rfl
@[simp] theorem setFunc_secure (s : State) (k : Nat) (x : Func) : (setFunc s k x).secure = s.secure := rfl
@[simp] theorem setFunc_hold (s : State) (k : Nat) (x : Func) : (setFunc s k x).hold = s.hold := rfl
@[simp] theorem setFunc_preempting (s : State) (k : Nat) (x : Func) : (setFunc s k x).preempting = s.preempting := rfl
@[simp] theorem setFunc_svload (s : State) (k : Nat) (x : Func) : (setFunc s k x).svload = s.svload := rfl
@[simp] theorem setFunc_svAddr (s : State) (k : Nat) (x : Func) : (setFunc s k x).svAddr = s.svAddr := rfl
@[simp] theorem setFunc_rasCe (s : State) (k : Nat) (x : Func) : (setFunc s k x).rasCe = s.rasCe := rfl
@[simp] theorem setFunc_rasUe (s : State) (k : Nat) (x : Func) : (setFunc s k x).rasUe = s.rasUe := rfl
@[simp] theorem setFunc_rasRes (s : State) (k : Nat) (x : Func) : (setFunc s k x).rasRes = s.rasRes := rfl
@[simp] theorem setFunc_devReady (s : State) (k : Nat) (x : Func) : (setFunc s k x).devReady = s.devReady := rfl
@[simp] theorem setFunc_bring (s : State) (k : Nat) (x : Func) : (setFunc s k x).bring = s.bring := rfl
@[simp] theorem setFunc_retcl (s : State) (k : Nat) (x : Func) : (setFunc s k x).retcl = s.retcl := rfl
@[simp] theorem setFunc_retlnk (s : State) (k : Nat) (x : Func) : (setFunc s k x).retlnk = s.retlnk := rfl
@[simp] theorem setFunc_alarm (s : State) (k : Nat) (x : Func) : (setFunc s k x).alarm = s.alarm := rfl
@[simp] theorem setFunc_keyLost (s : State) (k : Nat) (x : Func) : (setFunc s k x).keyLost = s.keyLost := rfl
@[simp] theorem setFunc_attKey (s : State) (k : Nat) (x : Func) : (setFunc s k x).attKey = s.attKey := rfl
@[simp] theorem setFunc_replace (s : State) (k : Nat) (x : Func) : (setFunc s k x).replace = s.replace := rfl
@[simp] theorem setFunc_measure (s : State) (k : Nat) (x : Func) : (setFunc s k x).measure = s.measure := rfl
@[simp] theorem setFunc_alarms (s : State) (k : Nat) (x : Func) : (setFunc s k x).alarms = s.alarms := rfl
@[simp] theorem setFunc_ports (s : State) (k : Nat) (x : Func) : (setFunc s k x).ports = s.ports := rfl
@[simp] theorem setFunc_flitsOut (s : State) (k : Nat) (x : Func) : (setFunc s k x).flitsOut = s.flitsOut := rfl

@[simp] theorem setQueue_agenda (s : State) (k : Nat) (x : HostQueue) : (setQueue s k x).agenda = s.agenda := rfl
@[simp] theorem setQueue_focus (s : State) (k : Nat) (x : HostQueue) : (setQueue s k x).focus = s.focus := rfl
@[simp] theorem setQueue_cur (s : State) (k : Nat) (x : HostQueue) : (setQueue s k x).cur = s.cur := rfl
@[simp] theorem setQueue_free (s : State) (k : Nat) (x : HostQueue) : (setQueue s k x).free = s.free := rfl
@[simp] theorem setQueue_nextId (s : State) (k : Nat) (x : HostQueue) : (setQueue s k x).nextId = s.nextId := rfl
@[simp] theorem setQueue_gtime (s : State) (k : Nat) (x : HostQueue) : (setQueue s k x).gtime = s.gtime := rfl
@[simp] theorem setQueue_mem (s : State) (k : Nat) (x : HostQueue) : (setQueue s k x).mem = s.mem := rfl
@[simp] theorem setQueue_memPoison (s : State) (k : Nat) (x : HostQueue) : (setQueue s k x).memPoison = s.memPoison := rfl
@[simp] theorem setQueue_hostMem (s : State) (k : Nat) (x : HostQueue) : (setQueue s k x).hostMem = s.hostMem := rfl
@[simp] theorem setQueue_hostPoison (s : State) (k : Nat) (x : HostQueue) : (setQueue s k x).hostPoison = s.hostPoison := rfl
@[simp] theorem setQueue_tlps (s : State) (k : Nat) (x : HostQueue) : (setQueue s k x).tlps = s.tlps := rfl
@[simp] theorem setQueue_hostPosted (s : State) (k : Nat) (x : HostQueue) : (setQueue s k x).hostPosted = s.hostPosted := rfl
@[simp] theorem setQueue_peerMem (s : State) (k : Nat) (x : HostQueue) : (setQueue s k x).peerMem = s.peerMem := rfl
@[simp] theorem setQueue_peerPoison (s : State) (k : Nat) (x : HostQueue) : (setQueue s k x).peerPoison = s.peerPoison := rfl
@[simp] theorem setQueue_peerRefuses (s : State) (k : Nat) (x : HostQueue) : (setQueue s k x).peerRefuses = s.peerRefuses := rfl
@[simp] theorem setQueue_ats (s : State) (k : Nat) (x : HostQueue) : (setQueue s k x).ats = s.ats := rfl
@[simp] theorem setQueue_groups (s : State) (k : Nat) (x : HostQueue) : (setQueue s k x).groups = s.groups := rfl
@[simp] theorem setQueue_teams (s : State) (k : Nat) (x : HostQueue) : (setQueue s k x).teams = s.teams := rfl
@[simp] theorem setQueue_cores (s : State) (k : Nat) (x : HostQueue) : (setQueue s k x).cores = s.cores := rfl
@[simp] theorem setQueue_clusters (s : State) (k : Nat) (x : HostQueue) : (setQueue s k x).clusters = s.clusters := rfl
@[simp] theorem setQueue_dies (s : State) (k : Nat) (x : HostQueue) : (setQueue s k x).dies = s.dies := rfl
@[simp] theorem setQueue_tasks (s : State) (k : Nat) (x : HostQueue) : (setQueue s k x).tasks = s.tasks := rfl
@[simp] theorem setQueue_domains (s : State) (k : Nat) (x : HostQueue) : (setQueue s k x).domains = s.domains := rfl
@[simp] theorem setQueue_hubServed (s : State) (k : Nat) (x : HostQueue) : (setQueue s k x).hubServed = s.hubServed := rfl
@[simp] theorem setQueue_queues (s : State) (k : Nat) (x : HostQueue) : (setQueue s k x).queues = tset s.queues k x := rfl
@[simp] theorem setQueue_qown (s : State) (k : Nat) (x : HostQueue) : (setQueue s k x).qown = s.qown := rfl
@[simp] theorem setQueue_funcs (s : State) (k : Nat) (x : HostQueue) : (setQueue s k x).funcs = s.funcs := rfl
@[simp] theorem setQueue_pcap (s : State) (k : Nat) (x : HostQueue) : (setQueue s k x).pcap = s.pcap := rfl
@[simp] theorem setQueue_pfloor (s : State) (k : Nat) (x : HostQueue) : (setQueue s k x).pfloor = s.pfloor := rfl
@[simp] theorem setQueue_idle (s : State) (k : Nat) (x : HostQueue) : (setQueue s k x).idle = s.idle := rfl
@[simp] theorem setQueue_capAt (s : State) (k : Nat) (x : HostQueue) : (setQueue s k x).capAt = s.capAt := rfl
@[simp] theorem setQueue_input (s : State) (k : Nat) (x : HostQueue) : (setQueue s k x).input = s.input := rfl
@[simp] theorem setQueue_didtDn (s : State) (k : Nat) (x : HostQueue) : (setQueue s k x).didtDn = s.didtDn := rfl
@[simp] theorem setQueue_modid (s : State) (k : Nat) (x : HostQueue) : (setQueue s k x).modid = s.modid := rfl
@[simp] theorem setQueue_minw (s : State) (k : Nat) (x : HostQueue) : (setQueue s k x).minw = s.minw := rfl
@[simp] theorem setQueue_partmap (s : State) (k : Nat) (x : HostQueue) : (setQueue s k x).partmap = s.partmap := rfl
@[simp] theorem setQueue_fpart (s : State) (k : Nat) (x : HostQueue) : (setQueue s k x).fpart = s.fpart := rfl
@[simp] theorem setQueue_secure (s : State) (k : Nat) (x : HostQueue) : (setQueue s k x).secure = s.secure := rfl
@[simp] theorem setQueue_hold (s : State) (k : Nat) (x : HostQueue) : (setQueue s k x).hold = s.hold := rfl
@[simp] theorem setQueue_preempting (s : State) (k : Nat) (x : HostQueue) : (setQueue s k x).preempting = s.preempting := rfl
@[simp] theorem setQueue_svload (s : State) (k : Nat) (x : HostQueue) : (setQueue s k x).svload = s.svload := rfl
@[simp] theorem setQueue_svAddr (s : State) (k : Nat) (x : HostQueue) : (setQueue s k x).svAddr = s.svAddr := rfl
@[simp] theorem setQueue_rasCe (s : State) (k : Nat) (x : HostQueue) : (setQueue s k x).rasCe = s.rasCe := rfl
@[simp] theorem setQueue_rasUe (s : State) (k : Nat) (x : HostQueue) : (setQueue s k x).rasUe = s.rasUe := rfl
@[simp] theorem setQueue_rasRes (s : State) (k : Nat) (x : HostQueue) : (setQueue s k x).rasRes = s.rasRes := rfl
@[simp] theorem setQueue_devReady (s : State) (k : Nat) (x : HostQueue) : (setQueue s k x).devReady = s.devReady := rfl
@[simp] theorem setQueue_bring (s : State) (k : Nat) (x : HostQueue) : (setQueue s k x).bring = s.bring := rfl
@[simp] theorem setQueue_retcl (s : State) (k : Nat) (x : HostQueue) : (setQueue s k x).retcl = s.retcl := rfl
@[simp] theorem setQueue_retlnk (s : State) (k : Nat) (x : HostQueue) : (setQueue s k x).retlnk = s.retlnk := rfl
@[simp] theorem setQueue_alarm (s : State) (k : Nat) (x : HostQueue) : (setQueue s k x).alarm = s.alarm := rfl
@[simp] theorem setQueue_keyLost (s : State) (k : Nat) (x : HostQueue) : (setQueue s k x).keyLost = s.keyLost := rfl
@[simp] theorem setQueue_attKey (s : State) (k : Nat) (x : HostQueue) : (setQueue s k x).attKey = s.attKey := rfl
@[simp] theorem setQueue_replace (s : State) (k : Nat) (x : HostQueue) : (setQueue s k x).replace = s.replace := rfl
@[simp] theorem setQueue_measure (s : State) (k : Nat) (x : HostQueue) : (setQueue s k x).measure = s.measure := rfl
@[simp] theorem setQueue_alarms (s : State) (k : Nat) (x : HostQueue) : (setQueue s k x).alarms = s.alarms := rfl
@[simp] theorem setQueue_ports (s : State) (k : Nat) (x : HostQueue) : (setQueue s k x).ports = s.ports := rfl
@[simp] theorem setQueue_flitsOut (s : State) (k : Nat) (x : HostQueue) : (setQueue s k x).flitsOut = s.flitsOut := rfl

@[simp] theorem setTask_agenda (s : State) (k : Nat) (x : Task) : (setTask s k x).agenda = s.agenda := rfl
@[simp] theorem setTask_focus (s : State) (k : Nat) (x : Task) : (setTask s k x).focus = s.focus := rfl
@[simp] theorem setTask_cur (s : State) (k : Nat) (x : Task) : (setTask s k x).cur = s.cur := rfl
@[simp] theorem setTask_free (s : State) (k : Nat) (x : Task) : (setTask s k x).free = s.free := rfl
@[simp] theorem setTask_nextId (s : State) (k : Nat) (x : Task) : (setTask s k x).nextId = s.nextId := rfl
@[simp] theorem setTask_gtime (s : State) (k : Nat) (x : Task) : (setTask s k x).gtime = s.gtime := rfl
@[simp] theorem setTask_mem (s : State) (k : Nat) (x : Task) : (setTask s k x).mem = s.mem := rfl
@[simp] theorem setTask_memPoison (s : State) (k : Nat) (x : Task) : (setTask s k x).memPoison = s.memPoison := rfl
@[simp] theorem setTask_hostMem (s : State) (k : Nat) (x : Task) : (setTask s k x).hostMem = s.hostMem := rfl
@[simp] theorem setTask_hostPoison (s : State) (k : Nat) (x : Task) : (setTask s k x).hostPoison = s.hostPoison := rfl
@[simp] theorem setTask_tlps (s : State) (k : Nat) (x : Task) : (setTask s k x).tlps = s.tlps := rfl
@[simp] theorem setTask_hostPosted (s : State) (k : Nat) (x : Task) : (setTask s k x).hostPosted = s.hostPosted := rfl
@[simp] theorem setTask_peerMem (s : State) (k : Nat) (x : Task) : (setTask s k x).peerMem = s.peerMem := rfl
@[simp] theorem setTask_peerPoison (s : State) (k : Nat) (x : Task) : (setTask s k x).peerPoison = s.peerPoison := rfl
@[simp] theorem setTask_peerRefuses (s : State) (k : Nat) (x : Task) : (setTask s k x).peerRefuses = s.peerRefuses := rfl
@[simp] theorem setTask_ats (s : State) (k : Nat) (x : Task) : (setTask s k x).ats = s.ats := rfl
@[simp] theorem setTask_groups (s : State) (k : Nat) (x : Task) : (setTask s k x).groups = s.groups := rfl
@[simp] theorem setTask_teams (s : State) (k : Nat) (x : Task) : (setTask s k x).teams = s.teams := rfl
@[simp] theorem setTask_cores (s : State) (k : Nat) (x : Task) : (setTask s k x).cores = s.cores := rfl
@[simp] theorem setTask_clusters (s : State) (k : Nat) (x : Task) : (setTask s k x).clusters = s.clusters := rfl
@[simp] theorem setTask_dies (s : State) (k : Nat) (x : Task) : (setTask s k x).dies = s.dies := rfl
@[simp] theorem setTask_tasks (s : State) (k : Nat) (x : Task) : (setTask s k x).tasks = tset s.tasks k x := rfl
@[simp] theorem setTask_domains (s : State) (k : Nat) (x : Task) : (setTask s k x).domains = s.domains := rfl
@[simp] theorem setTask_hubServed (s : State) (k : Nat) (x : Task) : (setTask s k x).hubServed = s.hubServed := rfl
@[simp] theorem setTask_queues (s : State) (k : Nat) (x : Task) : (setTask s k x).queues = s.queues := rfl
@[simp] theorem setTask_qown (s : State) (k : Nat) (x : Task) : (setTask s k x).qown = s.qown := rfl
@[simp] theorem setTask_funcs (s : State) (k : Nat) (x : Task) : (setTask s k x).funcs = s.funcs := rfl
@[simp] theorem setTask_pcap (s : State) (k : Nat) (x : Task) : (setTask s k x).pcap = s.pcap := rfl
@[simp] theorem setTask_pfloor (s : State) (k : Nat) (x : Task) : (setTask s k x).pfloor = s.pfloor := rfl
@[simp] theorem setTask_idle (s : State) (k : Nat) (x : Task) : (setTask s k x).idle = s.idle := rfl
@[simp] theorem setTask_capAt (s : State) (k : Nat) (x : Task) : (setTask s k x).capAt = s.capAt := rfl
@[simp] theorem setTask_input (s : State) (k : Nat) (x : Task) : (setTask s k x).input = s.input := rfl
@[simp] theorem setTask_didtDn (s : State) (k : Nat) (x : Task) : (setTask s k x).didtDn = s.didtDn := rfl
@[simp] theorem setTask_modid (s : State) (k : Nat) (x : Task) : (setTask s k x).modid = s.modid := rfl
@[simp] theorem setTask_minw (s : State) (k : Nat) (x : Task) : (setTask s k x).minw = s.minw := rfl
@[simp] theorem setTask_partmap (s : State) (k : Nat) (x : Task) : (setTask s k x).partmap = s.partmap := rfl
@[simp] theorem setTask_fpart (s : State) (k : Nat) (x : Task) : (setTask s k x).fpart = s.fpart := rfl
@[simp] theorem setTask_secure (s : State) (k : Nat) (x : Task) : (setTask s k x).secure = s.secure := rfl
@[simp] theorem setTask_hold (s : State) (k : Nat) (x : Task) : (setTask s k x).hold = s.hold := rfl
@[simp] theorem setTask_preempting (s : State) (k : Nat) (x : Task) : (setTask s k x).preempting = s.preempting := rfl
@[simp] theorem setTask_svload (s : State) (k : Nat) (x : Task) : (setTask s k x).svload = s.svload := rfl
@[simp] theorem setTask_svAddr (s : State) (k : Nat) (x : Task) : (setTask s k x).svAddr = s.svAddr := rfl
@[simp] theorem setTask_rasCe (s : State) (k : Nat) (x : Task) : (setTask s k x).rasCe = s.rasCe := rfl
@[simp] theorem setTask_rasUe (s : State) (k : Nat) (x : Task) : (setTask s k x).rasUe = s.rasUe := rfl
@[simp] theorem setTask_rasRes (s : State) (k : Nat) (x : Task) : (setTask s k x).rasRes = s.rasRes := rfl
@[simp] theorem setTask_devReady (s : State) (k : Nat) (x : Task) : (setTask s k x).devReady = s.devReady := rfl
@[simp] theorem setTask_bring (s : State) (k : Nat) (x : Task) : (setTask s k x).bring = s.bring := rfl
@[simp] theorem setTask_retcl (s : State) (k : Nat) (x : Task) : (setTask s k x).retcl = s.retcl := rfl
@[simp] theorem setTask_retlnk (s : State) (k : Nat) (x : Task) : (setTask s k x).retlnk = s.retlnk := rfl
@[simp] theorem setTask_alarm (s : State) (k : Nat) (x : Task) : (setTask s k x).alarm = s.alarm := rfl
@[simp] theorem setTask_keyLost (s : State) (k : Nat) (x : Task) : (setTask s k x).keyLost = s.keyLost := rfl
@[simp] theorem setTask_attKey (s : State) (k : Nat) (x : Task) : (setTask s k x).attKey = s.attKey := rfl
@[simp] theorem setTask_replace (s : State) (k : Nat) (x : Task) : (setTask s k x).replace = s.replace := rfl
@[simp] theorem setTask_measure (s : State) (k : Nat) (x : Task) : (setTask s k x).measure = s.measure := rfl
@[simp] theorem setTask_alarms (s : State) (k : Nat) (x : Task) : (setTask s k x).alarms = s.alarms := rfl
@[simp] theorem setTask_ports (s : State) (k : Nat) (x : Task) : (setTask s k x).ports = s.ports := rfl
@[simp] theorem setTask_flitsOut (s : State) (k : Nat) (x : Task) : (setTask s k x).flitsOut = s.flitsOut := rfl

@[simp] theorem setPort_agenda (s : State) (k : Nat) (x : Port) : (setPort s k x).agenda = s.agenda := rfl
@[simp] theorem setPort_focus (s : State) (k : Nat) (x : Port) : (setPort s k x).focus = s.focus := rfl
@[simp] theorem setPort_cur (s : State) (k : Nat) (x : Port) : (setPort s k x).cur = s.cur := rfl
@[simp] theorem setPort_free (s : State) (k : Nat) (x : Port) : (setPort s k x).free = s.free := rfl
@[simp] theorem setPort_nextId (s : State) (k : Nat) (x : Port) : (setPort s k x).nextId = s.nextId := rfl
@[simp] theorem setPort_gtime (s : State) (k : Nat) (x : Port) : (setPort s k x).gtime = s.gtime := rfl
@[simp] theorem setPort_mem (s : State) (k : Nat) (x : Port) : (setPort s k x).mem = s.mem := rfl
@[simp] theorem setPort_memPoison (s : State) (k : Nat) (x : Port) : (setPort s k x).memPoison = s.memPoison := rfl
@[simp] theorem setPort_hostMem (s : State) (k : Nat) (x : Port) : (setPort s k x).hostMem = s.hostMem := rfl
@[simp] theorem setPort_hostPoison (s : State) (k : Nat) (x : Port) : (setPort s k x).hostPoison = s.hostPoison := rfl
@[simp] theorem setPort_tlps (s : State) (k : Nat) (x : Port) : (setPort s k x).tlps = s.tlps := rfl
@[simp] theorem setPort_hostPosted (s : State) (k : Nat) (x : Port) : (setPort s k x).hostPosted = s.hostPosted := rfl
@[simp] theorem setPort_peerMem (s : State) (k : Nat) (x : Port) : (setPort s k x).peerMem = s.peerMem := rfl
@[simp] theorem setPort_peerPoison (s : State) (k : Nat) (x : Port) : (setPort s k x).peerPoison = s.peerPoison := rfl
@[simp] theorem setPort_peerRefuses (s : State) (k : Nat) (x : Port) : (setPort s k x).peerRefuses = s.peerRefuses := rfl
@[simp] theorem setPort_ats (s : State) (k : Nat) (x : Port) : (setPort s k x).ats = s.ats := rfl
@[simp] theorem setPort_groups (s : State) (k : Nat) (x : Port) : (setPort s k x).groups = s.groups := rfl
@[simp] theorem setPort_teams (s : State) (k : Nat) (x : Port) : (setPort s k x).teams = s.teams := rfl
@[simp] theorem setPort_cores (s : State) (k : Nat) (x : Port) : (setPort s k x).cores = s.cores := rfl
@[simp] theorem setPort_clusters (s : State) (k : Nat) (x : Port) : (setPort s k x).clusters = s.clusters := rfl
@[simp] theorem setPort_dies (s : State) (k : Nat) (x : Port) : (setPort s k x).dies = s.dies := rfl
@[simp] theorem setPort_tasks (s : State) (k : Nat) (x : Port) : (setPort s k x).tasks = s.tasks := rfl
@[simp] theorem setPort_domains (s : State) (k : Nat) (x : Port) : (setPort s k x).domains = s.domains := rfl
@[simp] theorem setPort_hubServed (s : State) (k : Nat) (x : Port) : (setPort s k x).hubServed = s.hubServed := rfl
@[simp] theorem setPort_queues (s : State) (k : Nat) (x : Port) : (setPort s k x).queues = s.queues := rfl
@[simp] theorem setPort_qown (s : State) (k : Nat) (x : Port) : (setPort s k x).qown = s.qown := rfl
@[simp] theorem setPort_funcs (s : State) (k : Nat) (x : Port) : (setPort s k x).funcs = s.funcs := rfl
@[simp] theorem setPort_pcap (s : State) (k : Nat) (x : Port) : (setPort s k x).pcap = s.pcap := rfl
@[simp] theorem setPort_pfloor (s : State) (k : Nat) (x : Port) : (setPort s k x).pfloor = s.pfloor := rfl
@[simp] theorem setPort_idle (s : State) (k : Nat) (x : Port) : (setPort s k x).idle = s.idle := rfl
@[simp] theorem setPort_capAt (s : State) (k : Nat) (x : Port) : (setPort s k x).capAt = s.capAt := rfl
@[simp] theorem setPort_input (s : State) (k : Nat) (x : Port) : (setPort s k x).input = s.input := rfl
@[simp] theorem setPort_didtDn (s : State) (k : Nat) (x : Port) : (setPort s k x).didtDn = s.didtDn := rfl
@[simp] theorem setPort_modid (s : State) (k : Nat) (x : Port) : (setPort s k x).modid = s.modid := rfl
@[simp] theorem setPort_minw (s : State) (k : Nat) (x : Port) : (setPort s k x).minw = s.minw := rfl
@[simp] theorem setPort_partmap (s : State) (k : Nat) (x : Port) : (setPort s k x).partmap = s.partmap := rfl
@[simp] theorem setPort_fpart (s : State) (k : Nat) (x : Port) : (setPort s k x).fpart = s.fpart := rfl
@[simp] theorem setPort_secure (s : State) (k : Nat) (x : Port) : (setPort s k x).secure = s.secure := rfl
@[simp] theorem setPort_hold (s : State) (k : Nat) (x : Port) : (setPort s k x).hold = s.hold := rfl
@[simp] theorem setPort_preempting (s : State) (k : Nat) (x : Port) : (setPort s k x).preempting = s.preempting := rfl
@[simp] theorem setPort_svload (s : State) (k : Nat) (x : Port) : (setPort s k x).svload = s.svload := rfl
@[simp] theorem setPort_svAddr (s : State) (k : Nat) (x : Port) : (setPort s k x).svAddr = s.svAddr := rfl
@[simp] theorem setPort_rasCe (s : State) (k : Nat) (x : Port) : (setPort s k x).rasCe = s.rasCe := rfl
@[simp] theorem setPort_rasUe (s : State) (k : Nat) (x : Port) : (setPort s k x).rasUe = s.rasUe := rfl
@[simp] theorem setPort_rasRes (s : State) (k : Nat) (x : Port) : (setPort s k x).rasRes = s.rasRes := rfl
@[simp] theorem setPort_devReady (s : State) (k : Nat) (x : Port) : (setPort s k x).devReady = s.devReady := rfl
@[simp] theorem setPort_bring (s : State) (k : Nat) (x : Port) : (setPort s k x).bring = s.bring := rfl
@[simp] theorem setPort_retcl (s : State) (k : Nat) (x : Port) : (setPort s k x).retcl = s.retcl := rfl
@[simp] theorem setPort_retlnk (s : State) (k : Nat) (x : Port) : (setPort s k x).retlnk = s.retlnk := rfl
@[simp] theorem setPort_alarm (s : State) (k : Nat) (x : Port) : (setPort s k x).alarm = s.alarm := rfl
@[simp] theorem setPort_keyLost (s : State) (k : Nat) (x : Port) : (setPort s k x).keyLost = s.keyLost := rfl
@[simp] theorem setPort_attKey (s : State) (k : Nat) (x : Port) : (setPort s k x).attKey = s.attKey := rfl
@[simp] theorem setPort_replace (s : State) (k : Nat) (x : Port) : (setPort s k x).replace = s.replace := rfl
@[simp] theorem setPort_measure (s : State) (k : Nat) (x : Port) : (setPort s k x).measure = s.measure := rfl
@[simp] theorem setPort_alarms (s : State) (k : Nat) (x : Port) : (setPort s k x).alarms = s.alarms := rfl
@[simp] theorem setPort_ports (s : State) (k : Nat) (x : Port) : (setPort s k x).ports = tset s.ports k x := rfl
@[simp] theorem setPort_flitsOut (s : State) (k : Nat) (x : Port) : (setPort s k x).flitsOut = s.flitsOut := rfl

/-! ## Records read back -/

@[simp] theorem groupOf_setGroup (s : State) (k : Nat) (x : Group) : groupOf (setGroup s k x) k = x := by simp [groupOf]

theorem groupOf_setGroup_ne (s : State) {j k : Nat} (h : j ≠ k) (x : Group) : groupOf (setGroup s k x) j = groupOf s j := by
  simp [groupOf, tgetD_tset_ne _ h]

@[simp] theorem teamOf_setGroup (s : State) (j k : Nat) (x : Group) : teamOf (setGroup s k x) j = teamOf s j := rfl
@[simp] theorem coreOf_setGroup (s : State) (j k : Nat) (x : Group) : coreOf (setGroup s k x) j = coreOf s j := rfl
@[simp] theorem clusterOf_setGroup (s : State) (j k : Nat) (x : Group) : clusterOf (setGroup s k x) j = clusterOf s j := rfl
@[simp] theorem dieOf_setGroup (s : State) (j k : Nat) (x : Group) : dieOf (setGroup s k x) j = dieOf s j := rfl
@[simp] theorem funcOf_setGroup (s : State) (j k : Nat) (x : Group) : funcOf (setGroup s k x) j = funcOf s j := rfl
@[simp] theorem queueOf_setGroup (s : State) (j k : Nat) (x : Group) : queueOf (setGroup s k x) j = queueOf s j := rfl
@[simp] theorem taskOf_setGroup (s : State) (j k : Nat) (x : Group) : taskOf (setGroup s k x) j = taskOf s j := rfl
@[simp] theorem portOf_setGroup (s : State) (j k : Nat) (x : Group) : portOf (setGroup s k x) j = portOf s j := rfl
@[simp] theorem ownerOf_setGroup (s : State) (j k : Nat) (x : Group) : ownerOf (setGroup s k x) j = ownerOf s j := rfl

@[simp] theorem groupOf_setTeam (s : State) (j k : Nat) (x : Team) : groupOf (setTeam s k x) j = groupOf s j := rfl
@[simp] theorem teamOf_setTeam (s : State) (k : Nat) (x : Team) : teamOf (setTeam s k x) k = x := by simp [teamOf]

theorem teamOf_setTeam_ne (s : State) {j k : Nat} (h : j ≠ k) (x : Team) : teamOf (setTeam s k x) j = teamOf s j := by
  simp [teamOf, tgetD_tset_ne _ h]

@[simp] theorem coreOf_setTeam (s : State) (j k : Nat) (x : Team) : coreOf (setTeam s k x) j = coreOf s j := rfl
@[simp] theorem clusterOf_setTeam (s : State) (j k : Nat) (x : Team) : clusterOf (setTeam s k x) j = clusterOf s j := rfl
@[simp] theorem dieOf_setTeam (s : State) (j k : Nat) (x : Team) : dieOf (setTeam s k x) j = dieOf s j := rfl
@[simp] theorem funcOf_setTeam (s : State) (j k : Nat) (x : Team) : funcOf (setTeam s k x) j = funcOf s j := rfl
@[simp] theorem queueOf_setTeam (s : State) (j k : Nat) (x : Team) : queueOf (setTeam s k x) j = queueOf s j := rfl
@[simp] theorem taskOf_setTeam (s : State) (j k : Nat) (x : Team) : taskOf (setTeam s k x) j = taskOf s j := rfl
@[simp] theorem portOf_setTeam (s : State) (j k : Nat) (x : Team) : portOf (setTeam s k x) j = portOf s j := rfl
@[simp] theorem ownerOf_setTeam (s : State) (j k : Nat) (x : Team) : ownerOf (setTeam s k x) j = ownerOf s j := rfl

@[simp] theorem groupOf_setCore (s : State) (j k : Nat) (x : Core) : groupOf (setCore s k x) j = groupOf s j := rfl
@[simp] theorem teamOf_setCore (s : State) (j k : Nat) (x : Core) : teamOf (setCore s k x) j = teamOf s j := rfl
@[simp] theorem coreOf_setCore (s : State) (k : Nat) (x : Core) : coreOf (setCore s k x) k = x := by simp [coreOf]

theorem coreOf_setCore_ne (s : State) {j k : Nat} (h : j ≠ k) (x : Core) : coreOf (setCore s k x) j = coreOf s j := by
  simp [coreOf, tgetD_tset_ne _ h]

@[simp] theorem clusterOf_setCore (s : State) (j k : Nat) (x : Core) : clusterOf (setCore s k x) j = clusterOf s j := rfl
@[simp] theorem dieOf_setCore (s : State) (j k : Nat) (x : Core) : dieOf (setCore s k x) j = dieOf s j := rfl
@[simp] theorem funcOf_setCore (s : State) (j k : Nat) (x : Core) : funcOf (setCore s k x) j = funcOf s j := rfl
@[simp] theorem queueOf_setCore (s : State) (j k : Nat) (x : Core) : queueOf (setCore s k x) j = queueOf s j := rfl
@[simp] theorem taskOf_setCore (s : State) (j k : Nat) (x : Core) : taskOf (setCore s k x) j = taskOf s j := rfl
@[simp] theorem portOf_setCore (s : State) (j k : Nat) (x : Core) : portOf (setCore s k x) j = portOf s j := rfl
@[simp] theorem ownerOf_setCore (s : State) (j k : Nat) (x : Core) : ownerOf (setCore s k x) j = ownerOf s j := rfl

@[simp] theorem groupOf_setCluster (s : State) (j k : Nat) (x : Cluster) : groupOf (setCluster s k x) j = groupOf s j := rfl
@[simp] theorem teamOf_setCluster (s : State) (j k : Nat) (x : Cluster) : teamOf (setCluster s k x) j = teamOf s j := rfl
@[simp] theorem coreOf_setCluster (s : State) (j k : Nat) (x : Cluster) : coreOf (setCluster s k x) j = coreOf s j := rfl
@[simp] theorem clusterOf_setCluster (s : State) (k : Nat) (x : Cluster) : clusterOf (setCluster s k x) k = x := by simp [clusterOf]

theorem clusterOf_setCluster_ne (s : State) {j k : Nat} (h : j ≠ k) (x : Cluster) : clusterOf (setCluster s k x) j = clusterOf s j := by
  simp [clusterOf, tgetD_tset_ne _ h]

@[simp] theorem dieOf_setCluster (s : State) (j k : Nat) (x : Cluster) : dieOf (setCluster s k x) j = dieOf s j := rfl
@[simp] theorem funcOf_setCluster (s : State) (j k : Nat) (x : Cluster) : funcOf (setCluster s k x) j = funcOf s j := rfl
@[simp] theorem queueOf_setCluster (s : State) (j k : Nat) (x : Cluster) : queueOf (setCluster s k x) j = queueOf s j := rfl
@[simp] theorem taskOf_setCluster (s : State) (j k : Nat) (x : Cluster) : taskOf (setCluster s k x) j = taskOf s j := rfl
@[simp] theorem portOf_setCluster (s : State) (j k : Nat) (x : Cluster) : portOf (setCluster s k x) j = portOf s j := rfl
@[simp] theorem ownerOf_setCluster (s : State) (j k : Nat) (x : Cluster) : ownerOf (setCluster s k x) j = ownerOf s j := rfl

@[simp] theorem groupOf_setDie (s : State) (j k : Nat) (x : Die) : groupOf (setDie s k x) j = groupOf s j := rfl
@[simp] theorem teamOf_setDie (s : State) (j k : Nat) (x : Die) : teamOf (setDie s k x) j = teamOf s j := rfl
@[simp] theorem coreOf_setDie (s : State) (j k : Nat) (x : Die) : coreOf (setDie s k x) j = coreOf s j := rfl
@[simp] theorem clusterOf_setDie (s : State) (j k : Nat) (x : Die) : clusterOf (setDie s k x) j = clusterOf s j := rfl
@[simp] theorem dieOf_setDie (s : State) (k : Nat) (x : Die) : dieOf (setDie s k x) k = x := by simp [dieOf]

theorem dieOf_setDie_ne (s : State) {j k : Nat} (h : j ≠ k) (x : Die) : dieOf (setDie s k x) j = dieOf s j := by
  simp [dieOf, tgetD_tset_ne _ h]

@[simp] theorem funcOf_setDie (s : State) (j k : Nat) (x : Die) : funcOf (setDie s k x) j = funcOf s j := rfl
@[simp] theorem queueOf_setDie (s : State) (j k : Nat) (x : Die) : queueOf (setDie s k x) j = queueOf s j := rfl
@[simp] theorem taskOf_setDie (s : State) (j k : Nat) (x : Die) : taskOf (setDie s k x) j = taskOf s j := rfl
@[simp] theorem portOf_setDie (s : State) (j k : Nat) (x : Die) : portOf (setDie s k x) j = portOf s j := rfl
@[simp] theorem ownerOf_setDie (s : State) (j k : Nat) (x : Die) : ownerOf (setDie s k x) j = ownerOf s j := rfl

@[simp] theorem groupOf_setFunc (s : State) (j k : Nat) (x : Func) : groupOf (setFunc s k x) j = groupOf s j := rfl
@[simp] theorem teamOf_setFunc (s : State) (j k : Nat) (x : Func) : teamOf (setFunc s k x) j = teamOf s j := rfl
@[simp] theorem coreOf_setFunc (s : State) (j k : Nat) (x : Func) : coreOf (setFunc s k x) j = coreOf s j := rfl
@[simp] theorem clusterOf_setFunc (s : State) (j k : Nat) (x : Func) : clusterOf (setFunc s k x) j = clusterOf s j := rfl
@[simp] theorem dieOf_setFunc (s : State) (j k : Nat) (x : Func) : dieOf (setFunc s k x) j = dieOf s j := rfl
@[simp] theorem funcOf_setFunc (s : State) (k : Nat) (x : Func) : funcOf (setFunc s k x) k = x := by simp [funcOf]

theorem funcOf_setFunc_ne (s : State) {j k : Nat} (h : j ≠ k) (x : Func) : funcOf (setFunc s k x) j = funcOf s j := by
  simp [funcOf, tgetD_tset_ne _ h]

@[simp] theorem queueOf_setFunc (s : State) (j k : Nat) (x : Func) : queueOf (setFunc s k x) j = queueOf s j := rfl
@[simp] theorem taskOf_setFunc (s : State) (j k : Nat) (x : Func) : taskOf (setFunc s k x) j = taskOf s j := rfl
@[simp] theorem portOf_setFunc (s : State) (j k : Nat) (x : Func) : portOf (setFunc s k x) j = portOf s j := rfl
@[simp] theorem ownerOf_setFunc (s : State) (j k : Nat) (x : Func) : ownerOf (setFunc s k x) j = ownerOf s j := rfl

@[simp] theorem groupOf_setQueue (s : State) (j k : Nat) (x : HostQueue) : groupOf (setQueue s k x) j = groupOf s j := rfl
@[simp] theorem teamOf_setQueue (s : State) (j k : Nat) (x : HostQueue) : teamOf (setQueue s k x) j = teamOf s j := rfl
@[simp] theorem coreOf_setQueue (s : State) (j k : Nat) (x : HostQueue) : coreOf (setQueue s k x) j = coreOf s j := rfl
@[simp] theorem clusterOf_setQueue (s : State) (j k : Nat) (x : HostQueue) : clusterOf (setQueue s k x) j = clusterOf s j := rfl
@[simp] theorem dieOf_setQueue (s : State) (j k : Nat) (x : HostQueue) : dieOf (setQueue s k x) j = dieOf s j := rfl
@[simp] theorem funcOf_setQueue (s : State) (j k : Nat) (x : HostQueue) : funcOf (setQueue s k x) j = funcOf s j := rfl
@[simp] theorem queueOf_setQueue (s : State) (k : Nat) (x : HostQueue) : queueOf (setQueue s k x) k = x := by simp [queueOf]

theorem queueOf_setQueue_ne (s : State) {j k : Nat} (h : j ≠ k) (x : HostQueue) : queueOf (setQueue s k x) j = queueOf s j := by
  simp [queueOf, tgetD_tset_ne _ h]

@[simp] theorem taskOf_setQueue (s : State) (j k : Nat) (x : HostQueue) : taskOf (setQueue s k x) j = taskOf s j := rfl
@[simp] theorem portOf_setQueue (s : State) (j k : Nat) (x : HostQueue) : portOf (setQueue s k x) j = portOf s j := rfl
@[simp] theorem ownerOf_setQueue (s : State) (j k : Nat) (x : HostQueue) : ownerOf (setQueue s k x) j = ownerOf s j := rfl

@[simp] theorem groupOf_setTask (s : State) (j k : Nat) (x : Task) : groupOf (setTask s k x) j = groupOf s j := rfl
@[simp] theorem teamOf_setTask (s : State) (j k : Nat) (x : Task) : teamOf (setTask s k x) j = teamOf s j := rfl
@[simp] theorem coreOf_setTask (s : State) (j k : Nat) (x : Task) : coreOf (setTask s k x) j = coreOf s j := rfl
@[simp] theorem clusterOf_setTask (s : State) (j k : Nat) (x : Task) : clusterOf (setTask s k x) j = clusterOf s j := rfl
@[simp] theorem dieOf_setTask (s : State) (j k : Nat) (x : Task) : dieOf (setTask s k x) j = dieOf s j := rfl
@[simp] theorem funcOf_setTask (s : State) (j k : Nat) (x : Task) : funcOf (setTask s k x) j = funcOf s j := rfl
@[simp] theorem queueOf_setTask (s : State) (j k : Nat) (x : Task) : queueOf (setTask s k x) j = queueOf s j := rfl
@[simp] theorem taskOf_setTask (s : State) (k : Nat) (x : Task) : taskOf (setTask s k x) k = x := by simp [taskOf]

theorem taskOf_setTask_ne (s : State) {j k : Nat} (h : j ≠ k) (x : Task) : taskOf (setTask s k x) j = taskOf s j := by
  simp [taskOf, tgetD_tset_ne _ h]

@[simp] theorem portOf_setTask (s : State) (j k : Nat) (x : Task) : portOf (setTask s k x) j = portOf s j := rfl
@[simp] theorem ownerOf_setTask (s : State) (j k : Nat) (x : Task) : ownerOf (setTask s k x) j = ownerOf s j := rfl

@[simp] theorem groupOf_setPort (s : State) (j k : Nat) (x : Port) : groupOf (setPort s k x) j = groupOf s j := rfl
@[simp] theorem teamOf_setPort (s : State) (j k : Nat) (x : Port) : teamOf (setPort s k x) j = teamOf s j := rfl
@[simp] theorem coreOf_setPort (s : State) (j k : Nat) (x : Port) : coreOf (setPort s k x) j = coreOf s j := rfl
@[simp] theorem clusterOf_setPort (s : State) (j k : Nat) (x : Port) : clusterOf (setPort s k x) j = clusterOf s j := rfl
@[simp] theorem dieOf_setPort (s : State) (j k : Nat) (x : Port) : dieOf (setPort s k x) j = dieOf s j := rfl
@[simp] theorem funcOf_setPort (s : State) (j k : Nat) (x : Port) : funcOf (setPort s k x) j = funcOf s j := rfl
@[simp] theorem queueOf_setPort (s : State) (j k : Nat) (x : Port) : queueOf (setPort s k x) j = queueOf s j := rfl
@[simp] theorem taskOf_setPort (s : State) (j k : Nat) (x : Port) : taskOf (setPort s k x) j = taskOf s j := rfl
@[simp] theorem portOf_setPort (s : State) (k : Nat) (x : Port) : portOf (setPort s k x) k = x := by simp [portOf]

theorem portOf_setPort_ne (s : State) {j k : Nat} (h : j ≠ k) (x : Port) : portOf (setPort s k x) j = portOf s j := by
  simp [portOf, tgetD_tset_ne _ h]

@[simp] theorem ownerOf_setPort (s : State) (j k : Nat) (x : Port) : ownerOf (setPort s k x) j = ownerOf s j := rfl

end Sys2Proof.Machine
end

