-- ==== Sys2Proof/Laws/Issue.lean ====
section
/-!
SUPPORT. What the issue of one bundle comes to: a lone scalar operation and a lone trigger (R86, R306, R315).
-/

namespace Sys2Proof.Machine

/-! ## A bundle that issues -/

theorem worstTrap_nil : worstTrap [] = none := rfl

theorem issueAt_stall (s : State) (gid sid : Nat) (b : Bundle) (hl : firstIllegal b = none)
    (hs : bundleStalls (delivered s gid b) gid sid b = true) :
    issueAt s gid sid b = stallBundle (delivered s gid b) gid sid b := by
  simp [issueAt, hl, hs]

theorem issueAt_trap (s : State) (gid sid : Nat) (b : Bundle) (t : TrapInfo) (hl : firstIllegal b = none)
    (hs : bundleStalls (delivered s gid b) gid sid b = false)
    (ht : worstTrap (bundleTraps (delivered s gid b) gid sid b) = some t) :
    issueAt s gid sid b = trapBundle (delivered s gid b) gid sid t
      (trapPorts (bundleMoved (delivered s gid b) gid sid b) ((bundleFires (delivered s gid b) gid sid b).map Prod.fst) t) := by
  simp [issueAt, hl, hs, checkBundle, ht]

theorem issueAt_runs (s : State) (gid sid : Nat) (b : Bundle) (hl : firstIllegal b = none)
    (hs : bundleStalls (delivered s gid b) gid sid b = false) (ht : bundleTraps (delivered s gid b) gid sid b = [])
    (hm : (bundlePlan (delivered s gid b) gid sid b).miss = []) :
    issueAt s gid sid b = issueBundle (delivered s gid b) gid sid b (groupOf (delivered s gid b) gid)
      (bundleMoved (delivered s gid b) gid sid b) (readMoves (delivered s gid b) gid sid b)
      (bundleFires (delivered s gid b) gid sid b) (bundleScalar (delivered s gid b) gid sid b) := by
  simp [issueAt, hl, hs, checkBundle, ht, hm, worstTrap_nil]

theorem issue_cur (s : State) (gid sid : Nat) (b : Bundle) (hc : s.cur = some (gid, sid)) :
    issue b s = .next (issueAt s gid sid b) := by simp [issue, hc]

/-! ## A lone scalar operation -/

@[simp] theorem bundleMoves_scalar (op : ScalarOp) : bundleMoves (scalarBundle op) = [] := rfl

@[simp] theorem readMoves_scalar (s : State) (gid sid : Nat) (op : ScalarOp) : readMoves s gid sid (scalarBundle op) = [] := rfl

@[simp] theorem bundleMoved_scalar (s : State) (gid sid : Nat) (op : ScalarOp) :
    bundleMoved s gid sid (scalarBundle op) = { groupOf s gid with mPrev := [] } := rfl

@[simp] theorem bundleFires_scalar (s : State) (gid sid : Nat) (op : ScalarOp) : bundleFires s gid sid (scalarBundle op) = [] := rfl

theorem firstIllegal_scalar (op : ScalarOp) : firstIllegal (scalarBundle op) = if scalarLegal op then none else some 6 := rfl

@[simp] theorem portStall_scalar (g : Group) (sid : Nat) (op : ScalarOp) : portStall g sid (scalarBundle op) = false := rfl

@[simp] theorem clearsFstat_scalar (op : ScalarOp) : clearsFstat (scalarBundle op) = false := rfl

@[simp] theorem usesStatus_scalar (op : ScalarOp) : usesStatus (scalarBundle op) = usesFstat op := rfl

@[simp] theorem firesOf_nil (g : Group) (h : Nat) (inj : Option Inject) : firesOf g h [] inj = [] := rfl

@[simp] theorem countersFull_nil (g : Group) (h : Nat) : countersFull g h [] = false := rfl

theorem bundleStalls_scalar (s : State) (gid sid : Nat) (op : ScalarOp) :
    bundleStalls s gid sid (scalarBundle op) =
      ((scalarPending (groupOf s gid) (halfOf (groupOf s gid) sid)).any
          (fun i => decide (i ≠ 0) && (scalarRegs op ++ eretRegs (groupOf s gid) op).contains i) ||
        scalarStalls s gid sid op || memoryStall s gid sid (scalarBundle op)) := by
  have h : (scalarBundle op).scalar = some op := rfl
  simp only [bundleStalls, portStall_scalar, otherStall, bundleMoves_scalar, clearsFstat_scalar, readMoves_scalar, firesOf_nil, h]
  simp

theorem bundleScalar_plain (s : State) (gid sid : Nat) (op : ScalarOp) (hi : (groupOf s gid).inject = none) :
    bundleScalar s gid sid (scalarBundle op) = scalarPlan s gid sid (splitOf (groupOf s gid) sid).pc op := by
  have h : (scalarBundle op).scalar = some op := rfl
  simp [bundleScalar, injectFor, hi, h]

theorem planJoin_empty (p : Plan) : planJoin {} p = p := rfl

theorem bundlePlan_scalar (s : State) (gid sid : Nat) (op : ScalarOp) (hi : (groupOf s gid).inject = none) :
    bundlePlan s gid sid (scalarBundle op) = scalarPlan s gid sid (splitOf (groupOf s gid) sid).pc op := by
  simp [bundlePlan, bundleScalar_plain, hi, planAll, planJoin_empty]

theorem bundleTraps_scalar (s : State) (gid sid : Nat) (op : ScalarOp) (hi : (groupOf s gid).inject = none) :
    bundleTraps s gid sid (scalarBundle op) = (scalarPlan s gid sid (splitOf (groupOf s gid) sid).pc op).traps := by
  simp [bundleTraps, bundlePlan_scalar, hi, moveTraps]

/-- The state in which a lone scalar operation acts: its group's due results are delivered, its counts made (R86, R89). -/
abbrev scalarBase (s : State) (gid sid : Nat) (op : ScalarOp) : State :=
  let d := delivered s gid (scalarBundle op)
  issuedMoves d gid sid (scalarBundle op) (groupOf d gid) { groupOf d gid with mPrev := [] } []

/-- A lone scalar operation with sound operands kills no lane. -/
theorem bundleKill_scalar (g0 g2 : Group) (sid : Nat) (op : ScalarOp) (hp : scalarPoisoned g0 sid (scalarBundle op) = false) :
    bundleKill g0 g2 sid (scalarBundle op) [] = (0, 0) := by
  simp [bundleKill, hp, killedBy]

theorem issueBundle_scalar (s : State) (gid sid : Nat) (op : ScalarOp) (p : Plan) (g0 g2 : Group) (hi : g0.inject = none)
    (hp : scalarPoisoned g0 sid (scalarBundle op) = false) :
    issueBundle s gid sid (scalarBundle op) g0 g2 [] [] p =
      bundleEnd gid sid (scalarRun (issuedMoves s gid sid (scalarBundle op) g0 g2 []) gid sid g0 g0.opId
        (splitOf g0 sid).pc op (p.reads ++ p.accs) none) 0 0 := by
  have h : (scalarBundle op).scalar = some op := rfl
  have ho : scalarOpPoisoned g0 sid (scalarBundle op) = false := by simpa [scalarPoisoned] using hp
  simp [issueBundle, scalarStep, bundleKill_scalar _ _ _ _ hp, ho, h, injectFor, hi]

/-! ## Delivery changes flags and results only (R89) -/

theorem deliverLanes_frame (g : Group) (r : Result) (m : Mask) :
    (deliverLanes g r m).1 = { g with fstat := (deliverLanes g r m).1.fstat, deadSrc := (deliverLanes g r m).1.deadSrc,
                                      deadSrcH := (deliverLanes g r m).1.deadSrcH } := rfl

theorem deliverWhere_frame (p : Result → Bool) (rs : List Result) : ∀ g : Group,
    (deliverWhere p g rs).1 = { g with fstat := (deliverWhere p g rs).1.fstat, deadSrc := (deliverWhere p g rs).1.deadSrc,
                                       deadSrcH := (deliverWhere p g rs).1.deadSrcH } := by
  induction rs with
  | nil => intro g; rfl
  | cons r rs ih =>
    intro g
    simp only [deliverWhere]
    split
    · rw [ih]; rfl
    · rw [ih]

theorem deliverDue_frame (g : Group) :
    deliverDue g = { g with fstat := (deliverDue g).fstat, deadSrc := (deliverDue g).deadSrc, deadSrcH := (deliverDue g).deadSrcH,
                            image := (deliverDue g).image } := by
  simp only [deliverDue]
  rw [deliverWhere_frame]

theorem deliverAll_frame (g : Group) :
    deliverAll g = { g with fstat := (deliverAll g).fstat, deadSrc := (deliverAll g).deadSrc, deadSrcH := (deliverAll g).deadSrcH,
                            image := (deliverAll g).image, user := (deliverAll g).user } := by
  unfold deliverAll
  generalize hx : deliverWhere _ g _ = x
  have h := deliverWhere_frame (fun r => fixedLatency r.unit) g.image.results g
  rw [hx] at h
  obtain ⟨y, rs⟩ := x
  dsimp only at h ⊢
  generalize hu : y.user = u
  cases u with
  | none => rw [h]
  | some u =>
    dsimp only
    generalize hz : deliverWhere _ _ u.results = z
    have h2 := deliverWhere_frame (fun r => fixedLatency r.unit) u.results
      { y with image := settle { y.image with results := rs }, user := some u }
    rw [hz] at h2
    obtain ⟨w, qs⟩ := z
    dsimp only at h2 ⊢
    rw [h2, h]

theorem groupOf_delivered (s : State) (gid : Nat) (b : Bundle) : groupOf (delivered s gid b) gid = deliverFor (groupOf s gid) b := by
  simp [delivered]

theorem deliverFor_frame (g : Group) (b : Bundle) :
    deliverFor g b = { g with fstat := (deliverFor g b).fstat, deadSrc := (deliverFor g b).deadSrc,
                              deadSrcH := (deliverFor g b).deadSrcH, image := (deliverFor g b).image, user := (deliverFor g b).user } := by
  unfold deliverFor
  split
  · rw [deliverAll_frame]
  · rw [deliverDue_frame]

/-! ## Counts of an issue -/

@[simp] theorem lanesDie_zero (s : State) (gid sid slot next : Nat) : lanesDie s gid sid 0 slot next = s := by simp [lanesDie]

theorem countCluster_groupOf (s : State) (gid : Nat) (g : Group) (b : Bundle) (k : Nat) : groupOf (countCluster s gid g b) k = groupOf s k := by
  unfold countCluster
  split <;> rfl

theorem countCluster_frame (s : State) (gid : Nat) (g : Group) (b : Bundle) :
    countCluster s gid g b = { s with cores := (countCluster s gid g b).cores, clusters := (countCluster s gid g b).clusters } := by
  unfold countCluster
  split <;> rfl

theorem countCluster_core (s : State) (gid : Nat) (g : Group) (b : Bundle) (k : Nat) :
    coreOf (countCluster s gid g b) k = { coreOf s k with weir := (coreOf (countCluster s gid g b) k).weir } := by
  unfold countCluster
  split
  · rfl
  · rename_i cl _
    by_cases h : k = coreOfCluster cl
    · subst h; simp
    · simp [coreOf_setCore_ne _ h]

theorem countCluster_cluster (s : State) (gid : Nat) (g : Group) (b : Bundle) (k : Nat) :
    clusterOf (countCluster s gid g b) k = { clusterOf s k with cycles := (clusterOf (countCluster s gid g b) k).cycles } := by
  unfold countCluster
  split
  · rfl
  · rename_i cl _
    by_cases h : k = cl
    · subst h; simp
    · simp [clusterOf_setCluster_ne _ h]

theorem countIssue_frame (g : Group) (sid la : Nat) (ids : List Nat) (n : Nat) (y : Option Nat) :
    countIssue g sid la ids n y =
      { g with image := { g.image with count := g.image.count + 1 }, splits := (countIssue g sid la ids n y).splits, opId := n
               readySince := none, yieldUntil := y.orElse fun _ => g.yieldUntil
               seamWait := if g.super then g.seamWait else g.seamWait.filter fun w => decide (w.split ≠ sid)
               inject := if g.super then g.inject else none } := rfl

@[simp] theorem performFirst_nil (s : State) (gid id : Nat) : performFirst s gid id [] = s := rfl

theorem issuedMoves_groupOf (s : State) (gid sid : Nat) (b : Bundle) (g0 g2 : Group) :
    groupOf (issuedMoves s gid sid b g0 g2 []) gid = countIssue g2 sid b.la.toNat [] (g0.opId + 1) (yieldOf (setGroup s gid g2) gid g0 b) := by
  simp [issuedMoves, countCluster_groupOf, fireAll, coveredIds]

theorem issuedMoves_other (s : State) (gid sid : Nat) (b : Bundle) (g0 g2 : Group) {k : Nat} (h : k ≠ gid) :
    groupOf (issuedMoves s gid sid b g0 g2 []) k = groupOf s k := by
  simp [issuedMoves, countCluster_groupOf, fireAll, groupOf_setGroup_ne _ h]

theorem issuedMoves_frame (s : State) (gid sid : Nat) (b : Bundle) (g0 g2 : Group) :
    issuedMoves s gid sid b g0 g2 [] = { s with groups := (issuedMoves s gid sid b g0 g2 []).groups
                                                cores := (issuedMoves s gid sid b g0 g2 []).cores
                                                clusters := (issuedMoves s gid sid b g0 g2 []).clusters } := by
  unfold issuedMoves
  dsimp only
  rw [countCluster_frame]
  rfl

theorem issuedMoves_core (s : State) (gid sid : Nat) (b : Bundle) (g0 g2 : Group) (k : Nat) :
    coreOf (issuedMoves s gid sid b g0 g2 []) k = { coreOf s k with weir := (coreOf (issuedMoves s gid sid b g0 g2 []) k).weir } := by
  unfold issuedMoves
  dsimp only
  rw [countCluster_core]
  rfl

theorem issuedMoves_cluster (s : State) (gid sid : Nat) (b : Bundle) (g0 g2 : Group) (k : Nat) :
    clusterOf (issuedMoves s gid sid b g0 g2 []) k =
      { clusterOf s k with cycles := (clusterOf (issuedMoves s gid sid b g0 g2 []) k).cycles } := by
  unfold issuedMoves
  dsimp only
  rw [countCluster_cluster]
  rfl

end Sys2Proof.Machine
end

