-- ==== Sys2Proof/Laws/Exec.lean ====
section
/-!
SUPPORT. The arms of exec by the bundle an instruction stands for.
-/

namespace Sys2Proof.Machine

theorem exec_toBundle (i : Instr) (b : Bundle) (s : State) (h : toBundle i = some b) : exec i s = issue b s := by
  cases i <;> simp only [toBundle, Option.some.injEq, reduceCtorEq] at h <;> subst h <;> rfl

end Sys2Proof.Machine
end

