-- ==== Sys2Proof/Laws/Scalar.lean ====
section
/-!
SUPPORT. A lone scalar operation that issues (R86): what its issue leaves alone, and its effect on the state that is left.
-/

namespace Sys2Proof.Machine

open Sys2Proof.Safety

theorem onlyGroup_setGroup {s u : State} {gid : Nat} (g : Group) (h : OnlyGroup s u gid) : OnlyGroup s (setGroup u gid g) gid := by
  obtain ⟨h1, h2, h3, h4⟩ := h
  refine ⟨?_, fun k hk => by rw [groupOf_setGroup_ne _ hk, h2 k hk], fun k => h3 k, fun k => h4 k⟩
  simp only [setGroup]
  rw [h1]

theorem issuedMoves_onlyGroup (s : State) (gid sid : Nat) (b : Bundle) (g0 g2 : Group) :
    OnlyGroup s (issuedMoves s gid sid b g0 g2 []) gid := by
  refine ⟨?_, ?_, ?_, ?_⟩
  · rw [issuedMoves_frame]
  · intro k hk; rw [issuedMoves_other _ _ _ _ _ _ hk]
  · intro k; rw [issuedMoves_core]
  · intro k; rw [issuedMoves_cluster]

theorem seen_inject {s : State} {gid : Nat} {b : Bundle} (h : (groupOf s gid).inject = none) : (seen s gid b).inject = none := by
  unfold seen
  rw [deliverFor_frame]
  exact h

/-! ## Splits under the counts of an issue -/

theorem tget_map {α β : Type} (f : Nat × α → β) (t : Table α) (k : Nat) :
    tget (t.map fun e => (e.1, f e)) k = (tget t k).map fun a => f (k, a) := by
  induction t with
  | nil => rfl
  | cons e r ih =>
    obtain ⟨j, a⟩ := e
    by_cases h : j = k <;> simp_all [tget]

theorem splitOf_setSplit_ne (g : Group) {k sid : Nat} (h : k ≠ sid) (x : Split) : splitOf (setSplit g sid x) k = splitOf g k := by
  simp [splitOf, setSplit, tgetD_tset_ne _ h]

@[simp] theorem splitOf_setSplit (g : Group) (sid : Nat) (x : Split) : splitOf (setSplit g sid x) sid = x := by simp [splitOf, setSplit]

theorem countOthers_split (g : Group) (sid k : Nat) :
    splitOf (countOthers g sid) k =
      { splitOf g k with held := (splitOf (countOthers g sid) k).held, waiting := (splitOf (countOthers g sid) k).waiting } := by
  have hk := tget_map (fun e : Nat × Split => if e.1 = sid then { e.2 with waiting := 0 } else
    { e.2 with held := e.2.held.map (· + 1), waiting := if eligible g e.1 then e.2.waiting + 1 else e.2.waiting }) g.splits k
  have hm : (countOthers g sid).splits = g.splits.map fun e => (e.1, if e.1 = sid then { e.2 with waiting := 0 } else
    { e.2 with held := e.2.held.map (· + 1), waiting := if eligible g e.1 then e.2.waiting + 1 else e.2.waiting }) := by
    simp only [countOthers]
    congr 1
    funext e
    split <;> rfl
  simp only [splitOf, tgetD, hm, hk]
  cases h : tget g.splits k with
  | none => rfl
  | some x => simp only [Option.map_some, Option.getD_some]; split <;> rfl

theorem countIssue_split (g : Group) (sid la n k : Nat) (ids : List Nat) (y : Option Nat) :
    splitOf (countIssue g sid la ids n y) k =
      { splitOf g k with
        la := (splitOf (countIssue g sid la ids n y) k).la, held := (splitOf (countIssue g sid la ids n y) k).held
        waiting := (splitOf (countIssue g sid la ids n y) k).waiting, counted := (splitOf (countIssue g sid la ids n y) k).counted } := by
  have hc : ∀ j, splitOf (countIssue g sid la ids n y) j =
      splitOf (countOthers (setSplit { g with image := { g.image with count := g.image.count + 1 } } sid
        { splitOf { g with image := { g.image with count := g.image.count + 1 } } sid with
          la := laAfter { g with image := { g.image with count := g.image.count + 1 } }
            (splitOf { g with image := { g.image with count := g.image.count + 1 } } sid) ids la, counted := false }) sid) j := fun _ => rfl
  rw [hc]
  by_cases h : k = sid
  · subst h; rw [countOthers_split, splitOf_setSplit]; rfl
  · rw [countOthers_split, splitOf_setSplit_ne _ h]; rfl

theorem counted_countIssue (g : Group) (sid la n : Nat) (ids : List Nat) :
    Counted g (countIssue { g with mPrev := [] } sid la ids n none) := by
  refine ⟨countIssue_frame _ _ _ _ _ _, ?_, fun _ => countIssue_split _ _ _ _ _ _ _⟩
  rw [countIssue_frame]
  dsimp only
  split
  · exact .inl rfl
  · cases g.seamWait with
    | none => exact .inl rfl
    | some w => by_cases h : w.split = sid <;> simp [Option.filter, h]

/-! ## The group as its bundle sees it -/

theorem halfOf_seen (s : State) (gid sid : Nat) (b : Bundle) : halfOf (seen s gid b) sid = half s gid sid := by
  unfold seen half; rw [deliverFor_frame]; rfl

theorem sget_seen (s : State) (gid : Nat) (b : Bundle) (h i : Nat) : sget (seen s gid b) h i = sget (groupOf s gid) h i := by
  unfold seen; rw [deliverFor_frame]; rfl

theorem splitOf_seen (s : State) (gid sid : Nat) (b : Bundle) : splitOf (seen s gid b) sid = splitOf (groupOf s gid) sid := by
  unfold seen; rw [deliverFor_frame]; rfl

theorem scalarT_seen (s : State) (gid sid : Nat) (b : Bundle) (sb : BitVec 6) (imm : BitVec 22) :
    scalarT (seen s gid b) (halfOf (seen s gid b) sid) sb imm = operandT s gid sid sb imm := by
  unfold scalarT operandT sreg; rw [halfOf_seen, sget_seen]

theorem seen_delivered (s : State) (gid : Nat) (b : Bundle) : groupOf (delivered s gid b) gid = seen s gid b := groupOf_delivered _ _ _

theorem issueOf_pc {s w : State} {gid : Nat} {b : Bundle} (h : IssueOf s gid b w) (sid : Nat) : pcOf w gid sid = pcOf s gid sid := by
  unfold pcOf; rw [h.2.2.2 sid, seen_delivered, splitOf_seen]

theorem issueOf_lw {s w : State} {gid : Nat} {b : Bundle} (h : IssueOf s gid b w) : (groupOf w gid).lw = (groupOf s gid).lw := by
  rw [h.2.1, seen_delivered]; unfold seen; rw [deliverFor_frame]

theorem issueOf_half {s w : State} {gid : Nat} {b : Bundle} (h : IssueOf s gid b w) (sid : Nat) : half w gid sid = half s gid sid := by
  unfold half halfOf; rw [issueOf_lw h]

/-! ## The issue -/

/-- What a lone scalar operation that issues comes to: its effect (`scalarRun`) acts on a state in which nothing has changed but the counts
of the issue. -/
theorem scalar_issues {s : State} {gid sid : Nat} {op : ScalarOp} (h : Issues s gid sid (scalarBundle op)) :
    ∃ w, IssueOf s gid (scalarBundle op) w ∧
      issue (scalarBundle op) s = .next (bundleEnd gid sid (scalarRun w gid sid (seen s gid (scalarBundle op))
        (seen s gid (scalarBundle op)).opId (pcOf s gid sid) op
        ((scalarPlan (delivered s gid (scalarBundle op)) gid sid (pcOf s gid sid) op).reads ++
          (scalarPlan (delivered s gid (scalarBundle op)) gid sid (pcOf s gid sid) op).accs) none) 0 0) := by
  obtain ⟨⟨⟨⟨hc, hi⟩, hl, hs⟩, ht, hm⟩, hsp⟩ := h
  have hj : (groupOf (delivered s gid (scalarBundle op)) gid).inject = none := by rw [groupOf_delivered]; exact seen_inject hi
  have hp : (splitOf (seen s gid (scalarBundle op)) sid).pc = pcOf s gid sid := by rw [splitOf_seen]; rfl
  refine ⟨_, ⟨issuedMoves_onlyGroup (delivered s gid (scalarBundle op)) gid sid (scalarBundle op) (seen s gid (scalarBundle op))
    { seen s gid (scalarBundle op) with mPrev := [] }, ?_⟩, ?_⟩
  · rw [issuedMoves_groupOf, seen_delivered]; exact counted_countIssue _ _ _ _ _
  · rw [issue_cur _ _ _ _ hc, issueAt_runs _ _ _ _ hl hs ht hm]
    rw [bundleFires_scalar, readMoves_scalar, bundleMoved_scalar, issueBundle_scalar _ _ _ _ _ _ _ hj (by rw [groupOf_delivered]; exact hsp), bundleScalar_plain _ _ _ _ hj,
      groupOf_delivered]
    rw [← hp]
    rfl

/-! ## What a claim about a scalar operation needs -/

/-- A scalar operation without checks issues wherever it runs. -/
theorem issues_of_runs {s : State} {gid sid : Nat} {op : ScalarOp} (h : Runs s gid sid (scalarBundle op))
    (hp : ∀ s gid sid pc, scalarPlan s gid sid pc op = {}) : Issues s gid sid (scalarBundle op) := by
  have hj : (groupOf (delivered s gid (scalarBundle op)) gid).inject = none := by rw [groupOf_delivered]; exact seen_inject h.1.1.2
  refine ⟨⟨h.1, ?_, ?_⟩, h.2⟩
  · rw [bundleTraps_scalar _ _ _ _ hj, hp]
  · rw [bundlePlan_scalar _ _ _ _ hj, hp]

/-- The traps of a scalar operation that issues. -/
theorem scalarPlan_of_issues {s : State} {gid sid : Nat} {op : ScalarOp} (h : Issues s gid sid (scalarBundle op)) :
    (scalarPlan (delivered s gid (scalarBundle op)) gid sid (pcOf s gid sid) op).traps = [] ∧
      (scalarPlan (delivered s gid (scalarBundle op)) gid sid (pcOf s gid sid) op).miss = [] := by
  have hj : (groupOf (delivered s gid (scalarBundle op)) gid).inject = none := by rw [groupOf_delivered]; exact seen_inject h.1.1.1.2
  have hp : (splitOf (groupOf (delivered s gid (scalarBundle op)) gid) sid).pc = pcOf s gid sid := by
    rw [seen_delivered, splitOf_seen]; rfl
  obtain ⟨⟨-, ht, hm⟩, -⟩ := h
  rw [bundleTraps_scalar _ _ _ _ hj, hp] at ht
  rw [bundlePlan_scalar _ _ _ _ hj, hp] at hm
  exact ⟨ht, hm⟩

theorem bundleEnd_plain (gid sid : Nat) (x : ScalarOut) (h1 : x.trap = none) (h2 : x.poison = false) :
    bundleEnd gid sid x 0 0 = x.state := by
  simp only [bundleEnd, h1, h2, Bool.false_eq_true, if_false, lanesDie_zero]

theorem sreg_seen (s : State) (gid sid : Nat) (b : Bundle) (i : BitVec 6) :
    sget (seen s gid b) (halfOf (seen s gid b) sid) i.toNat = sreg s gid sid i := by
  rw [halfOf_seen, sget_seen]; rfl

theorem writeS_putS {s w : State} {gid : Nat} {b : Bundle} (hw : IssueOf s gid b w) (sid : Nat) (sd : BitVec 6) (v : DWord) :
    writeS w gid (half s gid sid) sd.toNat v = putS w gid sid sd v := by
  unfold putS; rw [issueOf_half hw]

theorem pcOf_putS (w : State) (gid sid : Nat) (sd : BitVec 6) (v : DWord) : pcOf (putS w gid sid sd v) gid sid = pcOf w gid sid := by
  unfold pcOf putS writeS; rw [groupOf_setGroup]; unfold sput; split <;> rfl

theorem setPc_putS {s w : State} {gid : Nat} {b : Bundle} (hw : IssueOf s gid b w) (sid : Nat) (sd : BitVec 6) (v : DWord) :
    setPc (putS w gid sid sd v) gid sid (nextPc (pcOf s gid sid)) = goesOn (putS w gid sid sd v) gid sid := by
  unfold goesOn; rw [pcOf_putS, issueOf_pc hw]

theorem activeMask_seen (s : State) (gid sid : Nat) (b : Bundle) : activeMask (seen s gid b) sid = activeMask (groupOf s gid) sid := by
  unfold activeMask; rw [splitOf_seen]; unfold seen liveMask; rw [deliverFor_frame]

theorem condLanes_seen (s : State) (gid sid : Nat) (b : Bundle) (inv : Bool) (mask : BitVec 4) :
    condLanes (seen s gid b) sid inv mask = condOf s gid sid inv mask := by
  unfold condLanes condOf
  dsimp only
  rw [activeMask_seen, show mget (seen s gid b) mask.toNat = mget (groupOf s gid) mask.toNat by unfold seen; rw [deliverFor_frame]; rfl]
  cases inv <;> rfl

theorem branchTo_away {n : Nat} {s : State} {gid sid : Nat} {off : BitVec n} (h : branchTraps (pcOf s gid sid) off = []) (d : Nat) :
    (branchTo (pcOf s gid sid) off).getD d = bundleAway s gid sid off := by
  unfold branchTo bundleAway
  dsimp only
  split
  · rfl
  · rename_i hn
    simp [branchTraps, trapIf, slotTrap, branchTo, hn] at h

end Sys2Proof.Machine
end

