-- ==== Sys2Proof/Laws/Lane.lean ====
section
/-!
SUPPORT. A lone trigger that issues (R86, R87): the trigger that fires, and what its issue comes to.
-/

namespace Sys2Proof.Machine

open Sys2Proof.Safety

/-- The move of a lone trigger, as read. -/
def loneMoved (s : State) (gid sid : Nat) (t : Trigger) (g : Guard) (src : Src) : Moved :=
  { slot := 0, mv := { g := g, dst := .trig t, src := src }, lanes := guardLanes (groupOf s gid) sid g
    val := srcValue s gid sid (triggerBundle t g src) src
    uval := uniformValue (groupOf s gid) (halfOf (groupOf s gid) sid) (triggerBundle t g src) src
    poison := (guardLanes (groupOf s gid) sid g &&& srcPoison (groupOf s gid) (halfOf (groupOf s gid) sid) src) ||| guardPoison (groupOf s gid) sid g }

@[simp] theorem bundleMoves_trigger (t : Trigger) (g : Guard) (src : Src) :
    bundleMoves (triggerBundle t g src) = [(0, { g := g, dst := .trig t, src := src })] := rfl

@[simp] theorem readMoves_trigger (s : State) (gid sid : Nat) (t : Trigger) (g : Guard) (src : Src) :
    readMoves s gid sid (triggerBundle t g src) = [loneMoved s gid sid t g src] := rfl

@[simp] theorem bundleMoved_trigger (s : State) (gid sid : Nat) (t : Trigger) (g : Guard) (src : Src) :
    bundleMoved s gid sid (triggerBundle t g src) = { groupOf s gid with mPrev := [] } := rfl

@[simp] theorem bundleScalar_trigger (s : State) (gid sid : Nat) (t : Trigger) (g : Guard) (src : Src) :
    bundleScalar s gid sid (triggerBundle t g src) = {} := rfl

theorem planJoin_none (p : Plan) : planJoin p {} = p := by simp [planJoin]

/-- The lanes in which a lone trigger's operands are there and not poisoned, among those of its guard. -/
def loneLanes (s : State) (gid sid : Nat) (t : Trigger) (g : Guard) (src : Src) : Mask :=
  let m := loneMoved s gid sid t g src
  if unitUniform (triggerUnit t) then m.lanes
  else (latchesRead t).foldl (fun c l => let x := latchOf' (groupOf s gid).image (triggerUnit t) l; c &&& x.full &&& ~~~x.poison)
    (m.lanes &&& ~~~m.poison &&& ~~~windowPoison { groupOf s gid with mPrev := [] } (halfOf (groupOf s gid) sid) (triggerUnit t))

/-- The fire of a lone trigger, as the bundle's moves give it. -/
def loneRaw (s : State) (gid sid : Nat) (t : Trigger) (g : Guard) (src : Src) : Fire :=
  { slot := 0, op := t, lanes := loneLanes s gid sid t g src, val := (loneMoved s gid sid t g src).val
    uval := (loneMoved s gid sid t g src).uval, inj := none }

/-- Whether a lone uniform trigger fires: no operand of it is poisoned. -/
def loneFires (s : State) (gid sid : Nat) (t : Trigger) (g : Guard) (src : Src) : Prop :=
  (unitUniform (triggerUnit t) && decide (uniformKill { groupOf s gid with mPrev := [] } (halfOf (groupOf s gid) sid)
    (loneMoved s gid sid t g src) t ≠ 0)) = false

theorem firesOf_trigger {s : State} {gid sid : Nat} {t : Trigger} {g : Guard} {src : Src} (hf : loneFires s gid sid t g src) :
    firesOf { groupOf s gid with mPrev := [] } (halfOf (groupOf s gid) sid) [loneMoved s gid sid t g src] none =
      [loneRaw s gid sid t g src] := by
  have hd : (loneMoved s gid sid t g src).mv.dst = .trig t := rfl
  simp only [firesOf, List.filterMap_cons, List.filterMap_nil, Option.bind_none, hd]
  rw [show (unitUniform (triggerUnit t) && decide (uniformKill { groupOf s gid with mPrev := [] } (halfOf (groupOf s gid) sid)
    (loneMoved s gid sid t g src) t ≠ 0)) = false from hf]
  have h : ∀ x : Fire, ([x].filter fun f => triggerUnit f.op == .ld) ++ ([x].filter fun f => triggerUnit f.op == .st) ++
      ([x].filter fun f => !(triggerUnit f.op == .ld) && !(triggerUnit f.op == .st)) = [x] := by
    intro x
    by_cases h1 : triggerUnit x.op = .ld
    · simp [h1]
    · by_cases h2 : triggerUnit x.op = .st <;> simp [h1, h2]
  exact h _

theorem foldl_and_full (im : Image) (u : FUnit) (ls : List LatchName) : ∀ m : Mask,
    (∀ l ∈ ls, m &&& ~~~(latchOf' im u l).full = 0 ∧ m &&& (latchOf' im u l).poison = 0) →
    ls.foldl (fun c l => let x := latchOf' im u l; c &&& x.full &&& ~~~x.poison) m = m := by
  induction ls with
  | nil => intro m _; rfl
  | cons l ls ih =>
    intro m h
    have hl := h l (by simp)
    have e : m &&& (latchOf' im u l).full &&& ~~~(latchOf' im u l).poison = m := by
      ext i hi
      have h1 := congrArg (fun x : Mask => x.getLsbD i) hl.1
      have h2 := congrArg (fun x : Mask => x.getLsbD i) hl.2
      simp [hi] at h1 h2 ⊢
      cases hm : m[i] with
      | false => rfl
      | true => simp [h1 hm, h2 hm]
    rw [List.foldl_cons]
    simp only [e]
    exact ih m fun k hk => h k (by simp [hk])

theorem foldl_or_zero {α : Type} (f : α → Mask) (ls : List α) : ∀ k : Mask,
    ls.foldl (fun k l => k ||| f l) k = 0 → k = 0 ∧ ∀ l ∈ ls, f l = 0 := by
  induction ls with
  | nil => intro k h; exact ⟨h, by simp⟩
  | cons l ls ih =>
    intro k h
    obtain ⟨h1, h2⟩ := ih _ h
    have h3 : k = 0 ∧ f l = 0 := by
      constructor <;> ext i hi <;>
      · have := congrArg (fun x : Mask => x.getLsbD i) h1
        simp [hi] at this ⊢
        first | exact this.1 | exact this.2
    exact ⟨h3.1, by simpa using ⟨h3.2, h2⟩⟩

/-- A lone trigger that kills no lane reads no poisoned value in a lane of its guard. -/
theorem lone_clean {s : State} {gid sid : Nat} {t : Trigger} {g : Guard} {src : Src}
    (hk : killedBy { groupOf s gid with mPrev := [] } (halfOf (groupOf s gid) sid) [loneMoved s gid sid t g src] = (0, 0)) :
    (unitUniform (triggerUnit t) = true →
      uniformKill { groupOf s gid with mPrev := [] } (halfOf (groupOf s gid) sid) (loneMoved s gid sid t g src) t = 0) ∧
    (unitUniform (triggerUnit t) = false → (loneMoved s gid sid t g src).poison = 0 ∧
      (loneMoved s gid sid t g src).lanes &&& windowPoison { groupOf s gid with mPrev := [] } (halfOf (groupOf s gid) sid) (triggerUnit t) = 0 ∧
      ∀ l ∈ latchesRead t, (loneMoved s gid sid t g src).lanes &&& (latchOf' (groupOf s gid).image (triggerUnit t) l).poison = 0) := by
  have hk1 := congrArg Prod.fst hk
  simp only [killedBy, List.foldl_cons, List.foldl_nil] at hk1
  have hd : (loneMoved s gid sid t g src).mv.dst = .trig t := rfl
  rw [hd] at hk1
  have hz : ∀ x : Mask, 0 ||| x = x := fun x => by simp
  dsimp only at hk1
  rw [hz] at hk1
  by_cases hu : unitUniform (triggerUnit t) = true
  · rw [if_pos hu] at hk1
    exact ⟨fun _ => hk1, fun h => by simp [h] at hu⟩
  · rw [if_neg hu] at hk1
    obtain ⟨hp, hl⟩ := foldl_or_zero _ _ _ hk1
    obtain ⟨hp1, hp2⟩ := foldl_or_zero (fun x : Mask => x) [_] _ hp
    exact ⟨fun h => absurd h hu, fun _ => ⟨hp1, hp2 _ (by simp), hl⟩⟩

theorem loneFires_clean {s : State} {gid sid : Nat} {t : Trigger} {g : Guard} {src : Src}
    (hk : killedBy { groupOf s gid with mPrev := [] } (halfOf (groupOf s gid) sid) [loneMoved s gid sid t g src] = (0, 0)) :
    loneFires s gid sid t g src := by
  unfold loneFires
  by_cases hu : unitUniform (triggerUnit t) = true
  · rw [(lone_clean hk).1 hu]; simp
  · simp [hu]

theorem and_not_of_zero {a b : Mask} (h : a &&& b = 0) : a &&& ~~~b = a := by
  ext i hi
  have h1 := congrArg (fun x : Mask => x.getLsbD i) h
  simp [hi] at h1 ⊢
  exact h1

theorem loneLanes_clean {s : State} {gid sid : Nat} {t : Trigger} {g : Guard} {src : Src}
    (hk : killedBy { groupOf s gid with mPrev := [] } (halfOf (groupOf s gid) sid) [loneMoved s gid sid t g src] = (0, 0))
    (he : emptyLatch (groupOf s gid) [loneMoved s gid sid t g src] (loneRaw s gid sid t g src) = none) :
    loneLanes s gid sid t g src = guardLanes (groupOf s gid) sid g := by
  unfold loneLanes
  dsimp only
  by_cases hu : unitUniform (triggerUnit t) = true
  · rw [if_pos hu]; rfl
  · rw [if_neg hu]
    obtain ⟨hp, hw, hl⟩ := (lone_clean hk).2 (by simpa using hu)
    have he2 : ∀ l ∈ latchesRead t,
        (loneMoved s gid sid t g src).lanes &&& ~~~(latchOf' (groupOf s gid).image (triggerUnit t) l).full = 0 := by
      intro l hm
      have hr : (loneRaw s gid sid t g src).op = t := rfl
      simp only [emptyLatch, hr, if_neg hu] at he
      have h3 := (List.find?_eq_none.1 he) l hm
      have h4 : latchLanes [loneMoved s gid sid t g src] (triggerUnit t) l = 0 := rfl
      rw [h4] at h3
      simpa [loneMoved, loneRaw] using h3
    have e : (loneMoved s gid sid t g src).lanes &&& ~~~(loneMoved s gid sid t g src).poison = (loneMoved s gid sid t g src).lanes := by
      rw [hp, show (~~~(0 : Mask)) = BitVec.allOnes 32 from rfl, BitVec.and_allOnes]
    rw [e, and_not_of_zero hw]
    exact foldl_and_full _ _ _ _ fun l hm => ⟨he2 l hm, hl l hm⟩

theorem bundleFires_trigger {s : State} {gid sid : Nat} {t : Trigger} {g : Guard} {src : Src} (hi : (groupOf s gid).inject = none)
    (hf : loneFires s gid sid t g src) :
    bundleFires s gid sid (triggerBundle t g src) =
      [(loneRaw s gid sid t g src,
        firePlanFull (setGroup s gid { groupOf s gid with mPrev := [] }) gid sid (groupOf s gid) [loneMoved s gid sid t g src]
          (loneRaw s gid sid t g src))] := by
  have h := (congrArg (firesOf { groupOf s gid with mPrev := [] } (halfOf (groupOf s gid) sid) [loneMoved s gid sid t g src])
    (show injectFor (groupOf s gid) sid = none by simp [injectFor, hi])).trans (firesOf_trigger hf)
  unfold bundleFires
  rw [readMoves_trigger, bundleMoved_trigger]
  dsimp only at h ⊢
  rw [h]
  rfl

theorem lone_emptyLatch {s : State} {gid sid : Nat} {t : Trigger} {g : Guard} {src : Src} (hi : (groupOf s gid).inject = none)
    (hf : loneFires s gid sid t g src) (ht : bundleTraps s gid sid (triggerBundle t g src) = []) :
    emptyLatch (groupOf s gid) [loneMoved s gid sid t g src] (loneRaw s gid sid t g src) = none := by
  simp only [bundleTraps, bundlePlan, bundleFires_trigger hi hf, bundleScalar_trigger, List.map_cons, List.map_nil,
    List.append_eq_nil_iff] at ht
  rw [planJoin_none] at ht
  generalize he : emptyLatch _ _ _ = e
  cases e with
  | none => rfl
  | some l =>
    exfalso
    have h2 := ht.2
    simp only [firePlanFull, he, planAll, List.foldr_cons, List.foldr_nil, planJoin] at h2
    simp at h2

/-- A lone trigger that meets no trap and reads nothing poisoned fires in the lanes of its guard, with the plan of its checks. -/
theorem bundleFires_lone {s : State} {gid sid : Nat} {t : Trigger} {g : Guard} {src : Src} (hi : (groupOf s gid).inject = none)
    (ht : bundleTraps s gid sid (triggerBundle t g src) = [])
    (hk : killedBy (bundleMoved s gid sid (triggerBundle t g src)) (halfOf (groupOf s gid) sid)
      (readMoves s gid sid (triggerBundle t g src)) = (0, 0)) :
    bundleFires s gid sid (triggerBundle t g src) =
      [(loneFire s gid sid t g src,
        firePlan (setGroup s gid { groupOf s gid with mPrev := [] }) gid sid (loneFire s gid sid t g src))] := by
  have hf := loneFires_clean hk
  have he := lone_emptyLatch hi hf ht
  have hl := loneLanes_clean hk he
  rw [bundleFires_trigger hi hf, firePlanFull, he]
  dsimp only
  rw [loneRaw, hl]
  rfl

theorem countCluster_onlyGroup (s : State) (gid : Nat) (g h : Group) (b : Bundle) :
    OnlyGroup s (countCluster (setGroup s gid g) gid h b) gid := by
  refine ⟨?_, fun k hk => ?_, fun k => ?_, fun k => ?_⟩
  · rw [countCluster_frame]; rfl
  · rw [countCluster_groupOf, groupOf_setGroup_ne _ hk]
  · rw [countCluster_core]; rfl
  · rw [countCluster_cluster]; rfl

theorem issueBundle_trigger (s : State) (gid sid : Nat) (t : Trigger) (g : Guard) (src : Src) (g0 g2 : Group) (ms : List Moved)
    (fs : List (Fire × Plan)) (sp : Plan) (hs : scalarPoisoned g0 sid (triggerBundle t g src) = false)
    (hk : killedBy g2 (halfOf g0 sid) ms = (0, 0)) :
    issueBundle s gid sid (triggerBundle t g src) g0 g2 ms fs sp =
      setPc (issuedMoves s gid sid (triggerBundle t g src) g0 g2 fs) gid sid (nextPc (splitOf g0 sid).pc) := by
  unfold issueBundle bundleKill
  rw [hk, hs]
  have h : (triggerBundle t g src).scalar = none := rfl
  simp only [bundleEnd, scalarStep, h, goOn]
  exact lanesDie_zero _ _ _ _ _

/-- A lone trigger has no access to perform before its bundle's later reads. -/
theorem performFirst_one (s : State) (gid id : Nat) (f : Fire) (p : Plan) : performFirst s gid id [(f, p)] = s := by
  have h : firstLoads s gid [(f, p)] = [] := by
    unfold firstLoads
    by_cases hu : triggerUnit f.op = .ld <;> simp [hu]
  simp [performFirst, h]

theorem issuedMoves_trigger (s : State) (gid sid : Nat) (t : Trigger) (g : Guard) (src : Src) (g0 g2 : Group) (f : Fire) (p : Plan) :
    issuedMoves s gid sid (triggerBundle t g src) g0 g2 [(f, p)] =
      countCluster (setGroup (fireRun (setGroup s gid g2) gid sid f p g0.opId) gid
        (countIssue (groupOf (fireRun (setGroup s gid g2) gid sid f p g0.opId) gid) sid 0 (coveredIds g0.opId [f]) (g0.opId + 1 + 1) none))
        gid g0 (triggerBundle t g src) := by
  unfold issuedMoves
  simp only [fireAll, List.map, performFirst_one]
  rfl

/-- A lone trigger that issues: it fires, the counts of its bundle are made, and its split goes on at the next bundle. -/
theorem trigger_issues {s : State} {gid sid : Nat} {t : Trigger} {g : Guard} {src : Src} (h : Issues s gid sid (triggerBundle t g src))
    (hk : Clean s gid sid (triggerBundle t g src)) (hm : (groupOf (loneRun s gid sid t g src) gid).mPrev = [])
    (hp : pcOf (loneRun s gid sid t g src) gid sid = pcOf s gid sid) :
    ∃ w, Counts (loneRun s gid sid t g src) w gid ∧ issue (triggerBundle t g src) s = .next (goesOn w gid sid) := by
  obtain ⟨⟨⟨⟨hc, hi⟩, hl, hs⟩, ht, hms⟩, hsp⟩ := h
  have hj : (groupOf (delivered s gid (triggerBundle t g src)) gid).inject = none := by rw [groupOf_delivered]; exact seen_inject hi
  have hq : (splitOf (seen s gid (triggerBundle t g src)) sid).pc = pcOf s gid sid := by rw [splitOf_seen]; rfl
  let f := loneFire (delivered s gid (triggerBundle t g src)) gid sid t g src
  let g0 := seen s gid (triggerBundle t g src)
  have hci := counted_countIssue (groupOf (loneRun s gid sid t g src) gid) sid 0 (g0.opId + 1 + 1) (coveredIds g0.opId [f])
  rw [show ({ groupOf (loneRun s gid sid t g src) gid with mPrev := [] } : Group) = groupOf (loneRun s gid sid t g src) gid by
    rw [← hm]] at hci
  refine ⟨countCluster (setGroup (loneRun s gid sid t g src) gid (countIssue (groupOf (loneRun s gid sid t g src) gid) sid 0
    (coveredIds g0.opId [f]) (g0.opId + 1 + 1) none)) gid g0 (triggerBundle t g src), ⟨countCluster_onlyGroup _ _ _ _ _, ?_⟩, ?_⟩
  · rw [countCluster_groupOf, groupOf_setGroup]; exact hci
  · rw [issue_cur _ _ _ _ hc, issueAt_runs _ _ _ _ hl hs ht hms, bundleFires_lone hj ht hk]
    have hpw : pcOf (countCluster (setGroup (loneRun s gid sid t g src) gid (countIssue (groupOf (loneRun s gid sid t g src) gid) sid 0
        (coveredIds g0.opId [f]) (g0.opId + 1 + 1) none)) gid g0 (triggerBundle t g src)) gid sid = pcOf s gid sid := by
      unfold pcOf at hp ⊢
      rw [countCluster_groupOf, groupOf_setGroup, hci.2.2 sid]
      exact hp
    unfold goesOn
    rw [hpw, ← hq]
    rw [issueBundle_trigger _ _ _ _ _ _ _ _ _ _ _ (by rw [groupOf_delivered]; exact hsp) hk, issuedMoves_trigger, bundleMoved_trigger, groupOf_delivered]
    rfl

end Sys2Proof.Machine
end

