-- ==== Sys2Proof/Laws/Table.lean ====
section
/-!
SUPPORT. A table entry set twice, and setting the entries of different numbers.
-/

namespace Sys2Proof.Machine

@[simp] theorem tset_tset {α : Type} (t : Table α) (k : Nat) (a b : α) : tset (tset t k a) k b = tset t k b := by
  induction t with
  | nil => simp [tset]
  | cons e r ih =>
    obtain ⟨j, x⟩ := e
    simp only [tset]
    split
    · simp [tset]
    · split <;> simp [tset, *]

@[simp] theorem setGroup_setGroup (s : State) (k : Nat) (x y : Group) : setGroup (setGroup s k x) k y = setGroup s k y := by simp [setGroup]
@[simp] theorem setTeam_setTeam (s : State) (k : Nat) (x y : Team) : setTeam (setTeam s k x) k y = setTeam s k y := by simp [setTeam]
@[simp] theorem setCore_setCore (s : State) (k : Nat) (x y : Core) : setCore (setCore s k x) k y = setCore s k y := by simp [setCore]
@[simp] theorem setTask_setTask (s : State) (k : Nat) (x y : Task) : setTask (setTask s k x) k y = setTask s k y := by simp [setTask]
@[simp] theorem setFunc_setFunc (s : State) (k : Nat) (x y : Func) : setFunc (setFunc s k x) k y = setFunc s k y := by simp [setFunc]
@[simp] theorem setQueue_setQueue (s : State) (k : Nat) (x y : HostQueue) : setQueue (setQueue s k x) k y = setQueue s k y := by
  simp [setQueue]
@[simp] theorem setPort_setPort (s : State) (k : Nat) (x y : Port) : setPort (setPort s k x) k y = setPort s k y := by simp [setPort]
@[simp] theorem setDie_setDie (s : State) (k : Nat) (x y : Die) : setDie (setDie s k x) k y = setDie s k y := by simp [setDie]
@[simp] theorem setCluster_setCluster (s : State) (k : Nat) (x y : Cluster) : setCluster (setCluster s k x) k y = setCluster s k y := by
  simp [setCluster]

/-- The entries of a table with one set are that entry and old ones. -/
theorem mem_tset {α : Type} (t : Table α) (k : Nat) (a : α) (e : Nat × α) (h : e ∈ tset t k a) : e = (k, a) ∨ e ∈ t := by
  induction t with
  | nil => simp_all [tset]
  | cons x r ih =>
    obtain ⟨j, b⟩ := x
    simp only [tset] at h
    split at h
    · simp_all
    · split at h
      · simp only [List.mem_cons] at h ⊢
        tauto
      · simp only [List.mem_cons] at h ⊢
        tauto

/-- An entry that a table gives stands in it. -/
theorem mem_of_tget {α : Type} (t : Table α) (k : Nat) (a : α) (h : tget t k = some a) : (k, a) ∈ t := by
  induction t with
  | nil => simp [tget] at h
  | cons x r ih =>
    obtain ⟨j, b⟩ := x
    simp only [tget] at h
    split at h <;> simp_all

end Sys2Proof.Machine
end

