-- ==== Sys2Proof/Laws/Memory.lean ====
section
/-!
SUPPORT. Memories: read after write, the canonical form under every operation on a memory, and the memories of the module under the
operations that write them.
-/

namespace Sys2Proof.Machine

/-! ## Bytes and their value -/

/-- A value written as n bytes has n of them. -/
theorem leBytes_length (n x : Nat) : (leBytes n x).length = n := by
  induction n generalizing x with
  | zero => rfl
  | succ n ih => rw [leBytes, List.length_cons, ih]

/-- The value of the bytes of a number is the number modulo their room (R7). -/
theorem leVal_leBytes (n x : Nat) : leVal (leBytes n x) = x % 256 ^ n := by
  induction n generalizing x with
  | zero => simp [leBytes, leVal, Nat.mod_one]
  | succ n ih =>
    have e : (256 : Nat) ^ (n + 1) = 256 * 256 ^ n := by rw [Nat.pow_succ, Nat.mul_comm]
    rw [leBytes, leVal, ih, BitVec.toNat_ofNat, e, Nat.mod_mul]

/-! ## One memory -/

theorem memWfFrom_le (m : Mem) (lo hi : Nat) (h : memWfFrom hi m = true) (hl : lo ≤ hi) : memWfFrom lo m = true := by
  cases m with
  | nil => rfl
  | cons e r => simp only [memWfFrom, Bool.and_eq_true, decide_eq_true_eq] at h ⊢; exact ⟨⟨by omega, h.1.2⟩, h.2⟩

theorem memPut_wfFrom (m : Mem) (lo a : Nat) (b : Byte) (h : memWfFrom lo m = true) (ha : lo ≤ a) : memWfFrom lo (memPut m a b) = true := by
  induction m generalizing lo with
  | nil => unfold memPut; split <;> simp_all [memWfFrom]
  | cons e r ih =>
    obtain ⟨j, c⟩ := e
    simp only [memWfFrom, Bool.and_eq_true, decide_eq_true_eq] at h
    obtain ⟨⟨h1, h2⟩, h3⟩ := h
    unfold memPut
    split
    · split
      · simp_all [memWfFrom]
      · simp_all [memWfFrom]
    · split
      · subst_vars
        split
        · exact memWfFrom_le _ _ _ h3 (by omega)
        · simp_all [memWfFrom]
      · simp only [memWfFrom, Bool.and_eq_true, decide_eq_true_eq]
        exact ⟨⟨h1, h2⟩, ih _ h3 (by omega)⟩

/-- A byte written keeps the canonical form. -/
theorem memPut_wf (m : Mem) (a : Nat) (b : Byte) (h : memWf m = true) : memWf (memPut m a b) = true :=
  memPut_wfFrom m 0 a b h (Nat.zero_le _)

/-- Bytes written keep the canonical form. -/
theorem memWrite_wf (m : Mem) (a : Nat) (bs : List Byte) (h : memWf m = true) : memWf (memWrite m a bs) = true := by
  induction bs generalizing m a with
  | nil => exact h
  | cons b r ih => exact ih _ _ (memPut_wf m a b h)

theorem memClear_wfFrom (m : Mem) (lo a n : Nat) (h : memWfFrom lo m = true) : memWfFrom lo (memClear m a n) = true := by
  induction m generalizing lo with
  | nil => rfl
  | cons e r ih =>
    simp only [memWfFrom, Bool.and_eq_true, decide_eq_true_eq] at h
    unfold memClear
    rw [List.filter_cons]
    split
    · simp only [memWfFrom, Bool.and_eq_true, decide_eq_true_eq]
      exact ⟨h.1, ih _ h.2⟩
    · exact memWfFrom_le _ _ _ (ih _ h.2) (by omega)

/-- Bytes cleared keep the canonical form. -/
theorem memClear_wf (m : Mem) (a n : Nat) (h : memWf m = true) : memWf (memClear m a n) = true := memClear_wfFrom m 0 a n h

theorem memGet_below (m : Mem) (lo x : Nat) (h : memWfFrom lo m = true) (hx : x < lo) : memGet m x = 0 := by
  induction m generalizing lo with
  | nil => rfl
  | cons e r ih =>
    obtain ⟨j, c⟩ := e
    simp only [memWfFrom, Bool.and_eq_true, decide_eq_true_eq] at h
    have : j ≠ x := by omega
    simp only [memGet, this, if_false]
    exact ih _ h.2 (by omega)

theorem memGet_memPut_from (m : Mem) (lo a x : Nat) (b : Byte) (h : memWfFrom lo m = true) :
    memGet (memPut m a b) x = if x = a then b else memGet m x := by
  induction m generalizing lo with
  | nil =>
    unfold memPut
    by_cases hx : x = a
    · subst hx; split <;> simp_all [memGet]
    · have hx' : a ≠ x := fun e => hx e.symm
      split <;> simp [memGet, hx']
  | cons e r ih =>
    obtain ⟨j, c⟩ := e
    simp only [memWfFrom, Bool.and_eq_true, decide_eq_true_eq] at h
    obtain ⟨⟨h1, h2⟩, h3⟩ := h
    unfold memPut
    split
    · rename_i haj
      by_cases hx : x = a
      · have hr : memGet r x = 0 := memGet_below r (j + 1) x h3 (by omega)
        have hj : j ≠ x := by omega
        split <;> simp [memGet, hx] ; simp_all
      · have hx' : a ≠ x := fun e => hx e.symm
        split <;> simp [memGet, hx']
    · split
      · subst_vars
        by_cases hx : x = j
        · subst hx
          have hr : memGet r x = 0 := memGet_below r (x + 1) x h3 (by omega)
          split <;> simp [memGet, hr] ; simp_all
        · have hj : j ≠ x := fun e => hx e.symm
          split <;> simp_all [memGet]
      · rename_i haj
        simp only [memGet, ih _ h3]
        by_cases hj : j = x
        · have : x ≠ a := fun e => haj (e ▸ hj.symm ▸ rfl)
          simp [hj, this]
        · simp [hj]

/-- A byte reads as written at its address, and every other address keeps its byte. -/
theorem memGet_memPut (m : Mem) (a x : Nat) (b : Byte) (h : memWf m = true) :
    memGet (memPut m a b) x = if x = a then b else memGet m x := memGet_memPut_from m 0 a x b h

/-- A byte at an address after a write: one of the bytes written, or the old one. -/
theorem memGet_memWrite (m : Mem) (a x : Nat) (bs : List Byte) (h : memWf m = true) :
    memGet (memWrite m a bs) x = if a ≤ x ∧ x < a + bs.length then bs.getD (x - a) 0 else memGet m x := by
  induction bs generalizing m a with
  | nil =>
    simp [memWrite]
  | cons b r ih =>
    simp only [memWrite, ih _ _ (memPut_wf m a b h), memGet_memPut m a x b h, List.length_cons]
    by_cases h1 : a + 1 ≤ x ∧ x < a + 1 + r.length
    · have h2 : a ≤ x ∧ x < a + (r.length + 1) := by omega
      have h3 : x - a = (x - (a + 1)) + 1 := by omega
      rw [if_pos h1, if_pos h2, h3]; simp
    · rw [if_neg h1]
      by_cases h4 : x = a
      · subst h4; simp
      · have h2 : ¬(a ≤ x ∧ x < a + (r.length + 1)) := by omega
        rw [if_neg h4, if_neg h2]

/-- A byte at an address after a range was cleared. -/
theorem memGet_memClear (m : Mem) (a n x : Nat) : memGet (memClear m a n) x = if a ≤ x ∧ x < a + n then 0 else memGet m x := by
  induction m with
  | nil => simp [memClear, memGet]
  | cons e r ih =>
    obtain ⟨j, c⟩ := e
    unfold memClear at ih ⊢
    rw [List.filter_cons]
    by_cases hj : a ≤ j ∧ j < a + n
    · have : ¬(decide ¬(a ≤ (j, c).1 ∧ (j, c).1 < a + n)) = true := by simp [hj]
      rw [if_neg this, ih]
      by_cases hx : a ≤ x ∧ x < a + n
      · simp [hx]
      · have : j ≠ x := fun e => hx (e ▸ hj)
        simp [hx, memGet, this]
    · have : (decide ¬(a ≤ (j, c).1 ∧ (j, c).1 < a + n)) = true := by simp only [decide_eq_true_eq]; exact hj
      rw [if_pos this]
      simp only [memGet]
      split
      · subst_vars; simp [hj]
      · exact ih

/-! ## The memories of the module -/

open Safety

theorem coreMemWf_of (s : State) (k : Nat) (h : memoriesWf s = true) : coreMemWf (coreOf s k) = true := by
  unfold coreOf tgetD
  cases hc : tget s.cores k with
  | none => rfl
  | some c =>
    have hm := mem_of_tget _ _ _ hc
    simp only [memoriesWf, Bool.and_eq_true, List.all_eq_true] at h
    exact h.2 _ hm

/-- A core set whose memories are in canonical form. -/
theorem setCore_wf (s : State) (k : Nat) (c : Core) (h : memoriesWf s = true) (hc : coreMemWf c = true) :
    memoriesWf (setCore s k c) = true := by
  simp only [memoriesWf, Bool.and_eq_true, List.all_eq_true, setCore] at h ⊢
  refine ⟨h.1, fun e he => ?_⟩
  rcases mem_tset _ _ _ _ he with rfl | he
  · exact hc
  · exact h.2 _ he

theorem setMem_wf (s : State) (m : Mem) (h : memoriesWf s = true) (hm : memWf m = true) : memoriesWf { s with mem := m } = true := by
  simp only [memoriesWf, Bool.and_eq_true] at h ⊢
  exact ⟨⟨⟨hm, h.1.1.2⟩, h.1.2⟩, h.2⟩

theorem setHostMem_wf (s : State) (m : Mem) (h : memoriesWf s = true) (hm : memWf m = true) : memoriesWf { s with hostMem := m } = true := by
  simp only [memoriesWf, Bool.and_eq_true] at h ⊢
  exact ⟨⟨⟨h.1.1.1, hm⟩, h.1.2⟩, h.2⟩

theorem peerMem_wf (s : State) (k : Nat) (h : memoriesWf s = true) : memWf (tgetD s.peerMem k []) = true := by
  unfold tgetD
  cases hc : tget s.peerMem k with
  | none => rfl
  | some c =>
    have hm := mem_of_tget _ _ _ hc
    simp only [memoriesWf, Bool.and_eq_true, List.all_eq_true] at h
    exact h.1.2 _ hm

theorem setPeerMem_wf (s : State) (k : Nat) (m : Mem) (h : memoriesWf s = true) (hm : memWf m = true) :
    memoriesWf { s with peerMem := tset s.peerMem k m } = true := by
  simp only [memoriesWf, Bool.and_eq_true, List.all_eq_true] at h ⊢
  refine ⟨⟨h.1.1, fun e he => ?_⟩, h.2⟩
  rcases mem_tset _ _ _ _ he with rfl | he
  · exact hm
  · exact h.1.2 _ he

/-- The canonical form rests on the memories alone. -/
theorem memoriesWf_congr {s u : State} (hm : u.mem = s.mem) (hh : u.hostMem = s.hostMem) (hp : u.peerMem = s.peerMem) (hc : u.cores = s.cores) :
    memoriesWf u = memoriesWf s := by
  simp only [memoriesWf, hm, hh, hp, hc]

theorem foldl_wf {α : Type} (f : State → α → State) (hf : ∀ s a, memoriesWf s = true → memoriesWf (f s a) = true) (l : List α) (s : State)
    (h : memoriesWf s = true) : memoriesWf (l.foldl f s) = true := by
  induction l generalizing s with
  | nil => exact h
  | cons a r ih => exact ih _ (hf _ _ h)

/-- A flit sent leaves the memories alone. -/
theorem sendFlit_wf (s : State) (p type : Nat) : memoriesWf (sendFlit s p type) = memoriesWf s := by
  unfold sendFlit; dsimp only; split <;> rfl

/-- A peer request that leaves leaves the memories alone. -/
theorem peerSend_wf (s : State) (f a : Nat) : memoriesWf (peerSend s f a) = memoriesWf s := by
  unfold peerSend; split
  · rfl
  · rw [sendFlit_wf]; rfl

/-- An event bit of a function leaves the memories alone. -/
theorem setEvent_wf (s : State) (f bit : Nat) : memoriesWf (setEvent s f bit) = memoriesWf s := by
  unfold setEvent; dsimp only; split <;> rfl

/-- Bytes written past the Polder lines keep the canonical form. -/
theorem rawWrite_wf (s : State) (f : Nat) (sp : Space) (a : Nat) (bs : List Byte) (p : Bool) (h : memoriesWf s = true) :
    memoriesWf (rawWrite s f sp a bs p) = true := by
  have h' := h
  simp only [memoriesWf, Bool.and_eq_true] at h'
  unfold rawWrite
  split
  · exact (memoriesWf_congr rfl rfl rfl rfl).trans (setMem_wf s _ h (memWrite_wf _ a bs h'.1.1.1))
  · exact (memoriesWf_congr rfl rfl rfl rfl).trans (setHostMem_wf s _ h (memWrite_wf _ a bs h'.1.1.2))
  · simp only
    split
    · rw [setEvent_wf]; exact h
    · exact (memoriesWf_congr rfl rfl rfl rfl).trans (setPeerMem_wf s _ _ h (memWrite_wf _ _ bs (peerMem_wf s _ h)))
  · exact h

/-- Lines of load-block units invalidated leave the memories alone. -/
theorem invalidateBlocks_wf (s : State) (core a n : Nat) (h : memoriesWf s = true) : memoriesWf (invalidateBlocks s core a n) = true :=
  foldl_wf _ (fun t e ht => by
    dsimp only
    split
    · exact ht
    · exact ht) _ _ h

/-- A written-back Polder line keeps the canonical form. -/
theorem writeBack_wf (s : State) (k n : Nat) (l : PolderLine) (h : memoriesWf s = true) : memoriesWf (writeBack s k n l) = true := by
  unfold writeBack
  split
  · have hp : memoriesWf (if l.frame.space = .peer then peerSend s l.func l.frame.pa else s) = true := by
      split
      · rw [peerSend_wf]; exact h
      · exact h
    dsimp only
    split
    · exact invalidateBlocks_wf _ _ _ _ (foldl_wf _ (fun t i ht => rawWrite_wf t _ _ _ _ _ ht) _ _ hp)
    · exact foldl_wf _ (fun t i ht => rawWrite_wf t _ _ _ _ _ ht) _ _ hp
  · exact h

theorem dropLine_wf (s : State) (k n : Nat) (h : memoriesWf s = true) : memoriesWf (dropLine s k n) = true := by
  unfold dropLine
  split
  · exact h
  · rename_i l _
    split
    · have h1 := writeBack_wf s k n l h
      exact setCore_wf _ _ _ h1 (coreMemWf_of _ k h1)
    · exact h

/-- Recalls of Polder lines keep the canonical form. -/
theorem recallRange_wf (s : State) (sp : Space) (k : Nat × Nat) (n : Nat) (w : Bool) (h : memoriesWf s = true) :
    memoriesWf (recallRange s sp k n w) = true :=
  foldl_wf _ (fun _ _ ht => foldl_wf _ (fun t i hu => dropLine_wf t _ i hu) _ _ ht) _ _ h

/-- Bytes written to device memory, host memory, a peer or a scratchpad keep the canonical form. -/
theorem spaceWrite_wf (s : State) (core f : Nat) (sp : Space) (a : Nat) (bs : List Byte) (p : Bool) (h : memoriesWf s = true) :
    memoriesWf (spaceWrite s core f sp a bs p) = true := by
  cases sp with
  | spad =>
    have hc := coreMemWf_of s core h
    simp only [coreMemWf, Bool.and_eq_true] at hc
    exact setCore_wf _ _ _ h (by simp [coreMemWf, hc, memWrite_wf])
  | dev => exact invalidateBlocks_wf _ _ _ _ (rawWrite_wf _ f .dev a bs p (recallRange_wf s .dev (placeKey s f .dev a) bs.length true h))
  | host => exact rawWrite_wf _ f .host a bs p (recallRange_wf s .host (placeKey s f .host a) bs.length true h)
  | peer => exact rawWrite_wf _ f .peer a bs p (recallRange_wf s .peer (placeKey s f .peer a) bs.length true h)

/-- A scratchpad range cleared keeps the canonical form. -/
theorem clearPad_wf (c : Core) (a n : Nat) (h : coreMemWf c = true) : coreMemWf (clearPad c a n) = true := by
  simp only [coreMemWf, Bool.and_eq_true] at h
  simp [coreMemWf, clearPad, h, memClear_wf]

/-- A program placed keeps the canonical form. -/
theorem loadProgram_wf (s : State) (bs : List Byte) (h : memoriesWf s = true) : memoriesWf (loadProgram s bs) = true := by
  unfold loadProgram
  have hc := coreMemWf_of s 0 h
  simp only [coreMemWf, Bool.and_eq_true] at hc
  have := setCore_wf s 0 { coreOf s 0 with
    imem := memWrite (coreOf s 0).imem 0 bs, imemPoison := (coreOf s 0).imemPoison.filter fun g => decide (g ≠ 0), ovres := (coreOf s 0).ovres ||| 1, weir := { (coreOf s 0).weir with frozen := false } } h
    (by simp [coreMemWf, hc, memWrite_wf])
  simpa [memoriesWf, setCore, setTask, setTeam, setGroup, setCluster, coreOf] using this

end Sys2Proof.Machine
end

