-- ==== Sys2Proof/Laws/PerInstr.lean ====
section
/-!
SUPPORT. One lemma per instruction: a well-formed instruction with words is one legal bundle, encoded as that bundle is, and the bundle reads
back as the instruction.
-/

namespace Sys2Proof.Laws.Encoding

open Sys2Proof.Machine

/-- What is said of each instruction: where it is a bundle's and well formed, its word is that bundle's, the bundle breaks no row of R110, and
it reads back as the instruction. -/
def Statement (i : Instr) : Prop :=
  ∀ b, toBundle i = some b → WellFormed.wf i = true → encode i = some (encodeBundle b) ∧ bundleLegal b = true ∧
    ofBundle b = WellFormed.canonical i

theorem statement_holds (i : Instr) : Statement i := by
  intro b hb hw
  simp only [WellFormed.wf, hb, Bool.and_eq_true, decide_eq_true_eq] at hw
  exact ⟨by simp [encode, hb], hw.1, hw.2⟩

theorem bundleIssue (x0 : _) : Statement (.bundleIssue x0) := statement_holds _
theorem add (x0 : _) (x1 : _) (x2 : _) (x3 : _) : Statement (.add x0 x1 x2 x3) := statement_holds _
theorem sub (x0 : _) (x1 : _) (x2 : _) (x3 : _) : Statement (.sub x0 x1 x2 x3) := statement_holds _
theorem mul (x0 : _) (x1 : _) (x2 : _) (x3 : _) : Statement (.mul x0 x1 x2 x3) := statement_holds _
theorem mulh (x0 : _) (x1 : _) (x2 : _) (x3 : _) : Statement (.mulh x0 x1 x2 x3) := statement_holds _
theorem and (x0 : _) (x1 : _) (x2 : _) (x3 : _) : Statement (.and x0 x1 x2 x3) := statement_holds _
theorem or (x0 : _) (x1 : _) (x2 : _) (x3 : _) : Statement (.or x0 x1 x2 x3) := statement_holds _
theorem xor (x0 : _) (x1 : _) (x2 : _) (x3 : _) : Statement (.xor x0 x1 x2 x3) := statement_holds _
theorem shl (x0 : _) (x1 : _) (x2 : _) (x3 : _) : Statement (.shl x0 x1 x2 x3) := statement_holds _
theorem shr (x0 : _) (x1 : _) (x2 : _) (x3 : _) : Statement (.shr x0 x1 x2 x3) := statement_holds _
theorem sar (x0 : _) (x1 : _) (x2 : _) (x3 : _) : Statement (.sar x0 x1 x2 x3) := statement_holds _
theorem min (x0 : _) (x1 : _) (x2 : _) (x3 : _) : Statement (.min x0 x1 x2 x3) := statement_holds _
theorem max (x0 : _) (x1 : _) (x2 : _) (x3 : _) : Statement (.max x0 x1 x2 x3) := statement_holds _
theorem minu (x0 : _) (x1 : _) (x2 : _) (x3 : _) : Statement (.minu x0 x1 x2 x3) := statement_holds _
theorem maxu (x0 : _) (x1 : _) (x2 : _) (x3 : _) : Statement (.maxu x0 x1 x2 x3) := statement_holds _
theorem ceq (x0 : _) (x1 : _) (x2 : _) (x3 : _) : Statement (.ceq x0 x1 x2 x3) := statement_holds _
theorem clt (x0 : _) (x1 : _) (x2 : _) (x3 : _) : Statement (.clt x0 x1 x2 x3) := statement_holds _
theorem cltu (x0 : _) (x1 : _) (x2 : _) (x3 : _) : Statement (.cltu x0 x1 x2 x3) := statement_holds _
theorem sld (x0 : _) (x1 : _) (x2 : _) (x3 : _) : Statement (.sld x0 x1 x2 x3) := statement_holds _
theorem sst (x0 : _) (x1 : _) (x2 : _) (x3 : _) : Statement (.sst x0 x1 x2 x3) := statement_holds _
theorem sldq (x0 : _) (x1 : _) (x2 : _) (x3 : _) : Statement (.sldq x0 x1 x2 x3) := statement_holds _
theorem sstq (x0 : _) (x1 : _) (x2 : _) (x3 : _) : Statement (.sstq x0 x1 x2 x3) := statement_holds _
theorem mrd (x0 : _) (x1 : _) : Statement (.mrd x0 x1) := statement_holds _
theorem mwr (x0 : _) (x1 : _) (x2 : _) (x3 : _) : Statement (.mwr x0 x1 x2 x3) := statement_holds _
theorem basew (x0 : _) (x1 : _) (x2 : _) (x3 : _) : Statement (.basew x0 x1 x2 x3) := statement_holds _
theorem reggive (x0 : _) (x1 : _) : Statement (.reggive x0 x1) := statement_holds _
theorem regclaim (x0 : _) (x1 : _) : Statement (.regclaim x0 x1) := statement_holds _
theorem ret (x0 : _) : Statement (.ret x0) := statement_holds _
theorem exit : Statement .exit := statement_holds _
theorem recbeg : Statement .recbeg := statement_holds _
theorem recend : Statement .recend := statement_holds _
theorem reverse (x0 : _) : Statement (.reverse x0) := statement_holds _
theorem spawn (x0 : _) (x1 : _) (x2 : _) (x3 : _) : Statement (.spawn x0 x1 x2 x3) := statement_holds _
theorem pmap (x0 : _) (x1 : _) (x2 : _) (x3 : _) : Statement (.pmap x0 x1 x2 x3) := statement_holds _
theorem pflush (x0 : _) (x1 : _) (x2 : _) : Statement (.pflush x0 x1 x2) := statement_holds _
theorem ovload (x0 : _) (x1 : _) (x2 : _) : Statement (.ovload x0 x1 x2) := statement_holds _
theorem ovcall (x0 : _) (x1 : _) (x2 : _) : Statement (.ovcall x0 x1 x2) := statement_holds _
theorem phint (x0 : _) (x1 : _) (x2 : _) : Statement (.phint x0 x1 x2) := statement_holds _
theorem li (x0 : _) (x1 : _) : Statement (.li x0 x1) := statement_holds _
theorem liz (x0 : _) (x1 : _) : Statement (.liz x0 x1) := statement_holds _
theorem lih (x0 : _) (x1 : _) : Statement (.lih x0 x1) := statement_holds _
theorem bd (x0 : _) (x1 : _) (x2 : _) (x3 : _) : Statement (.bd x0 x1 x2 x3) := statement_holds _
theorem bu (x0 : _) (x1 : _) (x2 : _) : Statement (.bu x0 x1 x2) := statement_holds _
theorem call (x0 : _) : Statement (.call x0) := statement_holds _
theorem loop (x0 : _) (x1 : _) : Statement (.loop x0 x1) := statement_holds _
theorem bara (x0 : _) (x1 : _) (x2 : _) (x3 : _) : Statement (.bara x0 x1 x2 x3) := statement_holds _
theorem barw (x0 : _) (x1 : _) : Statement (.barw x0 x1) := statement_holds _
theorem dsync (x0 : _) : Statement (.dsync x0) := statement_holds _
theorem fence (x0 : _) : Statement (.fence x0) := statement_holds _
theorem waitc (x0 : _) (x1 : _) : Statement (.waitc x0 x1) := statement_holds _
theorem mxwait (x0 : _) : Statement (.mxwait x0) := statement_holds _
theorem cpwait (x0 : _) (x1 : _) : Statement (.cpwait x0 x1) := statement_holds _
theorem mxtake : Statement .mxtake := statement_holds _
theorem mxgive : Statement .mxgive := statement_holds _
theorem rdsr (x0 : _) (x1 : _) : Statement (.rdsr x0 x1) := statement_holds _
theorem wrsr (x0 : _) (x1 : _) : Statement (.wrsr x0 x1) := statement_holds _
theorem wrsrFstat (x0 : _) (x1 : _) : Statement (.wrsrFstat x0 x1) := statement_holds _
theorem wrsrGstat (x0 : _) (x1 : _) : Statement (.wrsrGstat x0 x1) := statement_holds _
theorem wrsrStream (x0 : _) (x1 : _) : Statement (.wrsrStream x0 x1) := statement_holds _
theorem wrsrLining (x0 : _) (x1 : _) : Statement (.wrsrLining x0 x1) := statement_holds _
theorem wrsrEpc (x0 : _) (x1 : _) : Statement (.wrsrEpc x0 x1) := statement_holds _
theorem wrsrTvec (x0 : _) (x1 : _) : Statement (.wrsrTvec x0 x1) := statement_holds _
theorem wrsrSwapth (x0 : _) (x1 : _) : Statement (.wrsrSwapth x0 x1) := statement_holds _
theorem wrsrIlim (x0 : _) (x1 : _) : Statement (.wrsrIlim x0 x1) := statement_holds _
theorem wrsrClkpat (x0 : _) (x1 : _) : Statement (.wrsrClkpat x0 x1) := statement_holds _
theorem wrsrOvmask (x0 : _) (x1 : _) : Statement (.wrsrOvmask x0 x1) := statement_holds _
theorem sys (x0 : _) : Statement (.sys x0) := statement_holds _
theorem trap (x0 : _) : Statement (.trap x0) := statement_holds _
theorem eret : Statement .eret := statement_holds _
theorem iaAdd (x0 : _) (x1 : _) (x2 : _) : Statement (.iaAdd x0 x1 x2) := statement_holds _
theorem iaAddc (x0 : _) (x1 : _) (x2 : _) : Statement (.iaAddc x0 x1 x2) := statement_holds _
theorem iaSub (x0 : _) (x1 : _) (x2 : _) : Statement (.iaSub x0 x1 x2) := statement_holds _
theorem iaSubb (x0 : _) (x1 : _) (x2 : _) : Statement (.iaSubb x0 x1 x2) := statement_holds _
theorem iaMul (x0 : _) (x1 : _) (x2 : _) : Statement (.iaMul x0 x1 x2) := statement_holds _
theorem iaMulhi (x0 : _) (x1 : _) (x2 : _) : Statement (.iaMulhi x0 x1 x2) := statement_holds _
theorem iaMulhu (x0 : _) (x1 : _) (x2 : _) : Statement (.iaMulhu x0 x1 x2) := statement_holds _
theorem iaMad (x0 : _) (x1 : _) (x2 : _) : Statement (.iaMad x0 x1 x2) := statement_holds _
theorem iaShl (x0 : _) (x1 : _) (x2 : _) : Statement (.iaShl x0 x1 x2) := statement_holds _
theorem iaShr (x0 : _) (x1 : _) (x2 : _) : Statement (.iaShr x0 x1 x2) := statement_holds _
theorem iaSar (x0 : _) (x1 : _) (x2 : _) : Statement (.iaSar x0 x1 x2) := statement_holds _
theorem iaRotl (x0 : _) (x1 : _) (x2 : _) : Statement (.iaRotl x0 x1 x2) := statement_holds _
theorem iaRotr (x0 : _) (x1 : _) (x2 : _) : Statement (.iaRotr x0 x1 x2) := statement_holds _
theorem iaBfx (x0 : _) (x1 : _) (x2 : _) : Statement (.iaBfx x0 x1 x2) := statement_holds _
theorem iaBfxu (x0 : _) (x1 : _) (x2 : _) : Statement (.iaBfxu x0 x1 x2) := statement_holds _
theorem iaBfi (x0 : _) (x1 : _) (x2 : _) : Statement (.iaBfi x0 x1 x2) := statement_holds _
theorem iaPopc (x0 : _) (x1 : _) (x2 : _) : Statement (.iaPopc x0 x1 x2) := statement_holds _
theorem iaClz (x0 : _) (x1 : _) (x2 : _) : Statement (.iaClz x0 x1 x2) := statement_holds _
theorem iaCtz (x0 : _) (x1 : _) (x2 : _) : Statement (.iaCtz x0 x1 x2) := statement_holds _
theorem iaBrev (x0 : _) (x1 : _) (x2 : _) : Statement (.iaBrev x0 x1 x2) := statement_holds _
theorem iaMin (x0 : _) (x1 : _) (x2 : _) : Statement (.iaMin x0 x1 x2) := statement_holds _
theorem iaMax (x0 : _) (x1 : _) (x2 : _) : Statement (.iaMax x0 x1 x2) := statement_holds _
theorem iaMinu (x0 : _) (x1 : _) (x2 : _) : Statement (.iaMinu x0 x1 x2) := statement_holds _
theorem iaMaxu (x0 : _) (x1 : _) (x2 : _) : Statement (.iaMaxu x0 x1 x2) := statement_holds _
theorem iaAbs (x0 : _) (x1 : _) (x2 : _) : Statement (.iaAbs x0 x1 x2) := statement_holds _
theorem iaAdds (x0 : _) (x1 : _) (x2 : _) : Statement (.iaAdds x0 x1 x2) := statement_holds _
theorem iaSubs (x0 : _) (x1 : _) (x2 : _) : Statement (.iaSubs x0 x1 x2) := statement_holds _
theorem iaAddus (x0 : _) (x1 : _) (x2 : _) : Statement (.iaAddus x0 x1 x2) := statement_holds _
theorem iaSubus (x0 : _) (x1 : _) (x2 : _) : Statement (.iaSubus x0 x1 x2) := statement_holds _
theorem iaLea (x0 : _) (x1 : _) (x2 : _) : Statement (.iaLea x0 x1 x2) := statement_holds _
theorem lgAnd (x0 : _) (x1 : _) : Statement (.lgAnd x0 x1) := statement_holds _
theorem lgOr (x0 : _) (x1 : _) : Statement (.lgOr x0 x1) := statement_holds _
theorem lgXor (x0 : _) (x1 : _) : Statement (.lgXor x0 x1) := statement_holds _
theorem lgAndn (x0 : _) (x1 : _) : Statement (.lgAndn x0 x1) := statement_holds _
theorem lgNot (x0 : _) (x1 : _) : Statement (.lgNot x0 x1) := statement_holds _
theorem lgSel (x0 : _) (x1 : _) : Statement (.lgSel x0 x1) := statement_holds _
theorem lgCeq (x0 : _) (x1 : _) : Statement (.lgCeq x0 x1) := statement_holds _
theorem lgCne (x0 : _) (x1 : _) : Statement (.lgCne x0 x1) := statement_holds _
theorem lgClt (x0 : _) (x1 : _) : Statement (.lgClt x0 x1) := statement_holds _
theorem lgCle (x0 : _) (x1 : _) : Statement (.lgCle x0 x1) := statement_holds _
theorem lgCltu (x0 : _) (x1 : _) : Statement (.lgCltu x0 x1) := statement_holds _
theorem lgCleu (x0 : _) (x1 : _) : Statement (.lgCleu x0 x1) := statement_holds _
theorem lgFceq (x0 : _) (x1 : _) : Statement (.lgFceq x0 x1) := statement_holds _
theorem lgFcne (x0 : _) (x1 : _) : Statement (.lgFcne x0 x1) := statement_holds _
theorem lgFclt (x0 : _) (x1 : _) : Statement (.lgFclt x0 x1) := statement_holds _
theorem lgFcle (x0 : _) (x1 : _) : Statement (.lgFcle x0 x1) := statement_holds _
theorem lgFcun (x0 : _) (x1 : _) : Statement (.lgFcun x0 x1) := statement_holds _
theorem lgFcls (x0 : _) (x1 : _) : Statement (.lgFcls x0 x1) := statement_holds _
theorem lgMbit (x0 : _) (x1 : _) : Statement (.lgMbit x0 x1) := statement_holds _
theorem lgBsel (x0 : _) (x1 : _) : Statement (.lgBsel x0 x1) := statement_holds _
theorem fmFma (x0 : _) (x1 : _) (x2 : _) (x3 : _) : Statement (.fmFma x0 x1 x2 x3) := statement_holds _
theorem fmFms (x0 : _) (x1 : _) (x2 : _) (x3 : _) : Statement (.fmFms x0 x1 x2 x3) := statement_holds _
theorem fmFnma (x0 : _) (x1 : _) (x2 : _) (x3 : _) : Statement (.fmFnma x0 x1 x2 x3) := statement_holds _
theorem fmAdd (x0 : _) (x1 : _) (x2 : _) (x3 : _) : Statement (.fmAdd x0 x1 x2 x3) := statement_holds _
theorem fmSub (x0 : _) (x1 : _) (x2 : _) (x3 : _) : Statement (.fmSub x0 x1 x2 x3) := statement_holds _
theorem fmMul (x0 : _) (x1 : _) (x2 : _) (x3 : _) : Statement (.fmMul x0 x1 x2 x3) := statement_holds _
theorem fmHfma (x0 : _) (x1 : _) (x2 : _) (x3 : _) : Statement (.fmHfma x0 x1 x2 x3) := statement_holds _
theorem fmBfma (x0 : _) (x1 : _) (x2 : _) (x3 : _) : Statement (.fmBfma x0 x1 x2 x3) := statement_holds _
theorem fmCvth (x0 : _) (x1 : _) (x2 : _) (x3 : _) : Statement (.fmCvth x0 x1 x2 x3) := statement_holds _
theorem fmCvtb (x0 : _) (x1 : _) (x2 : _) (x3 : _) : Statement (.fmCvtb x0 x1 x2 x3) := statement_holds _
theorem fmCvti (x0 : _) (x1 : _) (x2 : _) (x3 : _) : Statement (.fmCvti x0 x1 x2 x3) := statement_holds _
theorem fmCvtf (x0 : _) (x1 : _) (x2 : _) (x3 : _) : Statement (.fmCvtf x0 x1 x2 x3) := statement_holds _
theorem fmMin (x0 : _) (x1 : _) (x2 : _) : Statement (.fmMin x0 x1 x2) := statement_holds _
theorem fmMax (x0 : _) (x1 : _) (x2 : _) : Statement (.fmMax x0 x1 x2) := statement_holds _
theorem fmNeg (x0 : _) (x1 : _) (x2 : _) : Statement (.fmNeg x0 x1 x2) := statement_holds _
theorem fmAbs (x0 : _) (x1 : _) (x2 : _) : Statement (.fmAbs x0 x1 x2) := statement_holds _
theorem fmCsgn (x0 : _) (x1 : _) (x2 : _) : Statement (.fmCsgn x0 x1 x2) := statement_holds _
theorem fmCvtfh (x0 : _) (x1 : _) (x2 : _) : Statement (.fmCvtfh x0 x1 x2) := statement_holds _
theorem fmCvtfb (x0 : _) (x1 : _) (x2 : _) : Statement (.fmCvtfb x0 x1 x2) := statement_holds _
theorem fmCvt8 (x0 : _) (x1 : _) (x2 : _) : Statement (.fmCvt8 x0 x1 x2) := statement_holds _
theorem fmCvt6 (x0 : _) (x1 : _) (x2 : _) : Statement (.fmCvt6 x0 x1 x2) := statement_holds _
theorem fmDec8 (x0 : _) (x1 : _) (x2 : _) : Statement (.fmDec8 x0 x1 x2) := statement_holds _
theorem fmDec6 (x0 : _) (x1 : _) (x2 : _) : Statement (.fmDec6 x0 x1 x2) := statement_holds _
theorem fmHmin (x0 : _) (x1 : _) (x2 : _) : Statement (.fmHmin x0 x1 x2) := statement_holds _
theorem fmHmax (x0 : _) (x1 : _) (x2 : _) : Statement (.fmHmax x0 x1 x2) := statement_holds _
theorem fmBmin (x0 : _) (x1 : _) (x2 : _) : Statement (.fmBmin x0 x1 x2) := statement_holds _
theorem fmBmax (x0 : _) (x1 : _) (x2 : _) : Statement (.fmBmax x0 x1 x2) := statement_holds _
theorem sfDiv (x0 : _) (x1 : _) : Statement (.sfDiv x0 x1) := statement_holds _
theorem sfSqrt (x0 : _) (x1 : _) : Statement (.sfSqrt x0 x1) := statement_holds _
theorem sfRcp (x0 : _) (x1 : _) : Statement (.sfRcp x0 x1) := statement_holds _
theorem sfRsqrt (x0 : _) (x1 : _) : Statement (.sfRsqrt x0 x1) := statement_holds _
theorem sfExp2 (x0 : _) (x1 : _) : Statement (.sfExp2 x0 x1) := statement_holds _
theorem sfLog2 (x0 : _) (x1 : _) : Statement (.sfLog2 x0 x1) := statement_holds _
theorem sfSinpi (x0 : _) (x1 : _) : Statement (.sfSinpi x0 x1) := statement_holds _
theorem sfCospi (x0 : _) (x1 : _) : Statement (.sfCospi x0 x1) := statement_holds _
theorem sfScpi (x0 : _) (x1 : _) : Statement (.sfScpi x0 x1) := statement_holds _
theorem xlShfl (x0 : _) (x1 : _) : Statement (.xlShfl x0 x1) := statement_holds _
theorem xlShup (x0 : _) (x1 : _) : Statement (.xlShup x0 x1) := statement_holds _
theorem xlShdn (x0 : _) (x1 : _) : Statement (.xlShdn x0 x1) := statement_holds _
theorem xlShxor (x0 : _) (x1 : _) : Statement (.xlShxor x0 x1) := statement_holds _
theorem xlVany (x0 : _) (x1 : _) : Statement (.xlVany x0 x1) := statement_holds _
theorem xlVall (x0 : _) (x1 : _) : Statement (.xlVall x0 x1) := statement_holds _
theorem xlBallot (x0 : _) (x1 : _) : Statement (.xlBallot x0 x1) := statement_holds _
theorem xlMatch (x0 : _) (x1 : _) : Statement (.xlMatch x0 x1) := statement_holds _
theorem xlScan (x0 : _) (x1 : _) : Statement (.xlScan x0 x1) := statement_holds _
theorem xlFscan (x0 : _) (x1 : _) : Statement (.xlFscan x0 x1) := statement_holds _
theorem xlRed (x0 : _) (x1 : _) : Statement (.xlRed x0 x1) := statement_holds _
theorem xlRedmin (x0 : _) (x1 : _) : Statement (.xlRedmin x0 x1) := statement_holds _
theorem xlRedmax (x0 : _) (x1 : _) : Statement (.xlRedmax x0 x1) := statement_holds _
theorem xlFred (x0 : _) (x1 : _) : Statement (.xlFred x0 x1) := statement_holds _
theorem xlBlk8 (x0 : _) (x1 : _) : Statement (.xlBlk8 x0 x1) := statement_holds _
theorem xlBlk6 (x0 : _) (x1 : _) : Statement (.xlBlk6 x0 x1) := statement_holds _
theorem smSend (x0 : _) (x1 : _) : Statement (.smSend x0 x1) := statement_holds _
theorem smSendr (x0 : _) (x1 : _) : Statement (.smSendr x0 x1) := statement_holds _
theorem smSendb (x0 : _) (x1 : _) : Statement (.smSendb x0 x1) := statement_holds _
theorem ldLb (x0 : _) (x1 : _) : Statement (.ldLb x0 x1) := statement_holds _
theorem ldLbz (x0 : _) (x1 : _) : Statement (.ldLbz x0 x1) := statement_holds _
theorem ldLh (x0 : _) (x1 : _) : Statement (.ldLh x0 x1) := statement_holds _
theorem ldLhz (x0 : _) (x1 : _) : Statement (.ldLhz x0 x1) := statement_holds _
theorem ldLw (x0 : _) (x1 : _) : Statement (.ldLw x0 x1) := statement_holds _
theorem ldLd (x0 : _) (x1 : _) : Statement (.ldLd x0 x1) := statement_holds _
theorem ldLwo (x0 : _) (x1 : _) : Statement (.ldLwo x0 x1) := statement_holds _
theorem ldLdo (x0 : _) (x1 : _) : Statement (.ldLdo x0 x1) := statement_holds _
theorem ldTld (x0 : _) (x1 : _) : Statement (.ldTld x0 x1) := statement_holds _
theorem ldLblk (x0 : _) (x1 : _) : Statement (.ldLblk x0 x1) := statement_holds _
theorem ldPf (x0 : _) (x1 : _) : Statement (.ldPf x0 x1) := statement_holds _
theorem stSb (x0 : _) (x1 : _) : Statement (.stSb x0 x1) := statement_holds _
theorem stSh (x0 : _) (x1 : _) : Statement (.stSh x0 x1) := statement_holds _
theorem stSw (x0 : _) (x1 : _) : Statement (.stSw x0 x1) := statement_holds _
theorem stSd (x0 : _) (x1 : _) : Statement (.stSd x0 x1) := statement_holds _
theorem stSwo (x0 : _) (x1 : _) : Statement (.stSwo x0 x1) := statement_holds _
theorem stSdo (x0 : _) (x1 : _) : Statement (.stSdo x0 x1) := statement_holds _
theorem stTst (x0 : _) (x1 : _) : Statement (.stTst x0 x1) := statement_holds _
theorem stAadd (x0 : _) (x1 : _) : Statement (.stAadd x0 x1) := statement_holds _
theorem stAfadd (x0 : _) (x1 : _) : Statement (.stAfadd x0 x1) := statement_holds _
theorem stAmin (x0 : _) (x1 : _) : Statement (.stAmin x0 x1) := statement_holds _
theorem stAmax (x0 : _) (x1 : _) : Statement (.stAmax x0 x1) := statement_holds _
theorem stAminu (x0 : _) (x1 : _) : Statement (.stAminu x0 x1) := statement_holds _
theorem stAmaxu (x0 : _) (x1 : _) : Statement (.stAmaxu x0 x1) := statement_holds _
theorem stAand (x0 : _) (x1 : _) : Statement (.stAand x0 x1) := statement_holds _
theorem stAor (x0 : _) (x1 : _) : Statement (.stAor x0 x1) := statement_holds _
theorem stAxor (x0 : _) (x1 : _) : Statement (.stAxor x0 x1) := statement_holds _
theorem stAxch (x0 : _) (x1 : _) : Statement (.stAxch x0 x1) := statement_holds _
theorem stAcas (x0 : _) (x1 : _) : Statement (.stAcas x0 x1) := statement_holds _
theorem stRadd (x0 : _) (x1 : _) : Statement (.stRadd x0 x1) := statement_holds _
theorem stRfadd (x0 : _) (x1 : _) : Statement (.stRfadd x0 x1) := statement_holds _
theorem stMcst (x0 : _) (x1 : _) : Statement (.stMcst x0 x1) := statement_holds _
theorem mxTmma (x0 : _) : Statement (.mxTmma x0) := statement_holds _
theorem mxTout (x0 : _) : Statement (.mxTout x0) := statement_holds _
theorem mxTfill (x0 : _) : Statement (.mxTfill x0) := statement_holds _
theorem mxTableLoad (x0 : _) : Statement (.mxTableLoad x0) := statement_holds _
theorem mxTzero (x0 : _) : Statement (.mxTzero x0) := statement_holds _
theorem mxTewAdd (x0 : _) : Statement (.mxTewAdd x0) := statement_holds _
theorem mxTewMul (x0 : _) : Statement (.mxTewMul x0) := statement_holds _
theorem mxTewScale (x0 : _) : Statement (.mxTewScale x0) := statement_holds _
theorem mxTredRow (x0 : _) : Statement (.mxTredRow x0) := statement_holds _
theorem mxTredCol (x0 : _) : Statement (.mxTredCol x0) := statement_holds _
theorem mxTtrn (x0 : _) : Statement (.mxTtrn x0) := statement_holds _
theorem mxMxfence (x0 : _) : Statement (.mxMxfence x0) := statement_holds _
theorem mxQadv (x0 : _) : Statement (.mxQadv x0) := statement_holds _
theorem cpCopy1 (x0 : _) : Statement (.cpCopy1 x0) := statement_holds _
theorem cpCopy2 (x0 : _) : Statement (.cpCopy2 x0) := statement_holds _
theorem cpCopyt (x0 : _) : Statement (.cpCopyt x0) := statement_holds _
theorem cpMcast (x0 : _) : Statement (.cpMcast x0) := statement_holds _
theorem cpFill (x0 : _) : Statement (.cpFill x0) := statement_holds _
theorem cpColl (x0 : _) : Statement (.cpColl x0) := statement_holds _
theorem cpOvl (x0 : _) : Statement (.cpOvl x0) := statement_holds _
theorem resultDelivery (x0 : _) (x1 : _) (x2 : _) (x3 : _) : Statement (.resultDelivery x0 x1 x2 x3) := statement_holds _
theorem loadDataReturn (x0 : _) (x1 : _) : Statement (.loadDataReturn x0 x1) := statement_holds _
theorem scalarLoadReturn (x0 : _) (x1 : _) : Statement (.scalarLoadReturn x0 x1) := statement_holds _
theorem storeAccept (x0 : _) (x1 : _) : Statement (.storeAccept x0 x1) := statement_holds _
theorem prefetchFill (x0 : _) (x1 : _) : Statement (.prefetchFill x0 x1) := statement_holds _
theorem lblkFillComplete (x0 : _) (x1 : _) (x2 : _) : Statement (.lblkFillComplete x0 x1 x2) := statement_holds _
theorem lblkLineInvalidate (x0 : _) (x1 : _) (x2 : _) (x3 : _) : Statement (.lblkLineInvalidate x0 x1 x2 x3) := statement_holds _
theorem polderRecall (x0 : _) (x1 : _) (x2 : _) : Statement (.polderRecall x0 x1 x2) := statement_holds _
theorem seamDelivery (x0 : _) : Statement (.seamDelivery x0) := statement_holds _
theorem heldSplitTimeout (x0 : _) (x1 : _) : Statement (.heldSplitTimeout x0 x1) := statement_holds _
theorem splitStarvationPresent (x0 : _) (x1 : _) : Statement (.splitStarvationPresent x0 x1) := statement_holds _
theorem contextStarvationPrimary (x0 : _) : Statement (.contextStarvationPrimary x0) := statement_holds _
theorem yieldEnd (x0 : _) : Statement (.yieldEnd x0) := statement_holds _
theorem regclaimServed (x0 : _) : Statement (.regclaimServed x0) := statement_holds _
theorem spawnQueueRoom (x0 : _) : Statement (.spawnQueueRoom x0) := statement_holds _
theorem spawnEventWake (x0 : _) : Statement (.spawnEventWake x0) := statement_holds _
theorem pflushComplete (x0 : _) : Statement (.pflushComplete x0) := statement_holds _
theorem overlayLoadComplete (x0 : _) (x1 : _) : Statement (.overlayLoadComplete x0 x1) := statement_holds _
theorem barrierPhaseComplete (x0 : _) (x1 : _) : Statement (.barrierPhaseComplete x0 x1) := statement_holds _
theorem dsyncComplete (x0 : _) : Statement (.dsyncComplete x0) := statement_holds _
theorem fenceComplete (x0 : _) (x1 : _) : Statement (.fenceComplete x0 x1) := statement_holds _
theorem waitcComplete (x0 : _) : Statement (.waitcComplete x0) := statement_holds _
theorem mxwaitComplete (x0 : _) : Statement (.mxwaitComplete x0) := statement_holds _
theorem cpwaitComplete (x0 : _) : Statement (.cpwaitComplete x0) := statement_holds _
theorem mxtakeGrant (x0 : _) : Statement (.mxtakeGrant x0) := statement_holds _
theorem streamWriteWaitEnd (x0 : _) : Statement (.streamWriteWaitEnd x0) := statement_holds _
theorem liningWriteWaitEnd (x0 : _) : Statement (.liningWriteWaitEnd x0) := statement_holds _
theorem mxCommandStart (x0 : _) : Statement (.mxCommandStart x0) := statement_holds _
theorem mxCommandRetire (x0 : _) (x1 : _) : Statement (.mxCommandRetire x0 x1) := statement_holds _
theorem batchComplete (x0 : _) : Statement (.batchComplete x0) := statement_holds _
theorem reverseEntry (x0 : _) (x1 : _) : Statement (.reverseEntry x0 x1) := statement_holds _
theorem reverseSuspend (x0 : _) : Statement (.reverseSuspend x0) := statement_holds _
theorem copyStart (x0 : _) (x1 : _) : Statement (.copyStart x0 x1) := statement_holds _
theorem copyResume (x0 : _) (x1 : _) : Statement (.copyResume x0 x1) := statement_holds _
theorem copyComplete (x0 : _) (x1 : _) : Statement (.copyComplete x0 x1) := statement_holds _
theorem collCall (x0 : _) (x1 : _) (x2 : _) : Statement (.collCall x0 x1 x2) := statement_holds _
theorem collJoinTimeout (x0 : _) (x1 : _) : Statement (.collJoinTimeout x0 x1) := statement_holds _
theorem taskFetch (x0 : _) : Statement (.taskFetch x0) := statement_holds _
theorem dependencePoll (x0 : _) : Statement (.dependencePoll x0) := statement_holds _
theorem taskPriorityRise (x0 : _) : Statement (.taskPriorityRise x0) := statement_holds _
theorem taskDispatch (x0 : _) : Statement (.taskDispatch x0) := statement_holds _
theorem walkerExpand (x0 : _) : Statement (.walkerExpand x0) := statement_holds _
theorem tileStepLaunch (x0 : _) : Statement (.tileStepLaunch x0) := statement_holds _
theorem teamAdmit (x0 : _) (x1 : _) : Statement (.teamAdmit x0 x1) := statement_holds _
theorem teamResident (x0 : _) (x1 : _) : Statement (.teamResident x0 x1) := statement_holds _
theorem teamPark (x0 : _) : Statement (.teamPark x0) := statement_holds _
theorem teamReady (x0 : _) : Statement (.teamReady x0) := statement_holds _
theorem preempt (x0 : _) : Statement (.preempt x0) := statement_holds _
theorem teamRetire (x0 : _) : Statement (.teamRetire x0) := statement_holds _
theorem pageResponseOk (x0 : _) (x1 : _) : Statement (.pageResponseOk x0 x1) := statement_holds _
theorem pageResponseFail (x0 : _) (x1 : _) : Statement (.pageResponseFail x0 x1) := statement_holds _
theorem priResponse (x0 : _) (x1 : _) (x2 : _) : Statement (.priResponse x0 x1 x2) := statement_holds _
theorem invPage (x0 : _) (x1 : _) : Statement (.invPage x0 x1) := statement_holds _
theorem invAsid (x0 : _) (x1 : _) : Statement (.invAsid x0 x1) := statement_holds _
theorem invFunction (x0 : _) : Statement (.invFunction x0) := statement_holds _
theorem atsInvalidateRequest (x0 : _) (x1 : _) (x2 : _) : Statement (.atsInvalidateRequest x0 x1 x2) := statement_holds _
theorem invalidationEnd (x0 : _) : Statement (.invalidationEnd x0) := statement_holds _
theorem qtailNotify (x0 : _) (x1 : _) (x2 : _) (x3 : _) (x4 : _) : Statement (.qtailNotify x0 x1 x2 x3 x4) := statement_holds _
theorem queueConfigWrite (x0 : _) (x1 : _) (x2 : _) (x3 : _) (x4 : _) : Statement (.queueConfigWrite x0 x1 x2 x3 x4) := statement_holds _
theorem qownWrite (x0 : _) (x1 : _) (x2 : _) (x3 : _) : Statement (.qownWrite x0 x1 x2 x3) := statement_holds _
theorem fqctlWrite (x0 : _) (x1 : _) (x2 : _) : Statement (.fqctlWrite x0 x1 x2) := statement_holds _
theorem pcapWrite (x0 : _) (x1 : _) (x2 : _) : Statement (.pcapWrite x0 x1 x2) := statement_holds _
theorem pfloorWrite (x0 : _) (x1 : _) (x2 : _) (x3 : _) : Statement (.pfloorWrite x0 x1 x2 x3) := statement_holds _
theorem didtDnWrite (x0 : _) (x1 : _) (x2 : _) : Statement (.didtDnWrite x0 x1 x2) := statement_holds _
theorem linkcfgWrite (x0 : _) (x1 : _) (x2 : _) : Statement (.linkcfgWrite x0 x1 x2) := statement_holds _
theorem partmapWrite (x0 : _) (x1 : _) (x2 : _) : Statement (.partmapWrite x0 x1 x2) := statement_holds _
theorem fpartWrite (x0 : _) (x1 : _) (x2 : _) : Statement (.fpartWrite x0 x1 x2) := statement_holds _
theorem partctlWrite (x0 : _) (x1 : _) (x2 : _) : Statement (.partctlWrite x0 x1 x2) := statement_holds _
theorem partitionPreempt (x0 : _) : Statement (.partitionPreempt x0) := statement_holds _
theorem svloadGo (x0 : _) (x1 : _) (x2 : _) : Statement (.svloadGo x0 x1 x2) := statement_holds _
theorem mboxReport (x0 : _) : Statement (.mboxReport x0) := statement_holds _
theorem mboxAlarmLog (x0 : _) : Statement (.mboxAlarmLog x0) := statement_holds _
theorem mboxBadCommand (x0 : _) (x1 : _) : Statement (.mboxBadCommand x0 x1) := statement_holds _
theorem registerWrite (x0 : _) (x1 : _) (x2 : _) (x3 : _) : Statement (.registerWrite x0 x1 x2 x3) := statement_holds _
theorem flitReceive (x0 : _) (x1 : _) : Statement (.flitReceive x0 x1) := statement_holds _
theorem flitReplay (x0 : _) : Statement (.flitReplay x0) := statement_holds _
theorem portDown (x0 : _) (x1 : _) : Statement (.portDown x0 x1) := statement_holds _
theorem linkNarrow (x0 : _) (x1 : _) : Statement (.linkNarrow x0 x1) := statement_holds _
theorem linkWiden (x0 : _) (x1 : _) : Statement (.linkWiden x0 x1) := statement_holds _
theorem peerInboundAccess (x0 : _) : Statement (.peerInboundAccess x0) := statement_holds _
theorem peerAcknowledge (x0 : _) (x1 : _) : Statement (.peerAcknowledge x0 x1) := statement_holds _
theorem weirCycle (x0 : _) : Statement (.weirCycle x0) := statement_holds _
theorem predRise (x0 : _) : Statement (.predRise x0) := statement_holds _
theorem predFall (x0 : _) : Statement (.predFall x0) := statement_holds _
theorem forcedCheck (x0 : _) : Statement (.forcedCheck x0) := statement_holds _
theorem capControllerPeriod (x0 : _) : Statement (.capControllerPeriod x0) := statement_holds _
theorem engineThrottleWindow (x0 : _) (x1 : _) (x2 : _) (x3 : _) (x4 : _) : Statement (.engineThrottleWindow x0 x1 x2 x3 x4) := statement_holds _
theorem hintOnset (x0 : _) : Statement (.hintOnset x0) := statement_holds _
theorem hintExpiry (x0 : _) : Statement (.hintExpiry x0) := statement_holds _
theorem tamperAlarm (x0 : _) : Statement (.tamperAlarm x0) := statement_holds _
theorem moduleReset (x0 : _) : Statement (.moduleReset x0) := statement_holds _
theorem vfFlr (x0 : _) : Statement (.vfFlr x0) := statement_holds _
theorem portUp (x0 : _) : Statement (.portUp x0) := statement_holds _
theorem svloadLoadEnd (x0 : _) : Statement (.svloadLoadEnd x0) := statement_holds _
theorem mailboxCommandEnd (x0 : _) : Statement (.mailboxCommandEnd x0) := statement_holds _

end Sys2Proof.Laws.Encoding
end

