-- ==== Sys2Proof/Machine/AsmText.lean ====
section
/-!
DEFINITION. The text that qvas reads (spec 05_bundles R112-R115): characters to tokens, tokens to lines. Assembly is in Assembler.lean.
-/

namespace Sys2Proof.Machine

/-- Characters of a name, a line or a file. -/
abbrev Text := List Char

/-! ## Tokens -/

/-- A token of a line. -/
inductive AsmTok where
  | ident (name : Text)
  | int (value : Int)
  /-- An FP32 literal with a decimal point, as its bits (R113). -/
  | fp (value : Word)
  | arrow
  | sym (c : Char)
  deriving DecidableEq, Repr

/-- The first character of an identifier. -/
def idStart (c : Char) : Bool := c.isAlpha || c == '_'

/-- A later character of an identifier. -/
def idChar (c : Char) : Bool := c.isAlphanum || c == '_'

/-- A digit's value, 16 where the character is no hexadecimal digit. -/
def digitVal (c : Char) : Nat :=
  if c.isDigit then c.toNat - 48
  else if 'a' ≤ c ∧ c ≤ 'f' then c.toNat - 87
  else if 'A' ≤ c ∧ c ≤ 'F' then c.toNat - 55
  else 16

/-- The digits of a base at the head of a text. -/
def takeDigits (base : Nat) (t : Text) : Text := t.takeWhile fun c => decide (digitVal c < base)

/-- The number that digits write. -/
def digitsVal (base : Nat) (t : Text) : Nat := t.foldl (fun n c => base * n + digitVal c) 0

/-- The FP32 value of a decimal literal, rounded to nearest even: the digits `n` with the point `k` places from the right. -/
def fpLiteral (neg : Bool) (n k : Nat) : Word :=
  let s := 200 + 4 * k
  let m := n * 2 ^ s
  BitVec.ofNat 32 (roundMag fp32 .rn neg (m / 10 ^ k) (-(s : Int)) (decide (m % 10 ^ k ≠ 0))).bits

/-- A number's sign applied. -/
def signedInt (neg : Bool) (n : Nat) : Int := if neg then -(n : Int) else n

/-- A number at the head of a text, and how many characters it takes. -/
def lexNumber (neg : Bool) (t : Text) : AsmTok × Nat :=
  match t with
  | '0' :: 'x' :: r =>
    let d := takeDigits 16 r
    (.int (signedInt neg (digitsVal 16 d)), 2 + d.length)
  | t =>
    let d := takeDigits 10 t
    match t.drop d.length with
    | '.' :: r =>
      let f := takeDigits 10 r
      if f.isEmpty then (.int (signedInt neg (digitsVal 10 d)), d.length)
      else (.fp (fpLiteral neg (digitsVal 10 (d ++ f)) f.length), d.length + 1 + f.length)
    | _ => (.int (signedInt neg (digitsVal 10 d)), d.length)

/-- The tokens of a line without its comment; `n` bounds their number. -/
def lexLine : Nat → Text → List AsmTok
  | 0, _ => []
  | _ + 1, [] => []
  | n + 1, c :: r =>
    if c.isWhitespace then lexLine n r
    else if idStart c then
      let w := r.takeWhile idChar
      .ident (c :: w) :: lexLine n (r.drop w.length)
    else if c.isDigit then
      let (t, k) := lexNumber false (c :: r)
      t :: lexLine n ((c :: r).drop k)
    else match c, r with
      | '-', '>' :: r' => .arrow :: lexLine n r'
      | '-', d :: r' =>
        if d.isDigit then
          let (t, k) := lexNumber true (d :: r')
          t :: lexLine n ((d :: r').drop k)
        else .sym '-' :: lexLine n (d :: r')
      | c, r => .sym c :: lexLine n r

/-- A line up to its comment (R112). -/
def stripComment : Text → Text
  | [] => []
  | ';' :: _ => []
  | '/' :: '/' :: _ => []
  | c :: r => c :: stripComment r

/-- The lines of a text. -/
def splitLines : Text → List Text
  | [] => [[]]
  | '\n' :: r => [] :: splitLines r
  | c :: r =>
    match splitLines r with
    | l :: ls => (c :: l) :: ls
    | [] => [[c]]

/-- The tokens of a line (R112). -/
def lineTokens (t : Text) : List AsmTok := lexLine t.length (stripComment t)

/-! ## Names (R84, R97-R107, R113, R164) -/

/-- Unit names by number (R84). -/
def unitNames : List String := ["ia0", "ia1", "fm0", "fm1", "sf", "lg", "xl", "ld", "st", "mx", "cp", "sm"]

/-- R97. -/
def iaNames : List String :=
  ["add", "addc", "sub", "subb", "mul", "mulhi", "mulhu", "mad", "shl", "shr", "sar", "rotl", "rotr", "bfx", "bfxu", "bfi"] ++
  ["popc", "clz", "ctz", "brev", "min", "max", "minu", "maxu", "abs", "adds", "subs", "addus", "subus", "lea"]

/-- R98. -/
def lgNames : List String :=
  ["and", "or", "xor", "andn", "not", "sel", "ceq", "cne", "clt", "cle", "cltu", "cleu"] ++
  ["fceq", "fcne", "fclt", "fcle", "fcun", "fcls", "mbit", "bsel"]

/-- The base names of the rounding operations (R99). -/
def fmBaseNames : List String := ["fma", "fms", "fnma", "add", "sub", "mul", "hfma", "bfma", "cvth", "cvtb", "cvti", "cvtf"]

/-- R99: opcodes 0x30 up. -/
def fmPlainNames : List String :=
  ["min", "max", "neg", "abs", "csgn", "cvtfh", "cvtfb", "cvt8", "cvt6", "dec8", "dec6", "hmin", "hmax", "bmin", "bmax"]

/-- Rounding suffixes by mode (R164). -/
def modeNames : List String := ["rn", "rz", "ru", "rd"]

/-- R100. -/
def sfNames : List String := ["div", "sqrt", "rcp", "rsqrt", "exp2", "log2", "sinpi", "cospi", "scpi"]

/-- R101. -/
def xlNames : List String :=
  ["shfl", "shup", "shdn", "shxor", "vany", "vall", "ballot", "match", "scan", "fscan", "red", "redmin", "redmax", "fred"] ++
  ["blk8", "blk6"]

/-- R102. -/
def ldNames : List String := ["lb", "lbz", "lh", "lhz", "lw", "ld", "lwo", "ldo", "tld", "lblk", "pf"]

/-- R104: opcodes 0x00 up. -/
def stNames : List String := ["sb", "sh", "sw", "sd", "swo", "sdo", "tst"]

/-- R104: opcodes 0x10 up. -/
def stAtomicNames : List String := ["aadd", "afadd", "amin", "amax", "aminu", "amaxu", "aand", "aor", "axor", "axch", "acas"]

/-- R105. -/
def smNames : List String := ["send", "sendr", "sendb"]

/-- R106. -/
def mxNames : List String :=
  ["tmma", "tout", "tfill", "tzero", "tewadd", "tewmul", "tewscale", "tredrow", "tredcol", "ttrn", "mxfence", "qadv"]

/-- R107. -/
def cpNames : List String := ["copy1", "copy2", "copyt", "mcast", "fill", "coll", "ovl"]

/-- Names from an opcode up. -/
def namesFrom (base : Nat) (ns : List String) : List (String × Nat) := ns.zipIdx.map fun e => (e.1, base + e.2)

/-- The names of the rounding operations: the base alone is rn (R164), and each base with each suffix. -/
def fmRoundingNames : List (String × Nat) :=
  fmBaseNames.zipIdx.flatMap fun e => (e.1, 4 * e.2) :: modeNames.zipIdx.map fun m => (e.1 ++ m.1, 4 * e.2 + m.2)

/-- The names of a unit's operations with their opcodes; the first name of an opcode is the one qvdis prints. -/
def opNames (u : FUnit) : List (String × Nat) :=
  match u with
  | .ia0 | .ia1 => namesFrom 0 iaNames
  | .fm0 | .fm1 => fmRoundingNames ++ namesFrom 48 fmPlainNames
  | .sf => namesFrom 0 sfNames
  | .lg => namesFrom 0 lgNames
  | .xl => namesFrom 0 xlNames
  | .ld => namesFrom 0 ldNames
  | .st => namesFrom 0 stNames ++ namesFrom 0x10 stAtomicNames ++ [("radd", 0x20), ("rfadd", 0x21), ("mcst", 0x28)]
  | .mx => namesFrom 0 mxNames
  | .cp => namesFrom 0 cpNames
  | .sm => namesFrom 0 smNames
  | .sp => []

/-- The place of a name in a list. -/
def nameIndex (ns : List String) (t : Text) : Option Nat := ns.findIdx? fun s => decide (s.toList = t)

/-- The unit a name names (R113). -/
def unitNamed (t : Text) : Option FUnit := if t = "sp".toList then some .sp else (nameIndex unitNames t).bind fun i => units[i]?

/-- The operation a name names on a unit (R113). -/
def triggerNamed (u : FUnit) (t : Text) : Option Trigger :=
  ((opNames u).find? fun e => decide (e.1.toList = t)).bind fun e => triggerOf u e.2

/-- Order names (R103). -/
def orderNames : List String := ["rlx", "acq", "rel", "ar"]

/-- Scope names (R113). -/
def scopeNames : List String := ["group", "team", "core", "die", "pkg", "sys"]

/-- The number after a prefix: `v12` after "v" is 12. -/
def numbered (pre : String) (bound : Nat) (t : Text) : Option Nat :=
  let p := pre.toList
  let d := t.drop p.length
  if t.take p.length = p ∧ d ≠ [] ∧ takeDigits 10 d = d ∧ digitsVal 10 d < bound then some (digitsVal 10 d) else none

/-! ## Lines -/

/-- An integer operand as written. -/
inductive AsmVal where
  | int (value : Int)
  | fp (value : Word)
  /-- A constant of `.equ`, a label, or a name that a directive gives a meaning. -/
  | name (t : Text)
  /-- `field(pos,len)` (R156). -/
  | field (pos len : Int)
  deriving DecidableEq, Repr

/-- The source of a move as written (R113). -/
inductive AsmSrc where
  | src (x : Src)
  | val (v : AsmVal)
  deriving DecidableEq, Repr

/-- A move as written. -/
structure AsmMove where
  g : Guard
  src : AsmSrc
  dst : Dst
  deriving DecidableEq, Repr

/-- An operand of a scalar operation as written (R114). -/
inductive AsmArg where
  | s (n : Nat)
  | sPlus (n : Nat) (v : AsmVal)
  | m (inv : Bool) (n : Nat)
  | w (n : Nat)
  | val (v : AsmVal)
  deriving DecidableEq, Repr

/-- An operand of a directive: a value, or a field by name (R115). -/
structure DirArg where
  key : Option Text
  val : AsmVal
  deriving DecidableEq, Repr

/-- What a line adds: an address check, a label, the head of a bundle, a move, or a directive (R112). -/
inductive AsmLine where
  | addr (a : Int)
  | label (t : Text)
  | head (mnemonic : Option Text) (args : List AsmArg) (la : Nat) (y : Bool)
  | move (m : AsmMove)
  | dir (name : Text) (args : List DirArg)
  deriving DecidableEq, Repr

/-- A value at the head of tokens, and what follows it. -/
def parseVal : List AsmTok → Option (AsmVal × List AsmTok)
  | .int n :: r => some (.int n, r)
  | .fp w :: r => some (.fp w, r)
  | .ident f :: .sym '(' :: .int p :: .sym ',' :: .int l :: .sym ')' :: r =>
    if f = "field".toList then some (.field p l, r) else none
  | .ident t :: r => some (.name t, r)
  | _ => none

/-- Special sources without a number (R113). -/
def plainSource (t : Text) : Option Src :=
  if t = "spad".toList then some .spad
  else if t = "lane".toList then some .lane
  else if t = "split".toList then some .split
  else if t = "gtime".toList then some .gtime
  else if t = "pstate".toList then some .pstate
  else none

/-- A source of one identifier (R113). -/
def identSource (t : Text) : AsmSrc :=
  match plainSource t, numbered "v" 320 t, numbered "s" 64 t, numbered "w" 8 t, numbered "e" 4 t with
  | some x, _, _, _, _ => .src x
  | _, some n, _, _, _ => .src (.v (BitVec.ofNat 9 n))
  | _, _, some n, _, _ => .src (.s (BitVec.ofNat 6 n))
  | _, _, _, some n, _ => .src (.w (BitVec.ofNat 3 n))
  | _, _, _, _, some n => .src (.e (BitVec.ofNat 2 n))
  | _, _, _, _, _ => .val (.name t)

/-- A source at the head of tokens (R113). -/
def parseSource : List AsmTok → Option (AsmSrc × List AsmTok)
  | .ident u :: .sym '.' :: .ident p :: r =>
    (unitNamed u).bind fun u =>
      if p = ['o'] then some (.src (.port u false), r) else if p = ['x'] then some (.src (.port u true), r) else none
  | .ident h :: .sym '(' :: .ident s :: .sym ')' :: r =>
    if h = "hi".toList then (numbered "s" 64 s).map fun n => (.src (.hiS (BitVec.ofNat 6 n)), r) else none
  | .ident o :: .sym '(' :: .ident k :: .sym ',' :: .ident sc :: .sym ')' :: r =>
    if o = "ord".toList then
      match nameIndex orderNames k, nameIndex scopeNames sc with
      | some k, some sc => some (.src (.imm (BitVec.ofNat 12 (4 * sc + k))), r)
      | _, _ => none
    else none
  | .ident t :: .sym c :: r =>
    if c = '(' then (parseVal (.ident t :: .sym c :: r)).map fun e => (.val e.1, e.2) else some (identSource t, .sym c :: r)
  | .ident t :: r => some (identSource t, r)
  | ts => (parseVal ts).map fun e => (.val e.1, e.2)

/-- The latch a name names. -/
def latchNamed (t : Text) : Option LatchName :=
  if t = ['a'] then some .a else if t = ['b'] then some .b else if t = ['c'] then some .c else if t = ['w'] then some .w else none

/-- A destination, which ends its line (R113). -/
def parseDest : List AsmTok → Option Dst
  | [.ident u, .sym '.', .ident p, .sym '!'] =>
    match unitNamed u, latchNamed p with
    | some u, some l => some (.latch u l true)
    | _, _ => none
  | [.ident u, .sym '.', .ident p] =>
    (unitNamed u).bind fun u =>
      match latchNamed p with
      | some l => some (.latch u l false)
      | none => (triggerNamed u p).map .trig
  | [.ident t] =>
    if t = "fclr".toList then some .fclr
    else match numbered "v" 320 t, numbered "m" 16 t, numbered "e" 4 t with
      | some n, _, _ => some (.v (BitVec.ofNat 10 n))
      | _, some n, _ => some (.mask (BitVec.ofNat 4 n))
      | _, _, some n => some (.e (BitVec.ofNat 2 n))
      | _, _, _ => none
  | _ => none

/-- The mask register a guard names, m1 to m15 (R113). -/
def guardMask (t : Text) : Option (BitVec 4) :=
  (numbered "m" 16 t).bind fun n => if n = 0 then none else some (BitVec.ofNat 4 n)

/-- The guard at the head of a move (R113). -/
def parseGuard : List AsmTok → Option (Guard × List AsmTok)
  | .sym '(' :: .ident t :: .sym ')' :: r => (guardMask t).map fun n => (⟨n, false⟩, r)
  | .sym '(' :: .sym '!' :: .ident t :: .sym ')' :: r => (guardMask t).map fun n => (⟨n, true⟩, r)
  | r => some (⟨0, false⟩, r)

/-- A move (R113). -/
def parseMove (ts : List AsmTok) : Option AsmMove :=
  (parseGuard ts).bind fun g =>
    (parseSource g.2).bind fun x =>
      match x.2 with
      | .arrow :: r => (parseDest r).map fun d => { g := g.1, src := x.1, dst := d }
      | _ => none

/-- An operand of a scalar operation (R114). -/
def parseArg : List AsmTok → Option (AsmArg × List AsmTok)
  | .sym '!' :: .ident t :: r => (numbered "m" 16 t).map fun n => (.m true n, r)
  | .ident t :: r =>
    match numbered "s" 64 t, numbered "m" 16 t, numbered "w" 8 t with
    | some n, _, _ =>
      match r with
      | .sym '+' :: r' => (parseVal r').map fun e => (.sPlus n e.1, e.2)
      | r => some (.s n, r)
    | _, some n, _ => some (.m false n, r)
    | _, _, some n => some (.w n, r)
    | _, _, _ => (parseVal (.ident t :: r)).map fun e => (.val e.1, e.2)
  | ts => (parseVal ts).map fun e => (.val e.1, e.2)

/-- Comma-separated operands; `n` bounds their number. -/
def parseArgs : Nat → List AsmTok → Option (List AsmArg × List AsmTok)
  | 0, _ => none
  | n + 1, ts =>
    (parseArg ts).bind fun a =>
      match a.2 with
      | .sym ',' :: r => (parseArgs n r).map fun b => (a.1 :: b.1, b.2)
      | r => some ([a.1], r)

/-- The end of a bundle's line: an optional `la=`n, and an optional `y` (R112). -/
def parseTail : List AsmTok → Option (Nat × Bool)
  | [] => some (0, false)
  | [.ident ['y']] => some (0, true)
  | [.ident ['l', 'a'], .sym '=', .int n] => if 0 ≤ n ∧ n ≤ 15 then some (n.toNat, false) else none
  | [.ident ['l', 'a'], .sym '=', .int n, .ident ['y']] => if 0 ≤ n ∧ n ≤ 15 then some (n.toNat, true) else none
  | _ => none

/-- The head of a bundle (R112). -/
def parseHead : List AsmTok → Option AsmLine
  | .sym '-' :: r => (parseTail r).map fun e => .head none [] e.1 e.2
  | .ident t :: r =>
    match parseTail r with
    | some e => some (.head (some t) [] e.1 e.2)
    | none =>
      (parseArgs 16 r).bind fun a => (parseTail a.2).map fun e => .head (some t) a.1 e.1 e.2
  | _ => none

/-- Comma-separated operands of a directive; `n` bounds their number. -/
def parseDirArgs : Nat → List AsmTok → Option (List DirArg)
  | _, [] => some []
  | 0, _ => none
  | n + 1, ts =>
    let one : Option (DirArg × List AsmTok) := match ts with
      | .ident k :: .sym '=' :: r => (parseVal r).map fun e => (⟨some k, e.1⟩, e.2)
      | ts => (parseVal ts).map fun e => (⟨none, e.1⟩, e.2)
    one.bind fun a =>
      match a.2 with
      | [] => some [a.1]
      | .sym ',' :: r => (parseDirArgs n r).map fun b => a.1 :: b
      | _ => none

/-- What the tokens of a line add (R112); `n` bounds the labels and addresses at its head. -/
def parseTokens : Nat → List AsmTok → Option (List AsmLine)
  | _, [] => some []
  | 0, _ => none
  | n + 1, .int a :: .sym ':' :: r => (parseTokens n r).map fun ls => .addr a :: ls
  | n + 1, .ident t :: .sym ':' :: r => (parseTokens n r).map fun ls => .label t :: ls
  | _ + 1, .sym '|' :: r => (parseMove r).map fun m => [.move m]
  | _ + 1, .sym '.' :: .ident t :: r => (parseDirArgs r.length r).map fun a => [.dir t a]
  | _ + 1, ts => (parseHead ts).map fun h => [h]

/-- A line of text (R112); none where it has no form of R112-R115. -/
def parseLine (t : Text) : Option (List AsmLine) := parseTokens 4 (lineTokens t)

end Sys2Proof.Machine
end

