-- ==== Sys2Proof/Machine/Assembler.lean ====
section
/-!
DEFINITION. qvas (spec 05_bundles R112-R115): lines to bundles, sections and kernel descriptors. Host software: plain functions of a text.
-/

namespace Sys2Proof.Machine

/-- Why a text does not assemble. -/
inductive AsmError where
  /-- A line with no form of R112-R115, or a move outside a bundle. -/
  | badLine (line : Nat)
  /-- The address written is not that of the next bundle (R112). -/
  | address (expected found : Nat)
  /-- More than six moves and long immediates (R112). -/
  | slots
  /-- A name that nothing defines, or a value outside its field. -/
  | operand
  /-- A kernel opened in a kernel, or closed outside one. -/
  | nesting
  /-- A header that would fail R14 (R115). -/
  | header
  deriving DecidableEq, Repr

/-! ## Items: a bundle with its moves -/

/-- A bundle as written. -/
structure AsmBundle where
  mnemonic : Option Text
  args : List AsmArg
  la : Nat
  y : Bool
  moves : List AsmMove
  deriving DecidableEq, Repr

/-- What assembly goes through, in order. -/
inductive AsmItem where
  | addr (a : Int)
  | label (t : Text)
  | bundle (b : AsmBundle)
  | dir (name : Text) (args : List DirArg)
  deriving DecidableEq, Repr

/-- A move joined to the bundle that is still open among items kept newest first: a bundle ends at the next bundle line, directive or end
of file, so labels and addresses may stand in between (R112). -/
def addMove (m : AsmMove) : List AsmItem → Option (List AsmItem)
  | .bundle b :: r => some (.bundle { b with moves := b.moves ++ [m] } :: r)
  | .label t :: r => (addMove m r).map (.label t :: ·)
  | .addr a :: r => (addMove m r).map (.addr a :: ·)
  | .dir _ _ :: _ | [] => none

/-- A line added to items kept newest first (R112). -/
def addLine (items : List AsmItem) (l : AsmLine) : Option (List AsmItem) :=
  match l, items with
  | .move m, r => addMove m r
  | .addr a, r => some (.addr a :: r)
  | .label t, r => some (.label t :: r)
  | .head o a la y, r => some (.bundle ⟨o, a, la, y, []⟩ :: r)
  | .dir t a, r => some (.dir t a :: r)

/-- The lines of a text added, `k` numbering them from 1; items stay newest first. -/
def addLines (k : Nat) : List Text → List AsmItem → Except AsmError (List AsmItem)
  | [], items => .ok items
  | t :: r, items =>
    match (parseLine t).bind fun ls => ls.foldlM addLine items with
    | some items => addLines (k + 1) r items
    | none => .error (.badLine k)

/-- The items of a text. -/
def itemsOf (t : Text) : Except AsmError (List AsmItem) :=
  match addLines 1 (splitLines t) [] with
  | .ok items => .ok items.reverse
  | .error e => .error e

/-! ## Values -/

/-- Constants of `.equ` and addresses of labels. -/
structure AsmEnv where
  equs : List (Text × Int) := []
  labels : List (Text × Nat) := []
  deriving DecidableEq, Repr

/-- A name's value in a list. -/
def named {α : Type} (l : List (Text × α)) (t : Text) : Option α := (l.find? fun e => decide (e.1 = t)).map fun e => e.2

/-- A value: a constant, a label's address, or `field(pos,len)`, pos + 256 x len. -/
def valOf (env : AsmEnv) : AsmVal → Option Int
  | .int n => some n
  | .fp w => some w.toNat
  | .name t => match named env.equs t with
    | some n => some n
    | none => (named env.labels t).map fun a => (a : Int)
  | .field p l => some (p + 256 * l)

/-- A value in a field of `n` bits, signed or unsigned. -/
def fieldOf (env : AsmEnv) (n : Nat) (v : AsmVal) : Option (BitVec n) :=
  (valOf env v).bind fun x => if -(2 ^ (n - 1)) ≤ x ∧ x < 2 ^ n then some (BitVec.ofInt n x) else none

/-- A value in a signed field of `n` bits. -/
def signedField (env : AsmEnv) (n : Nat) (v : AsmVal) : Option (BitVec n) :=
  (valOf env v).bind fun x => if -(2 ^ (n - 1)) ≤ x ∧ x < 2 ^ (n - 1) then some (BitVec.ofInt n x) else none

/-- A value in an unsigned field of `n` bits below a bound. -/
def smallField (env : AsmEnv) (n bound : Nat) (v : AsmVal) : Option (BitVec n) :=
  (valOf env v).bind fun x => if 0 ≤ x ∧ x < bound then some (BitVec.ofInt n x) else none

/-! ## Scalar operations (R109, R114) -/

/-- A register operand. -/
def argS : AsmArg → Option (BitVec 6)
  | .s n => some (BitVec.ofNat 6 n)
  | _ => none

/-- The SS second operand (R114): a register, an immediate, or both. -/
def argT (env : AsmEnv) : AsmArg → Option (BitVec 6 × BitVec 22)
  | .s n => some (BitVec.ofNat 6 n, 0)
  | .sPlus n v => (signedField env 22 v).map fun x => (BitVec.ofNat 6 n, x)
  | .val v => (signedField env 22 v).map fun x => (0, x)
  | _ => none

/-- A plain value operand. -/
def argVal : AsmArg → Option AsmVal
  | .val v => some v
  | _ => none

/-- A scope operand. -/
def argScope : AsmArg → Option (BitVec 3)
  | .val (.name t) => (nameIndex scopeNames t).map fun n => BitVec.ofNat 3 n
  | _ => none

/-- The address that an operand names as a label; an identifier such as `m0` names one there (R112, R114). -/
def argTarget (env : AsmEnv) : AsmArg → Option Int
  | .val v => valOf env v
  | .s n => labelNumbered "s" 64 n
  | .m false n => labelNumbered "m" 16 n
  | .w n => labelNumbered "w" 8 n
  | .sPlus _ _ | .m true _ => none
where
  /-- The label made of a prefix and a number. -/
  labelNumbered (pre : String) (bound n : Nat) : Option Int :=
    (env.labels.find? fun e => decide (numbered pre bound e.1 = some n)).map fun e => (e.2 : Int)

/-- The offset in bundles from the bundle at `here` to a label (R95, R114). -/
def argOffset (env : AsmEnv) (here n : Nat) (x : AsmArg) : Option (BitVec n) :=
  (argTarget env x).bind fun a =>
    let d := (a - (here : Int)) / 32
    if (a - (here : Int)) % 32 = 0 ∧ -(2 ^ (n - 1)) ≤ d ∧ d < 2 ^ (n - 1) then some (BitVec.ofInt n d) else none

/-- The mnemonics of the two-operand operations (R109). -/
def aluNames : List String :=
  ["ADD", "SUB", "MUL", "MULH", "AND", "OR", "XOR", "SHL", "SHR", "SAR", "MIN", "MAX", "MINU", "MAXU", "CEQ", "CLT", "CLTU"]

/-- An operation with operands sd, sa and t. -/
def ssOp (f : BitVec 6 → BitVec 6 → BitVec 6 → BitVec 22 → ScalarOp) (env : AsmEnv) : List AsmArg → Option ScalarOp
  | [d, a, t] =>
    match argS d, argS a, argT env t with
    | some d, some a, some t => some (f d a t.1 t.2)
    | _, _, _ => none
  | _ => none

/-- An operation with operands sa and t. -/
def stOp (f : BitVec 6 → BitVec 6 → BitVec 22 → ScalarOp) (env : AsmEnv) : List AsmArg → Option ScalarOp
  | [a, t] =>
    match argS a, argT env t with
    | some a, some t => some (f a t.1 t.2)
    | _, _ => none
  | _ => none

/-- Names that fit [operands] of one shape each (R109); the branch offsets count from the bundle at `here`. -/
def scalarNamed (env : AsmEnv) (here : Nat) (name : Text) (args : List AsmArg) : Option ScalarOp :=
  let is (s : String) : Bool := decide (s.toList = name)
  match (nameIndex aluNames name).bind fun i => aluOps[i]? with
  | some op => ssOp (.alu op) env args
  | none =>
    if is "SLD" then ssOp .sld env args
    else if is "SST" then ssOp .sst env args
    else if is "SLDQ" then ssOp .sldq env args
    else if is "SSTQ" then ssOp .sstq env args
    else if is "SPAWN" then ssOp .spawn env args
    else if is "PMAP" then ssOp .pmap env args
    else if is "PFLUSH" then stOp .pflush env args
    else if is "OVLOAD" then stOp .ovload env args
    else if is "OVCALL" then stOp .ovcall env args
    else if is "PHINT" then stOp .phint env args
    else match args with
      | [] =>
        if is "EXIT" then some .exit
        else if is "RECBEG" then some .recbeg
        else if is "RECEND" then some .recend
        else if is "MXTAKE" then some .mxtake
        else if is "MXGIVE" then some .mxgive
        else if is "ERET" then some .eret
        else none
      | [x] =>
        if is "REGGIVE" then (argT env x).map fun t => .reggive t.1 t.2
        else if is "REGCLAIM" then (argT env x).map fun t => .regclaim t.1 t.2
        else if is "RET" then (argS x).map .ret
        else if is "REVERSE" then (argS x).map .reverse
        else if is "CALL" then (argOffset env here 24 x).map .call
        else if is "DSYNC" then (argScope x).map .dsync
        else if is "FENCE" then (argScope x).map .fence
        else if is "MXWAIT" then (argS x).map .mxwait
        else if is "SYS" then ((argVal x).bind (fieldOf env 16)).map .sys
        else if is "TRAP" then ((argVal x).bind (fieldOf env 16)).map .trap
        else none
      | [x, y] =>
        if is "LOOP" then
          match argOffset env here 24 x, argS y with
          | some o, some a => some (.loop o a)
          | _, _ => none
        else match x, y with
        | .s d, .m false n => if is "MRD" then some (.mrd (BitVec.ofNat 6 d) (BitVec.ofNat 4 n)) else none
        | .m inv n, t =>
          if is "BU" then (argOffset env here 24 t).map fun o => .bu inv (BitVec.ofNat 4 n) o else none
        | .s d, v =>
          if is "LI" then ((argVal v).bind (fieldOf env 32)).map fun i => .li (BitVec.ofNat 6 d) i
          else if is "LIZ" then ((argVal v).bind (fieldOf env 32)).map fun i => .liz (BitVec.ofNat 6 d) i
          else if is "LIH" then ((argVal v).bind (fieldOf env 32)).map fun i => .lih (BitVec.ofNat 6 d) i
          else if is "RDSR" then ((argVal v).bind (smallField env 16 65536)).map fun i => .rdsr (BitVec.ofNat 6 d) i
          else none
        | v, .s a =>
          match argVal v with
          | none => none
          | some v =>
            if is "WRSR" then (smallField env 16 65536 v).map fun i => .wrsr (BitVec.ofNat 6 a) i
            else if is "WAITC" then (smallField env 6 64 v).map fun i => .waitc (BitVec.ofNat 6 a) i
            else if is "CPWAIT" then (smallField env 6 64 v).map fun i => .cpwait (BitVec.ofNat 6 a) i
            else none
        | v, sc =>
          match (argVal v).bind (smallField env 6 64), argScope sc with
          | some i, some sc => if is "BARA" then some (.bara 0 0 i sc) else if is "BARW" then some (.barw i sc) else none
          | _, _ => none
      | [.m inv n, t, j] =>
        if is "BD" then
          match argOffset env here 24 t, argOffset env here 16 j with
          | some t, some j => some (.bd inv (BitVec.ofNat 4 n) t j)
          | _, _ => none
        else if is "MWR" then
          match inv, argS t, argT env j with
          | false, some a, some t => some (.mwr (BitVec.ofNat 4 n) a t.1 t.2)
          | _, _, _ => none
        else none
      | [.w n, a, t] =>
        if is "BASEW" then
          match argS a, argT env t with
          | some a, some t => some (.basew (BitVec.ofNat 3 n) a t.1 t.2)
          | _, _ => none
        else none
      | [v, .s a, .s b, sc] =>
        match (argVal v).bind (smallField env 6 64), argScope sc with
        | some i, some sc => if is "BARA" then some (.bara (BitVec.ofNat 6 a) (BitVec.ofNat 6 b) i sc) else none
        | _, _ => none
      | _ => none

/-! ## Moves and long immediates (R113) -/

/-- A move's source: a field of its own, or the word of a long immediate. -/
inductive Placed where
  | src (x : Src)
  | long (w : Word)
  deriving DecidableEq, Repr

/-- Where a source goes (R113): an integer of 12 bits in the immediate field, every other value in a long-immediate slot. -/
def placeSource (env : AsmEnv) : AsmSrc → Option Placed
  | .src x => some (.src x)
  | .val (.fp w) => some (.long w)
  | .val v => (valOf env v).bind fun n =>
      if -2048 ≤ n ∧ n ≤ 2047 then some (.src (.imm (BitVec.ofInt 12 n)))
      else if -(2 ^ 31) ≤ n ∧ n < 2 ^ 32 then some (.long (BitVec.ofInt 32 n))
      else none

/-- The words of long immediates, each once, in the order written (R113). -/
def longWords : List Placed → List Word → List Word
  | [], ws => ws
  | .long w :: r, ws => longWords r (if ws.contains w then ws else ws ++ [w])
  | .src _ :: r, ws => longWords r ws

/-- A move of a bundle whose long immediates are `ws`, the first in slot 5 and the others below it (R113). The unguarded `v0 -> v0` is
the empty slot (R77). -/
def placeMove (ws : List Word) (m : AsmMove) (p : Placed) : Slot :=
  let src : Src := match p with
    | .src x => x
    | .long w => .lim (BitVec.ofNat 3 (5 - ws.idxOf w))
  let move : Move := ⟨m.g, m.dst, src⟩
  if move = ⟨⟨0, false⟩, .v 0, .v 0⟩ then .empty else .move move

/-- A bundle at an address (R112-R114). -/
def assembleBundle (env : AsmEnv) (here : Nat) (b : AsmBundle) : Except AsmError Bundle :=
  let op : Option (Option ScalarOp) := match b.mnemonic with
    | none => some none
    | some t => (scalarNamed env here t b.args).map some
  match op, b.moves.mapM fun m => placeSource env m.src with
  | some op, some ps =>
    let ws := longWords ps []
    if b.moves.length + ws.length > 6 then .error .slots
    else
      let slots := (b.moves.zip ps).map fun e => placeMove ws e.1 e.2
      .ok { la := BitVec.ofNat 4 b.la, y := b.y, scalar := op
            slots := slots ++ List.replicate (6 - slots.length - ws.length) .empty ++ ws.reverse.map .lim }
  | _, _ => .error .operand

/-! ## Records by field name (R30, R115, R209, R262, R263) -/

/-- A field of a record: name, lowest bit, width. -/
abbrev RecField := String × Nat × Nat

/-- A stream register image: QW0, then QW1 (R262, R263). -/
def streamFields : List RecField :=
  [("BASE", 0, 20), ("CAP", 20, 8), ("TROWS", 28, 7), ("TCOLS", 35, 7), ("FMT", 42, 4), ("SFMT", 46, 2), ("SSTR", 48, 8),
   ("HEAD", 64, 32), ("TAIL", 96, 32)]

/-- A field of each index of a range. -/
def indexed (pre : String) (lo n base step width : Nat) : List (Text × Nat × Nat) :=
  (List.range n).map fun i => (pre.toList ++ [Char.ofNat (48 + lo + i)], base + step * i, width)

/-- Fields named by characters. -/
def plainFields (l : List RecField) : List (Text × Nat × Nat) := l.map fun e => (e.1.toList, e.2)

/-- A tensor shape record (R209). -/
def shapeFields : List (Text × Nat × Nat) :=
  plainFields [("BASE", 0, 52), ("SPACE", 52, 1), ("NDIM", 53, 3), ("FMT", 56, 4), ("PERMIT", 60, 1), ("SSTR", 232, 8),
    ("HEM", 448, 32), ("SOFF", 480, 24), ("PERM", 504, 3)] ++
  indexed "EXT" 0 7 64 24 24 ++ indexed "STR" 1 6 256 32 32

/-- An operator parameter block (R30). -/
def opblockFields : List (Text × Nat × Nat) :=
  plainFields [("NLEV", 0, 3), ("SEQLEV", 3, 3), ("SWORD", 64, 64), ("ARG", 128, 64)] ++
  indexed "BOUND" 0 6 192 128 32 ++ indexed "STRIDE" 0 6 224 128 32 ++ indexed "START" 0 6 256 128 32 ++
  indexed "SREG" 0 6 288 128 6 ++ indexed "MAP" 0 6 294 128 1

/-- One field set in a record image. -/
def setField (env : AsmEnv) (fields : List (Text × Nat × Nat)) (x : Nat) (a : DirArg) : Option Nat :=
  match a.key.bind (named (α := Nat × Nat) fields) with
  | some f => (fieldOf env f.2 a.val).map fun (v : BitVec f.2) => setBits x f.1 f.2 v.toNat
  | none => none

/-- The `n` bytes of a record image from fields by name. -/
def imageBytes (env : AsmEnv) (fields : List (Text × Nat × Nat)) (n : Nat) (args : List DirArg) : Option (List Byte) :=
  (args.foldlM (setField env fields) 0).map fun x => leBytes n x

/-- The bytes of a record directive, and how many they are. -/
def recordDir (name : Text) : Option (List (Text × Nat × Nat) × Nat) :=
  if name = "stream".toList then some (plainFields streamFields, 16)
  else if name = "shape".toList then some (shapeFields, 64)
  else if name = "opblock".toList then some (opblockFields, 256)
  else none

/-- Bytes of an item directive's values. -/
def itemWidth (name : Text) : Option Nat :=
  if name = "word".toList then some 4 else if name = "half".toList then some 2 else if name = "byte".toList then some 1 else none

/-! ## Kernels (R12, R13, R115) -/

/-- A kernel being assembled: its descriptor's fields, the entry once a bundle has followed. -/
structure AsmKernel where
  name : Text
  kd : KDesc
  entry : Option Nat
  deriving DecidableEq, Repr

/-- The header fields at `.kernel`: PROF 2, every other field 0 (R115). -/
def kernelStart : KDesc :=
  { prof := 2, lw := false, nreg := 0, spkb := 0, nbar := 0, ngrp := 0, rc0 := 0, rc1 := 0, rc2 := 0, recOk := false, pcls := 0
    entry := 0, handler := 0, hmask := 0 }

/-- The 16 bytes of a kernel descriptor (R12, R13). -/
def kdescBytes (k : KDesc) : List Byte :=
  leBytes 8 (k.prof * 2 ^ 60 + (if k.lw then 2 ^ 59 else 0) + k.nreg * 2 ^ 53 + k.spkb * 2 ^ 42 + k.nbar * 2 ^ 36 + k.ngrp * 2 ^ 31 +
    k.rc0 * 2 ^ 28 + k.rc1 * 2 ^ 25 + k.rc2 * 2 ^ 22 + (if k.recOk then 2 ^ 21 else 0) + k.pcls * 2 ^ 17) ++
  leBytes 8 (k.hmask * 2 ^ 38 + k.handler * 2 ^ 19 + k.entry)

/-- A directive's operands as small numbers. -/
def dirNats (env : AsmEnv) (bound : Nat) (args : List DirArg) : Option (List Nat) :=
  args.mapM fun a => if a.key.isSome then none else (smallField env 32 bound a.val).map fun v => v.toNat

/-- The fields that `.kernel` sets by name (R115). -/
def kernelField (env : AsmEnv) (k : KDesc) (a : DirArg) : Option KDesc :=
  match a.key, smallField env 32 256 a.val with
  | some t, some v =>
    let v := v.toNat
    if t = "groups".toList ∧ v < 32 then some { k with ngrp := v }
    else if t = "rec".toList ∧ v < 2 then some { k with recOk := decide (v = 1) }
    else if t = "pclass".toList ∧ v < 16 then some { k with pcls := v }
    else none
  | _, _ => none

/-- HMASK with the bits of causes set (R115): bit 37 + c of the entry word is bit c - 1 of HMASK. -/
def maskCauses (h : Nat) : List Nat → Option Nat
  | [] => some h
  | c :: r => if 1 ≤ c ∧ c ≤ 14 then maskCauses (setBits h (c - 1) 1 1) r else none

/-- A directive inside a kernel (R115); none where it is no kernel directive or its operands are outside their ranges. -/
def kernelDir (env : AsmEnv) (name : Text) (args : List DirArg) (k : KDesc) : Option KDesc :=
  let is (s : String) : Bool := decide (s.toList = name)
  if is "trap" then
    match args with
    | a :: r =>
      match a.key, valOf env a.val, dirNats env 256 r with
      | none, some l, some cs =>
        if 0 ≤ l ∧ l < 2 ^ 19 ∧ cs ≠ [] then (maskCauses k.hmask cs).map fun h => { k with handler := l.toNat, hmask := h } else none
      | _, _, _ => none
    | [] => none
  else match dirNats env 65536 args with
    | none => none
    | some ns =>
      match ns with
      | [] => if is "legacy16" then some { k with lw := true } else none
      | [n] =>
        if is "profile" ∧ (n = 1 ∨ n = 2) then some { k with prof := n }
        else if is "regs" ∧ 8 ≤ n ∧ n ≤ 320 ∧ n % 8 = 0 then some { k with nreg := n / 8 }
        else if is "scratch" ∧ n ≤ 1024 then some { k with spkb := n }
        else if is "barriers" ∧ n ≤ 32 then some { k with nbar := n }
        else none
      | [a, b, c] => if is "roles" ∧ a < 8 ∧ b < 8 ∧ c < 8 then some { k with rc0 := a, rc1 := b, rc2 := c } else none
      | _ => none

/-- The kernel directives (R115). -/
def kernelDirs : List String := ["profile", "legacy16", "regs", "scratch", "barriers", "roles", "trap"]

/-! ## Placing (R112, R115) -/

/-- Bytes placed so far: the overlay slot that code goes to, whether items go to the data section, the bytes of each slot and of data, and
the addresses that the next bundle is to start at (R112). -/
structure AsmOut where
  slot : Nat := 0
  inData : Bool := false
  code : List (List Byte) := List.replicate 8 []
  data : List Byte := []
  kernel : Option AsmKernel := none
  kernels : List (Text × List Byte) := []
  expected : List Int := []
  deriving DecidableEq, Repr

/-- The address of the next byte of code. -/
def asmAt (o : AsmOut) : Nat := 65536 * o.slot + (o.code.getD o.slot []).length

/-- Bytes of code. -/
def asmCode (o : AsmOut) (b : List Byte) : AsmOut := { o with code := o.code.set o.slot (o.code.getD o.slot [] ++ b) }

/-- Bytes of items, in the data section after `.data` and in the overlay before it. -/
def putItems (o : AsmOut) (b : List Byte) : AsmOut := if o.inData then { o with data := o.data ++ b } else asmCode o b

/-- The place of the next item: its offset in the data section, or its address. -/
def itemAt (o : AsmOut) : Nat := if o.inData then o.data.length else asmAt o

/-- Zero bytes up to a multiple of a power of two. -/
def padTo (o : AsmOut) (n : Nat) : AsmOut := putItems o (List.replicate ((n - itemAt o % n) % n) 0)

/-- Whether a number is a power of two. -/
def isPower (n : Nat) : Bool := decide (n ≠ 0 ∧ 2 ^ Nat.log2 n = n)

/-- The bundle's 32 bytes placed: code is aligned to 32 bytes, within the 64 KiB of its slot. -/
def putBundle (o : AsmOut) (b : List Byte) : Except AsmError AsmOut :=
  let here := asmAt o
  if here % 32 ≠ 0 ∨ (o.code.getD o.slot []).length + 32 > 65536 then .error .operand
  else
    let k := o.kernel.map fun k => { k with entry := some (k.entry.getD here) }
    .ok { asmCode o b with inData := false, kernel := k, expected := [] }

/-- A directive (R115). -/
def assembleDir (env : AsmEnv) (o : AsmOut) (name : Text) (args : List DirArg) : Except AsmError AsmOut :=
  let is (s : String) : Bool := decide (s.toList = name)
  if is "equ" then .ok o
  else if is "data" then .ok { o with inData := true }
  else if is "kernel" then
    match o.kernel, args with
    | none, ⟨none, .name t⟩ :: fs =>
      match fs.foldlM (kernelField env) kernelStart with
      | some k => .ok { o with inData := false, kernel := some ⟨t, k, none⟩ }
      | none => .error .operand
    | some _, _ => .error .nesting
    | _, _ => .error .operand
  else if is "kend" then
    match o.kernel with
    | none => .error .nesting
    | some k =>
      let b := kdescBytes { k.kd with entry := k.entry.getD 0 }
      if k.entry.isNone ∨ (kdescOf b).isNone then .error .header
      else .ok { o with kernel := none, kernels := o.kernels ++ [(k.name, b)] }
  else if kernelDirs.any is then
    match o.kernel with
    | none => .error .nesting
    | some k =>
      match kernelDir env name args k.kd with
      | some kd => .ok { o with kernel := some { k with kd := kd } }
      | none => .error .operand
  else match recordDir name, itemWidth name with
    | some (fields, n), _ =>
      match imageBytes env fields n args with
      | some b => .ok (putItems o b)
      | none => .error .operand
    | none, some n =>
      match args.mapM fun a => if a.key.isSome then none else (fieldOf env (8 * n) a.val).map fun v => leBytes n v.toNat with
      | some bs => .ok (putItems o bs.flatten)
      | none => .error .operand
    | none, none =>
      match args with
      | [⟨none, v⟩] =>
        match (valOf env v).map Int.toNat with
        | some n =>
          if is "align" ∧ isPower n then .ok (padTo o n)
          else if is "overlay" ∧ (smallField env 3 8 v).isSome then .ok { o with inData := false, slot := n }
          else .error .operand
        | none => .error .operand
      | _ => .error .operand

/-- The bytes a bundle takes while labels are not known yet. -/
def blankBundle : List Byte := List.replicate 32 0

/-- The names that the items define, placed with every bundle and every value blank (R112): a label is the address of what follows it. -/
def collect (o : AsmOut) (env : AsmEnv) : List AsmItem → Except AsmError AsmEnv
  | [] => .ok env
  | .addr _ :: r => collect o env r
  | .label t :: r => collect o { env with labels := env.labels ++ [(t, itemAt o)] } r
  | .bundle _ :: r =>
    match putBundle o blankBundle with
    | .ok o => collect o env r
    | .error e => .error e
  | .dir name args :: r =>
    if name = "equ".toList then
      match args with
      | [⟨none, .name t⟩, ⟨none, v⟩] =>
        match valOf env v with
        | some n => collect o { env with equs := env.equs ++ [(t, n)] } r
        | none => .error .operand
      | _ => .error .operand
    else match recordDir name, itemWidth name with
      | some (_, n), _ => collect (putItems o (List.replicate n 0)) env r
      | none, some n => collect (putItems o (List.replicate (n * args.length) 0)) env r
      | none, none =>
        if name = "data".toList ∨ name = "align".toList ∨ name = "overlay".toList then
          match assembleDir env o name args with
          | .ok o => collect o env r
          | .error e => .error e
        else collect (if name = "kernel".toList then { o with inData := false } else o) env r

/-- One item placed (R112). -/
def assembleItem (env : AsmEnv) (o : AsmOut) (i : AsmItem) : Except AsmError AsmOut :=
  match i with
  | .addr a => .ok { o with expected := o.expected ++ [a] }
  | .label _ => .ok o
  | .bundle b =>
    match o.expected.find? fun a => decide (a ≠ (asmAt o : Int)), assembleBundle env (asmAt o) b with
    | some a, _ => .error (.address (asmAt o) a.toNat)
    | none, .ok x => putBundle o (bytesOfWord (encodeBundle x))
    | none, .error e => .error e
  | .dir name args => assembleDir env o name args

/-- Items placed in order. -/
def assembleItems (env : AsmEnv) : List AsmItem → AsmOut → Except AsmError AsmOut
  | [], o => .ok o
  | i :: r, o =>
    match assembleItem env o i with
    | .ok o => assembleItems env r o
    | .error e => .error e

/-- qvas: the overlays, data and kernel descriptors of a text (R112-R115). -/
def assemble (t : Text) : Except AsmError AsmOut :=
  match itemsOf t with
  | .error e => .error e
  | .ok items =>
    match collect {} {} items with
    | .error e => .error e
    | .ok env => assembleItems env items {}

/-- The eight words of the bundle at an address of what qvas made, word 0 first (R76). -/
def wordsAt (o : AsmOut) (a : Nat) : List Nat :=
  (List.range 8).map fun i => leVal ((((o.code.getD (a / 65536) []).drop (a % 65536)).drop (4 * i)).take 4)

end Sys2Proof.Machine
end

