-- ==== Sys2Proof/Machine/CodeObject.lean ====
section
/-!
DEFINITION. Code objects (spec 27_code_objects, R342-R344) and the translation cache's key (R348): host software, as plain functions of
an object's bytes. The device's own parts of these rules are in Tasks.lean (R14) and Copy.lean (R139).
-/

namespace Sys2Proof.Machine

/-! ## Layout (R342) -/

/-- The header of a code object (R342). -/
structure ObjHeader where
  magic : Nat
  format : Nat
  nsect : Nat
  bundle : Nat
  vector : Nat
  matrix : Nat
  reserved : Nat
  reqfeat : DWord
  stab : Nat
  tail : List Nat
  deriving DecidableEq, Repr

/-- The header's fields (R342). -/
def objHeader (b : List Byte) : ObjHeader :=
  let w (i : Nat) : Nat := wordAt b i
  { magic := bits (w 0) 0 32, format := bits (w 0) 32 16, nsect := bits (w 0) 48 16, bundle := bits (w 1) 0 4
    vector := bits (w 1) 4 4, matrix := bits (w 1) 8 4, reserved := bits (w 1) 12 52, reqfeat := BitVec.ofNat 64 (w 2)
    stab := w 3, tail := [w 4, w 5, w 6, w 7] }

/-- Kinds of section (R342). -/
inductive SectionKind where
  | overlay | descriptors | data | olsis | symbols
  deriving DecidableEq, Repr

/-- The kind a KIND code names (R342). -/
def sectionKind (k : Nat) : Option SectionKind :=
  match k with
  | 1 => some .overlay
  | 2 => some .descriptors
  | 3 => some .data
  | 4 => some .olsis
  | 5 => some .symbols
  | _ => none

/-- A section table entry (R342). -/
structure ObjSection where
  kind : Option SectionKind
  slot : Nat
  ent : Bool
  reserved : Bool
  off : Nat
  size : Nat
  deriving DecidableEq, Repr

/-- The section table entry in 32 bytes. -/
def objSection (b : List Byte) : ObjSection :=
  let w := wordAt b 0
  { kind := sectionKind (bits w 0 8), slot := bits w 8 3, ent := decide (bits w 11 1 = 1)
    reserved := decide (bits w 12 52 ≠ 0 ∨ wordAt b 3 ≠ 0), off := wordAt b 1, size := wordAt b 2 }

/-- The section table (R342). -/
def objSections (b : List Byte) : List ObjSection :=
  (List.range (objHeader b).nsect).map fun i => objSection ((b.drop ((objHeader b).stab + 32 * i)).take 32)

/-- A section's bytes. -/
def sectionBytes (b : List Byte) (x : ObjSection) : List Byte := (b.drop x.off).take x.size

/-- The sections of a kind. -/
def sectionsOf (b : List Byte) (k : SectionKind) : List ObjSection := (objSections b).filter fun x => decide (x.kind = some k)

/-- The 16-byte kernel descriptors of a section. -/
def sectionDescriptors (b : List Byte) (x : ObjSection) : List (List Byte) :=
  (List.range (x.size / 16)).map fun i => ((sectionBytes b x).drop (16 * i)).take 16

/-! ## Refusal (R343) -/

/-- Why the runtime refuses an object, one constructor per line of R343's list. -/
inductive ObjRefusal where
  /-- MAGIC or FORMAT is wrong, a reserved field is nonzero, a KIND is reserved, or a field is outside R342's values or the object. -/
  | malformed
  /-- REQFEAT has a bit that FEATVEC lacks. -/
  | feature
  /-- The bundle profile is absent from FEATVEC. -/
  | profile
  /-- BUNDLE 1 with MATRIX nonzero. -/
  | matrix
  /-- An overlay's SIZE or slot. -/
  | overlay
  /-- Two overlays with ENT = 1 name one slot. -/
  | entryTwice
  /-- A kernel descriptor section whose SIZE is not a multiple of 16. -/
  | descriptorSize
  /-- A kernel descriptor's header names another PROF or would fail R14. -/
  | descriptorHeader
  /-- A kernel descriptor's entry lies in no entry overlay of its slot. -/
  | descriptorEntry
  /-- No overlay and no Olsis section. -/
  | noCode
  deriving DecidableEq, Repr

/-- The header breaks R342 (R343 line 1). -/
def headerMalformed (b : List Byte) : Bool :=
  let h := objHeader b
  decide (h.magic ≠ 0x4F435859 ∨ h.format ≠ 1 ∨ h.nsect = 0 ∨ h.nsect > 4096 ∨ (h.bundle ≠ 1 ∧ h.bundle ≠ 2) ∨ h.vector ≠ 1 ∨
    h.matrix > 1 ∨ h.reserved ≠ 0 ∨ h.stab % 32 ≠ 0 ∨ h.tail ≠ [0, 0, 0, 0] ∨ b.length < h.stab + 32 * h.nsect)

/-- A section table entry breaks R342 (R343 line 1): the slot is zero for every kind but overlays. -/
def sectionMalformed (b : List Byte) (x : ObjSection) : Bool :=
  decide (x.kind = none) || x.reserved || decide (x.kind ≠ some .overlay ∧ x.slot ≠ 0) || decide (b.length < x.off + x.size)

/-- An overlay too large, of a length that is no multiple of a bundle, or of slot 7 (R343). -/
def overlayBad (x : ObjSection) : Bool := decide (x.size > 65536 ∨ x.size % 32 ≠ 0 ∨ x.slot = 7)

/-- The slots of the entry overlays. -/
def entrySlots (b : List Byte) : List Nat := ((sectionsOf b .overlay).filter fun x => x.ent).map fun x => x.slot

/-- Whether a list names something twice. -/
def namesTwice : List Nat → Bool
  | [] => false
  | x :: r => r.contains x || namesTwice r

/-- Every kernel descriptor of an object, none where it has a header error (R14). -/
def objDescriptors (b : List Byte) : List (Option KDesc) :=
  ((sectionsOf b .descriptors).flatMap (sectionDescriptors b)).map kdescOf

/-- Whether an entry address lies in an entry overlay of its slot (R343). -/
def entryInside (b : List Byte) (entry : Nat) : Bool :=
  (sectionsOf b .overlay).any fun x => x.ent && decide (entry / 65536 = x.slot ∧ entry % 65536 < x.size)

/-- Why the runtime refuses an object for a device's FEATVEC, none where it loads it (R343). -/
def objRefusal (featvec : DWord) (b : List Byte) : Option ObjRefusal :=
  let h := objHeader b
  let ks := objDescriptors b
  if headerMalformed b || (objSections b).any (sectionMalformed b) then some .malformed
  else if h.reqfeat &&& ~~~featvec ≠ 0 then some .feature
  else if (h.bundle = 2 ∧ featvec.getLsbD 1 = false) ∨ (h.bundle = 1 ∧ featvec.getLsbD 0 = false) then some .profile
  else if h.bundle = 1 ∧ h.matrix ≠ 0 then some .matrix
  else if (sectionsOf b .overlay).any overlayBad then some .overlay
  else if namesTwice (entrySlots b) then some .entryTwice
  else if (sectionsOf b .descriptors).any fun x => decide (x.size % 16 ≠ 0) then some .descriptorSize
  else if ks.any fun k => match k with
    | none => true
    | some k => decide (k.prof ≠ h.bundle) then some .descriptorHeader
  else if ks.any fun k => match k with
    | none => false
    | some k => !entryInside b k.entry then some .descriptorEntry
  else if (sectionsOf b .overlay).isEmpty ∧ (sectionsOf b .olsis).isEmpty then some .noCode
  else none

/-! ## Placement (R344) -/

/-- Where the runtime has put an object's copies in device memory: a base for each descriptor and data section, in table order. -/
structure ObjPlacing where
  descriptors : List Nat
  data : List Nat
  deriving DecidableEq, Repr

/-- Whether a placing keeps the descriptors' 16-byte alignment and names a base for every section (R344). -/
def placingOk (b : List Byte) (p : ObjPlacing) : Bool :=
  decide (p.descriptors.length = (sectionsOf b .descriptors).length ∧ p.data.length = (sectionsOf b .data).length) &&
    p.descriptors.all fun a => decide (a % 16 = 0)

/-- The bytes of an object's descriptor and data sections, copied to their places (R344). -/
def placeCopies (b : List Byte) (p : ObjPlacing) (m : Mem) : Mem :=
  (((sectionsOf b .descriptors).zip p.descriptors) ++ ((sectionsOf b .data).zip p.data)).foldl
    (fun m e => memWrite m e.2 (sectionBytes b e.1)) m

/-- KDESC of kernel `i` of the descriptor section with number `n` (R27, R344). -/
def placedDescriptor (p : ObjPlacing) (n i : Nat) : Nat := p.descriptors.getD n 0 + 16 * i

/-- The 64 KiB that a load of an overlay copies (R139): the overlay, then the bytes that follow it where the runtime keeps it. -/
def overlayImage (b : List Byte) (x : ObjSection) (rest : List Byte) : List Byte := (sectionBytes b x ++ rest).take 65536

/-- An overlay resident in its declared slot of a core (R344): what an ovl command or an OVLOAD leaves (R139). -/
def placeOverlay (b : List Byte) (x : ObjSection) (rest : List Byte) (core : Core) : Core :=
  { core with
    imem := memWrite (memClear core.imem (65536 * x.slot) 65536) (65536 * x.slot) (overlayImage b x rest)
    ovres := core.ovres ||| (1 <<< x.slot) }

/-- Every entry overlay of an object resident on a core, as before the runtime submits a task (R344). -/
def placeEntries (b : List Byte) (rest : List Byte) (core : Core) : Core :=
  ((sectionsOf b .overlay).filter fun x => x.ent).foldl (fun c x => placeOverlay b x rest c) core

/-! ## The translation cache (R348) -/

/-- The bytes that the cache's key covers (R348). -/
def cacheBytes (olsis : List Byte) (version featvec mcrev numver : DWord) : List Byte :=
  olsis ++ leBytes 8 version.toNat ++ leBytes 8 featvec.toNat ++ leBytes 8 mcrev.toNat ++ leBytes 8 numver.toNat ++ leBytes 8 0

/-- The cache's key of an Olsis section (R348). -/
def cacheKey (olsis : List Byte) (version featvec mcrev numver : DWord) : List Byte :=
  sha256 (cacheBytes olsis version featvec mcrev numver)

/-- Whether a cached translation is used: its key equals that of the present device (R348). -/
def cacheHit (stored : List Byte) (olsis : List Byte) (version featvec mcrev numver : DWord) : Bool :=
  decide (stored = cacheKey olsis version featvec mcrev numver)

end Sys2Proof.Machine
end

