-- ==== Sys2Proof/Machine/Listing.lean ====
section
/-!
DEFINITION. qvdis (spec 05_bundles R116): a bundle printed in the syntax that qvas reads, and an illegal one as eight words.
-/

namespace Sys2Proof.Machine

/-! ## Numbers -/

/-- A digit's character. -/
def digitChar (n : Nat) : Char := Char.ofNat (if n < 10 then 48 + n else 87 + n)

/-- The `n` lowest digits of a number, the highest first. -/
def showDigits (base : Nat) : Nat → Nat → Text
  | 0, _ => []
  | n + 1, x => showDigits base n (x / base) ++ [digitChar (x % base)]

/-- A number in decimal. -/
def showNat (x : Nat) : Text :=
  match (showDigits 10 20 x).dropWhile fun c => decide (c = '0') with
  | [] => ['0']
  | d => d

/-- An integer in decimal. -/
def showInt (x : Int) : Text := if x < 0 then '-' :: showNat x.natAbs else showNat x.toNat

/-- A number as `n` hexadecimal digits. -/
def showHex (n x : Nat) : Text := "0x".toList ++ showDigits 16 n x

/-- A long immediate as a literal that qvas puts in a long-immediate slot again (R113): words below 2,048 are written as the FP32 literal of
the same bits, w x 2^-149 exactly, the others as integers. -/
def showLong (w : Word) : Text :=
  if w.toNat < 2048 then "0.".toList ++ showDigits 10 149 (w.toNat * 5 ^ 149) else showNat w.toNat

/-! ## Moves (R113) -/

/-- A numbered name. -/
def showNumbered (pre : String) (n : Nat) : Text := pre.toList ++ showNat n

/-- A unit's name. -/
def showUnit (u : FUnit) : Text := if u = .sp then "sp".toList else (unitNames.getD (unitNo u) "").toList

/-- A trigger's name on its unit. -/
def showOp (t : Trigger) : Text :=
  match (opNames (triggerUnit t)).find? fun e => decide (e.2 = triggerNo t) with
  | some e => e.1.toList
  | none => []

/-- A latch's name. -/
def showLatch : LatchName → Text
  | .a => ['a']
  | .b => ['b']
  | .c => ['c']
  | .w => ['w']

/-- An order operand (R103). -/
def showOrder (i : BitVec 12) : Text :=
  "ord(".toList ++ (orderNames.getD (i.toNat % 4) "").toList ++ [','] ++ (scopeNames.getD (i.toNat / 4) "").toList ++ [')']

/-- A source (R113); `slots` gives the long immediates, `ordered` whether the move is an ordered operation's trigger. -/
def showSource (slots : List Slot) (ordered : Bool) : Src → Text
  | .v i => showNumbered "v" i.toNat
  | .port u x => showUnit u ++ ['.', if x then 'x' else 'o']
  | .imm i => if ordered then showOrder i else showInt i.toInt
  | .s i => showNumbered "s" i.toNat
  | .hiS i => showNumbered "hi(s" i.toNat ++ [')']
  | .w i => showNumbered "w" i.toNat
  | .spad => "spad".toList
  | .lane => "lane".toList
  | .split => "split".toList
  | .gtime => "gtime".toList
  | .pstate => "pstate".toList
  | .lim i => match slots.getD i.toNat .empty with
    | .lim w => showLong w
    | .move _ | .empty => []
  | .e i => showNumbered "e" i.toNat

/-- A destination (R113). -/
def showDest : Dst → Text
  | .v i => showNumbered "v" i.toNat
  | .latch u l h => showUnit u ++ '.' :: showLatch l ++ if h then ['!'] else []
  | .trig t => showUnit (triggerUnit t) ++ '.' :: showOp t
  | .mask i => showNumbered "m" i.toNat
  | .e i => showNumbered "e" i.toNat
  | .fclr => "fclr".toList

/-- A guard (R113). -/
def showGuard (g : Guard) : Text :=
  if g.mask = 0 then []
  else '(' :: (if g.inv then ['!'] else []) ++ showNumbered "m" g.mask.toNat ++ [')', ' ']

/-- Whether a destination takes an order operand. -/
def destOrdered : Dst → Bool
  | .trig t => (orderKind t).isSome
  | .v _ | .latch _ _ _ | .mask _ | .e _ | .fclr => false

/-- A move's line (R112). -/
def showMove (slots : List Slot) (m : Move) : Text :=
  "| ".toList ++ showGuard m.g ++ showSource slots (destOrdered m.dst) m.src ++ " -> ".toList ++ showDest m.dst

/-! ## Scalar operations (R114) -/

/-- Operands joined by commas after a mnemonic. -/
def showCall (name : String) (args : List Text) : Text :=
  match args with
  | [] => name.toList
  | a :: r => name.toList ++ ' ' :: r.foldl (fun x y => x ++ [',', ' '] ++ y) a

/-- An s-register. -/
def showS (n : BitVec 6) : Text := showNumbered "s" n.toNat

/-- The SS second operand (R114). -/
def showT (sb : BitVec 6) (imm : BitVec 22) : Text :=
  if sb = 0 then showInt imm.toInt
  else if imm = 0 then showS sb
  else showS sb ++ '+' :: showInt imm.toInt

/-- A mask, inverted or not. -/
def showM (inv : Bool) (n : BitVec 4) : Text := (if inv then ['!'] else []) ++ showNumbered "m" n.toNat

/-- The label of an address of instruction memory. -/
def showLabel (a : Nat) : Text := "at_".toList ++ showDigits 16 5 a

/-- The label of a branch target, `n` bundles from the bundle at `here` (R95). -/
def showTarget (here : Nat) (n : Int) : Text := showLabel ((here : Int) + 32 * n).toNat

/-- A scope (R113). -/
def showScope (s : BitVec 3) : Text := (scopeNames.getD s.toNat "").toList

/-- A scalar operation of the bundle at `here` (R114). -/
def showScalar (here : Nat) : ScalarOp → Text
  | .alu op sd sa sb imm => showCall (aluNames.getD (aluOps.idxOf op) "") [showS sd, showS sa, showT sb imm]
  | .sld sd sa sb imm => showCall "SLD" [showS sd, showS sa, showT sb imm]
  | .sst sd sa sb imm => showCall "SST" [showS sd, showS sa, showT sb imm]
  | .sldq sd sa sb imm => showCall "SLDQ" [showS sd, showS sa, showT sb imm]
  | .sstq sd sa sb imm => showCall "SSTQ" [showS sd, showS sa, showT sb imm]
  | .mrd sd mask => showCall "MRD" [showS sd, showM false mask]
  | .mwr mask sa sb imm => showCall "MWR" [showM false mask, showS sa, showT sb imm]
  | .basew win sa sb imm => showCall "BASEW" [showNumbered "w" win.toNat, showS sa, showT sb imm]
  | .reggive sb imm => showCall "REGGIVE" [showT sb imm]
  | .regclaim sb imm => showCall "REGCLAIM" [showT sb imm]
  | .ret sa => showCall "RET" [showS sa]
  | .exit => showCall "EXIT" []
  | .recbeg => showCall "RECBEG" []
  | .recend => showCall "RECEND" []
  | .reverse sd => showCall "REVERSE" [showS sd]
  | .spawn sd sa sb imm => showCall "SPAWN" [showS sd, showS sa, showT sb imm]
  | .pmap sd sa sb imm => showCall "PMAP" [showS sd, showS sa, showT sb imm]
  | .pflush sa sb imm => showCall "PFLUSH" [showS sa, showT sb imm]
  | .ovload sa sb imm => showCall "OVLOAD" [showS sa, showT sb imm]
  | .ovcall sa sb imm => showCall "OVCALL" [showS sa, showT sb imm]
  | .phint sa sb imm => showCall "PHINT" [showS sa, showT sb imm]
  | .li sd imm => showCall "LI" [showS sd, showInt imm.toInt]
  | .liz sd imm => showCall "LIZ" [showS sd, showNat imm.toNat]
  | .lih sd imm => showCall "LIH" [showS sd, showNat imm.toNat]
  | .bd inv mask target join => showCall "BD" [showM inv mask, showTarget here target.toInt, showTarget here join.toInt]
  | .bu inv mask target => showCall "BU" [showM inv mask, showTarget here target.toInt]
  | .call target => showCall "CALL" [showTarget here target.toInt]
  | .loop target counter => showCall "LOOP" [showTarget here target.toInt, showS counter]
  | .bara sa sb id scope =>
    if sa = 0 ∧ sb = 0 then showCall "BARA" [showNat id.toNat, showScope scope]
    else showCall "BARA" [showNat id.toNat, showS sa, showS sb, showScope scope]
  | .barw id scope => showCall "BARW" [showNat id.toNat, showScope scope]
  | .dsync scope => showCall "DSYNC" [showScope scope]
  | .fence scope => showCall "FENCE" [showScope scope]
  | .waitc sa id => showCall "WAITC" [showNat id.toNat, showS sa]
  | .mxwait sa => showCall "MXWAIT" [showS sa]
  | .cpwait sa id => showCall "CPWAIT" [showNat id.toNat, showS sa]
  | .mxtake => showCall "MXTAKE" []
  | .mxgive => showCall "MXGIVE" []
  | .rdsr sd reg => showCall "RDSR" [showS sd, showHex 3 reg.toNat]
  | .wrsr sa reg => showCall "WRSR" [showHex 3 reg.toNat, showS sa]
  | .sys code => showCall "SYS" [showNat code.toNat]
  | .trap code => showCall "TRAP" [showNat code.toNat]
  | .eret => showCall "ERET" []

/-- The branch targets of an operation of the bundle at `here` (R95), as addresses that may lie outside instruction memory. -/
def scalarTargets (here : Nat) (op : ScalarOp) : List Int :=
  let a (n : Int) : Int := (here : Int) + 32 * n
  match op with
  | .bd _ _ t j => [a t.toInt, a j.toInt]
  | .bu _ _ t => [a t.toInt]
  | .call t => [a t.toInt]
  | .loop t _ => [a t.toInt]
  | _ => []

/-- Whether every branch target of a bundle at an address lies in instruction memory (R110). -/
def targetsInside (here : Nat) (b : Bundle) : Bool :=
  ((b.scalar.map (scalarTargets here)).getD []).all fun a => decide (0 ≤ a ∧ a < 2 ^ 19)

/-! ## Bundles (R112, R116) -/

/-- The lines of a legal bundle at an address (R116). A long immediate that no move names has no form in R112-R114 and is not printed
(DESIGN CHOICE, log 31). -/
def showBundle (here : Nat) (b : Bundle) : List Text :=
  let op : Text := match b.scalar with
    | some op => showScalar here op
    | none => ['-']
  let la : Text := if b.la = 0 then [] else " la=".toList ++ showNat b.la.toNat
  let y : Text := if b.y then [' ', 'y'] else []
  (showHex 5 here ++ ": ".toList ++ op ++ la ++ y) ::
    b.slots.filterMap fun x => match x with
      | .move m => some (showMove b.slots m)
      | .lim _ | .empty => none

/-- The kind of a destination field. -/
def destKind (x : Word) : Nat := (x.extractLsb' 25 2).toNat

/-- The name of a destination field that is illegal by itself (R79, R80, R110). -/
def showBadDest (x : Word) : Text :=
  let u := (x.extractLsb' 21 4).toNat
  let op := (x.extractLsb' 15 6).toNat
  match destKind x, unitOf u with
  | 1, some k => "destination ".toList ++ showUnit k ++ ", bits 3:0".toList
  | 1, none => "latch of unit ".toList ++ showNat u
  | 2, some k => showUnit k ++ " opcode ".toList ++ showHex 2 op
  | 2, none => "trigger of unit ".toList ++ showNat u
  | _, _ => "destination code ".toList ++ showHex 3 (x.extractLsb' 15 12).toNat

/-- The name of a source that is illegal by itself (R81, R82, R110). -/
def showBadSource : Src → Text
  | .lim i => "source lim".toList ++ showNat i.toNat ++ " with K[".toList ++ showNat i.toNat ++ "] = 0".toList
  | s => "source ".toList ++ showSource [] false s

/-- Whether a destination names a register or latch that exists. -/
def destExists : Dst → Bool
  | .v i => decide (i.toNat < 320)
  | .latch u l _ => unitHasLatch u l
  | .mask i => decide (i ≠ 0)
  | .trig _ | .e _ | .fclr => true

/-- The name of a combination that is illegal (R83, R88, R91, R92, R103). -/
def showBadPair (slots : List Slot) (m : Move) : Text :=
  if !guardLegal m.g m.dst then "guard with destination ".toList ++ showDest m.dst
  else if !destLegal m.dst m.src then "source ".toList ++ showSource slots (destOrdered m.dst) m.src ++ " with destination ".toList ++ showDest m.dst
  else "destination ".toList ++ showDest m.dst ++ " named twice".toList

/-- The first illegal field of a move slot, in the order of R110's rows: guard, hold, destination, source, combination. -/
def showBadMove (slots : List Slot) (x : Word) : Text :=
  let latch := decide (destKind x = 1)
  let hold := x.getLsbD 0 && !latch
  if x.extractLsb' 28 4 = 0 ∧ x.getLsbD 27 then "G = 0 with I = 1".toList
  else match decodeDst (x.extractLsb' 15 12) (x.getLsbD 0 && latch) with
    | none => if hold then "H = 1 with ".toList ++ showBadDest x else showBadDest x
    | some d =>
      if hold then "H = 1 with destination ".toList ++ showDest d
      else if !destExists d then "destination ".toList ++ showDest d
      else match decodeSrc (x.extractLsb' 1 14) with
        | none => "source code ".toList ++ showHex 4 (x.extractLsb' 1 14).toNat
        | some s =>
          if sourceLegal slots s then showBadPair slots { g := { mask := x.extractLsb' 28 4, inv := x.getLsbD 27 }, dst := d, src := s }
          else showBadSource s

/-- A field of the scalar slot that an opcode restricts: its name, lowest bit and width, and the values from `least` to `most` that it may
hold (R95, R96, R109). -/
structure ScalarField where
  name : String
  lo : Nat
  width : Nat
  least : Nat := 0
  most : Nat := 0
  deriving DecidableEq, Repr

/-- The format's register fields and the SS immediate, reserved. -/
def zeroSd : ScalarField := { name := "sd", lo := 34, width := 6 }
def zeroSa : ScalarField := { name := "sa", lo := 28, width := 6 }
def zeroSb : ScalarField := { name := "sb", lo := 22, width := 6 }
def zeroImm : ScalarField := { name := "imm22", lo := 0, width := 22 }

/-- The fields of format SY that an operation does not name or restricts: its sa and sb are bits 39:34 and 33:28. -/
def syFields (sa sb : Bool) (id scope : Option (Nat × Nat)) : List ScalarField :=
  (if sa then [] else [{ name := "sa", lo := 34, width := 6 }]) ++ (if sb then [] else [{ name := "sb", lo := 28, width := 6 }]) ++
  [{ name := "id", lo := 22, width := 6, least := (id.getD (0, 0)).1, most := (id.getD (0, 0)).2 },
   { name := "scope", lo := 19, width := 3, least := (scope.getD (0, 0)).1, most := (scope.getD (0, 0)).2 },
   { name := "bits 18:0", lo := 0, width := 19 }]

/-- The restricted fields of an opcode, the highest first; none for a reserved opcode (R109). -/
def scalarFields (op : Nat) : Option (List ScalarField) :=
  if op ≤ 0x12 ∨ op = 0x1F ∨ op = 0x20 then some []
  else if op = 0x13 ∨ op = 0x14 then some [{ name := "sd", lo := 34, width := 6, most := 62 }]
  else if op = 0x15 then some [{ name := "sa", lo := 28, width := 6, most := 15 }, zeroSb, zeroImm]
  else if op = 0x16 then some [{ name := "sd", lo := 34, width := 6, least := 1, most := 15 }]
  else if op = 0x17 then some [{ name := "sd", lo := 34, width := 6, most := 7 }]
  else if op = 0x18 ∨ op = 0x19 then some [zeroSd, zeroSa]
  else if op = 0x1A then some [zeroSd, zeroSb, zeroImm]
  else if 0x1B ≤ op ∧ op ≤ 0x1D then some [zeroSd, zeroSa, zeroSb, zeroImm]
  else if op = 0x1E then some [{ name := "sd", lo := 34, width := 6, least := 1, most := 63 }, zeroSa, zeroSb, zeroImm]
  else if 0x21 ≤ op ∧ op ≤ 0x24 then some [zeroSd]
  else if 0x40 ≤ op ∧ op ≤ 0x42 then some [{ name := "bits 33:32", lo := 32, width := 2 }]
  else if 0x60 ≤ op ∧ op ≤ 0x7F then some [{ name := "join", lo := 0, width := 16, least := 1, most := 65535 }]
  else if 0x80 ≤ op ∧ op ≤ 0xA0 then some [{ name := "join", lo := 0, width := 16 }]
  else if op = 0xA1 then some [{ name := "join bits 15:6", lo := 6, width := 10 }, { name := "counter", lo := 0, width := 6, least := 1, most := 62 }]
  else if op = 0xB0 then some (syFields true true (some (0, 31)) (some (0, 1)))
  else if op = 0xB1 then some (syFields false false (some (0, 31)) (some (0, 1)))
  else if op = 0xB2 then some (syFields false false none (some (2, 4)))
  else if op = 0xB3 then some (syFields false false none (some (0, 5)))
  else if op = 0xB4 then some (syFields true false (some (0, 5)) none)
  else if op = 0xB5 then some (syFields true false none none)
  else if op = 0xB6 then some (syFields true false (some (0, 7)) none)
  else if op = 0xB7 ∨ op = 0xB8 then some (syFields false false none none)
  else if 0xC0 ≤ op ∧ op ≤ 0xC4 then
    some ((if op = 0xC0 then [] else [zeroSd]) ++ (if op = 0xC1 then [] else [zeroSa]) ++
      (if op = 0xC4 then [{ name := "imm16", lo := 12, width := 16 }] else []) ++ [{ name := "bits 11:0", lo := 0, width := 12 }])
  else none

/-- Whether a field holds a value outside its range. -/
def fieldBad (x : Nat) (f : ScalarField) : Bool := decide (bits x f.lo f.width < f.least ∨ f.most < bits x f.lo f.width)

/-- The first illegal field of the scalar slot of the bundle at `here`: the opcode, a field outside its range, the special register, or the
target or join (R110). -/
def showBadScalar (here : Nat) (x : BitVec 48) : Text :=
  let op := (x.extractLsb' 40 8).toNat
  let code := "opcode ".toList ++ showHex 2 op
  match scalarFields op with
  | none => code
  | some fs =>
    match fs.find? (fieldBad x.toNat) with
    | some f => f.name.toList ++ " = ".toList ++ showNat (bits x.toNat f.lo f.width) ++ " with ".toList ++ code
    | none =>
      match ((decodeScalar x).map (scalarTargets here)).getD [] with
      | [] => "special register ".toList ++ showHex 4 (bits x.toNat 12 16)
      | t :: _ => (if 0 ≤ t ∧ t < 2 ^ 19 then "join" else "target").toList ++ " outside instruction memory with ".toList ++ code

/-- The name of the first illegal field of a bundle, by R308's SLOT (R110). The wording beyond the spec's own example is the model's (log
31). -/
def showField (here : Nat) (w : BundleWord) (k : Nat) : Text :=
  if k ≤ 5 then
    let slots := (decodeSlots w).map fun x => x.getD .empty
    "slot ".toList ++ showNat k ++ ", ".toList ++ showBadMove slots (w.extractLsb' (32 * k) 32)
  else if k = 6 then "scalar slot, ".toList ++ showBadScalar here (w.extractLsb' 192 48)
  else if w.extractLsb' 240 4 ≠ 0 then "header, bits 243:240".toList
  else "header, S = 0 with a nonzero scalar slot".toList

/-- The lines of an illegal bundle: eight words, and a comment that names the first illegal field (R116). -/
def showIllegal (here : Nat) (w : BundleWord) (k : Nat) : List Text :=
  (List.range 8).map fun i =>
    ".word ".toList ++ showHex 8 (w.extractLsb' (32 * i) 32).toNat ++ if i = 0 then "        ; illegal: ".toList ++ showField here w k else []

/-- The lines of the bundle at an address (R116); a branch address outside instruction memory makes it illegal (R110). qvdis treats both
profiles alike (R352), so an `fclr` of bits 12:8, which R92 makes illegal in native width alone, is printed as the move it is (DESIGN
CHOICE, log 31). -/
def showWord (here : Nat) (w : BundleWord) : List Text :=
  match decodeBundle w with
  | .ok b => if targetsInside here b then showBundle here b else showIllegal here w 6
  | .error k => showIllegal here w k

/-- The addresses that branches of a run of bundles name. -/
def listTargets : Nat → List BundleWord → List Nat
  | _, [] => []
  | here, w :: r =>
    (match decodeBundle w with
      | .ok b => if targetsInside here b then ((b.scalar.map (scalarTargets here)).getD []).map Int.toNat else []
      | .error _ => []) ++ listTargets (here + 32) r

/-- The lines of bundles from an address up, with a label before each bundle that a branch names. -/
def listFrom (targets : List Nat) : Nat → List BundleWord → List Text
  | _, [] => []
  | here, w :: r =>
    (if targets.contains here then [showLabel here ++ [':']] else []) ++ showWord here w ++ listFrom targets (here + 32) r

/-- qvdis: a run of bundles as a text (R116). -/
def disassemble (here : Nat) (ws : List BundleWord) : Text :=
  (listFrom (listTargets here ws) here ws).flatMap fun l => l ++ ['\n']

end Sys2Proof.Machine
end

