-- ==== Sys2Proof/Machine/Olsis.lean ====
section
/-!
DEFINITION. Olsis form (spec 27_code_objects, R345, R346): the layout of a section, which blocks are malformed, and what a block does in
the lanes of a group. It is what the translator's native bundles must compute (R347); the device itself never reads it.
-/

namespace Sys2Proof.Machine

/-! ## Layout (R345) -/

/-- An operation word's fields (R345); `val` is VAL of CONST. -/
structure OlsisOp where
  unit : Nat
  opc : Nat
  ra : Nat
  rb : Nat
  rc : Nat
  rg : Nat
  gn : Bool
  aux : Nat
  val : Word
  deriving DecidableEq, Repr

/-- The fields of an operation word (R345). -/
def olsisOp (w : Nat) : OlsisOp :=
  { unit := bits w 60 4, opc := bits w 54 6, ra := bits w 46 8, rb := bits w 38 8, rc := bits w 30 8, rg := bits w 22 8
    gn := decide (bits w 21 1 = 1), aux := bits w 0 21, val := BitVec.ofNat 32 (bits w 22 32) }

/-- What an operation of a block is: a lane operation of units 0-8, or a control operation of unit 12 (R345). -/
inductive OlsisKind where
  | lane (t : Trigger)
  | get | put | bro | const | fin | xsel | pick
  deriving DecidableEq, Repr

/-- The control operations (R345). -/
def olsisControl (opc : Nat) : Option OlsisKind :=
  match opc with
  | 0 => some .get
  | 1 => some .put
  | 2 => some .bro
  | 3 => some .const
  | 4 => some .fin
  | 5 => some .xsel
  | 6 => some .pick
  | _ => none

/-- The memory operations that Olsis form leaves out (R345). -/
def olsisExcluded : Trigger → Bool
  | .ld .tld | .ld .lblk | .st .tst | .st .mcst => true
  | _ => false

/-- The operation a UNIT and an OPC name; none where it is reserved or not allowed (R345). -/
def olsisKind (p : OlsisOp) : Option OlsisKind :=
  if p.unit = 12 then olsisControl p.opc
  else if p.unit ≤ 8 then
    match (unitOf p.unit).bind fun u => triggerOf u p.opc with
    | some t => if olsisExcluded t then none else some (.lane t)
    | none => none
  else none

/-- Whether a lane operation takes its space from AUX. -/
def olsisMemory : Trigger → Bool
  | .ld _ | .st _ => true
  | _ => false

/-- How many of RA, RB and RC an operation reads: latches but `w` first, the trigger's operand last unless it is an order (R345). -/
def olsisReads : OlsisKind → Nat
  | .lane t => ((latchesRead t).filter fun l => decide (l ≠ .w)).length + (if (orderKind t).isSome then 0 else 1)
  | .put | .xsel => 1
  | .pick => 2
  | .get | .bro | .const | .fin => 0

/-- The AUX bits an operation uses, as the first unused bit (R345). -/
def olsisAux : OlsisKind → Nat
  | .lane t => if olsisMemory t then (if (orderKind t).isSome then 6 else 1) else 0
  | .get | .put => 6
  | .bro => 21
  | .const | .fin | .xsel | .pick => 0

/-- Whether an operation writes port x (R345). -/
def olsisWritesX : OlsisKind → Bool
  | .lane t => (portsWritten t).2
  | .get | .put | .bro | .const | .fin | .xsel | .pick => false

/-- The first `n` of the three producers. -/
def olsisProducers (p : OlsisOp) : List Nat := [p.ra, p.rb, p.rc]

/-- A malformed operation at index `k` after the operations `before` (R346). -/
def olsisOpBad (before : List OlsisOp) (k : Nat) (p : OlsisOp) : Bool :=
  match olsisKind p with
  | none => true
  | some .const => p.gn || decide (p.aux ≠ 0)
  | some kind =>
    let n := olsisReads kind
    decide (p.aux / 2 ^ olsisAux kind ≠ 0) ||
    ((olsisProducers p).take n).any (fun r => decide (r = 0xFF ∨ r ≥ k)) ||
    ((olsisProducers p).drop n).any (fun r => decide (r ≠ 0xFF)) ||
    decide (p.rg ≠ 0xFF ∧ p.rg ≥ k) || (p.gn && decide (p.rg = 0xFF)) ||
    (decide (kind = .xsel) && match (before[p.ra]?).bind olsisKind with
      | some q => !olsisWritesX q
      | none => true)

/-- Whether some operation of a block is malformed, `before` holding those already judged (R346). -/
def olsisOpsBad (before : List OlsisOp) : List OlsisOp → Bool
  | [] => false
  | p :: r => olsisOpBad before before.length p || olsisOpsBad (before ++ [p]) r

/-- A block of a section: its offset over 16, and its operations. -/
structure OlsisBlock where
  place : Nat
  ops : List OlsisOp
  deriving DecidableEq, Repr

/-- A block from the bytes at its header; none where it is malformed or cut short (R345, R346). -/
def olsisBlockAt (b : List Byte) (place : Nat) : Option OlsisBlock :=
  let h := b.drop (16 * place)
  let n := bits (wordAt h 0) 0 8
  let ops := (List.range n).map fun i => olsisOp (wordAt h (2 + i))
  if n = 0 ∨ bits (wordAt h 0) 8 56 ≠ 0 ∨ wordAt h 1 ≠ 0 ∨ h.length < 16 + 8 * n ∨ olsisOpsBad [] ops then none
  else some { place := place, ops := ops }

/-- The 16-byte units of a block. -/
def olsisUnits (k : OlsisBlock) : Nat := 1 + (k.ops.length + 1) / 2

/-- The blocks of a section from a place on, `n` bounding their number; none where one is malformed. -/
def olsisBlocksFrom (b : List Byte) : Nat → Nat → Option (List OlsisBlock)
  | 0, place => if b.length ≤ 16 * place then some [] else none
  | n + 1, place =>
    if b.length ≤ 16 * place then some []
    else match olsisBlockAt b place with
      | none => none
      | some k => (olsisBlocksFrom b n (place + olsisUnits k)).map fun r => k :: r

/-- The blocks of a section; none where the translator refuses it whole (R346). -/
def olsisBlocks (b : List Byte) : Option (List OlsisBlock) := olsisBlocksFrom b (b.length / 16 + 1) 0

/-! ## What a block does (R346) -/

/-- The rights of a 4 KiB page, and whether it is a host page (R196, R226). -/
structure OlsisPage where
  rd : Bool := true
  w : Bool := true
  host : Bool := false
  deriving DecidableEq, Repr

/-- The memory a block sees: bytes by offset from s1, which holds `base`, as far as `extent` bytes; the team scratchpad; and the pages by
address over 4,096, an unlisted one being a device page with both rights. -/
structure OlsisMem where
  base : Nat
  extent : Nat
  arg : Mem
  spadBytes : Nat
  spad : Mem
  pages : Table OlsisPage := []
  deriving DecidableEq, Repr

/-- The lanes in which an operation fired, and its values at ports o and x. -/
structure OlsisVal where
  fired : Mask
  o : Lanes
  x : Lanes
  deriving DecidableEq, Repr

/-- Carried values of a group: 64 for each lane (R346). -/
abbrev OlsisCarried := List Lanes

/-- What a block has done so far: values, memory as its stores leave it, flags with the lane that raised each, and the traps of fired
operations. -/
structure OlsisRun where
  vals : List OlsisVal := []
  mem : OlsisMem
  carried : OlsisCarried
  flags : List (Nat × Flags) := []
  next : List (Option Nat) := []
  ended : Mask := 0
  traps : List (Nat × Nat × Nat) := []
  deriving DecidableEq, Repr

/-- The value an operation's producer gives a lane. -/
def olsisGet (r : OlsisRun) (k lane : Nat) : Word :=
  match r.vals[k]? with
  | some v => laneGet v.o lane
  | none => 0

/-- The lanes in which a producer fired. -/
def olsisFired (r : OlsisRun) (k : Nat) : Mask :=
  match r.vals[k]? with
  | some v => v.fired
  | none => 0

/-- The lanes whose guard holds (R346). -/
def olsisGuard (r : OlsisRun) (p : OlsisOp) (m : Mask) : Mask :=
  if p.rg = 0xFF then m
  else maskOf fun l => m.getLsbD l && (olsisFired r p.rg).getLsbD l && ((olsisGet r p.rg l).getLsbD 0 != p.gn)

/-- The lanes in which an operation fires (R346). -/
def olsisFires (r : OlsisRun) (m : Mask) (kind : OlsisKind) (p : OlsisOp) : Mask :=
  match kind with
  | .const => m
  | .pick => olsisGuard r p (m &&& (olsisFired r p.ra ||| olsisFired r p.rb))
  | kind => olsisGuard r p (((olsisProducers p).take (olsisReads kind)).foldl (fun m k => m &&& olsisFired r k) m)

/-- Whether an operation uses the scratchpad (R345). -/
def olsisSpad (p : OlsisOp) : Bool := decide (p.aux % 2 = 1)

/-- Bytes of the block's memory. -/
def olsisRead (m : OlsisMem) (spad : Bool) (off n : Nat) : Nat := leVal (memRead (if spad then m.spad else m.arg) off n)

/-- Bytes written. -/
def olsisWrite (m : OlsisMem) (spad : Bool) (off n v : Nat) : OlsisMem :=
  if spad then { m with spad := memWrite m.spad off (leBytes n v) } else { m with arg := memWrite m.arg off (leBytes n v) }

/-- Whether a page allows a memory operation (R199, R226, R227). -/
def olsisRights (p : OlsisPage) (t : Trigger) : Bool :=
  match t with
  | .ld _ => p.rd
  | .st op => (!(stNeed op).rd || p.rd) && (!(stNeed op).w || p.w) && !(p.host && hostRefuses op)
  | .ia _ _ | .lg _ | .fm _ _ | .sf _ | .xl _ | .sm _ | .mx _ | .cp _ => true

/-- The cause an access raises (R15, R199, R215, R218): misaligned first, then the space's bound, then the rights of its page. -/
def olsisTrap (m : OlsisMem) (t : Trigger) (spad : Bool) (off n : Nat) : Option Nat :=
  if (if spad then off else m.base + off) % n ≠ 0 then some 5
  else if spad then (if off + n > m.spadBytes then some 2 else none)
  else if off + n > m.extent ∨ !olsisRights (tgetD m.pages ((m.base + off) / 4096) {}) t then some 6
  else none

/-- Bytes an operation of ld or st accesses; a prefetch accesses none that a lane can see. -/
def olsisSize : Trigger → Nat
  | .ld op => ldSize op
  | .st op => stSize op
  | _ => 0

/-- The traps of a memory operation in the lanes in which it fires. -/
def olsisTraps (r : OlsisRun) (fire : Mask) (t : Trigger) (p : OlsisOp) : List (Nat × Nat × Nat) :=
  if olsisSize t = 0 then []
  else (maskLanes fire).filterMap fun l =>
    (olsisTrap r.mem t (olsisSpad p) (olsisGet r p.ra l).toNat (olsisSize t)).map fun c => (r.vals.length, l, c)

/-- The trap of a block encoding in a group of legacy width (R185), as the lowest lane in which it fires raises it. -/
def olsisLegacy (lw : Bool) (r : OlsisRun) (fire : Mask) (op : XlOp) : List (Nat × Nat × Nat) :=
  if lw && (op == .blk8 || op == .blk6) then ((maskLanes fire).take 1).map fun l => (r.vals.length, l, 1) else []

/-- What a load delivers from memory as it stood at block entry (R220, R346). -/
def olsisLoad (mem : OlsisMem) (op : LdOp) (spad : Bool) (off : Nat) : Word × Word :=
  let v := olsisRead mem spad off (ldSize op)
  match op with
  | .lb => (BitVec.ofInt 32 (signedOf 8 v), 0)
  | .lh => (BitVec.ofInt 32 (signedOf 16 v), 0)
  | .lbz | .lhz | .lw | .lwo => (BitVec.ofNat 32 v, 0)
  | .ld | .ldo => (BitVec.ofNat 32 v, BitVec.ofNat 32 (v / 2 ^ 32))
  | .tld | .lblk | .pf => (0, 0)

/-- What a store or an atomic leaves in its bytes, from the operands after the offset and the old word (R224-R227). -/
def olsisStored (op : StOp) (b c old : Word) : Nat :=
  match op with
  | .sb | .sh | .sw | .swo => b.toNat
  | .sd | .sdo => b.toNat + 2 ^ 32 * c.toNat
  | .tst | .mcst | .aadd | .afadd | .amin | .amax | .aminu | .amaxu | .aand | .aor | .axor | .axch | .acas | .radd
  | .rfadd => (atomicNew op old b c).toNat

/-- The stores of one operation, lane by lane (R219): memory after them, and the old word that each lane's atomic read. -/
def olsisStores (r : OlsisRun) (op : StOp) (p : OlsisOp) : List Nat → OlsisMem → OlsisMem × List (Nat × Word)
  | [], m => (m, [])
  | l :: ls, m =>
    let off := (olsisGet r p.ra l).toNat
    let old := BitVec.ofNat 32 (olsisRead m (olsisSpad p) off 4)
    let m' := olsisWrite m (olsisSpad p) off (stSize op) (olsisStored op (olsisGet r p.rb l) (olsisGet r p.rc l) old)
    let (z, os) := olsisStores r op p ls m'
    (z, (l, old) :: os)

/-- The result of an elementwise operation in a lane; a lane of a legacy half numbers itself within it (R151, R163). -/
def olsisLaneRes (lw : Bool) (r : OlsisRun) (t : Trigger) (p : OlsisOp) (l : Nat) : LaneRes :=
  let a := olsisGet r p.ra l
  let b := olsisGet r p.rb l
  let c := olsisGet r p.rc l
  match t with
  | .ia _ op => iaLane op a b c
  | .lg op => lgLane op (if lw then l % 16 else l) a b c
  | .fm _ op => fmLane op a b c
  | .sf op => sfLane op a b
  | .xl _ | .sm _ | .ld _ | .st _ | .mx _ | .cp _ => { o := 0 }

/-- Flags of the lanes beside those raised before (R59). -/
def olsisOrFlags (r : OlsisRun) (fire : Mask) (f : Nat → Flags) : List (Nat × Flags) := r.flags ++ (maskLanes fire).map fun l => (l, f l)

/-- A run with an operation's value recorded. -/
def olsisPush (r : OlsisRun) (fire : Mask) (o x : Lanes) : OlsisRun := { r with vals := r.vals ++ [⟨fire, o, x⟩] }

/-- A lane operation that fires (R346). `entry` is memory at block entry; `n` numbers the value of an operation that writes no port o,
which the spec does not give (log 10). -/
def olsisLaneOp (lw : Bool) (entry : OlsisMem) (n : Nat) (r : OlsisRun) (fire : Mask) (t : Trigger) (p : OlsisOp) : OlsisRun :=
  let none' : Lanes := laneFill fun l => Config.freeWord (n + 32 * r.vals.length + l)
  match t with
  | .ia _ _ | .lg _ | .fm _ _ | .sf _ =>
    olsisPush { r with flags := olsisOrFlags r fire fun l => (olsisLaneRes lw r t p l).flags } fire
      (laneFill fun l => (olsisLaneRes lw r t p l).o) (laneFill fun l => (olsisLaneRes lw r t p l).x.getD 0)
  | .xl op =>
    let q := xlGroup lw op 0 fire (laneFill fun l => olsisGet r p.ra l)
      (laneFill fun l => if olsisReads (.lane t) = 1 then olsisGet r p.ra l else olsisGet r p.rb l)
    olsisPush { r with flags := olsisOrFlags r fire fun l => q.flags.getD l 0, traps := r.traps ++ olsisLegacy lw r fire op } fire q.o q.x
  | .ld op =>
    let v (l : Nat) := olsisLoad entry op (olsisSpad p) (olsisGet r p.ra l).toNat
    if op = .pf then olsisPush r fire none' none'
    else olsisPush { r with traps := r.traps ++ olsisTraps r fire t p } fire (laneFill fun l => (v l).1) (laneFill fun l => (v l).2)
  | .st op =>
    let (m, olds) := olsisStores r op p (maskLanes fire) r.mem
    olsisPush
      { r with
        mem := m
        traps := r.traps ++ olsisTraps r fire t p }
      fire (if (portsWritten t).1 then laneFill (laneOf olds) else none') none'
  | .sm _ | .mx _ | .cp _ => olsisPush r fire none' none'

/-- One operation of a block in the lanes of `m` (R346). `entryC` holds the carried values at block entry. -/
def olsisStep (lw : Bool) (entry : OlsisMem) (entryC : OlsisCarried) (n : Nat) (m : Mask) (r : OlsisRun) (p : OlsisOp) : OlsisRun :=
  match olsisKind p with
  | none => r
  | some kind =>
    let fire := olsisFires r m kind p
    let none' : Lanes := laneFill fun l => Config.freeWord (n + 32 * r.vals.length + l)
    match kind with
    | .lane t => olsisLaneOp lw entry n r fire t p
    | .get => olsisPush r fire (entryC.getD (p.aux % 64) []) none'
    | .put =>
      let old := r.carried.getD (p.aux % 64) []
      olsisPush
        { r with carried := r.carried.set (p.aux % 64) (laneFill fun l => if fire.getLsbD l then olsisGet r p.ra l else laneGet old l) }
        fire none' none'
    | .bro =>
      olsisPush
        { r with next := lanes.map fun l =>
            if fire.getLsbD l ∧ (r.next.getD l none).isNone then some p.aux else r.next.getD l none }
        fire none' none'
    | .const => olsisPush r fire (laneFill fun _ => p.val) none'
    | .fin => olsisPush { r with ended := r.ended ||| fire } fire none' none'
    | .xsel => olsisPush r fire (match r.vals[p.ra]? with
        | some v => v.x
        | none => []) none'
    | .pick => olsisPush r fire (laneFill fun l => if (olsisFired r p.ra).getLsbD l then olsisGet r p.ra l else olsisGet r p.rb l) none'

/-- The operations of a block in index order. Taking each store as it comes gives the commit's order, since loads read the memory of
block entry and values only flow forward. -/
def olsisOps (lw : Bool) (entry : OlsisMem) (entryC : OlsisCarried) (n : Nat) (m : Mask) : List OlsisOp → OlsisRun → OlsisRun
  | [], r => r
  | p :: ps, r => olsisOps lw entry entryC n m ps (olsisStep lw entry entryC n m r p)

/-- What the lanes of a group do at the end of a block. -/
inductive OlsisEnd where
  /-- A trap, before the commit: operation, lane and cause of each. Nothing of the block takes effect. -/
  | trap (traps : List (Nat × Nat × Nat))
  /-- The commit: memory, carried values, the flags ORed into FSTAT, in legacy width into that of half 0 and of half 1 (R59), and the block each
  lane goes to, none where it ends. -/
  | commit (mem : OlsisMem) (carried : OlsisCarried) (flags : Flags × Flags) (next : List (Option Nat))
  deriving DecidableEq, Repr

/-- The flags that a half of the group raised. -/
def olsisFlags (lw : Bool) (r : OlsisRun) (half : Nat) : Flags :=
  ((r.flags.filter fun x => decide ((if lw then x.1 / 16 else 0) = half)).map fun x => x.2).foldl (· ||| ·) 0

/-- A block executed by the lanes of `m` (R346). -/
def olsisRun (lw : Bool) (n : Nat) (m : Mask) (mem : OlsisMem) (carried : OlsisCarried) (k : OlsisBlock) : OlsisEnd :=
  let r := olsisOps lw mem carried n m k.ops { mem := mem, carried := carried }
  if r.traps.isEmpty then
    .commit r.mem r.carried (olsisFlags lw r 0, olsisFlags lw r 1)
      (lanes.map fun l => if m.getLsbD l ∧ ¬ r.ended.getLsbD l then r.next.getD l none else none)
  else .trap r.traps

/-- The carried values at kernel entry (R346). -/
def olsisEntry (gix linear : Nat) (s1 : DWord) : OlsisCarried :=
  (List.range 64).map fun i =>
    match i with
    | 0 => laneFill fun l => BitVec.ofNat 32 (gix * 32 + l)
    | 1 => laneFill fun _ => s1.setWidth 32
    | 2 => laneFill fun _ => (s1 >>> 32).setWidth 32
    | 3 => laneFill fun _ => BitVec.ofNat 32 linear
    | _ => laneFill fun _ => 0

end Sys2Proof.Machine
end

