-- ==== Sys2Proof/Tests/Slice0.lean ====
section
/-!
SUPPORT. The model's own tests: words written out from the spec's encodings, one ill-formed term for each check, small states that meet the
hypotheses of each statement, and one or two effects of instructions. Expected values come from the rules named.
-/

namespace Sys2Proof.Tests

-- Many of these theorems are evaluated by the kernel: one after another, so that their threads do not add up.
set_option Elab.async false

open Sys2Proof.Machine Sys2Proof.Safety

/-! ## A small machine -/

/-- A team of one group of 320 registers, with the whole scratchpad. -/
def demoTeam : Team := { noTeam with task := 9, groups := [2], kd := loadKDesc, place := .resident, ovmask := 0x7F }

/-- Its group, resident on cluster 0 in user mode. -/
def demoGroup : Group := { launchGroup 1 demoTeam 0 with place := .resident 0 0, since := 1 }

/-- The machine with that team, whose group's split 0 is presented. -/
def demo : State :=
  { State.reset with
    cur := some (2, 0), nextId := 10, groups := [(2, demoGroup)], teams := [(1, demoTeam)]
    tasks := [(9, { noTask with stage := .dispatched, total := 1, offered := 1, left := 1, live := 1, remainDone := true })] }

/-- The machine with its group changed. -/
def withG (s : State) (f : Group → Group) : State := setGroup s 2 (f (groupOf s 2))

/-- The machine with its team changed. -/
def withT (s : State) (f : Team → Team) : State := setTeam s 1 (f (teamOf s 1))

/-- The machine with its core changed. -/
def withC (s : State) (f : Core → Core) : State := setCore s 0 (f (coreOf s 0))

/-- The machine with its task changed. -/
def withK (s : State) (f : Task → Task) : State := setTask s 9 (f (taskOf s 9))

/-- The group with a scalar register set. -/
def sr (n : Nat) (v : DWord) (g : Group) : Group := { g with s := tset g.s n v }

/-- The machine with a scalar register set. -/
def withS (n : Nat) (v : DWord) : State := withG demo (sr n v)

/-- The machine in supervisor mode. -/
def demoSup : State := withG demo fun g => { g with super := true, user := some {} }

/-- The machine whose group holds the matrix token. -/
def demoTok : State := withT demo fun t => { t with token := some 2 }

/-- A mask that is empty. -/
def never : Guard := { mask := 1, inv := false }

/-! ## Decoding: words from the tables of R76-R82, R84, R95-R109 -/

/-- A bundle whose slot 0 holds a move with G, I, DST and SRC, and H = 0 (R76, R78). -/
def moveWord (g i dst src : Nat) : BundleWord := BitVec.ofNat 256 (2 ^ 28 * g + 2 ^ 27 * i + 2 ^ 15 * dst + 2 * src)

/-- A trigger move `v5 -> unit.op ? !m3`: DST is 0b10, unit, opcode (R79); SRC kind 0b00, index 5 (R81). -/
def laneWord (unit op : Nat) : BundleWord := moveWord 3 1 (2 ^ 11 + 2 ^ 6 * unit + op) 5

/-- The same with an immediate of 12 bits: SRC kind 0b10 (R81). -/
def immWord (unit op imm : Nat) : BundleWord := moveWord 3 1 (2 ^ 11 + 2 ^ 6 * unit + op) (2 ^ 13 + imm)

/-- An unguarded trigger of mx or cp from s9: SRC kind 0b11, code 9 (R82, R83). -/
def uniWord (unit op : Nat) : BundleWord := moveWord 0 0 (2 ^ 11 + 2 ^ 6 * unit + op) (3 * 2 ^ 12 + 9)

/-- The guard ?!m3. -/
def notM3 : Guard := { mask := 3, inv := true }

/-- Whether the words of consecutive opcodes from 0 up decode to the instructions of a list. -/
def opsDecode (word : Nat → BundleWord) : List Nat → List Instr → Bool
  | op :: ops, i :: is => decide (decode (word op) = .ok i) && opsDecode word ops is
  | [], [] => true
  | _, _ => false

theorem decode_ia : ∀ u ∈ [false, true], opsDecode (laneWord (if u then 1 else 0)) (List.range 0x1E)
    ([Instr.iaAdd, .iaAddc, .iaSub, .iaSubb, .iaMul, .iaMulhi, .iaMulhu, .iaMad, .iaShl, .iaShr, .iaSar, .iaRotl, .iaRotr, .iaBfx, .iaBfxu, .iaBfi,
      .iaPopc, .iaClz, .iaCtz, .iaBrev, .iaMin, .iaMax, .iaMinu, .iaMaxu, .iaAbs, .iaAdds, .iaSubs, .iaAddus, .iaSubus, .iaLea].map
      fun f => f u notM3 (.v 5)) = true := by decide +kernel

theorem decode_lg : opsDecode (laneWord 5) (List.range 0x14)
    ([Instr.lgAnd, .lgOr, .lgXor, .lgAndn, .lgNot, .lgSel, .lgCeq, .lgCne, .lgClt, .lgCle, .lgCltu, .lgCleu, .lgFceq, .lgFcne, .lgFclt, .lgFcle,
      .lgFcun, .lgFcls, .lgMbit, .lgBsel].map fun f => f notM3 (.v 5)) = true := by decide +kernel

theorem decode_fm_rounding : ∀ u ∈ [false, true], opsDecode (laneWord (if u then 3 else 2)) (List.range 0x30)
    ([Instr.fmFma, .fmFms, .fmFnma, .fmAdd, .fmSub, .fmMul, .fmHfma, .fmBfma, .fmCvth, .fmCvtb, .fmCvti, .fmCvtf].flatMap
      fun f => [Rounding.rn, .rz, .ru, .rd].map fun m => f u m notM3 (.v 5)) = true := by decide +kernel

theorem decode_fm_other : opsDecode (laneWord 3) ((List.range 15).map (0x30 + ·))
    ([Instr.fmMin, .fmMax, .fmNeg, .fmAbs, .fmCsgn, .fmCvtfh, .fmCvtfb, .fmCvt8, .fmCvt6, .fmDec8, .fmDec6, .fmHmin, .fmHmax, .fmBmin, .fmBmax].map
      fun f => f true notM3 (.v 5)) = true := by decide +kernel

theorem decode_sf : opsDecode (laneWord 4) (List.range 9)
    ([Instr.sfDiv, .sfSqrt, .sfRcp, .sfRsqrt, .sfExp2, .sfLog2, .sfSinpi, .sfCospi, .sfScpi].map fun f => f notM3 (.v 5)) = true := by decide +kernel

theorem decode_xl : opsDecode (laneWord 6) (List.range 16)
    ([Instr.xlShfl, .xlShup, .xlShdn, .xlShxor, .xlVany, .xlVall, .xlBallot, .xlMatch, .xlScan, .xlFscan, .xlRed, .xlRedmin, .xlRedmax, .xlFred,
      .xlBlk8, .xlBlk6].map fun f => f notM3 (.v 5)) = true := by decide +kernel

theorem decode_sm : opsDecode (laneWord 11) (List.range 3) ([Instr.smSend, .smSendr, .smSendb].map fun f => f notM3 (.v 5)) = true := by decide +kernel

theorem decode_ld : opsDecode (laneWord 7) [0, 1, 2, 3, 4, 5, 8, 9, 0xA]
    ([Instr.ldLb, .ldLbz, .ldLh, .ldLhz, .ldLw, .ldLd, .ldTld, .ldLblk, .ldPf].map fun f => f notM3 (.v 5)) = true ∧
  -- ord(acq,die): SCOPE 3, ORD 0b01 (R103)
  opsDecode (fun op => immWord 7 op 0xD) [6, 7] ([Instr.ldLwo, .ldLdo].map fun f => f notM3 (.imm 0xD)) = true := by decide +kernel

theorem decode_st : opsDecode (laneWord 8) [0, 1, 2, 3, 6, 0x28] ([Instr.stSb, .stSh, .stSw, .stSd, .stTst, .stMcst].map fun f => f notM3 (.v 5)) = true ∧
  -- ord(rel,sys): SCOPE 5, ORD 0b10
  opsDecode (fun op => immWord 8 op 0x16) [4, 5, 0x20, 0x21] ([Instr.stSwo, .stSdo, .stRadd, .stRfadd].map fun f => f notM3 (.imm 0x16)) = true ∧
  -- ord(ar,core): SCOPE 2, ORD 0b11
  opsDecode (fun op => immWord 8 op 0xB) ((List.range 11).map (0x10 + ·))
    ([Instr.stAadd, .stAfadd, .stAmin, .stAmax, .stAminu, .stAmaxu, .stAand, .stAor, .stAxor, .stAxch, .stAcas].map fun f => f notM3 (.imm 0xB)) = true := by
  decide +kernel

theorem decode_mx : opsDecode (uniWord 9) [0, 1, 2, 3, 4, 5, 6, 7, 8, 9, 0xB]
    ([Instr.mxTmma, .mxTout, .mxTfill, .mxTzero, .mxTewAdd, .mxTewMul, .mxTewScale, .mxTredRow, .mxTredCol, .mxTtrn, .mxQadv].map fun f => f (.s 9)) = true ∧
  decode (moveWord 0 0 (2 ^ 11 + 2 ^ 6 * 9 + 0xA) (2 ^ 13 + 7)) = .ok (.mxMxfence (.imm 7)) := by decide +kernel

/-- R278: a table load is the tfill opcode. -/
theorem decode_table_load : encode (.mxTableLoad (.s 9)) = some (uniWord 9 2) ∧ WellFormed.canonical (.mxTableLoad (.s 9)) = .mxTfill (.s 9) := by
  decide +kernel

theorem decode_cp : opsDecode (uniWord 10) (List.range 7)
    ([Instr.cpCopy1, .cpCopy2, .cpCopyt, .cpMcast, .cpFill, .cpColl, .cpOvl].map fun f => f (.s 9)) = true := by decide +kernel

/-- A bundle with a scalar operation alone: S, and the 48 bits of the slot (R76). -/
def scalarWord (x : Nat) : BundleWord := BitVec.ofNat 256 (2 ^ 245 + 2 ^ 192 * x)

/-- Format SS with sd = s5, sa = s6, sb = s7, imm22 = -3. -/
def ssWord (op : Nat) : BundleWord := scalarWord (2 ^ 40 * op + 2 ^ 34 * 5 + 2 ^ 28 * 6 + 2 ^ 22 * 7 + 0x3FFFFD)

theorem decode_alu : opsDecode ssWord (List.range 0x11)
    ([Instr.add, .sub, .mul, .mulh, .and, .or, .xor, .shl, .shr, .sar, .min, .max, .minu, .maxu, .ceq, .clt, .cltu].map
      fun f => f 5 6 7 0x3FFFFD) = true := by decide +kernel

theorem decode_scalar_memory : opsDecode ssWord [0x11, 0x12, 0x13, 0x14, 0x16, 0x17, 0x1F, 0x20]
    ([Instr.sld 5 6 7, .sst 5 6 7, .sldq 5 6 7, .sstq 5 6 7, .mwr 5 6 7, .basew 5 6 7, .spawn 5 6 7, .pmap 5 6 7].map fun f => f 0x3FFFFD) = true := by
  decide +kernel

theorem decode_scalar_two : -- no sd: PFLUSH, OVLOAD, OVCALL, PHINT; no sa: REGGIVE, REGCLAIM
  opsDecode (fun op => scalarWord (2 ^ 40 * op + 2 ^ 28 * 6 + 2 ^ 22 * 7 + 0x3FFFFD)) [0x21, 0x22, 0x23, 0x24]
    ([Instr.pflush, .ovload, .ovcall, .phint].map fun f => f 6 7 0x3FFFFD) = true ∧
  opsDecode (fun op => scalarWord (2 ^ 40 * op + 2 ^ 22 * 7 + 0x3FFFFD)) [0x18, 0x19] ([Instr.reggive, .regclaim].map fun f => f 7 0x3FFFFD) = true ∧
  decode (scalarWord (2 ^ 40 * 0x15 + 2 ^ 34 * 5 + 2 ^ 28 * 14)) = .ok (.mrd 5 14) ∧ decode (scalarWord (2 ^ 40 * 0x1A + 2 ^ 28 * 63)) = .ok (.ret 63) ∧
  opsDecode (fun op => scalarWord (2 ^ 40 * op)) [0x1B, 0x1C, 0x1D] [.exit, .recbeg, .recend] = true ∧
  decode (scalarWord (2 ^ 40 * 0x1E + 2 ^ 34 * 5)) = .ok (.reverse 5) := by decide +kernel

theorem decode_immediates : opsDecode (fun op => scalarWord (2 ^ 40 * op + 2 ^ 34 * 5 + 0x89ABCDEF)) [0x40, 0x41, 0x42]
    ([Instr.li, .liz, .lih].map fun f => f 5 0x89ABCDEF) = true := by decide +kernel

theorem decode_branches : -- target -2 bundles, join 3 bundles; condition !m6
  decode (scalarWord (2 ^ 40 * (0x60 + 0x16) + 2 ^ 16 * 0xFFFFFE + 3)) = .ok (.bd true 6 0xFFFFFE 3) ∧
  decode (scalarWord (2 ^ 40 * (0x80 + 0x06) + 2 ^ 16 * 0xFFFFFE)) = .ok (.bu false 6 0xFFFFFE) ∧
  decode (scalarWord (2 ^ 40 * 0xA0 + 2 ^ 16 * 4)) = .ok (.call 4) ∧ decode (scalarWord (2 ^ 40 * 0xA1 + 2 ^ 16 * 4 + 30)) = .ok (.loop 4 30) := by
  decide +kernel

theorem decode_synchronisation : decode (scalarWord (2 ^ 40 * 0xB0 + 2 ^ 34 * 5 + 2 ^ 28 * 6 + 2 ^ 22 * 31 + 2 ^ 19)) = .ok (.bara 5 6 31 1) ∧
  decode (scalarWord (2 ^ 40 * 0xB1 + 2 ^ 22 * 31 + 2 ^ 19)) = .ok (.barw 31 1) ∧ decode (scalarWord (2 ^ 40 * 0xB2 + 2 ^ 19 * 4)) = .ok (.dsync 4) ∧
  decode (scalarWord (2 ^ 40 * 0xB3 + 2 ^ 19 * 5)) = .ok (.fence 5) ∧ decode (scalarWord (2 ^ 40 * 0xB4 + 2 ^ 34 * 5 + 2 ^ 22 * 3)) = .ok (.waitc 5 3) ∧
  decode (scalarWord (2 ^ 40 * 0xB5 + 2 ^ 34 * 5)) = .ok (.mxwait 5) ∧ decode (scalarWord (2 ^ 40 * 0xB6 + 2 ^ 34 * 5 + 2 ^ 22 * 7)) = .ok (.cpwait 5 7) ∧
  decode (scalarWord (2 ^ 40 * 0xB7)) = .ok .mxtake ∧ decode (scalarWord (2 ^ 40 * 0xB8)) = .ok .mxgive := by decide +kernel

/-- WRSR of a register from s6. -/
def wrsrWord (reg : Nat) : BundleWord := scalarWord (2 ^ 40 * 0xC1 + 2 ^ 28 * 6 + 2 ^ 12 * reg)

theorem decode_special : decode (scalarWord (2 ^ 40 * 0xC0 + 2 ^ 34 * 5 + 2 ^ 12 * 0x104)) = .ok (.rdsr 5 0x104) ∧
  opsDecode wrsrWord [0x103, 0, 1, 0x40, 0x20, 0x100, 0x104, 0x110, 0x120, 0x121, 0x70]
    [.wrsr 6 0x103, .wrsrFstat 6 0, .wrsrGstat 6 1, .wrsrStream 6 0x40, .wrsrLining 6 0x20, .wrsrEpc 6 0x100, .wrsrTvec 6 0x104, .wrsrSwapth 6 0x110,
     .wrsrIlim 6 0x120, .wrsrClkpat 6 0x121, .wrsrOvmask 6 0x70] = true ∧
  decode (scalarWord (2 ^ 40 * 0xC2 + 2 ^ 12 * 0xFFFF)) = .ok (.sys 0xFFFF) ∧ decode (scalarWord (2 ^ 40 * 0xC3 + 2 ^ 12 * 0xFFFF)) = .ok (.trap 0xFFFF) ∧
  decode (scalarWord (2 ^ 40 * 0xC4)) = .ok .eret := by decide +kernel

/-- A whole bundle: LA = 9, Y, `lim2 -> v319`, `fm1.x`... every kind of destination and source (R77-R82), and a scalar operation beside them. -/
theorem decode_bundle : decode (BitVec.ofNat 256 (
      2 ^ 15 * 319 + 2 * (3 * 2 ^ 12 + 0xA2) +                                            -- slot 0: lim2 -> v319
      2 ^ 32 * (2 ^ 28 * 15 + 2 ^ 15 * (2 ^ 10 + 2 ^ 6 * 7 + 2 ^ 4 * 3) + 2 * (3 * 2 ^ 12 + 0x88) + 1) + -- slot 1: spad -> ld.w held ? m15
      2 ^ 64 * 0xDEADBEEF +                                                               -- slot 2: a long immediate
      2 ^ 96 * (2 ^ 15 * (3 * 2 ^ 10 + 0xF) + 2 * (2 ^ 12 + 2 ^ 6 * 3 + 1)) +             -- slot 3: fm1.x -> m15
      2 ^ 128 * (2 ^ 15 * (3 * 2 ^ 10 + 0x13) + 2 * 2 ^ 13) +                             -- slot 4: 0 -> e3
      2 ^ 160 * (2 ^ 15 * (3 * 2 ^ 10 + 0x20) + 2 * (2 ^ 13 + 0xFFF)) +                   -- slot 5: -1 -> fclr
      2 ^ 192 * (2 ^ 40 * 0x1B) + 2 ^ 244 + 2 ^ 245 + 2 ^ 246 * 4 + 2 ^ 252 * 9)) = .ok (.bundleIssue
    { la := 9, y := true, scalar := some .exit, slots := [
        .move { g := noGuard, dst := .v 319, src := .lim 2 }, .move { g := { mask := 15, inv := false }, dst := .latch .ld .w true, src := .spad },
        .lim 0xDEADBEEF, .move { g := noGuard, dst := .mask 15, src := .port .fm1 true }, .move { g := noGuard, dst := .e 3, src := .imm 0 },
        .move { g := noGuard, dst := .fclr, src := .imm 0xFFF }] }) := by decide +kernel

theorem decode_sources :
  decode (moveWord 0 0 1 (3 * 2 ^ 12 + 0x3F)) = .ok (.bundleIssue { la := 0, y := false, scalar := none, slots := [
    .move { g := noGuard, dst := .v 1, src := .s 63 }, .empty, .empty, .empty, .empty, .empty] }) ∧
  [(0x40, Src.hiS 0), (0x90, .lane), (0x91, .split), (0x92, .gtime), (0x93, .pstate), (0xB3, .e 3)].all (fun p =>
    decide (decode (moveWord 0 0 1 (3 * 2 ^ 12 + p.1)) = .ok (.bundleIssue { la := 0, y := false, scalar := none, slots := [
      .move { g := noGuard, dst := .v 1, src := p.2 }, .empty, .empty, .empty, .empty, .empty] }))) = true ∧
  decode (moveWord 0 0 (2 ^ 10 + 2 ^ 6 * 8 + 2 ^ 4 * 3) (3 * 2 ^ 12 + 0x87)) = .ok (.bundleIssue { la := 0, y := false, scalar := none, slots := [
    .move { g := noGuard, dst := .latch .st .w false, src := .w 7 }, .empty, .empty, .empty, .empty, .empty] }) := by decide +kernel

/-! ## What is refused (R110): one word for each row, the number being ECAUSE's SLOT -/

theorem refuse_header : decode (BitVec.ofNat 256 (2 ^ 240)) = .error 7 ∧ decode (BitVec.ofNat 256 (2 ^ 243)) = .error 7 ∧
  decode (BitVec.ofNat 256 (2 ^ 192)) = .error 7 := by decide +kernel

theorem refuse_guard_and_hold : decode (moveWord 0 1 1 5) = .error 0 ∧ decode (BitVec.ofNat 256 (2 ^ 15 * 1 + 2 * 5 + 1)) = .error 0 := by decide +kernel

theorem refuse_destination : [320, 1023, 2 ^ 10 + 2 ^ 6 * 12, 2 ^ 10 + 2 ^ 6 * 15, 2 ^ 10 + 2 ^ 6 * 4 + 2 ^ 4 * 2, 2 ^ 10 + 2 ^ 6 * 9 + 2 ^ 4 * 2, 2 ^ 10 + 1,
    2 ^ 11 + 2 ^ 6 * 15, 2 ^ 11 + 2 ^ 6 * 13, 2 ^ 11 + 0x1E, 2 ^ 11 + 2 ^ 6 * 5 + 0x14, 2 ^ 11 + 2 ^ 6 * 2 + 0x3F, 2 ^ 11 + 2 ^ 6 * 4 + 9, 2 ^ 11 + 2 ^ 6 * 6 + 0x10,
    2 ^ 11 + 2 ^ 6 * 7 + 0xB, 2 ^ 11 + 2 ^ 6 * 8 + 7, 2 ^ 11 + 2 ^ 6 * 8 + 0x22, 2 ^ 11 + 2 ^ 6 * 8 + 0x29, 2 ^ 11 + 2 ^ 6 * 11 + 3,
    3 * 2 ^ 10, 3 * 2 ^ 10 + 0x14, 3 * 2 ^ 10 + 0x21].all (fun d => decide (decode (moveWord 0 0 d 5) = .error 0)) = true ∧
  [2 ^ 11 + 2 ^ 6 * 9 + 0xC, 2 ^ 11 + 2 ^ 6 * 10 + 7].all (fun d => decide (decode (moveWord 0 0 d (3 * 2 ^ 12)) = .error 0)) = true := by decide +kernel

theorem refuse_source : [320, 511, 512, 2 ^ 12 + 2 ^ 10, 2 ^ 12 + 2 ^ 2, 2 ^ 12 + 2, 2 ^ 12 + 2 ^ 6 * 12, 2 ^ 12 + 2 ^ 6 * 5 + 1, 2 ^ 12 + 2 ^ 6 * 11,
    3 * 2 ^ 12 + 0x89, 3 * 2 ^ 12 + 0x94, 3 * 2 ^ 12 + 0xA6, 3 * 2 ^ 12 + 0xA1, 3 * 2 ^ 12 + 0xB4, 3 * 2 ^ 12 + 0x80, 3 * 2 ^ 12 + 0x88].all (fun x =>
    decide (decode (moveWord 0 0 1 x) = .error 0)) = true := by decide +kernel

theorem refuse_combination : -- a `w` latch from a register; a uniform latch from a register, or guarded; MXFENCE from a register; e1 from 1
  [(0, 2 ^ 10 + 2 ^ 6 * 7 + 2 ^ 4 * 3, 5), (0, 2 ^ 10 + 2 ^ 6 * 9, 5), (1, 2 ^ 10 + 2 ^ 6 * 10, 3 * 2 ^ 12), (0, 2 ^ 11 + 2 ^ 6 * 9 + 0xA, 3 * 2 ^ 12),
   (0, 3 * 2 ^ 10 + 0x11, 2 ^ 13 + 1), (0, 3 * 2 ^ 10 + 0x20, 5),
   -- lwo with release, swo with acquire, scope 6, bit 5, and a register as order (R103)
   (0, 2 ^ 11 + 2 ^ 6 * 7 + 6, 2 ^ 13 + 2), (0, 2 ^ 11 + 2 ^ 6 * 8 + 4, 2 ^ 13 + 1), (0, 2 ^ 11 + 2 ^ 6 * 8 + 0x10, 2 ^ 13 + 0x18),
   (0, 2 ^ 11 + 2 ^ 6 * 8 + 0x10, 2 ^ 13 + 0x20), (0, 2 ^ 11 + 2 ^ 6 * 8 + 0x10, 5)].all (fun p =>
    decide (decode (moveWord p.1 0 p.2.1 p.2.2) = .error 0)) = true ∧
  -- two moves to v1; ia0.add and ia0.sub
  decode (BitVec.ofNat 256 (2 ^ 15 + 2 * 5 + 2 ^ 32 * (2 ^ 15 + 2 * 6))) = .error 1 ∧
  decode (BitVec.ofNat 256 (2 ^ 15 * 2 ^ 11 + 2 ^ 32 * (2 ^ 15 * (2 ^ 11 + 2)))) = .error 1 := by decide +kernel

theorem refuse_scalar : [2 ^ 40 * 0x25, 2 ^ 40 * 0x43, 2 ^ 40 * 0xA2, 2 ^ 40 * 0xB9, 2 ^ 40 * 0xC5, 2 ^ 40 * 0xFF, 2 ^ 40 * 0x1B + 1, 2 ^ 40 * 0x15 + 2 ^ 28 * 16,
    2 ^ 40 * 0x16, 2 ^ 40 * 0x17 + 2 ^ 34 * 8, 2 ^ 40 * 0x13 + 2 ^ 34 * 63, 2 ^ 40 * 0x1E, 2 ^ 40 * 0x40 + 2 ^ 32, 2 ^ 40 * 0x60, 2 ^ 40 * 0x80 + 1, 2 ^ 40 * 0xA0 + 1,
    2 ^ 40 * 0xA1, 2 ^ 40 * 0xA1 + 63, 2 ^ 40 * 0xA1 + 2 ^ 6 + 1, 2 ^ 40 * 0xB0 + 2 ^ 22 * 32, 2 ^ 40 * 0xB0 + 2 ^ 19 * 2, 2 ^ 40 * 0xB1 + 1, 2 ^ 40 * 0xB2 + 2 ^ 19,
    2 ^ 40 * 0xB3 + 2 ^ 19 * 6, 2 ^ 40 * 0xB4 + 2 ^ 22 * 6, 2 ^ 40 * 0xB6 + 2 ^ 22 * 8, 2 ^ 40 * 0xC0 + 2 ^ 12 * 5, 2 ^ 40 * 0xC1 + 2 ^ 12 * 0x130, 2 ^ 40 * 0xC4 + 1].all
  (fun x => decide (decode (scalarWord x) = .error 6)) = true := by decide +kernel

/-- An ill-formed term for each check of `WellFormed.wf`. -/
theorem illformed : [Instr.lgAnd { mask := 0, inv := true } (.v 0), .lgAnd noGuard (.v 320), .lgAnd noGuard (.port .sm false), .lgAnd noGuard (.lim 1),
    .lgAnd noGuard (.w 0), .ldLwo noGuard (.imm 2), .stSwo noGuard (.v 1), .mxTzero (.v 1), .mxMxfence (.s 1), .cpFill .lane, .sldq 63 0 0 0, .mwr 0 0 0 0,
    .reverse 0, .bd false 0 1 0, .loop 1 0, .loop 1 63, .bara 0 0 32 0, .barw 0 2, .dsync 1, .fence 6, .waitc 0 6, .cpwait 0 8, .rdsr 0 5, .wrsr 0 0x130,
    .wrsr 0 0, .wrsrFstat 0 1,
    .bundleIssue { la := 0, y := false, slots := [], scalar := none }, .bundleIssue (scalarBundle .exit),
    .bundleIssue { la := 0, y := false, scalar := none, slots := [.move { g := noGuard, dst := .v 1, src := .v 2 }, .move { g := noGuard, dst := .v 1, src := .v 3 },
      .empty, .empty, .empty, .empty] },
    .bundleIssue { la := 0, y := false, scalar := none, slots := [.move { g := noGuard, dst := .v 0, src := .v 0 }, .empty, .empty, .empty, .empty, .empty] },
    .bundleIssue { la := 0, y := false, scalar := none, slots := [.move { g := noGuard, dst := .latch .sf .c false, src := .v 0 }, .empty, .empty, .empty, .empty, .empty] },
    .bundleIssue { la := 0, y := false, scalar := none, slots := [.move { g := { mask := 1, inv := false }, dst := .latch .mx .a false, src := .s 0 }, .empty, .empty, .empty,
      .empty, .empty] },
    .bundleIssue { la := 0, y := false, scalar := none, slots := [.move { g := noGuard, dst := .e 0, src := .imm 1 }, .empty, .empty, .empty, .empty, .empty] },
    .bundleIssue { la := 0, y := false, scalar := none, slots := [.move { g := noGuard, dst := .mask 0, src := .imm 1 }, .empty, .empty, .empty, .empty, .empty] }].all
  (fun i => WellFormed.wf i = false) = true := by decide +kernel

/-! ## What the hypotheses of the statements about the scalar slot admit -/

theorem witness_ScalarValues : Runs demo 2 0 (scalarBundle (.alu .mulh 1 2 3 5)) ∧ Runs demo 2 0 (scalarBundle (.li 1 7)) ∧
    Runs demo 2 0 (scalarBundle (.liz 0 7)) ∧ Runs demo 2 0 (scalarBundle (.lih 63 7)) := by decide +kernel

theorem witness_ControlTransfers : Issues demo 2 0 (scalarBundle (.ret 0)) ∧ Issues demo 2 0 (scalarBundle (.ovcall 0 0 0x40)) ∧
    Issues demo 2 0 (scalarBundle (.call 2)) ∧ Issues (withS 30 1) 2 0 (scalarBundle (.loop 2 30)) ∧
    Issues (withS 30 5) 2 0 (scalarBundle (.loop 2 30)) ∧ Issues demo 2 0 (scalarBundle (.bu false 0 2)) ∧
    Issues demo 2 0 (scalarBundle (.bu true 0 2)) := by decide +kernel

/-- The group with some of its lanes in mask 1. -/
def halfMasked (s : State) : State := withG s fun g => { g with m := [(1, 0x0000FFFF)] }

/-- The group with all four splits in use. -/
def fourSplits : State := halfMasked (withG demo fun g => { g with
  splits := [(0, { pc := 0, mask := 0x3FFFFFFF }), (1, { pc := 64, mask := 0x40000000, join := some 128 }),
             (2, { pc := 64, mask := 0x20000000, join := some 128 }), (3, { pc := 64, mask := 0x80000000, join := some 128 })] })

theorem witness_DivergentBranch :
    (Issues demo 2 0 (scalarBundle (.bd false 1 2 3)) ∧ condOf demo 2 0 false 1 = 0) ∧
    (Issues demo 2 0 (scalarBundle (.bd false 0 2 3)) ∧ condOf demo 2 0 false 0 = activeMask (groupOf demo 2) 0) ∧
    (Issues (halfMasked demo) 2 0 (scalarBundle (.bd false 1 2 3)) ∧ condOf (halfMasked demo) 2 0 false 1 = 0xFFFF ∧
      (freeSplit (groupOf (halfMasked demo) 2) 0).isSome) ∧
    Issues fourSplits 2 0 (scalarBundle (.bd false 1 2 3)) ∧ condOf fourSplits 2 0 false 1 = 0xFFFF ∧
      freeSplit (groupOf fourSplits 2) 0 = none := by decide +kernel

/-- The group in legacy width. -/
def demoLw : State := withG demo fun g => { g with
  lw := true, splits := [(0, { pc := 0, mask := 0x0000FFFF }), (2, { pc := 0, mask := 0xFFFF0000 })] }

/-- The same with the second half's split presented. -/
def demoLwHigh : State := { demoLw with cur := some (2, 2) }

theorem witness_MaskReadAndWrite : Runs demo 2 0 (scalarBundle (.mrd 1 0)) ∧ Runs demoLwHigh 2 2 (scalarBundle (.mrd 1 15)) ∧
    Runs demo 2 0 (scalarBundle (.mwr 1 2 3 4)) ∧ Runs demoLwHigh 2 2 (scalarBundle (.mwr 15 2 3 4)) ∧
    Runs demoSup 2 0 (scalarBundle (.mwr 1 2 3 4)) := by decide +kernel

theorem witness_LanesExit :
    (Issues demo 2 0 (scalarBundle .exit) ∧ (groupOf demo 2).splits.length = 1) ∧
    Issues fourSplits 2 0 (scalarBundle .exit) ∧
    Issues (withG demo fun g => { g with splits := [(0, { pc := 0, mask := 1, stack := [{ join := 64, fall := 32, mask := 2, second := false }] })] })
      2 0 (scalarBundle .exit) := by decide +kernel

theorem witness_TrapEntry : toBundle (.eret) = some (scalarBundle .eret) ∧ (groupOf demo 2).super = false ∧
    Traps demo 2 0 (scalarBundle .eret) { code := 0x0C, info := 0, slot := 6 } := by decide +kernel

theorem witness_IllegalEncodings : toBundle (.bara 1 2 32 0) = some (scalarBundle (.bara 1 2 32 0)) ∧
    firstIllegal (scalarBundle (.bara 1 2 32 0)) = some 6 ∧ demo.cur = some (2, 0) ∧ (groupOf demo 2).super = false := by decide +kernel

theorem witness_DoubleTrap : toBundle (.mxgive) = some (scalarBundle .mxgive) ∧ (groupOf demoSup 2).super = true ∧
    ∃ t, Traps demoSup 2 0 (scalarBundle .mxgive) t := by
  refine ⟨by decide, by decide, { code := 2, info := 0, slot := 6 }, ?_⟩
  decide +kernel

theorem witness_SystemCallAndBreakpoint : (groupOf demo 2).super = false ∧ (groupOf demo 2).place ≠ .ended ∧
    Runs demo 2 0 (scalarBundle (.sys 5)) ∧ Runs demo 2 0 (scalarBundle (.trap 5)) := by decide +kernel

/-- The machine in supervisor mode, with a bundle at byte 0x40 of overlay slot 0 that trapped with the given registers. -/
def trapped (epc ecause : DWord) (b : Bundle) : State :=
  withC (withG demoSup fun g => { g with epc := epc, ecause := ecause }) fun c => { c with imem := memWrite c.imem 0x40 (bytesOfWord (encodeBundle b)) }

/-- The bundle at that byte as ERET reads it. -/
def trappedAt (s : State) : Option Bundle := bundleAt (coreOf s 0) 0x40

/-- A misaligned access of the scalar slot to be replaced by registers from `v` up. -/
def at6 (v : DWord) (op : ScalarOp) : State := trapped (0x80040 + v * 2 ^ 21) (0x5 + 6 * 2 ^ 9) (scalarBundle op)

/-- A misaligned access of slot 0 to be replaced by a register. -/
def at0 (v : DWord) (t : Trigger) : State := trapped (0x80040 + v * 2 ^ 21) 0x5 (triggerBundle t noGuard .lane)

theorem witness_ExceptionReturn :
    Issues (trapped (2 ^ 63) 0 (scalarBundle .eret)) 2 0 (scalarBundle .eret) ∧ Issues (trapped 0x40 0 (scalarBundle .eret)) 2 0 (scalarBundle .eret) ∧ Issues (trapped 0x80040 1 (scalarBundle .eret)) 2 0 (scalarBundle .eret) ∧
    (Issues (at6 63 (.sld 1 0 0 0)) 2 0 (scalarBundle .eret) ∧ trappedAt (at6 63 (.sld 1 0 0 0)) = some (scalarBundle (.sld 1 0 0 0))) ∧
    (Issues (at6 62 (.sldq 1 0 0 0)) 2 0 (scalarBundle .eret) ∧ trappedAt (at6 62 (.sldq 1 0 0 0)) = some (scalarBundle (.sldq 1 0 0 0))) ∧
    (Issues (at6 0 (.sst 1 0 0 0)) 2 0 (scalarBundle .eret) ∧ trappedAt (at6 0 (.sst 1 0 0 0)) = some (scalarBundle (.sst 1 0 0 0))) ∧
    (Issues (at6 0 (.sld 1 0 0 0)) 2 0 (scalarBundle .eret) ∧ trappedAt (at6 0 (.sld 1 0 0 0)) = some (scalarBundle (.sld 1 0 0 0))) ∧
    (Issues (at0 319 (.ld .lw)) 2 0 (scalarBundle .eret) ∧ trappedAt (at0 319 (.ld .lw)) = some (triggerBundle (.ld .lw) noGuard .lane)) ∧
    (Issues (at0 320 (.ld .lw)) 2 0 (scalarBundle .eret) ∧ (groupOf (at0 320 (.ld .lw)) 2).regcnt = 320) ∧
    (Issues (at0 0 (.st .sw)) 2 0 (scalarBundle .eret) ∧ trappedAt (at0 0 (.st .sw)) = some (triggerBundle (.st .sw) noGuard .lane)) ∧
    (Issues (at6 64 (.sld 1 0 0 0)) 2 0 (scalarBundle .eret) ∧ Issues (at6 63 (.sldq 1 0 0 0)) 2 0 (scalarBundle .eret) ∧
      Issues (at6 1 (.alu .add 1 2 3 0)) 2 0 (scalarBundle .eret) ∧
      trappedAt (at6 1 (.alu .add 1 2 3 0)) = some (scalarBundle (.alu .add 1 2 3 0)) ∧
      Issues (at0 1 (.lg .sel)) 2 0 (scalarBundle .eret) ∧ trappedAt (at0 1 (.lg .sel)) = some (triggerBundle (.lg .sel) noGuard .lane)) ∧
    (let s := withG (at6 63 (.sld 1 0 0 0)) fun g => { g with sPoison := [63] }
     Issues s 2 0 (scalarBundle .eret) ∧ 63 ∈ (groupOf s 2).sPoison) ∧
    ∀ t ∈ [Trigger.ld .lw, .st .aadd], let s := withG (at0 5 t) fun g => { g with vPoison := [(5, 8)] }
      Issues s 2 0 (scalarBundle .eret) ∧ activeMask (groupOf s 2) 0 &&& tgetD (groupOf s 2).vPoison 5 0 ≠ 0 ∧
        (t = .st .aadd → (portsWritten t).1 = true) := by
  and_intros <;> decide +kernel

theorem witness_PrivilegedInUserMode : (groupOf demo 2).super = false ∧ Ready demo 2 0 (scalarBundle (.rdsr 1 0x12F)) ∧
    (Ready demo 2 0 (scalarBundle (.wrsr 1 0x110)) ∧
      writeCheck (groupOf demo 2) (teamOf demo (teamId demo 2)) 0x110 (sreg demo 2 0 1) ≠ some 1) ∧
    Ready demo 2 0 (scalarBundle .eret) := by decide +kernel

/-- A page of 2 MiB from virtual address 0 on, in device memory, which user mode may read and write. -/
def demoFrame : Frame := { space := .dev, pa := 0, rd := true, w := true, sup := false, uncached := false, span := 2 ^ 21 }

/-- The machine with that page in the core's TLB. -/
def mapped (s : State) : State :=
  withC s fun c => { c with tlb := [{ asid := 0, func := 0, page := 0, size := 2 ^ 21, frame := demoFrame }] }

/-- An accepted tile command that names stream 0. -/
def demoItem : EngineItem := { id := 20, op := .tile .tmma 0 0, gid := 2 }

theorem witness_SpecialRegisterReads : Issues demo 2 0 (scalarBundle (.rdsr 1 0x104)) ∧ Issues demoSup 2 0 (scalarBundle (.rdsr 1 0x12F)) ∧
    (groupOf demo 2).role < 16 ∧ (groupOf demo 2).rix < 16 ∧ (groupOf demo 2).gix < 16 ∧ (teamOf demo 1).token = none ∧
    (teamOf demoTok 1).token = some 2 ∧ (groupOf demo 2).regcnt < 2 ^ 9 ∧ demo.pcap < 2 ^ 64 ∧
    (let c := coreOf demo 0
     c.weir.level < 4 ∧ c.ilim.hard < 2 ^ 16 ∧ c.ilim.soft < 2 ^ 16 ∧ c.ilim.frz2 < 2 ^ 6 ∧ c.ilim.fduty < 2 ^ 5 ∧ c.weir.frzcnt < 2 ^ 64) ∧
    (groupOf demo 2).place = .resident 0 0 ∧ (clusterOf demo 0).portwait < 2 ^ 64 ∧ demo.idle < 2 ^ 11 ∧
    max (max (min demo.pcap 1600) demo.idle) ((List.range 8).map fun n => tgetD demo.pfloor n 0).sum < 2 ^ 11 := by decide +kernel

theorem witness_SpecialRegisterReads_fields : let t := { demoTeam with dom := [1, 2, 3], token := some 3 }
    t.dom = [1, 2, 3] ∧ (1 : Nat) < 2 ^ 16 ∧ (2 : Nat) < 2 ^ 16 ∧ (3 : Nat) < 2 ^ 16 ∧ t.token = some 3 ∧ (3 : Nat) ≠ 2 ∧
      (tgetD t.channels 7 {}).done < 2 ^ 32 ∧ (tgetD t.channels 7 {}).prog < 2 ^ 28 ∧ t.lnHead < 2 ^ 26 ∧ t.lnSt < 4 := by decide

/-- The machine in supervisor mode with a value in s1. -/
def supS (v : DWord) : State := withG demoSup (sr 1 v)

theorem witness_SpecialRegisterWrites : Issues demo 2 0 (scalarBundle (.wrsr 1 0x000)) ∧ Issues demo 2 0 (scalarBundle (.wrsr 1 0x001)) ∧
    Issues demoSup 2 0 (scalarBundle (.wrsr 1 0x100)) ∧ Issues demoSup 2 0 (scalarBundle (.wrsr 1 0x103)) ∧
    Issues demo 2 0 (scalarBundle (.wrsr 1 0x104)) ∧ Issues demoSup 2 0 (scalarBundle (.wrsr 1 0x070)) ∧
    Issues demoSup 2 0 (scalarBundle (.wrsr 1 0x110)) ∧ Issues (supS 0x4_08_0888_09C4) 2 0 (scalarBundle (.wrsr 1 0x120)) ∧
    Issues (supS 0xFFFFFFFF) 2 0 (scalarBundle (.wrsr 1 0x121)) ∧ (groupOf demoSup 2).place = .resident 0 0 := by
  and_intros <;> decide +kernel

/-- The team with a Lining byte held back that goes to a space. -/
def held (sp : Space) : State := withT demo fun t => { t with
  batches := [{ num := 1, lining := [{ va := 0, space := sp, addr := 0, bytes := [1], poison := false }] }] }

theorem witness_StreamAndLiningWrites : Resident demo 2 ∧ Issues demo 2 0 (scalarBundle (.wrsr 1 0x040)) ∧
    Issues demo 2 0 (scalarBundle (.wrsr 1 0x05F)) ∧ streamBusy (teamOf demo 1) 0 = false ∧
    (Issues (withT demo fun t => { t with engine := [demoItem] }) 2 0 (scalarBundle (.wrsr 1 0x040)) ∧
      streamBusy { demoTeam with engine := [demoItem] } 0 = true) ∧
    (Issues (withT demo fun t => { t with engine := [demoItem] }) 2 0 (scalarBundle (.wrsr 1 0x020)) ∧
      (teamOf (withT demo fun t => { t with engine := [demoItem] }) 1).engine ≠ []) ∧ (teamOf demo 1).engine = [] ∧
    (∀ sp ∈ [Space.dev, .peer], let s := held sp
      Issues s 2 0 (scalarBundle (.wrsr 1 0x020)) ∧ (lateWrites (teamOf s 1)).map (fun w => w.space) = [sp] ∧ NoPolder s ∧
        lateOpen s 0 (lateWrites (teamOf s 1)) = decide (sp = .dev)) ∧
    Issues demo 2 0 (scalarBundle (.wrsr 1 0x020)) ∧ Issues demo 2 0 (scalarBundle (.wrsr 1 0x021)) ∧
    Issues demoSup 2 0 (scalarBundle (.wrsr 1 0x022)) ∧ Issues demo 2 0 (scalarBundle (.wrsr 1 0x02A)) := by
  refine ⟨⟨0, 0, by decide⟩, ?_⟩
  and_intros <;> decide +kernel

theorem witness_ScalarMemoryIssue :
    Issues (withS 2 0xFFF0000000000000) 2 0 (scalarBundle (.sld 1 2 0 0)) ∧ Issues (withS 2 0xFFF0000000000010) 2 0 (scalarBundle (.sldq 62 2 0 0)) ∧
    Issues (withS 2 0xFFF00000000FFFF8) 2 0 (scalarBundle (.sst 1 2 0 0)) ∧ Issues (withS 2 0xFFF0000000000000) 2 0 (scalarBundle (.sstq 1 2 0 0)) ∧
    Issues (mapped (withS 2 0)) 2 0 (scalarBundle (.sld 1 2 0 8)) ∧ Issues (mapped (withS 2 0)) 2 0 (scalarBundle (.sstq 1 2 0 16)) := by
  and_intros <;> decide +kernel

theorem witness_WindowBase : Issues (mapped demo) 2 0 (scalarBundle (.basew 7 0 0 0x1000)) := by decide +kernel

theorem witness_RegisterCounts : Issues demo 2 0 (scalarBundle (.reggive 0 8)) ∧ (groupOf demo 2).place = .resident 0 0 ∧
    (Issues (withG demo fun g => { g with regcnt := 8 }) 2 0 (scalarBundle (.regclaim 0 312)) ∧
      312 ≤ poolFree (withG demo fun g => { g with regcnt := 8 }) 0) ∧
    let full := withG (setGroup (setGroup (setGroup (setGroup demo 3 demoGroup) 4 demoGroup) 5 demoGroup) 6 demoGroup)
      fun g => { g with regcnt := 8 }
    Issues full 2 0 (scalarBundle (.regclaim 0 64)) ∧ poolFree full 0 < 64 := by
  and_intros <;> decide +kernel

theorem witness_RecordSegments :
    let k (t : Team) : Team := { t with token := some 2, kd := { t.kd with recOk := true }, lnBase := 0x1000, lnSize := 64 }
    Issues (withT demo k) 2 0 (scalarBundle .recbeg) ∧ Issues (withT demo fun t => { k t with lnSt := 1 }) 2 0 (scalarBundle .recend) ∧
      Issues (withT demo fun t => { k t with lnSt := 2 }) 2 0 (scalarBundle (.reverse 1)) := by
  and_intros <;> decide +kernel

/-- The machine with a task descriptor's first word at virtual address 0, and a SPAWN's address in s1. -/
def spawning (w0 : Nat) : State := mapped { withS 1 0 with mem := memWrite [] 0 (leBytes 8 w0) }

/-- The machine with a full hardware queue 0. -/
def fullQueue (s : State) : State := setDie s 0 { dieOf s 0 with queues := [(0, List.replicate 256 9)] }

theorem witness_TaskSpawn : Resident demo 2 ∧ Issues (spawning 0) 2 0 (scalarBundle (.spawn 2 1 0 0x40)) ∧
    Issues (spawning 0) 2 0 (scalarBundle (.spawn 2 1 0 0)) ∧ Issues (spawning (2 ^ 51)) 2 0 (scalarBundle (.spawn 2 1 0 0x100)) ∧
    (eventCodes (2 ^ 51)).1 = 1 ∧ eventCodes 0 = (0, 0, 0) ∧
    Issues { spawning 0 with memPoison := [1] } 2 0 (scalarBundle (.spawn 2 1 0 0)) ∧
    Issues (fullQueue (spawning 0)) 2 0 (scalarBundle (.spawn 2 1 0 0)) ∧ 256 ≤ (hwQueue (fullQueue (spawning 0)) 0 0).length ∧
    readReady (spawning 0) 2 0 { lane := 0, space := .dev, addr := 0, va := 0, size := 64 } = true ∧ NoPolder (spawning 0) := by
  refine ⟨⟨0, 0, by decide⟩, ?_⟩
  and_intros <;> decide +kernel

theorem witness_PolderRanges : Issues (mapped (withS 1 0x10000)) 2 0 (scalarBundle (.pmap 0 1 0 512)) ∧ Issues demo 2 0 (scalarBundle (.pmap 0 0 0 1024)) ∧
    Issues demo 2 0 (scalarBundle (.pflush 0 0 512)) ∧ spadQuiet (groupOf demo 2) = true ∧
    let busy := withG demo fun g => { g with ops := [{ id := 0, half := 0, kind := .scalarStore, elems := [{ lane := 0, space := .spad, addr := 0, va := 0, size := 8 }] }] }
    Issues busy 2 0 (scalarBundle (.pflush 0 0 512)) ∧ spadQuiet (groupOf busy 2) = false ∧
    let held (x : List BankLock) := withC demo fun c => { c with
      pmap := [(0, { va := 0, asid := 0, func := 0 })], lines := [(2, { frame := demoFrame, exclusive := true, dirty := true })], locks := x }
    Issues (held []) 2 0 (scalarBundle (.pflush 0 0 512)) ∧ dirtyLines (coreOf (held []) 0) 0 512 = [2] ∧
      rangeLocked (coreOf (held [{ owner := 8, banks := [16] }]) 0) none 256 128 = true ∧
      Issues (mapped (withG (held []) (sr 1 0x10000))) 2 0 (scalarBundle (.pmap 0 1 0 512)) := by
  and_intros <;> decide +kernel

theorem witness_OverlayLoadAndPowerHint : Issues demo 2 0 (scalarBundle (.ovload 0 0 6)) ∧ Issues demoSup 2 0 (scalarBundle (.ovload 0 0 7)) ∧
    Issues demo 2 0 (scalarBundle (.phint 0 0 0x10010)) ∧ Issues (withS 1 1000) 2 0 (scalarBundle (.phint 1 0 0x10010)) ∧
    (withS 1 1000).gtime < max 1000 (withS 1 1000).gtime + 0 ∧ max 0 demo.gtime + 0 ≤ demo.gtime := by decide +kernel

theorem witness_ArrivalsFencesToken :
    let b := withT demo fun t => { t with barriers := [(31, { expect := 1, nextexp := 1 })] }
    let busy (s : State) := withG s fun g => { g with ops := [{ id := 0, half := 0, kind := .scalarStore, elems := [] }] }
    Issues b 2 0 (scalarBundle (.bara 0 0 31 0)) ∧ Issues b 2 0 (scalarBundle (.bara 0 0 31 1)) ∧ (groupOf b 2).arrivals = [] ∧
    (groupOf b 2).ops = [] ∧ Issues (busy b) 2 0 (scalarBundle (.bara 0 0 31 1)) ∧ (groupOf (busy b) 2).opId = 1 ∧
    Issues demo 2 0 (scalarBundle (.fence 5)) ∧ Issues (busy demo) 2 0 (scalarBundle (.fence 0)) ∧ (groupOf (busy demo) 2).ops ≠ [] ∧
    Issues demoTok 2 0 (scalarBundle .mxgive) := by
  and_intros <;> decide +kernel

theorem witness_WaitsBegin :
    let arrived := withG demo fun g => { g with ap := [(0, 7)] }
    let busy := withG demo fun g => { g with paths := [(5, [{ id := 0, done := false }])] }
    let rep := withT demo fun t => { t with batchDone := 3, reports := [{ num := 2, code := 0x10, info := 0 }] }
    let failed := withT demo fun t => { t with channels := [(7, { last := 2, done := 1, fail := some (1, 6) })] }
    Resident demo 2 ∧ Issues demo 2 0 (scalarBundle (.barw 0 0)) ∧ Issues arrived 2 0 (scalarBundle (.barw 0 1)) ∧
    Issues demo 2 0 (scalarBundle (.waitc 0 5)) ∧ Issues busy 2 0 (scalarBundle (.waitc 0 5)) ∧
    (Issues (withS 1 1) 2 0 (scalarBundle (.mxwait 1)) ∧ (teamOf (withS 1 1) 1).batchDone < 1) ∧
    (Issues demo 2 0 (scalarBundle (.mxwait 0)) ∧ (teamOf demo 1).reports = []) ∧
    (Issues (withG rep (sr 1 3)) 2 0 (scalarBundle (.mxwait 1)) ∧ coveredReport (teamOf rep 1) 3 = some { num := 2, code := 0x10, info := 0 }) ∧
    Issues (withS 1 1) 2 0 (scalarBundle (.cpwait 1 7)) ∧ Issues demo 2 0 (scalarBundle (.cpwait 0 7)) ∧
    Issues (withG failed (sr 1 1)) 2 0 (scalarBundle (.cpwait 1 7)) ∧
    (let up (s : State) : State := withG s fun g => { g with super := true, user := some {} }
     Issues (up (withG rep (sr 1 3))) 2 0 (scalarBundle (.mxwait 1)) ∧ Issues (up (withG failed (sr 1 1))) 2 0 (scalarBundle (.cpwait 1 7)) ∧
      (groupOf (up demo) 2).super = true) ∧
    Issues demo 2 0 (scalarBundle .mxtake) ∧ Issues demoTok 2 0 (scalarBundle .mxtake) ∧
    Issues (withT demo fun t => { t with token := some 3 }) 2 0 (scalarBundle .mxtake) := by
  refine ⟨⟨0, 0, by decide⟩, ?_⟩
  and_intros <;> decide +kernel

/-- The team in a domain of two groups, the other of which has not synchronised. -/
def inDomain : State := withT { demo with groups := [(2, demoGroup), (3, demoGroup)] } fun t => { t with dom := [5, 6, 7] }

theorem witness_DomainSynchronisation :
    let alone := withT demo fun t => { t with dom := [5, 6, 7] }
    Issues alone 2 0 (scalarBundle (.dsync 2)) ∧ Issues alone 2 0 (scalarBundle (.dsync 4)) ∧ Issues inDomain 2 0 (scalarBundle (.dsync 2)) ∧
    domainReady (withG alone fun g => { g with dsyncs := [(6, 1)] }) 2 3 1 = true ∧
    domainReady (withG inDomain fun g => { g with dsyncs := [(6, 1)] }) 2 3 1 = false := by
  and_intros <;> decide +kernel

/-! ## Triggers -/

/-- A latch filled in all lanes. -/
def latched (xs : List (FUnit × LatchName × Word)) (s : State) : State :=
  withG s fun g => { g with image := { g.image with
    latches := xs.foldl (fun t x => tset t (latchKey x.1 x.2.1) { val := laneFill fun _ => x.2.2, full := 0xFFFFFFFF }) g.image.latches } }

/-- A uniform latch filled. -/
def uniLatched (xs : List (FUnit × LatchName × DWord)) (s : State) : State :=
  withG s fun g => { g with image := { g.image with
    uniform := xs.foldl (fun t x => tset t (uniformKey x.1 0 x.2.1) { val := x.2.2, full := true }) g.image.uniform } }

/-- A lone trigger issues and none of its operands is poisoned. -/
abbrev Goes (s : State) (t : Trigger) (g : Guard) (src : Src) : Prop :=
  Issues s 2 0 (triggerBundle t g src) ∧ Clean s 2 0 (triggerBundle t g src)

/-- Every latch of the units that compute, with values. -/
def computing : State := latched [(.ia1, .a, 7), (.ia1, .b, 9), (.lg, .a, 7), (.lg, .b, 5), (.fm0, .a, 0x3F800000), (.fm0, .b, 0x40000000),
  (.sf, .a, 0x3F800000), (.xl, .a, 3)] demo

theorem witness_IntegerLanes : Goes computing (.ia true .mad) noGuard (.imm 3) := by decide +kernel

theorem witness_LogicLanes : Goes computing (.lg .sel) noGuard .lane ∧ Goes computing (.lg .fclt) noGuard (.v 1) := by decide +kernel

theorem witness_FloatLanes : Goes computing (.fm false (.fma .rd)) noGuard (.v 2) ∧ Goes computing (.sf .div) noGuard (.v 2) := by decide +kernel

theorem witness_FloatSpecialCases : fNaN (fp 0x7F800001) = true ∧ fSNaN (fp 0x7F800001) = true ∧ fp 0x7F800000 = .inf false ∧
    fp 0xFF800000 = .inf true ∧ fp 0x80000000 = .fin true 0 (-149) ∧ fNaN (fp 0) = false ∧ fp 0x3FC00000 = .fin false 0xC00000 (-23) := by
  decide +kernel

/-- Two, minus two, zero, 2^8 and a half as numbers. -/
theorem isFin_examples : IsFin (fp 0x40000000) false 2 ∧ IsFin (fp 0xC0000000) true (-2) ∧ IsFin (fp 0x80000000) true 0 ∧
    IsFin (fp 0x43800000) false 256 ∧ IsFin (fp 0x3F000000) false (1 / 2) := by
  refine ⟨⟨0x800000, -22, by decide +kernel, ?_⟩, ⟨0x800000, -22, by decide +kernel, ?_⟩, ⟨0, -149, by decide +kernel, ?_⟩,
    ⟨0x800000, -15, by decide +kernel, ?_⟩, ⟨0x800000, -24, by decide +kernel, ?_⟩⟩ <;> norm_num [finVal]

theorem witness_FloatSpecialCases_numbers : fp 0x7F800000 = .inf false ∧ IsFin (fp 0x40000000) false 2 ∧ (2 : ℝ) ≠ 0 ∧
    IsFin (fp 0xC0000000) true (-2) ∧ IsFin (fp 0x80000000) true 0 := by
  exact ⟨by decide +kernel, isFin_examples.1, by norm_num, isFin_examples.2.1, isFin_examples.2.2.1⟩

theorem witness_RoundingKeepsRepresentable_numbers : IsFin (fp 0x40000000) false 2 ∧ (0 : ℝ) < 2 ∧ IsFin (fp 0x40000000) false ((2 : ℝ) ^ (1 : Int)) ∧
    IsFin (fp 0x40000000) false (((2 : Int) : ℝ)) ∧ IsFin (fp 0x43800000) false 256 ∧ (256 : ℝ) ≤ |256| ∧
    IsFin (fp 0x3F000000) false (((1 : Int) : ℝ) / 2) ∧ (1 : Int) ≠ 0 ∧ fRead fp16 0x7C00 = .inf false ∧ fNaN (fRead bf16 0x7F81) = true ∧
    0x80 / 2 ^ (8 * 0) % 2 ^ 8 = 2 ^ 7 ∧ 0x40 / 2 ^ (8 * 0) % 2 ^ 8 ≠ 2 ^ 7 := by
  refine ⟨isFin_examples.1, by norm_num, ?_, ?_, isFin_examples.2.2.2.1, by norm_num, ?_, by decide, by decide +kernel, by decide +kernel, by decide,
    by decide⟩
  · simpa using isFin_examples.1
  · exact_mod_cast isFin_examples.1
  · simpa using isFin_examples.2.2.2.2

theorem witness_RoundingKeepsRepresentable : bf16 ∈ [fp32, fp16, bf16] ∧ 0xBFC0 < 2 * fmtSign bf16 ∧
    fRead bf16 0xBFC0 = .fin true 0xC0 (-7) ∧ 0x7BFF < 2 * fmtSign fp16 ∧ fRead fp16 0x7BFF = .fin false 0x7FF 5 := by decide +kernel

theorem witness_CrossLanes : Goes computing (.xl .shfl) noGuard .lane ∧ Goes computing (.xl .fred) noGuard .lane ∧
    (31 < 32 ∧ (0xF0000001 : Mask).getLsbD 31 = true ∧ (∀ j, 28 < j → j < 28 → (0xF0000001 : Mask).getLsbD j = false)) ∧
    ((0x00FF0000 : Mask).getLsbD 16 = true ∧ ∀ j, (0x00FF0000 : Mask).getLsbD j = true → j / 16 = 16 / 16) := by
  refine ⟨by decide +kernel, by decide +kernel, ⟨by decide, by decide, fun j h h' => by omega⟩, by decide, fun j h => ?_⟩
  have hj : j < 32 := by
    by_contra hn
    rw [BitVec.getLsbD_of_ge _ _ (by omega)] at h
    exact absurd h (by decide)
  have all : ∀ j, j < 32 → (0x00FF0000 : Mask).getLsbD j = true → j / 16 = 16 / 16 := by decide
  exact all j hj h

theorem witness_SeamSends : let x := latched [(.sm, .b, 0x10), (.sm, .c, 5)] demo
    (Goes x (.sm .send) noGuard .lane ∧ contributing x 2 0 (triggerBundle (.sm .send) noGuard .lane) noGuard ≠ 0) ∧
    (Goes x (.sm .sendb) noGuard .lane ∧ Goes x (.sm .sendr) noGuard .lane) ∧
    (Goes demo (.sm .send) never .lane ∧ contributing demo 2 0 (triggerBundle (.sm .send) never .lane) never = 0) ∧
    (let y := withG x fun g => { g with dead := 32, splits := [(0, { pc := 0, mask := 0xFFFFFFDF })] }
     Goes y (.sm .sendb) noGuard .lane ∧ (seen y 2 (triggerBundle (.sm .sendb) noGuard .lane)).dead.getLsbD 5 = true) := by
  and_intros <;> decide +kernel

/-- Offsets, data and references for the memory units: the scratchpad. -/
def accessing (ref : Word) : State := latched [(.ld, .a, 64), (.ld, .w, ref), (.st, .a, 128), (.st, .b, 7), (.st, .c, 8), (.st, .w, ref)] (mapped demo)

theorem witness_LaneLoads : Goes (accessing 8) (.ld .lw) noGuard (.imm 4) ∧
    contributing (accessing 8) 2 0 (triggerBundle (.ld .lw) noGuard (.imm 4)) noGuard ≠ 0 ∧
    Goes (accessing 8) (.ld .ldo) noGuard (.imm 1) ∧ Goes demo (.ld .lw) never (.imm 4) ∧
    contributing demo 2 0 (triggerBundle (.ld .lw) never (.imm 4)) never = 0 := by
  and_intros <;> decide +kernel

theorem witness_LaneLoads_paths : Goes (accessing 0) (.ld .lb) noGuard (.imm 5) ∧ refOf (accessing 0) 2 (triggerBundle (.ld .lb) noGuard (.imm 5)) .ld 0 = 0 ∧
    (let e : Elem := { lane := 0, space := .dev, addr := 8, va := 8, size := 4 }
     let x : Elem := { lane := 1, space := .spad, addr := 8, va := 8, size := 4 }
     elemsMeet demo 0 0 e x = false ∧
      elemsMeet (withC demo fun c => { c with pmap := [(0, { va := 0, asid := 0, func := 0 })], lines := [(0, { frame := demoFrame, exclusive := false, dirty := false })] })
        0 0 e x = true) := by
  and_intros <;> decide +kernel

theorem witness_LaneStores : Goes (accessing 8) (.st .sw) noGuard (.imm 4) ∧
    contributing (accessing 8) 2 0 (triggerBundle (.st .sw) noGuard (.imm 4)) noGuard ≠ 0 ∧ Goes (accessing 8) (.st .acas) noGuard (.imm 0) ∧
    Goes demo (.st .sw) never (.imm 4) ∧ contributing demo 2 0 (triggerBundle (.st .sw) never (.imm 4)) never = 0 := by
  and_intros <;> decide +kernel

/-- The scratchpad with a record of one dimension of four T32 elements at byte 64 and a list of one address at 192. -/
def recorded : State := withC (accessing 8) fun c => { c with
  sp := memWrite (memWrite (memWrite c.sp 64 (leBytes 8 (2 ^ 52 + 2 ^ 53))) 72 (leBytes 8 64)) 192 (leBytes 8 1 ++ leBytes 8 0x200) }

theorem witness_RecordTriggers : Goes (latched [(.ld, .b, 0)] recorded) (.ld .tld) noGuard (.imm 0) ∧
    contributing (latched [(.ld, .b, 0)] recorded) 2 0 (triggerBundle (.ld .tld) noGuard (.imm 0)) noGuard ≠ 0 ∧
    Goes (latched [(.st, .a, 64)] recorded) (.st .tst) noGuard (.imm 0) ∧ Goes recorded (.st .mcst) noGuard (.imm 192) ∧
    contributing recorded 2 0 (triggerBundle (.st .mcst) noGuard (.imm 192)) noGuard ≠ 0 ∧ NoPolder recorded ∧
    Goes demo (.ld .tld) never (.imm 0) ∧ Goes demo (.st .tst) never (.imm 0) ∧ Goes demo (.st .mcst) never (.imm 0) := by
  and_intros <;> decide +kernel

theorem witness_BlocksAndPrefetches : let x := latched [(.ld, .a, 128), (.ld, .w, 0)] (mapped demo)
    (Goes x (.ld .lblk) noGuard (.imm 0x103) ∧ contributing x 2 0 (triggerBundle (.ld .lblk) noGuard (.imm 0x103)) noGuard ≠ 0 ∧
      tget (teamOf x 1).blocks 1 = none) ∧
    Goes (withT x fun t => { t with blocks := [(1, { lines := [0], filled := [], gid := 2, half := 0, op := 0, complete := false })] }) (.ld .lblk)
      noGuard (.imm 0x103) ∧
    Goes demo (.ld .lblk) never (.imm 0x103) ∧ Goes demo (.ld .pf) never (.imm 0) ∧ Goes (accessing 8) (.ld .pf) noGuard (.imm 0) ∧
    Goes x (.ld .pf) noGuard (.imm 0) ∧ refOf x 2 (triggerBundle (.ld .pf) noGuard (.imm 0)) .ld 0 ≠ 8 := by
  and_intros <;> decide +kernel

theorem witness_TileCommands : let x := uniLatched [(.mx, .a, 0)] demoTok
    Goes x (.mx .tzero) noGuard (.s 0) ∧ (teamOf x 1).lnSt ≠ 1 ∧
    let y := withT x fun t => { t with kd := { t.kd with recOk := true }, lnBase := 0x1000, lnSize := 64, lnSt := 1 }
    Goes y (.mx .tzero) noGuard (.s 0) ∧ (teamOf y 1).lnSt = 1 ∧ (teamOf y 1).lnHead = 0 ∧
    let z := withT y fun t => { t with lnHead := 1, lnFresh := false }
    Goes z (.mx .tzero) noGuard (.s 0) ∧ (teamOf z 1).lnHead ≠ 0 ∧ (teamOf z 1).lnFresh = false := by
  and_intros <;> decide +kernel

theorem witness_StreamAdvanceAndFence :
    let x (v : DWord) := withG (withT demoTok fun t => { t with streams := [(0, { qw0 := 4 * 2 ^ 20, tail := 1 })] }) (sr 1 v)
    Goes (x 0x10100) (.mx .qadv) noGuard (.s 1) ∧ Goes (x 0x00300) (.mx .qadv) noGuard (.s 1) ∧
    Goes demoTok (.mx .mxfence) noGuard (.imm 1) := by
  and_intros <;> decide +kernel

theorem witness_TransferCommands : let x := uniLatched [(.cp, .a, 64), (.cp, .b, 128), (.cp, .c, 0)] (withG demo (sr 1 0x103))
    Goes x (.cp .copy1) noGuard (.s 1) ∧ Goes (uniLatched [(.cp, .a, 256), (.cp, .b, 3)] x) (.cp .ovl) noGuard (.imm 3) := by
  and_intros <;> decide +kernel

/-! ## Bundles, encodings and steps -/

/-- v5 to v6 in the lanes of mask 1, the lane number to latch a of ia0, and lane bit 0 to mask 2. -/
def someMoves : Bundle :=
  { la := 0, y := false, scalar := none, slots :=
      [.move { g := { mask := 1, inv := false }, dst := .v 6, src := .v 5 }, .move { g := noGuard, dst := .latch .ia0 .a false, src := .lane },
       .move { g := noGuard, dst := .mask 2, src := .lane }, .empty, .empty, .empty] }

theorem witness_EveryFormIsABundle : toBundle .exit = some (scalarBundle .exit) := rfl

theorem witness_BundleMoves : someMoves.scalar = none ∧ (∀ p ∈ bundleMoves someMoves, ∀ t, p.2.dst ≠ .trig t) ∧
    Issues (halfMasked demo) 2 0 someMoves ∧ Clean (halfMasked demo) 2 0 someMoves := by
  refine ⟨rfl, ?_, by decide +kernel, by decide +kernel⟩
  intro p hp t
  simp only [show bundleMoves someMoves = [(0, { g := { mask := 1, inv := false }, dst := .v 6, src := .v 5 }),
    (1, { g := noGuard, dst := .latch .ia0 .a false, src := .lane }), (2, { g := noGuard, dst := .mask 2, src := .lane })] from rfl] at hp
  fin_cases hp <;> simp

/-- A move of v5 to v6. -/
def oneMove : Bundle :=
  { la := 0, y := false, scalar := none, slots := [.move { g := noGuard, dst := .v 6, src := .v 5 }, .empty, .empty, .empty, .empty, .empty] }

/-- The group with v5 poisoned in lane 3. -/
def poisoned : State := withG demo fun g => { g with vPoison := [(5, 8)] }

theorem witness_PoisonedMoves : oneMove.scalar = none ∧ (∀ p ∈ bundleMoves oneMove, ∃ i, p.2.dst = .v i) ∧ Issues poisoned 2 0 oneMove ∧
    (∀ l, l < 32 → (8 : Mask).getLsbD l = (bundleMoves oneMove).any fun p =>
      ((guardLanes (seen poisoned 2 oneMove) 0 p.2.g).getLsbD l &&
        (srcPoison (seen poisoned 2 oneMove) (halfOf (seen poisoned 2 oneMove) 0) p.2.src).getLsbD l) ||
      (guardPoison (seen poisoned 2 oneMove) 0 p.2.g).getLsbD l) ∧
    (seen poisoned 2 oneMove).super = false ∧ (seen poisoned 2 oneMove).place ≠ .ended ∧ (seen poisoned 2 oneMove).wait = none ∧
    restartable (teamOf poisoned (teamId poisoned 2)) = false ∧
    ~~~((seen poisoned 2 oneMove).dead ||| (seen poisoned 2 oneMove).exited) &&& ~~~(8 : Mask) ≠ 0 ∧
    ∀ (l : Nat) (m m' : Mask), 32 ≤ l → m.getLsbD l = m'.getLsbD l := by
  refine ⟨rfl, ?_, ?_⟩
  · intro p hp
    simp only [show bundleMoves oneMove = [(0, { g := noGuard, dst := .v 6, src := .v 5 })] from rfl, List.mem_singleton] at hp
    exact ⟨6, by rw [hp]⟩
  · refine ⟨by decide +kernel, by decide +kernel, by decide +kernel, by decide +kernel, by decide +kernel, by decide +kernel, by decide +kernel, ?_⟩
    exact fun l m m' h => by rw [BitVec.getLsbD_of_ge _ _ h, BitVec.getLsbD_of_ge _ _ h]

/-- A bundle that adds s3 and s4. -/
def addBundle : Bundle := scalarBundle (.alu .add 5 3 4 0)

/-- The group with an uncorrectable error in s3. -/
def poisonedScalar : State := withG demo fun g => { g with sPoison := [3], dead := 0, exited := 0 }

theorem witness_PoisonedMoves_scalar : Passes poisonedScalar 2 0 addBundle ∧ bundleMoves addBundle = [] ∧
    (∃ i ∈ scalarSources (.alu .add 5 3 4 0), 64 * half poisonedScalar 2 0 + i ∈ (seen poisonedScalar 2 addBundle).sPoison) ∧
    (let s := withG poisonedScalar fun g => { g with lw := true, splits := [(0, { pc := 0, mask := 0x0000FFFF }), (2, { pc := 0, mask := 0xFFFF0000 })] }
     let killed : Mask := 0x0000FFFF
     Passes s 2 0 addBundle ∧ ~~~((seen s 2 addBundle).dead ||| (seen s 2 addBundle).exited) &&& ~~~killed ≠ 0 ∧
      ∀ l, l < 32 → killed.getLsbD l = (decide (l < 32) && !(seen s 2 addBundle).dead.getLsbD l && !(seen s 2 addBundle).exited.getLsbD l &&
        (!(seen s 2 addBundle).lw || decide (l / 16 = half s 2 0)))) ∧
    (scalarMasks (.bd false 1 2 3) ≠ [] ∧ let s := withG demo fun g => { g with mPoison := [(1, 4)] }
     Passes s 2 0 (scalarBundle (.bd false 1 2 3)) ∧ ∃ i ∈ scalarMasks (.bd false 1 2 3), activeMask (seen s 2 (scalarBundle (.bd false 1 2 3))) 0 &&&
       tgetD (seen s 2 (scalarBundle (.bd false 1 2 3))).mPoison i 0 ≠ 0) := by
  and_intros <;> decide +kernel

theorem witness_DecodeEncode : WellFormed.wf .exit = true ∧ encode .exit = some (encodeBundle (scalarBundle .exit)) := by decide +kernel

theorem witness_EncodeDecode : decode (BitVec.ofNat 256 (2 ^ 224 * 0x0020C400)) = .ok .eret := by decide +kernel

/-- The machine in which cluster 0 is about to issue an EXIT from instruction memory. -/
def running : State := withC { demo with cur := none } fun c => { c with ovres := 0x81, imem := memWrite c.imem 0 (bytesOfWord (encodeBundle (scalarBundle .exit))) }

theorem witness_StepRunsDecoded : running.agenda = [] ∧ running.focus = 0 ∧ frozenCore { running with agenda := [] } (coreOfCluster 0) = false ∧
    let v := clusterBoundary { running with agenda := [] } 0
    let rs := readyContexts v 0
    let u := choosePair v 0 2 rs
    (rs.find? fun e => decide ((clusterOf v 0).pairWith = some e.1)) = none ∧ primaryOf (clusterOf v 0) rs = some 2 ∧
    present (groupOf u 2) = some 0 ∧ (coreOf u (groupCore u 2)).ovres.getLsbD (pcOf u 2 0 / 65536) = true ∧ (groupOf u 2).super = false ∧
    decode (BitVec.ofNat 256 (((List.range 32).map fun k => (memGet (coreOf u (groupCore u 2)).imem (pcOf u 2 0 + k)).toNat * 2 ^ (8 * k)).sum))
      = .ok .exit := by
  and_intros <;> decide +kernel

/-- The same with a word in slot 0 that has H = 1 on a register destination (R110). -/
def fetchingIllegal : State := withC { demo with cur := none } fun c => { c with ovres := 0x81, imem := memWrite c.imem 0 [1] }

theorem witness_IllegalEncodings_fetched : fetchingIllegal.agenda = [] ∧ fetchingIllegal.focus = 0 ∧
    frozenCore { fetchingIllegal with agenda := [] } (coreOfCluster 0) = false ∧
    let v := clusterBoundary { fetchingIllegal with agenda := [] } 0
    let rs := readyContexts v 0
    let u := choosePair v 0 2 rs
    (rs.find? fun e => decide ((clusterOf v 0).pairWith = some e.1)) = none ∧ primaryOf (clusterOf v 0) rs = some 2 ∧
    present (groupOf u 2) = some 0 ∧ (coreOf u (groupCore u 2)).ovres.getLsbD (pcOf u 2 0 / 65536) = true ∧ (groupOf u 2).super = false ∧
    pcOf u 2 0 / 32 ∉ (coreOf u (groupCore u 2)).imemPoison ∧ decode (fetched u 2 0) = .error 0 := by
  and_intros <;> decide +kernel

theorem witness_PowerAndResetEvents_bringUp : ∃ s : State, s.agenda = .bringUp :: [] ∧ s.bring = .train := ⟨{ demo with agenda := [.bringUp], bring := .train }, rfl, rfl⟩

theorem witness_StepRunsDecoded_event : ∃ s : State, s.agenda = .event (.weirCycle 0) :: [] := ⟨{ demo with agenda := [.event (.weirCycle 0)] }, rfl⟩

theorem witness_MemoryReadsBack : memWf [] = true ∧ memWf (memWrite [] 8 [1, 0, 2]) = true := by decide +kernel

theorem witness_StepsKeepMemories : memoriesWf demo = true ∧ ∃ t, step { demo with agenda := [.issue 5] } = .next t := by
  exact ⟨by decide +kernel, _, rfl⟩

/-! ## Events of the contexts -/

/-- An element of four bytes in the scratchpad. -/
def spadWord : Elem := { lane := 3, space := .spad, addr := 64, va := 64, size := 4, data := 7, cmp := 0 }

/-- The group with one outstanding operation. -/
def pending (k : MemKind) (es : List Elem) : State := withG demo fun g => { g with ops := [{ id := 1, half := 0, kind := k, elems := es }] }

/-- That operation. -/
def pendingOp (k : MemKind) (es : List Elem) : MemOp := { id := 1, half := 0, kind := k, elems := es }

/-- A result of ia0 in flight. -/
def inFlight : Result :=
  { id := 5, unit := .ia0, due := 2, mask := 0xF, hasO := true, hasX := false, o := laneFill fun _ => 9, x := [], flags := [], filled := 0, dead := 0
    poison := 0, residue := true }

/-- A T6 group's three bytes and a scale byte in the scratchpad, as lane 3 of a tensor load names them. -/
def aTElem : TElem :=
  { lane := 3, place := (List.range 3).map fun i => { lane := 3, space := .spad, addr := 64 + i, va := 64 + i, size := 1 }, sub := 1
    scale := [{ lane := 3, space := .spad, addr := 128, va := 128, size := 1 }] }

/-- What lane 3 of a tensor store names in a format: an element of four bytes, a T6 group, or a block of 32 codes with its scale byte. -/
def tstElem (f : Nat) : TElem :=
  let byte (a : Nat) : Elem := { lane := 3, space := .spad, addr := a, va := a, size := 1 }
  let code (i : Nat) : List Elem := if f = 5 then [byte (256 + i)] else (List.range 3).map fun j => byte (256 + 3 * (i / 4) + j)
  if f = 0 then { lane := 3, place := [spadWord] }
  else if f = 4 then { aTElem with scale := [] }
  else { lane := 3, place := code 9, sub := 1, pos := 9, scale := [byte 128], positions := (List.range 32).map code }

/-- Whether the positions of a block that have bytes have as many as a code of width B, all different, shared by the codes of one group alone. -/
def blockApart (B : Nat) (t : TElem) : Bool :=
  (List.range 32).all fun i => let p := placesOf (t.positions.getD i [])
    p.isEmpty || (decide (p.length = if B = 7 then 1 else 3) && decide p.Nodup && (List.range 32).all fun j =>
      let p' := placesOf (t.positions.getD j [])
      p'.isEmpty || if i = j ∨ (B = 5 ∧ i / 4 = j / 4) then decide (p' = p) else p.all fun q => !p'.contains q)

theorem blockApart_holds {B : Nat} {t : TElem} (h : blockApart B t = true) (i j : Nat) (hi : i < 32) (hj : j < 32) :
    let p := placesOf (t.positions.getD i []); let p' := placesOf (t.positions.getD j [])
    p ≠ [] → p.length = (if B = 7 then 1 else 3) ∧ p.Nodup ∧
      (p' ≠ [] → if i = j ∨ (B = 5 ∧ i / 4 = j / 4) then p' = p else ∀ q ∈ p, q ∉ p') := by
  intro p p' hp
  have h1 := List.all_eq_true.mp h i (List.mem_range.mpr hi)
  simp only [List.isEmpty_iff, Bool.or_eq_true, Bool.and_eq_true, decide_eq_true_eq] at h1
  obtain h1 | ⟨⟨h1, h2⟩, h3⟩ := h1
  · exact absurd h1 hp
  · refine ⟨h1, h2, fun hp' => ?_⟩
    have h4 := List.all_eq_true.mp h3 j (List.mem_range.mpr hj)
    simp only [List.isEmpty_iff, Bool.or_eq_true] at h4
    obtain h4 | h4 := h4
    · exact absurd h4 hp'
    · split_ifs at h4 ⊢ with c
      · exact of_decide_eq_true h4
      · intro q hq
        simpa [p'] using List.all_eq_true.mp h4 q hq

theorem witness_ContextDeliveries_tst : GroupsApart [tstElem 4] ∧ BlocksApart 7 [tstElem 5] ∧ BlocksApart 5 [tstElem 6] := by
  refine ⟨by decide +kernel, fun t ht => ?_, fun t ht => ?_⟩ <;> rw [List.mem_singleton.mp ht]
  all_goals
    refine ⟨by decide, by decide, by decide +kernel, by decide +kernel, fun i j hi hj => blockApart_holds (by decide +kernel) i j hi hj, fun x hx => ?_⟩
    rw [List.mem_singleton.mp hx, if_pos (by decide)]

theorem witness_ContextDeliveries :
    (let s := withG demo fun g => { g with image := { g.image with results := [inFlight] } }
     (groupOf s 2).image.results = [] ++ inFlight :: [] ∧ inFlight.id = 5 ∧ fixedLatency inFlight.unit = true ∧ (groupOf s 2).user = none ∧
      frozenCore s 0 = false ∧ s.rasRes < 2 ^ 16 ∧ ((groupOf s 2).image.results.map fun r => (r.unit, r.id)).Nodup ∧
      { inFlight with residue := false }.residue = false) ∧
    (Performs (pending (.load .lw) [spadWord]) 2 1 (pendingOp (.load .lw) [spadWord]) ∧ NoPolder (pending (.load .lw) [spadWord])) ∧
    (let u : Image := { results := [inFlight] }
     let s := withG demo fun g => { g with user := some u }
     (groupOf s 2).user = some u ∧ u.results = [] ++ inFlight :: [] ∧ (groupOf s 2).image.results = []) ∧
    ((groupOf demo 2).place = .resident 0 0 ∧ (clusterOf demo 0).errors < 3) ∧
    (∀ f ∈ [0, 4, 6], let t := aTElem
      let s := withG demo fun g => { g with ops := [{ pendingOp (.tensorLoad f 7) [] with tensor := [t, { lane := 5 }] }] }
      Performs s 2 1 { pendingOp (.tensorLoad f 7) [] with tensor := [t, { lane := 5 }] } ∧ NoPolder s ∧ t.place ≠ []) ∧
    (∀ sp ∈ [[], [2]], let s := withC (withG demo fun g => { g with
        lw := true, splits := [(0, { pc := 0, mask := 0xFFFF }), (2, { pc := 64, mask := 0xFFFF0000 })]
        ops := [{ pendingOp (.scalarLoad 1 5 false) [{ spadWord with lane := 0, size := 8 }] with half := 1 }] }) fun c => { c with spPoison := sp }
      Performs s 2 1 { pendingOp (.scalarLoad 1 5 false) [{ spadWord with lane := 0, size := 8 }] with half := 1 } ∧
        gotPoison s 0 0 { spadWord with lane := 0, size := 8 } = decide (sp = [2]) ∧
        (groupOf s 2).splits = [(0, { pc := 0, mask := 0xFFFF })] ++ (2, { pc := 64, mask := 0xFFFF0000 }) :: [] ∧
        halfOf (groupOf s 2) 2 = 1 ∧ halfOf (groupOf s 2) 0 ≠ 1) ∧
    (let e := { spadWord with lane := 0, size := 16 }
     Performs (pending (.scalarLoad 0 62 true) [e]) 2 1 (pendingOp (.scalarLoad 0 62 true) [e]) ∧
      spacePoison (pending (.scalarLoad 0 62 true) [e]) 0 0 .spad 64 16 = false ∧
      let s := withC (pending (.scalarLoad 0 62 true) [e]) fun c => { c with spPoison := [2] }
      Performs s 2 1 (pendingOp (.scalarLoad 0 62 true) [e]) ∧ spacePoison s 0 0 .spad 64 16 = true) ∧
    (Performs (pending .scalarStore [spadWord]) 2 1 (pendingOp .scalarStore [spadWord]) ∧
      Performs (pending .multicast [spadWord, spadWord]) 2 1 (pendingOp .multicast [spadWord, spadWord]) ∧
      Performs (pending (.store .sdo) []) 2 1 (pendingOp (.store .sdo) [])) ∧
    Performs (pending (.store .acas) [spadWord]) 2 1 (pendingOp (.store .acas) [spadWord]) ∧
    (let es := [spadWord, { spadWord with lane := 4, addr := 68 }]
     ∀ k ∈ [StOp.afadd, .rfadd], Performs (pending (.store k) es) 2 1 (pendingOp (.store k) es) ∧ (∀ e ∈ es, e.space ≠ .peer ∧ e.size = 4) ∧
      (es.map fun e => e.lane).Nodup) ∧
    (∀ f ∈ [0, 4, 5, 6], let t := tstElem f
      let op : MemOp := { pendingOp (.tensorStore f) [] with tensor := [t, { lane := 5 }] }
      let s := withG demo fun g => { g with ops := [op] }
      Performs s 2 1 op ∧ NoPolder s ∧ (op.tensor.filter fun t => decide (t.place ≠ [])) = [t] ∧
        (∀ e ∈ t.place ++ t.scale ++ t.positions.flatten, e.space ≠ .peer ∧ e.got = none) ∧
        (f ∉ [4, 5, 6] → t.place.length = 1 ∧ t.scale = [] ∧ t.positions = [])) ∧
    (let es := [spadWord, { spadWord with lane := 4, addr := 68 }]
     ∀ k ∈ [MemKind.load .lw, .store .sw], let s := { pending k es with agenda := [.elements 2 1 0 [1]] }
      let e : Elem := { spadWord with lane := 4, addr := 68 }
      (tget s.groups 2).isSome ∧ NoPolder s ∧ ((groupOf s 2).ops.filter fun o => decide (o.id = 1 ∧ o.part = 0)) = [pendingOp k es] ∧
        es[1]? = some e ∧ e.got = none ∧ opReady { s with agenda := [] } 2 { pendingOp k es with elems := [e] } = true ∧
        elemOpen { s with agenda := [] } 0 0 e = true ∧ Sys2Proof.Machine.stAtomic .sw = false ∧
        ∀ x ∈ [spadWord], elemsMeet { s with agenda := [] } 0 0 x e = false) ∧
    Performs (pending .prefetch []) 2 1 (pendingOp .prefetch []) ∧ findOp demo 2 1 = none ∧
    (let e := { spadWord with space := .peer, addr := 2 ^ 44 * 0xF }
     let s := { pending (.store .sw) [e] with ports := [(0, { up := true })], funcs := [(0, { pwin := [(0, BitVec.ofNat 64 (2 ^ 63 + 2 ^ 39 + 2 ^ 27 + 1))] })] }
     Performs s 2 1 (pendingOp (.store .sw) [e]) ∧ windowPorts s 0 e.addr ≠ [] ∧ s.peerRefuses.contains (peerTarget s 0 e.addr).1 = false) := by
  and_intros <;> decide +kernel

/-- The group with a send to its own slot e2. -/
def seamed (full : Mask) : State := withG demo fun g => { g with
  seam := [{ gix := 0, slot := 2, lanes := 0xFF, val := laneFill fun _ => 1 }], e := [(2, { full := full })] }

theorem witness_ContextDeliveries_seam : Resident (seamed 0) 2 ∧ frozenCore (seamed 0) 0 = false ∧ groupAt (seamed 0) (teamOf (seamed 0) 1) 0 = some 2 ∧
    (0xFF : Mask) &&& liveMask (groupOf (seamed 0) 2) &&& 0 = 0 ∧ (0xFF : Mask) &&& liveMask (groupOf (seamed 1) 2) &&& 1 ≠ 0 ∧
    let s := setGroup (withT (withG demo fun g => { g with seam := [{ gix := 1, slot := 2, lanes := 1, val := [] }] }) fun t =>
      { t with groups := [2, 3] }) 3 { demoGroup with gix := 1, place := .ended }
    Resident s 2 ∧ groupAt s (teamOf s 1) 1 = some 3 ∧ (groupOf s 3).place = .ended := by
  refine ⟨⟨0, 0, by decide⟩, by decide +kernel, by decide +kernel, by decide +kernel, by decide +kernel, ⟨0, 0, by decide +kernel⟩,
    by decide +kernel, by decide +kernel⟩

/-- A load-block unit of two lines. -/
def demoBlock (done : Bool) : LoadBlock := { lines := [0, 128], filled := [], gid := 2, half := 0, op := 1, complete := done }

/-- A Polder line. -/
def demoLine (dirty : Bool) (sp : Space) : PolderLine := { frame := { demoFrame with space := sp }, exclusive := true, dirty := dirty }

/-- The group with a store outstanding, number 1, and two fences behind it. -/
def fenced (scope id : Nat) : State := withG demo fun g => { g with
  ops := [{ id := 1, half := 0, kind := .scalarStore, elems := [] }], fences := [{ id := id, scope := scope }, { id := 7, scope := 5 }] }

theorem witness_CacheAndSchedulingEvents :
    (let s := withT demo fun t => { t with blocks := [(15, demoBlock false)] }
     tget (teamOf s 1).blocks 15 = some (demoBlock false) ∧ blockLines s 0 + (demoBlock false).lines.length ≤ 6144) ∧
    tget (teamOf (withT demo fun t => { t with blocks := [(15, demoBlock true)] }) 1).blocks 15 = some (demoBlock true) ∧
    (let c (l : PolderLine) := withC demo fun c => { c with lines := [(7, l)] }
     tget (coreOf (c (demoLine false .dev)) 0).lines 7 = some (demoLine false .dev) ∧
     tget (coreOf (c (demoLine true .dev)) 0).lines 7 = some (demoLine true .dev) ∧
     tget (coreOf (c (demoLine true .host)) 0).lines 7 = some (demoLine true .host) ∧
     tget (coreOf (c (demoLine true .peer)) 0).lines 7 = some (demoLine true .peer) ∧ windowPorts demo 0 demoFrame.pa = []) ∧
    demoFrame.pa % 32 = 0 ∧
    (let s := withG demo fun g => { g with splits := [(0, { pc := 0, mask := 1, held := some 1024 }), (1, { pc := 0, mask := 2, held := some 1023 })] }
     (tget (groupOf s 2).splits 0).map (fun x => x.held) = some (some 1024) ∧ (tget (groupOf s 2).splits 1).map (fun x => x.held) = some (some 1023)) ∧
    (demoGroup.place = .resident 0 0 ∧ (tget demoGroup.splits 0).isSome ∧ eligible demoGroup 0 = true) ∧
    (let s := withG demo fun g => { g with readySince := some 0, yieldUntil := some 64 }
     let at_ (n : Nat) : State := setCluster s 0 { clusterOf s 0 with cycles := n }
     (groupOf s 2).readySince = some 0 ∧ (s.groups.map Prod.fst).Nodup ∧ 0 + 64 ≤ (clusterOf (at_ 64) 0).cycles ∧
      (∀ e ∈ residents (at_ 64) 0, e.1 = 2) ∧ (clusterOf (at_ 63) 0).cycles < 0 + 64 ∧
      let y := setGroup (at_ 64) 3 { demoGroup with place := .resident 0 1, readySince := some 5 }
      ∃ e ∈ residents y 0, e.2.readySince = some 0) ∧
    (groupOf (withG demo fun g => { g with readySince := some 0, yieldUntil := some 64 }) 2).yieldUntil = some 64 ∧
    (let g := groupOf (fenced 0 5) 2
     (∀ f ∈ g.fences, (g.fences.filter fun x => decide (x.id = f.id)) = [f]) ∧ (∀ f ∈ g.fences, f.id ≠ 4) ∧ ∃ o ∈ g.ops, o.id < 5) := by
  and_intros <;> decide +kernel

/-- R131, R246: a fence of group scope does not wait for a store, whose bytes the group's own loads see; one of team scope does. -/
theorem test_fence_scope : (groupOf (fenceEnds (fenced 0 5) 2 5) 2).fences.map (fun f => f.id) = [7] ∧
    (groupOf (fenceEnds (fenced 1 5) 2 5) 2).fences.map (fun f => f.id) = [5, 7] := by decide +kernel

/-- The group in a wait. -/
def inWait (w : Wait) : State := withG demo fun g => { g with wait := some w }

theorem witness_WaitsEnd : Resident (inWait (.waitc 0 5 0)) 2 ∧ (groupOf (inWait (.waitc 0 5 0)) 2).wait = some (.waitc 0 5 0) ∧
    (teamOf (inWait (.mxwait 1)) 1).batchDone < 1 ∧ (0 ≤ (teamOf (inWait (.mxwait 0)) 1).batchDone ∧ ∀ r ∈ (teamOf (inWait (.mxwait 0)) 1).reports, 0 < r.num) ∧
    (let s := withT (inWait (.mxwait 3)) fun t => { t with batchDone := 3, reports := [{ num := 3, code := 0x10, info := 0 }] }
     3 ≤ (teamOf s 1).batchDone ∧ coveredReport (teamOf s 1) 3 = some { num := 3, code := 0x10, info := 0 } ∧ (groupOf s 2).super = false) ∧
    (let c (x : Channel) : Channel := tgetD (teamOf (withT (inWait (.cpwait 7 1)) fun t => { t with channels := [(7, x)] }) 1).channels 7 {}
     ((c {}).done < 1 ∧ (c {}).fail = none) ∧ 1 ≤ (c { done := 1 }).done ∧ (c { done := 1, fail := some (1, 6) }).fail = some (1, 6)) ∧
    ((teamOf (inWait (.mxtake 0)) 1).token = none ∧ 2 ∈ (teamOf (inWait (.mxtake 0)) 1).groups ∧
      ∀ k ∈ (teamOf (inWait (.mxtake 0)) 1).groups, (groupOf (inWait (.mxtake 0)) k).team = teamId (inWait (.mxtake 0)) 2 ∧ k = 2) ∧
    ((groupOf (inWait (.barw 0 31 0 0)) 2).wait = some (.barw 0 31 0 0) ∧ 2 ∈ (teamOf (inWait (.barw 0 31 0 0)) 1).groups) ∧
    ((groupOf (inWait (.dsync 3 0)) 2).wait = some (.dsync 3 0) ∧ (tget (inWait (.dsync 3 0)).groups 2).isSome ∧
      ((inWait (.dsync 3 0)).groups.map Prod.fst).Nodup) ∧
    ((groupOf (inWait (.regclaim 64 0)) 2).place = .resident 0 0 ∧ (∀ e ∈ (inWait (.regclaim 64 0)).groups, e.1 = 2)) ∧
    (let e : Elem := { lane := 0, space := .dev, addr := 0, va := 0, size := 64 }
     ∀ sp ∈ [Space.dev, .peer], let x := { e with space := sp }
      (groupOf (inWait (.spawnRead 1 0 0 false 3 x)) 2).wait = some (.spawnRead 1 0 0 false 3 x) ∧
        readReady (inWait (.spawnRead 1 0 0 false 3 x)) 2 3 x = decide (sp = .dev)) ∧
    (let up (s : State) : State := withG s fun g => { g with super := true, user := some {} }
     let s := up (withT (inWait (.mxwait 3)) fun t => { t with batchDone := 3, reports := [{ num := 3, code := 0x10, info := 0 }] })
     (groupOf s 2).place = .resident 0 0 ∧ coveredReport (teamOf s 1) 3 = some { num := 3, code := 0x10, info := 0 } ∧ (groupOf s 2).super = true) ∧
    (∀ sp ∈ [Space.dev, .peer], let s := withT (held sp) fun t => t
      lateOpen s 0 (lateWrites (teamOf s 1)) = decide (sp = .dev) ∧ NoPolder s ∧ (teamOf s 1).engine = []) ∧
    (256 ≤ (hwQueue (fullQueue (inWait (.spawnRoom 1 0 0 false []))) 0 0).length ∧ (hwQueue (inWait (.spawnRoom 1 0 0 true [])) 0 0).length < 256 ∧
      (eventCodes (2 ^ 51)).1 = 1) ∧
    (groupOf (inWait (.spawnEvent 1 0 9)) 2).wait = some (.spawnEvent 1 0 9) ∧
    ((∀ o ∈ (groupOf (inWait (.pflush 0 16384)) 2).ops, ∀ e ∈ opElems o, e.space ≠ .spad) ∧
      let s := withG (pending .scalarStore [spadWord]) fun g => { g with wait := some (.pflush 0 16384) }
      (∃ o ∈ (groupOf s 2).ops, ∃ e ∈ opElems o, e.space = .spad) ∧
      let s (x : List BankLock) := withC (inWait (.pflush 0 16384)) fun c => { c with lines := [(2, demoLine true .dev)], locks := x }
      dirtyLines (coreOf (s []) 0) 0 16384 = [2] ∧ rangeLocked (coreOf (s []) 0) none 256 128 = false ∧
        (tget (coreOf (s []) 0).lines 2).map (lineGoes (s [])) = some true ∧
        rangeLocked (coreOf (s [{ owner := 8, banks := [16] }]) 0) none 256 128 = true) ∧
    (streamBusy (teamOf (inWait (.streamWrite 0x5F 0)) 1) 15 = false ∧ qw1Bad (streamOf demoTeam 15) 0 = false ∧ qw1Bad (streamOf demoTeam 15) (2 ^ 32) = true ∧
      streamBusy { demoTeam with engine := [demoItem] } 0 = true) ∧
    ((teamOf (inWait (.liningWrite 0x20 0)) 1).engine = [] ∧ liningStateBad demoTeam 0x20 0 = false ∧
      liningStateBad { demoTeam with lnSt := 1, lnHead := 1 } 0x21 0 = true ∧ (teamOf (withT demo fun t => { t with engine := [demoItem] }) 1).engine ≠ []) := by
  refine ⟨⟨0, 0, by decide⟩, ?_⟩
  and_intros <;> decide +kernel

/-- A page like `mapped`'s whose bytes nothing may write. -/
def readOnly (s : State) : State :=
  withC s fun c => { c with tlb := [{ asid := 0, func := 0, page := 0, size := 2 ^ 21, frame := { demoFrame with w := false } }] }

/-- A page like `mapped`'s that lies on a peer module, whose window's one port is up or down. -/
def peerPage (s : State) (up : Bool) : State :=
  let s := withC s fun c =>
    { c with tlb := [{ asid := 0, func := 0, page := 0, size := 2 ^ 21, frame := { demoFrame with space := .peer, pa := 0xF00000000000 } }] }
  setFunc { s with modid := 1, ports := [(0, { up := up })] } 0
    { funcOf s 0 with pwin := [(0, BitVec.ofNat 64 (2 ^ 63 + 2 ^ 39 + 2 ^ 27 + 1))] }

/-- Function 0's address space 0 with an empty top table: every page of it is missing. -/
def paged (s : State) : State :=
  setFunc { s with mem := memWrite s.mem 0x100000 (leBytes 8 (1 + 0x20 * 2 ^ 16)) } 0 { funcOf s 0 with rootAddr := 0x100000 }

/-- An item of the engine. -/
def anItem (op : EngineOp) (b : Bool) : EngineItem := { id := 20, op := op, gid := 2, started := b }

/-- The team's engine holds one item. -/
def engaging (i : EngineItem) : State := withT demo fun t => { t with engine := [i] }

/-- The team's engine holds an item of some operation. -/
def engaged (op : EngineOp) (b : Bool) : State := engaging (anItem op b)

/-- The conditions of `may` for a command of one team, as its parts. -/
def mayTile (s : State) (i : EngineItem) (op : MxOp) (lo hi : DWord) : Bool :=
  let t := teamOf s 1
  !i.started && i.waits.isEmpty && ((popStreams op lo hi).all fun q => decide (1 ≤ occupancy (streamOf t q.1))) &&
    (match pushStream op lo with
      | none => true
      | some q => decide (occupancy (streamOf t q) < qCap (streamOf t q).qw0)) &&
    decide (∀ o ∈ (groupOf s 2).ops, o.id < i.opId → o.acquire = false ∧ ∀ e ∈ opElems o, e.space ≠ .spad) &&
    decide (∀ f ∈ (groupOf s 2).fences, i.opId ≤ f.id) &&
    decide (∀ q ∈ t.qadvOps, ∀ o ∈ (groupOf s q.1).ops, o.id < q.2 → o.acquire = false ∧ ∀ e ∈ opElems o, e.space ≠ .spad) &&
    !banksHeld (coreOf s 0) i.id (tileSources t op lo hi ++ tileTarget t op lo)

/-- The first word of a stream of tiles: rows, columns, format and scale stride (R262). -/
def tileWord (rows cols fmt sstr : Nat) : DWord := BitVec.ofNat 64 ((rows - 1) * 2 ^ 28 + (cols - 1) * 2 ^ 35 + fmt * 2 ^ 42 + sstr * 2 ^ 48)

/-- A team whose gradients of accumulators 0, 1 and 2 are 2, 3 and 4, of streams 0 and 1 are 1 and 2, and of a bias is 5. -/
def gradTeam : Team :=
  { demoTeam with gmap := [(0, 0x848382), (4, 0x8281), (6, 0x85)], streams := [(1, { qw0 := tileWord 2 4 1 0 }), (2, { qw0 := tileWord 2 4 0 0 })] }

theorem witness_EngineEvents_values :
    (∀ x ∈ [(2, 0, 0), (4, 4, 0), (32, 5, 1), (64, 6, 2)], let w := tileWord 2 x.1 x.2.1 x.2.2
      Writable w ∧ tRows w = 2 ∧ tCols w = x.1 ∧ tFmt w = x.2.1 ∧ tSstr w = x.2.2) ∧
    ({ owner := some 1 : ActTable }).owner = some 1 ∧ hTBL (2 ^ 59) = true ∧ hTBL 0 = false ∧ fNaN (fp 0x7FC00000) = true ∧
    fp 0xFF800000 = .inf true ∧ pNaN (.nan false) = true ∧ (cCLR (2 ^ 41) = true ∧ cSB (2 ^ 46) = true ∧ cSB 0 = false) ∧
    (gradAcc gradTeam 0 = some 2 ∧ gradAcc gradTeam 1 = some 3 ∧ gradAcc gradTeam 2 = some 4 ∧ gradBias gradTeam = some 5 ∧
      gradStream gradTeam 0 = some 1 ∧ gradStream gradTeam 1 = some 2 ∧ gradBias demoTeam = none) ∧
    (let d := 2 ^ 52 + 2 ^ 28 + 3 * 2 ^ 35
     (descGeo d).rows = 2 ∧ (descGeo d).cols = 4 ∧ (descGeo d).fmt = 1 ∧
      Writable (streamOf gradTeam 1).qw0 ∧ tRows (streamOf gradTeam 1).qw0 = 2 ∧ tCols (streamOf gradTeam 1).qw0 = 4) ∧
    (hBE (2 ^ 48) = true ∧ hAE (2 ^ 49) = true ∧ hQE (2 ^ 50) = true ∧ cQO 0 = 0 ∧ cTA (2 ^ 42) = true) := by
  and_intros <;> decide +kernel

/-- A Lining entry's place: header unit 0, two units. -/
def demoLog : LogEntry := { off := 0, size := 2, prev := 0, first := true, seq := 0, acyc := 0, mcyc := 0 }

theorem witness_EngineEvents_start :
    frozenCore (withC demo fun c => { c with weir := { c.weir with frozen := true } }) 0 = true ∧ frozenCore demo 0 = false ∧
    cyclesLeft (engaged (.tile .tzero 0 0) false) 0 2 ≠ 0 ∧
    cyclesLeft (withC (engaged (.tile .tzero 0 0) false) fun c =>
      { c with weir := { c.weir with throttled := [2], busy := List.replicate 4 (2, 1) } }) 0 2 = 0 ∧
    (let i := anItem (.tile .tzero 0 0) false
     let s := engaging i
     mayTile s i .tzero 0 0 = true ∧ (tileX s (teamOf s 1) .tzero 0 0 none).denied = none ∧ (tileX s (teamOf s 1) .tzero 0 0 none).missing = [] ∧
      NoPolder s) ∧
    (let i := { anItem (.tile .tzero 0 0) false with log := some demoLog }
     (tileX (paged (engaging i)) (teamOf (engaging i) 1) .tzero 0 0 (some demoLog)).missing ≠ [] ∧
      (tileX (paged (engaging i)) (teamOf (engaging i) 1) .tzero 0 0 (some demoLog)).denied = none ∧ mayTile (paged (engaging i)) i .tzero 0 0 = true ∧
      (tileX (readOnly (engaging i)) (teamOf (readOnly (engaging i)) 1) .tzero 0 0 (some demoLog)).denied = some 0 ∧
      mayTile (readOnly (engaging i)) i .tzero 0 0 = true) ∧
    (let i := anItem (.tile .tout 0 0) false
     mayTile (engaging i) i .tout 0 0 = false) ∧
    (let i := anItem (.tile .tzero 0 0) false
     let s := withG (withT (engaging i) fun t => { t with qadvOps := [(2, 5)] }) fun g => { g with ops := [pendingOp .scalarStore [spadWord]] }
     mayTile s i .tzero 0 0 = false) := by
  and_intros <;> decide +kernel

theorem witness_EngineEvents_held :
    (let i := { anItem (.tile .tzero 0 0) false with log := some demoLog }
     let s := peerPage (engaging i) false
     let x := tileX s (teamOf s 1) .tzero 0 0 (some demoLog)
     mayTile s i .tzero 0 0 = true ∧ x.denied = none ∧ x.missing = [] ∧ piecesOpen s 0 x.pieces = false ∧
      piecesOpen (mapped s) 0 (tileX (mapped s) (teamOf s 1) .tzero 0 0 (some demoLog)).pieces = true) ∧
    (let i := anItem (.tile .tzero 0 0) true
     piecesOpen (engaging i) 0 (tileX (engaging i) (teamOf (engaging i) 1) .tzero 0 0 none).pieces = true) ∧
    cyclesLeft (withC (engaged .reverse true) fun c => { c with weir := { c.weir with throttled := [2], busy := List.replicate 4 (2, 1) } }) 0 2 = 0 ∧
    (let w : LateWrite := { va := 0, space := .peer, addr := 0, bytes := [1], poison := false }
     lateOpen demo 0 [w] = false ∧ lateOpen demo 0 [] = true) ∧
    (let s := peerPage (withC demo fun c => { c with pmap := [(0, { va := 0, asid := 0, func := 0 })] }) false
     let x := spadX s 0 16 16 true
     x.denied = none ∧ x.missing = [] ∧ piecesOpen s 0 x.pieces = false) := by
  and_intros <;> decide +kernel

/-- A started command that writes a tile of 2 x 2 FP32 elements to stream 0, of which the machine is to show some bytes. -/
def showing (ks : List Nat) : State :=
  let s := engaging (anItem (.tile .tout (2 ^ 27 + 2 ^ 34) 0) true)
  { withT s fun t => { t with streams := [(0, { qw0 := tileWord 2 2 0 0 })] } with agenda := [.tileBytes 1 ks] }

theorem witness_EngineEvents_shows :
    let new (ks : List Nat) (i : EngineItem) : List (Nat × Byte) := let bs := (tileRes (viewOf { showing ks with agenda := [] } 1 i) .tout (2 ^ 27 + 2 ^ 34) 0).bytes
      (ks.filterMap fun k => bs[k]?).filter fun b => !i.shown.contains b.1
    let i := anItem (.tile .tout (2 ^ 27 + 2 ^ 34) 0) true
    (teamOf (showing [3]) 1).engine = [i] ∧ (tget (showing [3]).teams 1).isSome ∧ frozenCore (showing [3]) 0 = false ∧ NoPolder (showing [3]) ∧
      itemPoisoned (showing [3]) 1 i (usedTiles .tout (2 ^ 27 + 2 ^ 34) 0) = false ∧
      piecesOpen (showing [3]) 0 (tileX (showing [3]) (teamOf (showing [3]) 1) .tout (2 ^ 27 + 2 ^ 34) 0 none).pieces = true ∧
      (new [3, 0] i).map Prod.fst = [3, 0] ∧ new [99] i = [] ∧ new [3, 0] { i with shown := [3, 0] } = [] := by
  and_intros <;> decide +kernel

theorem witness_EngineEvents_retire :
    (let i := { anItem (.tile .tzero 0 0) true with denied := some 7 }
     (teamOf (engaging i) 1).engine = [i] ∧ i.started = true ∧ i.denied = some 7) ∧
    (let i := anItem (.tile .tzero 0 0) true
     NoPolder (engaging i) ∧ itemPoisoned (engaging i) 1 i (usedTiles .tzero 0 0) = false ∧
      (tileRes (viewOf (engaging i) 1 i) .tzero 0 0).acc.isSome = true) ∧
    (let i := anItem (.tile .tzero 0 0) true
     let s := withC (engaging i) fun c => { c with acc := [(0, { owner := some 1, poison := [5] })] }
     itemPoisoned s 1 i (usedTiles .tzero 0 0) = true) ∧
    (let i := { anItem (.tile .ttrn (32 + 2 ^ 27 + 2 ^ 34) 0) true with log := some demoLog }
     let s := mapped (engaging i)
     NoPolder s ∧ (rangeX s 0 0 0 0 (entryBytes (viewOf s 1 i) .ttrn (32 + 2 ^ 27 + 2 ^ 34) 0 demoLog i.descs).length { rd := false, w := true } false).pieces =
       [{ va := 0, n := 64, frame := demoFrame }]) := by
  and_intros <;> decide +kernel

/-- A REVERSE that runs over a Lining of one entry at its first unit, a TZERO or TTRN of accumulator 0 and 1 of 2 x 2, whose gradients are
2 and 3. -/
def reversing (op : Nat) (i : EngineItem) : State :=
  let s := withT (mapped (engaging i)) fun t => { t with lnHead := 1, lnSize := 64, lnBase := 0, gmap := [(0, 0x8382)] }
  { s with mem := memWrite (memWrite [] 0 (leBytes 8 (op + 2 ^ 8))) 8 (leBytes 8 (32 * (op / 9) + 2 ^ 27 + 2 ^ 34)) }

/-- Its first read finds the header. -/
def headerX (s : State) : RangeX := rangeX s 0 0 0 0 64 { rd := true, w := false } false

theorem witness_EngineEvents_reverse :
    (let i := anItem .reverse false
     (headerX (reversing 3 i)).missing = [] ∧ (headerX (reversing 3 i)).pieces ≠ [] ∧ (teamOf (reversing 3 i) 1).lnHead ≠ 0 ∧
      cyclesLeft (reversing 3 i) 0 2 ≠ 0 ∧ ((lnHeader (reversing 3 i) (teamOf (reversing 3 i) 1) 0).getD 6 0).toNat % 2 ^ 32 = 0 ∧
      (teamOf (engaging i) 1).lnHead = 0) ∧
    (let i := anItem .reverse true
     (let s := reversing 3 i
      (headerX s).denied = none ∧ (headerX s).missing = [] ∧ entryBad (teamOf s 1) (lnHeader s (teamOf s 1) 0) = false ∧
       (entryOf 0 (lnHeader s (teamOf s 1) 0)).isSome ∧
       (∀ e ∈ (entryOf 0 (lnHeader s (teamOf s 1) 0)).toList, (entryX s 1 (rerunOf e (lnHeader s (teamOf s 1) e.prev)) e).denied = none ∧
         (entryX s 1 (rerunOf e (lnHeader s (teamOf s 1) e.prev)) e).missing = [] ∧ entryStreamsReady (teamOf s 1) e = true ∧
         banksHeld (coreOf s 0) i.id (entryReads (teamOf s 1) (rerunOf e (lnHeader s (teamOf s 1) e.prev)) e ++ pushSlots (teamOf s 1) (pushedTo (teamOf s 1) e)) = false)) ∧
     entryBad (teamOf (reversing 200 i) 1) (lnHeader (reversing 200 i) (teamOf (reversing 200 i) 1) 0) = true ∧
     (teamOf (reversing 3 i) 1).suspended = false ∧
     (headerX (withC (reversing 3 i) fun c => { c with tlb := [{ asid := 0, func := 0, page := 0, size := 2 ^ 21, frame := { demoFrame with rd := false, w := false } }] })).denied = some 0) ∧
    (∀ op ∈ [3, 9], let j := { anItem .reverse true with
        entry := true, descs := [BitVec.ofNat 64 (op + 2 ^ 8), BitVec.ofNat 64 (32 * (op / 9) + 2 ^ 27 + 2 ^ 34), 0, 0, 0, 0, 0, 0] ++ List.replicate 8 0 }
     let s := reversing op j
     (entryOf (teamOf s 1).lnCur (j.descs.take 8)).map (fun e => (tileOpNum e.op, e.first, gradAcc (teamOf s 1) (cAcc e.lo))) = some (op, true, some 2) ∧
      NoPolder s ∧ itemPoisoned s 1 j [0, 1] = false ∧ (lnRead s (teamOf s 1) 0 64).2 = false) ∧
    (let j := { anItem .reverse true with walkDone := true, batch := 1 }
     let s := withT (mapped (engaging j)) fun t => { t with lnSize := 64, batches := [{ num := 1, left := 1 }] }
     NoPolder s ∧ lateWrites (teamOf s 1) = [] ∧ (rangeX s 0 0 0 0 16 { rd := false, w := true } false).denied = none ∧
      (rangeX s 0 0 0 0 16 { rd := false, w := true } false).missing = [] ∧
      (rangeX s 0 0 0 0 16 { rd := false, w := true } false).pieces = [{ va := 0, n := 16, frame := demoFrame }] ∧
      ((teamOf s 1).batches.find? fun b => decide (b.num = j.batch)).isSome ∧
      (rangeX (readOnly s) 0 0 0 0 16 { rd := false, w := true } false).denied = some 0) := by
  and_intros <;> decide +kernel

/-- At the end of an entry whose Lining lies on a peer module, with and without a port up. -/
theorem witness_EngineEvents_entry :
    let j := { anItem .reverse true with
        entry := true, descs := [BitVec.ofNat 64 (9 + 2 ^ 8), BitVec.ofNat 64 (32 + 2 ^ 27 + 2 ^ 34), 0, 0, 0, 0, 0, 0] ++ List.replicate 8 0 }
    let x (s : State) : Option RangeX := (entryOf (teamOf s 1).lnCur (j.descs.take 8)).map fun e => entryX s 1 (rerunOf e (j.descs.drop 8)) e
    (x (peerPage (reversing 9 j) false)).map (fun r => piecesOpen (peerPage (reversing 9 j) false) 0 r.pieces) = some false ∧
      (x (reversing 9 j)).map (fun r => piecesOpen (reversing 9 j) 0 r.pieces) = some true := by
  and_intros <;> decide +kernel

/-- A batch with a record at byte 16 of the scratchpad, which a Polder granule holds. -/
def batched (b : Batch) (ms : Table PMapEntry) : State :=
  withC (withT demo fun t => { t with batches := [b] }) fun c => { c with pmap := ms }

theorem witness_EngineEvents_batch :
    let x (s : State) := spadX s 0 16 16 true
    let b : Batch := { num := 1, record := 1 }
    (teamOf (batched b []) 1).batches = [b] ∧ (b.left = 0 ∧ b.waits = [] ∧ b.record ≠ 0) ∧ (x (batched b [])).denied = none ∧
    (x (batched b [])).missing = [] ∧ rangeLocked (coreOf (batched b []) 0) none 16 16 = false ∧ NoPolder (batched b []) ∧
    rangeLocked (coreOf (withC (batched b []) fun c => { c with locks := [{ owner := 8, banks := [1] }] }) 0) none 16 16 = true ∧
    (x (paged (batched b [(0, { va := 0, asid := 0, func := 0 })]))).missing ≠ [] ∧
    (x (paged (batched b [(0, { va := 0, asid := 0, func := 0 })]))).denied = none ∧
    (x (readOnly (batched b [(0, { va := 0, asid := 0, func := 0 })]))).denied = some 0 ∧
    { b with fault := some 7, failed := true }.fault.isSome ∧ { b with left := 1 }.left ≠ 0 ∧ { b with record := 0 }.record = 0 := by
  and_intros <;> decide +kernel

/-! ## Events of engines, tasks and teams -/

/-- A transfer command of the team, next on channel 0. -/
def demoCmd (op : CpOp) (ctl : DWord) (st : CopyState) : CopyCmd :=
  { id := 30, op := op, team := 1, gid := 2, half := 0, opId := 1, channel := 0, num := 1, a := 256, b := 512, time := 0, ctl := ctl, sup := false
    state := st }

/-- The core with that command. -/
def copying (x : CopyCmd) : State := withC (mapped demo) fun c => { c with copies := [x] }

/-- The moves of a command's plan, cut, and the failure after them. -/
def planOf (x : CopyCmd) (s : State) : List CMove × Option (Nat × Nat) :=
  match cmdPlan s x with
  | .moves ms fail => (cutMoves ms, fail)
  | .missing _ => ([], some (0, 0))

/-- A command whose moves are noted and whose targets are locked, in the state with it. -/
def locking (x : CopyCmd) (s0 : State) : State :=
  let s := readOperands s0 x
  let c := coreOf s 0
  setCore s 0 (lockBanks { c with locks := c.locks.filter fun l => decide (l.owner ≠ x.id) } x.id
    (cmdTargets (teamOf s 1) (match cmdPlan s x with
      | .moves ms _ => ms
      | .missing _ => [])))

/-- How a command that goes on from a byte ends early: at a command byte, for a missing page (0), a denied one (1) or its records (2). -/
def faultOf (x : CopyCmd) (s : State) (q : Nat) : Option (Nat × Nat) :=
  (firstFault (planFault (locking x s) x q (planOf x s).1) ((planOf x s).2.map fun f => (f.1, .cause f.2))).map fun e => (e.1, match e.2 with
    | .missing _ => 0
    | .denied => 1
    | .cause _ => 2)

/-- A command that has started, with its moves. -/
def started (x : CopyCmd) : CopyCmd := { x with state := .running, moves := (planOf x (copying x)).1, snap := [[]] }

/-- The moves of commands that copy 32 bytes of virtual space, move a 6-bit code within the scratchpad, and write constants there. -/
def demoMoves : List CMove :=
  [{ pos := 0, src := .glob 256, dstSpad := false, dst := 512, n := 32 }, { pos := 4, src := .spad 0, dstSpad := true, dst := 64, n := 3, code := some (1, 2) },
    { pos := 0, src := .const [1, 2, 3], dstSpad := true, dst := 64, n := 3 }]

theorem witness_TransferEvents_moves :
    ∀ m ∈ demoMoves, let x := demoCmd .copyt 0 .running
      let s := copying x
      NoPolder s ∧ MovePlaces s x m ∧ moveFault s x m = none ∧ 2 < m.pos + m.n ∧ (List.replicate m.n (0 : Byte)).length = m.n := by
  decide +kernel

/-- The bytes of a record read. -/
def recordBytes (r : RecRead) : Option (List Byte) :=
  match r with
  | .ok b => some b
  | .missing _ | .denied => none

/-- A tensor record of one dimension in the scratchpad, or in virtual space: base, format, whether out-of-range elements are permitted, extent,
block scale stride and scale offset (R209). -/
def tensorBytes (base fmt : Nat) (spad permit : Bool) (ext sstr soff : Nat) : List Byte :=
  leBytes 8 (base + spad.toNat * 2 ^ 52 + 2 ^ 53 + fmt * 2 ^ 56 + permit.toNat * 2 ^ 60) ++ leBytes 24 (ext + sstr * 2 ^ 168) ++ leBytes 24 0 ++
    leBytes 8 (5 + soff * 2 ^ 32)

/-- A copyt from one record to another. -/
def shaping (a b : List Byte) : State := { copying { demoCmd .copyt 0 .buffered with a := 1024, b := 1088 } with mem := memWrite (memWrite [] 1024 a) 1088 b }

/-- What its plan is: whether it has moves, and its failure. -/
def shaped (a b : List Byte) : Bool × Option (Nat × Nat) :=
  let p := planOf { demoCmd .copyt 0 .buffered with a := 1024, b := 1088 } (shaping a b)
  (!p.1.isEmpty, p.2)

theorem witness_TransferEvents_plan :
    (∀ op ∈ [CpOp.copy1, .copy2, .fill], (planOf (demoCmd op 0x10100100 .buffered) (copying (demoCmd op 0x10100100 .buffered))).1 ≠ []) ∧
    (let x := demoCmd .mcast 0x100 .buffered
     let t := teamOf (copying x) 1
     let y := { x with b := 2 ^ 22 }
     let s (n : Nat) : State := { copying x with mem := memWrite [] 512 (leBytes 8 n ++ leBytes 8 0x200) }
     readRecord (copying y) t (2 ^ 22) 64 false = .denied ∧ (planOf y (copying y)).2 = some (0, 6) ∧
     (∀ n ∈ [1, 7, 0, 8], recordBytes (readRecord (s n) t 512 64 false) ≠ none) ∧
     (planOf x (s 1)).2 = none ∧ (planOf x (s 0)).2 = some (0, 1) ∧ (planOf x (s 8)).2 = some (0, 1)) ∧
    (let x := { demoCmd .copyt 0 .buffered with a := 2 ^ 22, b := 1088 }
     let y := { demoCmd .copyt 0 .buffered with a := 1024, b := 2 ^ 22 }
     (planOf x (copying x)).2 = some (0, 6) ∧ (planOf y (copying y)).2 = some (0, 6)) ∧
    -- a copy, one that fills, one whose source is out of range, ones of 6-bit codes and of blocks, and scale bytes below address 0
    (let t (base fmt : Nat) (permit : Bool) (ext : Nat) := tensorBytes base fmt true permit ext (if 4 < fmt then 1 else 0) 0
     shaped [] [] = (false, some (0, 1)) ∧ shaped (t 0 0 false 2) (t 64 0 false 2) = (true, none) ∧
     shaped (t 0 0 true 1) (t 64 0 false 2) = (true, none) ∧ shaped (t 0 0 false 1) (t 64 0 false 2) = (true, some (4, 7)) ∧
     shaped (t 0 4 false 5) (t 63 4 false 5) = (true, none) ∧ shaped (t 0 4 true 1) (t 63 4 false 2) = (true, none) ∧
     shaped (t 0 5 false 3) (t 64 5 false 3) = (true, none) ∧ shaped (t 0 5 true 3) (t 64 5 false 33) = (true, none) ∧
     (shaped (t 0 5 false 3) (tensorBytes 64 5 true false 3 1 (2 ^ 24 - 1))).2 = some (0, 6)) := by
  and_intros <;> decide +kernel

theorem witness_TransferEvents_start :
    (let x := demoCmd .coll 0 .buffered
     findCmd (coreOf (copying x) 0) 30 = some x ∧ cmdReady (copying x) x = true ∧ cmdBlocked (copying x) 0 x = false) ∧
    (let x := { demoCmd .ovl 0 .buffered with b := 3 }
     cmdReady (copying x) x = true ∧ cmdBlocked (copying x) 0 x = false) ∧
    (let x := { demoCmd .fill 0x103 .buffered with time := 1 }
     cmdReady (copying x) x = false ∧
     let y := { demoCmd .fill 0x103 .buffered with id := 31, channel := 1 }
     let s := withC (copying y) fun c => { c with copies := [demoCmd .fill 0x103 .buffered, y] }
     cmdReady s y = true ∧ cmdReady s (demoCmd .fill 0x103 .buffered) = true ∧ cmdBefore (demoCmd .fill 0x103 .buffered) y = true) ∧
    (let x := demoCmd .fill 0x110 .buffered
     cmdReady (copying x) x = true ∧ cmdBlocked (copying x) 0 x = false ∧ faultOf x (copying x) 0 = none ∧ (planOf x (copying x)).2 = none ∧
      (planOf x (copying x)).1 ≠ [] ∧ cmdBlocked (withC (copying x) fun c => { c with locks := [{ owner := 8, banks := [32] }] }) 0 x = true) ∧
    (let x := demoCmd .fill 0x100 .buffered
     faultOf x (paged (withC (copying x) fun c => { c with tlb := [] })) 0 = some (0, 0) ∧
      faultOf x (readOnly (copying x)) 0 = some (0, 1)) ∧
    (let x := demoCmd .mcast 0x100 .buffered
     (planOf x (copying x)).2 = some (0, 1) ∧ faultOf x (copying x) 0 = some (0, 2) ∧
     cmdPlan (paged (withC (copying x) fun c => { c with tlb := [] })) x ≠ cmdPlan (copying x) x) ∧
    (let x := demoCmd .mcast 0x100 .buffered
     let s := { copying x with mem := memWrite [] 512 (leBytes 8 1 ++ leBytes 8 0x200) }
     (planOf x s).2 = none ∧ (planOf x s).1 ≠ [] ∧ faultOf x s 0 = none ∧ (planPages (locking x s) x (planOf x s).1).denied = none ∧
      (planPages (locking x s) x (planOf x s).1).missing = [] ∧
      (planPages (locking x (readOnly s)) x (planOf x (readOnly s)).1).denied.isSome) ∧
    (let x := { demoCmd .mcast 0x100 .buffered with a := 2 ^ 21 }
     let s := paged { copying x with mem := memWrite [] 512 (leBytes 8 1 ++ leBytes 8 0x200) }
     (planPages (locking x s) x (planOf x s).1).denied = none ∧ (planPages (locking x s) x (planOf x s).1).missing ≠ []) := by
  and_intros <;> decide +kernel

theorem witness_TransferEvents_resume :
    (let x := { demoCmd .copy1 0x100 (.stopped 0) with failed := true }
     findCmd (coreOf (copying x) 0) 30 = some x ∧ x.waits = []) ∧
    (let x := demoCmd .copy1 0x100 (.stopped 0)
     cmdBlocked (copying x) 0 x = false ∧ faultOf x (copying x) 0 = none ∧ (planOf x (copying x)).2 = none ∧ { x with waits := [{ tag := 1 }] }.waits ≠ [] ∧
      cmdBlocked (copying { x with ctl := 0x110 }) 0 { x with ctl := 0x110 } = false ∧
      cmdBlocked (withC (copying { x with ctl := 0x110 }) fun c => { c with locks := [{ owner := 8, banks := [32] }] }) 0 { x with ctl := 0x110 } = true) ∧
    (demoCmd .coll 0 (.stopped 0)).op = .coll ∧ (demoCmd .coll 0 (.stopped 0)).failed = false := by
  and_intros <;> decide +kernel

theorem witness_TransferEvents_complete :
    (let x := started (demoCmd .fill 0x110 .buffered)
     findCmd (coreOf (copying x) 0) 30 = some x ∧ kSPD x.ctl = true ∧ x.b.toNat + kLEN x.ctl ≤ (teamOf (copying x) 1).kd.spkb * 1024 ∧ 0 < kLEN x.ctl ∧
      NoPolder (copying x) ∧ x.resumeAt = 0 ∧ (∀ f ∈ x.snap, f = []) ∧ planOf x (copying x) = (x.moves, none) ∧ movesBlocked (copying x) 0 x x.moves = false ∧
      planFault (copying x) x x.resumeAt x.moves = none ∧ (teamOf (copying x) 1).core = 0 ∧
      movesBlocked (withC (copying x) fun c => { c with locks := [{ owner := 8, banks := [32] }] }) 0 x x.moves = true) ∧
    (let w : LateWrite := { va := 512, space := .dev, addr := 512, bytes := [1], poison := false }
     let x := { demoCmd .mcast 0x100 .running with moves := [{ pos := 0, src := .glob 256, dstSpad := false, dst := 512, n := 1 }], late := [w] }
     findCmd (coreOf (copying x) 0) 30 = some x ∧ x.state = .running ∧ lateOpen (copying x) 0 x.late = true ∧ NoPolder (copying x) ∧
      (∀ m ∈ x.moves, ∀ p ∈ moveSpots (copying x) x m, p.frame.space = .dev) ∧ lateOpen (copying x) 0 [{ w with space := .peer }] = false) ∧
    (let x := started (demoCmd .fill 0x100 .buffered)
     planFault (readOnly (copying x)) x 0 x.moves = some (0, .denied) ∧ movesBlocked (readOnly (copying x)) 0 x x.moves = false ∧
     let s := paged (withC (copying x) fun c => { c with tlb := [] })
     movesBlocked s 0 x x.moves = false ∧ (match planFault s x 0 x.moves with | some (_, .missing _) => true | _ => false) = true) ∧
    (demoCmd .ovl 0 .running).op = .ovl ∧ (demoCmd .fill 0 .buffered).state ≠ .running := by
  and_intros <;> decide +kernel

/-- The core with an overlay load of slot 3 from an address. -/
def loading (va : Nat) (l : OvLoad) : State := withC (mapped demo) fun c => { c with loads := [{ l with slot := 3, va := va }], copies := [demoCmd .ovl 0 .running] }

theorem witness_TransferEvents_overlay :
    let l : OvLoad := { id := 40, slot := 3, va := 65536, asid := 0, func := 0, sup := false }
    let x (s : State) (va : Nat) := rangeX s 0 0 0 va 65536 { rd := true, w := false } false
    (slotLoad (coreOf (loading 65536 l) 0) 3 = some l ∧ ((coreOf (loading 65536 l) 0).loads.filter fun y => decide (y.slot = 3)) = [l] ∧
      (x (loading 65536 l) 65536).denied = none ∧ (x (loading 65536 l) 65536).missing = [] ∧ (x (loading 65536 l) 65536).pieces ≠ []) ∧
    ((x (paged (loading (2 ^ 22) l)) (2 ^ 22)).denied = none ∧ (x (paged (loading (2 ^ 22) l)) (2 ^ 22)).missing ≠ []) ∧
    (x (loading (2 ^ 22) l) (2 ^ 22)).denied.isSome ∧
    (slotLoad (coreOf (loading 65536 { l with cmd := some 30 }) 0) 3 = some { l with cmd := some 30 } ∧
      findCmd (coreOf (loading 65536 l) 0) 30 = some (demoCmd .ovl 0 .running)) ∧
    { l with waits := [{ tag := 1 }] }.waits ≠ [] ∧ { l with failed := true }.failed = true ∧
    (let s := withG (loading 65536 { l with after := some (2, 8) }) fun g => { g with fences := [{ id := 7, scope := 3 }] }
     slotLoad (coreOf s 0) 3 = some { l with after := some (2, 8) } ∧ ∃ f ∈ (groupOf s 2).fences, 3 ≤ f.scope ∧ f.id < 8) ∧
    (let s := peerPage (loading 65536 l) false
     piecesOpen s 0 (x s 65536).pieces = false ∧ (x s 65536).denied = none) ∧
    (x (loading (2 ^ 21 - 256) l) (2 ^ 21 - 256)).denied = some (2 ^ 21) ∧ (x (loading (2 ^ 21 - 256) l) (2 ^ 21 - 256)).missing = [] ∧
    (let s := paged (loading (2 ^ 21 - 256) { l with cmd := some 30 })
     (x s (2 ^ 21 - 256)).missing.head?.isSome ∧ findCmd (coreOf s 0) 30 = some (demoCmd .ovl 0 .running)) := by
  and_intros <;> decide +kernel

/-- A command that calls a collective by the descriptor at an address. -/
def aCall (id a : Nat) : CopyCmd := { demoCmd .coll 0 .collective with id := id, a := BitVec.ofNat 64 a }

/-- The descriptor of a rank of a sum of one INT32 word by two ranks, from an address, with its rank table at 2048 (R365). -/
def collBytes (rank src : Nat) : List Byte :=
  leBytes 8 (7 * 2 ^ 4 + rank * 2 ^ 12 + 2 * 2 ^ 24) ++ leBytes 8 src ++ leBytes 8 1 ++ leBytes 16 0 ++ leBytes 8 2048

/-- Module 0 with commands, the descriptors of ranks 0 and 1 at 256 and 320 and their sources, rank 0's at an address, and a rank table that has
rank 1 on a module. -/
def collecting (src entry : Nat) (xs : List CopyCmd) : State :=
  let m := memWrite (memWrite [] 256 (collBytes 0 src)) 320 (collBytes 1 1028)
  { withC (mapped demo) fun c => { c with copies := xs } with mem := memWrite (memWrite m 1024 (leBytes 8 (2 + 3 * 2 ^ 32))) 2056 (leBytes 8 entry) }

/-- What a rank of another module brings. -/
def otherRank : CollRank :=
  { group := 0, seq := 0, rank := 1, desc0 := BitVec.ofNat 64 (7 * 2 ^ 4 + 2 ^ 12 + 2 * 2 ^ 24), count := 1, joined := 0, src := [1, 0, 0, 0] }

/-- The descriptor, or the rank table, as read. -/
def collRead (s : State) (va n : Nat) : Option (List Byte) := recordBytes (readRecord s (teamOf s 1) va n false)

/-- The ranks that take part in rank 0's call. -/
def collParts (s : State) (ranks : List CollRank) : List (Option RankPart) :=
  rankParts s (collOf ((collRead s 256 64).getD [])) ((collRead s 2048 16).getD []) ranks

theorem witness_TransferEvents_collective :
    (let s := collecting 1024 0 [aCall 30 256]
     (∀ b ∈ (collRead s 256 64).toList, collBad b = false ∧ (collOf b).nrank = 2 ∧ (collOf b).rank = 0 ∧ (collOf b).rtab = 2048) ∧
     (collRead s 256 64).isSome ∧ recordBlocked s (teamOf s 1) 256 64 false = false ∧ recordBlocked s (teamOf s 1) 2048 16 false = false ∧
     (s.cores.flatMap fun e => e.2.copies) = [aCall 30 256] ∧ s.modid = 0 ∧ (aCall 30 256).a.toNat % 64 = 0 ∧
     (collParts s []).map (fun p => p.map fun x => x.src) = [some [2, 0, 0, 0], none]) ∧
    (let s := collecting 1024 0 [aCall 30 256, aCall 31 320]
     (collParts s []).map (fun p => p.map fun x => x.src) = [some [2, 0, 0, 0], some [3, 0, 0, 0]] ∧ (∀ p ∈ collParts s [], p ≠ none) ∧
     (rangeX s 0 0 0 512 4 { rd := false, w := true } false).denied = none ∧ (rangeX s 0 0 0 512 4 { rd := false, w := true } false).missing = [] ∧
     piecesOpen s 0 (rangeX s 0 0 0 512 4 { rd := false, w := true } false).pieces = true ∧
     (rangeX (readOnly s) 0 0 0 512 4 { rd := false, w := true } false).denied.isSome) ∧
    (let s (src : Nat) := collecting src 5 [aCall 30 256]
     (collParts (s 1024) []).map (fun p => p.isSome) = [true, false] ∧
     (collParts (s 1024) [otherRank]).map (fun p => p.map fun x => x.src) = [some [2, 0, 0, 0], some [1, 0, 0, 0]] ∧
     ([otherRank].filter fun k => decide (k.group = 0 ∧ k.seq = 0 ∧ k.rank = 1)) = [otherRank] ∧
     (collParts (s (2 ^ 22)) [otherRank]).map (fun p => p.isSome) = [false, true] ∧
     (rangeX (s (2 ^ 22)) 0 0 0 (2 ^ 22) 4 { rd := true, w := false } false).denied.isSome ∧
     (rangeX (paged (s (2 ^ 22))) 0 0 0 (2 ^ 22) 4 { rd := true, w := false } false).missing ≠ [] ∧
     (rangeX (paged (s (2 ^ 22))) 0 0 0 (2 ^ 22) 4 { rd := true, w := false } false).denied = none ∧
     (∀ p, p < 12 → (portOf (s 1024) p).up = false) ∧ (∃ p, p < 12 ∧ (portOf (setPort (s 1024) 3 { up := true }) p).up = true)) ∧
    (∀ b ∈ (collRead (collecting 1024 0 []) 256 64).toList,
      collAgree otherRank.desc0 1 = collAgree (BitVec.ofNat 64 (wordAt b 0)) (collOf b).count ∧
      collAgree otherRank.desc0 1 ≠ collAgree (BitVec.ofNat 64 (wordAt b 0)) 2) := by
  and_intros <;> decide +kernel

theorem witness_TransferEvents_timeout :
    (aCall 30 256).sources = none ∧ (aCall 30 256).started + 100000000 ≤ { demo with gtime := 100000000 }.gtime ∧
    { aCall 30 256 with sources := some [([0, 0, 0, 0], [])] }.sources.isSome ∧
    collRead (withC (collecting 1024 0 []) fun c => { c with tlb := [] }) 256 64 = none ∧
    (readRecord (collecting 1024 0 []) demoTeam (2 ^ 22) 64 false = .denied ∧
      (match readRecord (paged (collecting 1024 0 [])) demoTeam (2 ^ 22) 64 false with | .missing _ => true | _ => false) = true) ∧
    collBad ((collRead (collecting 1024 0 []) 4096 64).getD []) = true ∧ (aCall 30 264).a.toNat % 64 ≠ 0 ∧
    (let s := { collecting 1024 0 [] with mem := memWrite [] 256 ((collBytes 0 1024).take 40 ++ leBytes 8 (2 ^ 22)) }
     collBad ((collRead s 256 64).getD []) = false ∧ collRead s (2 ^ 22) 16 = none) ∧
    ((collRead (collecting 1024 (2 ^ 14) []) 2048 16).map fun b => wordAt b 1) = some (2 ^ 14) ∧
    recordBlocked (peerPage (collecting 1024 0 []) false) demoTeam 256 64 false = true ∧
    piecesOpen (peerPage demo false) 0 (rangeX (peerPage demo false) 0 0 0 512 4 { rd := false, w := true } false).pieces = false ∧
    { collOf [] with fmt := 7 }.fmt = 7 ∧ { collOf [] with fmt := 7 }.red = 0 := by
  and_intros <;> decide +kernel

/-- Ranks of one call that join 100 ms apart. -/
theorem witness_TransferEvents_apart :
    (collParts (collecting 1024 5 [aCall 30 256]) [{ otherRank with joined := 100000000 }]).map (fun p => p.map fun x => x.joined) =
      [some 0, some 100000000] := by decide +kernel

/-- A task of one team at the head of hardware queue 0 of die 0, with a kernel descriptor at virtual address 16. -/
def demoTask (kind ndep : Nat) (st : TaskStage) : Task :=
  { noTask with
    words := [BitVec.ofNat 64 (kind * 2 ^ 62 + ndep * 2 ^ 57 + 2 ^ 53), 16, 5, 1 + 2 ^ 24 + 2 ^ 40, 0, 4, 0, 0], src := .hw 0 0, stage := st }

/-- The machine with that task. -/
def tasked (x : Task) : State :=
  { mapped demo with
    tasks := [(50, x)], dies := [(0, { queues := [(0, [50])], tlb := (coreOf (mapped demo) 0).tlb })]
    mem := memWrite (memWrite [] 16 (leBytes 8 (2 * 2 ^ 60 + 2 ^ 53 + 2 ^ 42 + 2 ^ 31))) 72 (leBytes 8 (2 ^ 63)) }

/-- A task ready to be dispatched. -/
def readyTask (kind : Nat) : Task :=
  { demoTask kind 0 .waiting with depsMet := true, since := some 0, total := 1, left := 1, kd := some { loadKDesc with spkb := 1, nreg := 1 } }

theorem witness_TaskEvents :
    queueTasks (tasked (demoTask 1 0 .queued)) (.hw 0 0) = 50 :: [] ∧ taskOf (tasked (demoTask 1 0 .queued)) 50 = demoTask 1 0 .queued ∧
    ((taskKind (demoTask 0 0 .queued) ≠ 1 ∧ taskKind (demoTask 0 0 .queued) ≠ 2) ∧ taskNdep (demoTask 1 5 .queued) > 4 ∧
      Recordless (demoTask 1 5 .queued)) ∧
    (let x := { demoTask 1 0 .queued with words := [BitVec.ofNat 64 (2 ^ 62), 16, 5, 1 + 2 ^ 24 + 2 ^ 40, 0, 0, 0, 0] }
     (judgeTask (tasked x) x).missing = [] ∧ (judgeTask (tasked x) x).codes = [] ∧
     (judgeTask { tasked x with cores := [], dies := [] } x).codes = [6] ∧ taskKind x = 1) ∧
    ((queueOf demo 255).en = false ∧ queueTasks demo (.host 255) = []) ∧
    (let s := { demo with queues := [(7, { en := true, log2n := 4, tail := 1, base := 2 ^ 52 })] }
     (queueOf s 7).head ≠ (queueOf s 7).tail ∧ (queueOf s 7).waits = [] ∧
      (match sysRead s 0 (ownerOf s 7) (queueOf s 7).qasid ((queueOf s 7).base + 64 * ((queueOf s 7).head % 2 ^ (queueOf s 7).log2n)) 64 with
        | .denied => true | _ => false) = true) ∧
    (let x := demoTask 1 1 .waiting
     x.depsMet = false ∧ taskNdep x = 1 ∧ taskDep x 0 = 64 ∧ x.failedPage = false ∧ Recordless x ∧ x.error = none ∧
      { x with failedPage := true }.failedPage = true ∧
     (match sysRead (tasked x) 0 0 0 64 16 with | .got b => some (wordAt b 1 / 2 ^ 63 % 2, wordAt b 1 % 2 ^ 8) | _ => none) = some (1, 0) ∧
     (match sysRead { tasked x with mem := [] } 0 0 0 64 16 with | .got b => some (wordAt b 1 / 2 ^ 63 % 2) | _ => none) = some 0 ∧
     (match sysRead { tasked x with mem := memWrite [] 72 (leBytes 8 (2 ^ 63 + 7)) } 0 0 0 64 16 with
        | .got b => some (wordAt b 1 / 2 ^ 63 % 2, wordAt b 1 % 2 ^ 8) | _ => none) = some (1, 7)) ∧
    ((readyTask 1).stage = .waiting ∧ (readyTask 1).depsMet = true ∧ (readyTask 1).since = some 0) ∧
    (selectHead (tasked (readyTask 1)) 0 = some (.hw 0 0, 50) ∧ attestRefused (tasked (readyTask 1)) 0 = false ∧ Recordless (readyTask 1) ∧
      taskKind (readyTask 1) = 1 ∧ (taskOf (tasked (readyTask 1)) 50).error = none) ∧
    (selectHead (tasked (readyTask 2)) 0 = some (.hw 0 0, 50) ∧ taskKind (readyTask 2) = 2 ∧ (readyTask 2).total ≠ 0) ∧
    (let x := { readyTask 1 with stage := .dispatched, remainDone := true }
     selectHead (tasked x) 0 = some (.hw 0 0, 50) ∧ taskDlev x = 0) ∧
    selectHead demo 4 = none ∧
    (let x := { readyTask 2 with
       stage := .dispatched, remainDone := true, expanded := true, total := 6, levels := [
         { bound := 2, stride := 1, start := 0, sreg := 10, mapped := true }, { bound := 3, stride := -1, start := 5, sreg := 11, mapped := true }] }
     nextStep x = some 0 ∧ placeCore (tasked x) 0 0 (x.kd.getD noKDesc) ≠ none ∧ stepIndices x.levels 5 = [1, 2] ∧
      stepRegs x 5 = [(10, 1), (11, 3)]) := by
  and_intros <;> decide +kernel

/-- What a system read answers: 0 denied, 1 missing, 2 the bytes. -/
def answerOf (r : SysRead) : Nat :=
  match r with
  | .denied => 0
  | .missing _ => 1
  | .got _ => 2

/-- The machine with host queue 7 enabled, one entry notified. -/
def hostQueued (q : HostQueue) : State :=
  { demo with queues := [(7, { q with en := true, log2n := 4, tail := 1, base := 2 ^ 16 })] }

/-- A queue's entry read. -/
def entryRead (s : State) : SysRead := sysRead s 0 (ownerOf s 7) (queueOf s 7).qasid ((queueOf s 7).base + 64 * ((queueOf s 7).head % 2 ^ (queueOf s 7).log2n)) 64

theorem witness_TaskEvents_queues :
    (let s := hostQueued {}
     queueTasks s (.host 7) = [] ∧ (queueOf s 7).en = true ∧ (queueOf s 7).head ≠ (queueOf s 7).tail ∧ (queueOf s 7).reading = false ∧
      (queueOf s 7).waits = [] ∧ answerOf (entryRead s) = 0 ∧ answerOf (entryRead (paged s)) = 1 ∧
      answerOf (entryRead { s with dies := [(0, { tlb := (coreOf (mapped demo) 0).tlb }), (4, { tlb := (coreOf (mapped demo) 0).tlb })] }) = 2) ∧
    (queueOf (hostQueued { reading := true, waits := [{ tag := 1 }] }) 7).waits ≠ [] ∧
    (queueOf (hostQueued { reading := true, en := false }) 7).reading = true ∧
    queueTasks demo (.hw 0 3) = [] ∧
    (let y := { demoTask 1 0 .queued with words := [BitVec.ofNat 64 (2 ^ 62), 16, 5, 1 + 2 ^ 24 + 2 ^ 40, 0, 0, 0, 0] }
     let s := paged { tasked y with dies := [(0, { queues := [(0, [50])] })], cores := [] }
     (judgeTask s (taskOf s 50)).missing ≠ [] ∧ (taskOf s 50).waits = [] ∧ (taskOf s 50).stage = .queued) ∧
    (∀ e ∈ (tasked (readyTask 1)).teams, e.2.place ≠ .offered) ∧ (taskOf (tasked (readyTask 1)) 50).prio < 4 ∧
    ableDies (tasked (readyTask 1)) (readyTask 1) = [0] := by
  and_intros <;> decide +kernel

theorem witness_TaskEvents_steps :
    (let x := { readyTask 2 with
       stage := .dispatched, remainDone := true, expanded := true, total := 6, levels := [
         { bound := 2, stride := 1, start := 0, sreg := 10, mapped := true }, { bound := 3, stride := -1, start := 5, sreg := 11, mapped := true }] }
     nextStep x = some 0 ∧ dieAble (tasked x) 0 x = true ∧ x.finishing = false ∧ x.error = none ∧ ({ x with expanded := false }).expanded = false ∧
     let y := { x with error := some 7, redo := [4], offered := 6, allOffered := true }
     nextStep y = some 4 ∧ dieAble (tasked y) 0 y = true ∧ y.redo ≠ [] ∧
     (((x.levels.map fun l : LoopLevel => l.bound).prod) = 6) ∧ nextStep { readyTask 2 with chainNext := [(0, 1)] } = none) ∧
    ((readyTask 1).allOffered = false ∧ { readyTask 1 with allOffered := true }.redo = []) := by
  and_intros <;> decide +kernel

/-- A task whose teams share a domain, dispatched on die 0. -/
def domainTask : Task :=
  { readyTask 1 with stage := .dispatched, remainDone := true, words := [BitVec.ofNat 64 (2 ^ 62 + 2 ^ 53 + 2 ^ 33), 16, 5, 1 + 2 ^ 24 + 2 ^ 40] }

theorem domainTask_admitted (s : State) (h : s = tasked domainTask ∨ s = setServed (tasked domainTask) 0 0) : (admitAll 1 s 50).isSome = true := by
  have able : ableDies s (taskOf s 50) = [0] := by rcases h with rfl | rfl <;> decide +kernel
  have place : (placeCore (makeTeam { s with free := s.free + 1 } 50 (taskOf s 50).offered 0 (coordsAt (taskOf s 50) (taskOf s 50).offered) [] [] false).1 0
      (taskOf s 50).func ((taskOf s 50).kd.getD noKDesc)).isSome = true := by
    rcases h with rfl | rfl <;> decide +kernel
  simp only [admitAll, able, drawDie, drawNat, List.length_singleton, Nat.mod_one, List.getD_cons_zero]
  cases hp : placeCore (makeTeam { s with free := s.free + 1 } 50 (taskOf s 50).offered 0 (coordsAt (taskOf s 50) (taskOf s 50).offered) [] [] false).1 0
      (taskOf s 50).func ((taskOf s 50).kd.getD noKDesc) with
  | none => rw [hp] at place; cases place
  | some c => rfl

theorem witness_TaskEvents_domain : selectHead (tasked domainTask) 0 = some (.hw 0 0, 50) ∧ domainTask.stage = .dispatched ∧ taskDlev domainTask ≠ 0 ∧
    domainTask.total = 1 ∧ (admitAll 1 (setServed (tasked domainTask) 0 (queueNum (.hw 0 0))) 50).isSome = true := by
  refine ⟨?_, by decide, by decide, by decide, domainTask_admitted _ (.inr rfl)⟩
  have go : canDispatch (tasked domainTask) 50 = true := by
    have x : taskOf (tasked domainTask) 50 = domainTask := by decide +kernel
    have st : domainTask.stage = .dispatched := rfl
    have lev : taskDlev domainTask ≠ 0 := by decide
    have more : (domainTask.remainDone && domainTask.error.isNone && decide (domainTask.offered < domainTask.total)) = true := by decide
    have all := domainTask_admitted _ (.inl rfl)
    rw [show (1 : Nat) = domainTask.total from rfl] at all
    simp only [canDispatch, x, st, lev, if_false, more, all, Bool.and_self]
  have queues : dispatcherQueues 0 = .hw 0 0 :: (List.range 63).map fun i => .hw 0 (i + 1) := by decide
  have head : (queueTasks (tasked domainTask) (.hw 0 0)).head? = some 50 := by decide
  simp only [selectHead, queues, List.filterMap_cons, head, go, if_true]
  decide +kernel

theorem witness_TaskEvents_attest : attestRefused { tasked (readyTask 1) with secure := 1, keyLost := true } 0 = true ∧
    selectHead { tasked (readyTask 1) with secure := 1, keyLost := true } 0 = some (.hw 0 0, 50) := by decide +kernel

/-- The machine with the team in some place and its group with it. -/
def standing (p : TeamPlace) (g : Place) : State := withG (withT demo fun t => { t with place := p }) fun y => { y with place := g }

/-- The team's group waits, and its core has no swap threshold left. -/
def idleTeam : State := { withG demo fun g => { g with wait := some (.mxwait 1), waitSince := 0 } with gtime := 20000 }

theorem witness_TeamEvents :
    (let s := withT { demo with groups := [] } fun t => { t with place := .offered, groups := [] }
     (teamOf s 1).place = .offered ∧ (taskOf s 9).error = none ∧ placeCore s 0 0 (teamOf s 1).kd = some 0 ∧ firstOffered s 1 = true ∧ memoriesWf s = true ∧
      (taskOf s 9).error = none) ∧
    (let s := standing .admitted .admitted
     teamTurn s 1 = true ∧ residentSet s (teamOf s 1) = some [2] ∧ freeSlot s 7 = some 0 ∧ (groupOf s 2).regcnt ≤ poolFree s 7 ∧
      (clusterOf s 7).retired = false ∧ claimWaits s 7 = false ∧ (groupOf s 2).ops = [] ∧ (placeGroups 0 s.nextId { s with nextId := s.nextId + 1 } [2] [7]).isSome) ∧
    teamTurn (standing .parked .saved) 1 = false ∧
    (waitStart idleTeam (teamOf idleTeam 1) = some 0 ∧ 0 + (coreOf idleTeam 0).swapth ≤ idleTeam.gtime ∧ switchable idleTeam 2 = true ∧
      parkUsed idleTeam 0 + teamImage idleTeam (teamOf idleTeam 1) ≤ 524288 ∧ (groupOf idleTeam 2).team = 1 ∧
      { idleTeam with gtime := 5 }.gtime < 0 + (coreOf idleTeam 0).swapth) ∧
    (let s := (List.range 9).foldl (fun s k => setGroup s (100 + k) { demoGroup with place := .saved }) idleTeam
     waitStart s (teamOf s 1) = some 0 ∧ 524288 < parkUsed s 0 + teamImage s (teamOf s 1) ∧ switchable s 2 = true) ∧
    (waitStart demo (teamOf demo 1) = none) ∧
    ((teamOf (standing .parked .saved) 1).place = .parked ∧ (groupOf (standing .parked .saved) 2).place ≠ .ended ∧
      (groupOf (standing .parked .saved) 2).wait = none) ∧
    ({ demo with preempting := 1 }.preempting.getLsbD 0 = true ∧ (∀ e ∈ demo.teams, e.2.step = false) ∧ (demo.teams.map Prod.fst).Nodup ∧
      partOfCore demo 0 = 0 ∧ (∀ e ∈ demo.teams, e.2.place = .resident ∧ frozenCore demo e.2.core = false ∧
        ∀ gid ∈ e.2.groups, trapDue (groupOf demo gid) = false ∧ switchable demo gid = true) ∧
      frozenCore (withC demo fun c => { c with weir := { c.weir with frozen := true } }) 0 = true ∧ demo.preempting.getLsbD 0 = false) ∧
    (let s := standing .resident .ended
     canRetire s 1 = true ∧ (coreOf s 0).closing = false ∧ canRetire demo 1 = false ∧ Recordless (taskOf s 9) ∧ (taskOf s 9).left = 1 ∧
      (taskOf s 9).stage = .dispatched ∧ (coreOf s 0).pmap = [] ∧ (s.teams.map Prod.fst).Nodup ∧
      let k (n : Nat) := withK s fun x => { x with error := some 7, live := n }
      (taskOf (k 1) 9).error ≠ none ∧ (taskOf (k 1) 9).redo = [] ∧ (taskOf (k 1) 9).live = 1 + 0 ∧ 1 + 0 < (taskOf (k 2) 9).live ∧
      (∀ e ∈ (k 1).teams, e.2.place ≠ .offered) ∧
      let c := withC s fun c => { c with closing := true }
      canRetire c 1 = true ∧ (coreOf c 0).closing = true ∧ coreTeams c 0 = [(1, teamOf c 1)]) := by
  and_intros <;> decide +kernel

/-- The core of the team full of contexts, with a team of higher priority waiting. -/
def crowded (s : State) : State :=
  let t : Team := { demoTeam with prio := 1, place := .admitted, groups := [4], kd := { loadKDesc with ngrp := 1 } }
  (List.range 127).foldl (fun s k => setGroup s (100 + k) { demoGroup with team := 3, regcnt := 8, place := .resident ((k + 1) / 16) ((k + 1) % 16) })
    (setGroup (setTeam s 3 t) 4 { demoGroup with team := 3, place := .admitted })

theorem witness_TeamEvents_preempt :
    ((teamOf (crowded demo) 1).place = .resident ∧ needsContexts (crowded demo) 0 0 = true ∧ needsContexts demo 0 0 = false) ∧
    (frozenCore (crowded demo) 0 = false ∧ (groupOf (crowded demo) 2).pendTraps = [] ∧ switchable (crowded demo) 2 = true ∧
      restartable (teamOf (crowded demo) 1) = false ∧ (teamOf (crowded demo) 1).groups = [2]) ∧
    (let s := withT (crowded demo) fun t => { t with step := true }
     restartable (teamOf s 1) = true ∧ engineBusy (teamOf s 1) = false ∧ engineBusy { teamOf s 1 with batches := [{ num := 1 }] } = true) ∧
    switchable (crowded (pending (.store .acas) [spadWord])) 2 = false ∧
    (groupOf (crowded (withG demo fun g => { g with pendTraps := [({ code := 6, info := 0, slot := 0 }, 32, 0)] })) 2).pendTraps ≠ [] ∧
    frozenCore (crowded (withC demo fun c => { c with weir := { c.weir with frozen := true } })) 0 = true := by
  and_intros <;> decide +kernel

/-! ## Events of the host, of links and of the module -/

/-- The machine with one page request of function 16 outstanding. -/
def asked (host : Bool) (who : Requester) : State :=
  setFunc demo 16 { reqs := [{ tag := 3, host := host, asid := 0, va := 65536, kind := 0, level := 0, srck := 0, who := [who] }] }

theorem witness_TranslationEvents :
    (findReq (asked false (.group 2)) 16 3 false).isSome ∧ (findReq (asked true (.group 2)) 16 3 true).isSome ∧ findReq demo 16 3 false = none ∧
    demo.devReady = true ∧
    (groupOf (withG demo fun g => { g with pageFault := some { split := 0, waits := [{ tag := 3 }], accesses := [(65536, ⟨6, 0, 0, none, false⟩)], failed := [] } }) 2).pageFault.isSome ∧
    (groupOf demo 2).pageFault = none ∧ findCmd (coreOf (copying (demoCmd .copy1 0 (.stopped 0))) 0) 30 = some (demoCmd .copy1 0 (.stopped 0)) ∧
    (teamOf (withT demo fun t => { t with engine := [demoItem] }) 1).engine = demoItem :: [] ∧
    queueTasks (tasked (demoTask 1 1 .waiting)) (.hw 0 0) = 50 :: [] ∧
    (teamOf (batched { num := 1, record := 1, waits := [{ tag := 3 }] } []) 1).batches = { num := 1, record := 1, waits := [{ tag := 3 }] } :: [] ∧
    (queueTasks (hostQueued { waits := [{ tag := 3 }] }) (.host 7) = [] ∧ ∃ w ∈ (queueOf (hostQueued { waits := [{ tag := 3 }] }) 7).waits, w.tag = 3) ∧
    ((funcOf demo 16).inval = none ∧ (funcOf (setFunc demo 16 { inval := some { kind := 2, asid := 0, page := 0 } }) 16).inval ≠ none) ∧
    (let s := setFunc (mapped demo) 0 { inval := some { kind := 0, asid := 0, page := 0 } }
     (funcOf s 0).atsInval = [] ∧ (∀ e ∈ s.groups, invalBlocks s 0 { kind := 0, asid := 0, page := 0 } e.1 e.2 = false) ∧
      (∀ e ∈ s.groups, ∀ o ∈ e.2.ops, o.replay = false) ∧ (coreOf s 0).tlb ≠ []) ∧
    (let s := setFunc (withG (mapped (pending (.load .lw) [{ spadWord with space := .dev }])) id) 0 { inval := some { kind := 2, asid := 0, page := 0 } }
     ∃ e ∈ s.groups, invalBlocks s 0 { kind := 2, asid := 0, page := 0 } e.1 e.2 = true) ∧
    (let s := setFunc demo 0 { atsInval := [{ kind := 3, asid := 0, page := 0 }] }
     (funcOf s 0).inval = none ∧ (funcOf s 0).atsInval = [{ kind := 3, asid := 0, page := 0 }]) ∧
    (let l : OvLoad := { id := 40, slot := 3, va := 65536, asid := 0, func := 0, sup := false, waits := [{ tag := 3 }] }
     ∀ k ∈ [none, some 30], let y := { l with cmd := k }
       ((coreOf (loading 65536 y) 0).loads.find? fun z => decide (z.id = 40)) = some y ∧
        (findCmd (coreOf (loading 65536 y) 0) 30).isSome) := by
  and_intros <;> decide +kernel

theorem witness_RegisterWrites :
    (demo.devReady = true ∧ ownerOf demo 255 = 0 ∧ (queueOf demo 255).head < 2 ^ 32 ∧ (queueOf demo 255).tail < 2 ^ 32) ∧
    (let s := setQueue demo 255 { en := true, log2n := 16, head := 2 ^ 32 - 1, tail := 0 }
     (queueOf s 255).en = true ∧ ((65535 : Int) - (queueOf s 255).head) % 2 ^ 32 ≤ 2 ^ (queueOf s 255).log2n ∧
      (((queueOf s 255).tail : Int) - (queueOf s 255).head) % 2 ^ 32 ≤ ((65535 : Int) - (queueOf s 255).head) % 2 ^ 32) ∧
    mergeWrite (qctlWord (queueOf demo 255)) .whole 0x10 % 2 ^ 5 = 16 ∧ mergeWrite (qctlWord (queueOf demo 255)) .low 3 % 2 ^ 5 = 3 ∧
    ((0x2F8 < 0x300 ∧ 0x2F8 % 8 = 0) ∧ ∀ j, j < 8 → mergeWrite (qownWord demo 31) .whole 0 / 2 ^ (8 * j) % 2 ^ 8 = 0) ∧
    (mergeWrite (fqctlWord (funcOf demo 16)) .low 12 % 2 ^ 4 = 12 ∧ mergeWrite (fqctlWord (funcOf demo 16)) .low 11 % 2 ^ 4 = 11 ∧
      ∀ r ∈ (funcOf demo 16).reqs, r.queued = false) ∧
    (¬∃ h, h < 8 ∧ 8 ≤ mergeWrite (partmapWord demo) .whole 0xF7776543210 / 2 ^ (4 * h) % 2 ^ 4 ∧
      mergeWrite (partmapWord demo) .whole 0x76543210 / 2 ^ (4 * h) % 2 ^ 4 ≤ 0xE) ∧
    mergeWrite (partmapWord demo) .whole 0x76543210 / 2 ^ 32 % 2 ^ 32 = 0 ∧
    (¬∃ k, k < 17 ∧ mergeWrite (fpartWord demo) .whole 0 / 2 ^ (3 * k) % 2 ^ 3 ≠ tgetD demo.fpart k 0 ∧
      ((∃ e ∈ demo.tasks, e.2.func = k ∧ e.2.stage ≠ .ended) ∨ ∃ e ∈ demo.queues, ownerOf demo e.1 = k ∧ e.2.tail ≠ e.2.head)) ∧
    (let s := hostQueued {}
     (∃ e ∈ s.queues, ownerOf s e.1 = 0 ∧ e.2.tail ≠ e.2.head) ∧ mergeWrite (fpartWord s) .whole 1 % 2 ^ 3 ≠ tgetD s.fpart 0 0) ∧
    (mergeWrite (linkcfgWord demo) .whole 0xFFF / 2 ^ 24 % 2 ^ 28 = 0 ∧ mergeWrite (linkcfgWord demo) .whole 0x1000000 / 2 ^ 24 % 2 ^ 28 ≠ 0) ∧
    (mergeWrite (partctlWord demo) .whole 0xFFFFFF / 2 ^ 24 % 2 ^ 40 = 0 ∧ mergeWrite (partctlWord demo) .whole (2 ^ 63) / 2 ^ 24 % 2 ^ 40 ≠ 0) ∧
    { demo with devReady := false }.devReady = false ∧ NoPolder demo ∧
    demo.svload = none ∧ { demo with svload := some { addr := 0, cores := [191] } }.svload = some { addr := 0, cores := [191] } ∧
    ((funcOf demo 16).mboxCmd = none ∧ (funcOf (setFunc demo 16 { mboxCmd := some 1 }) 16).mboxCmd = some 1 ∧ demo.attKey = true ∧ demo.keyLost = false ∧
      (funcOf (setFunc demo 16 { mboxCmd := some 2 }) 16).mboxCmd = some 2 ∧ (funcOf (setFunc demo 16 { mboxCmd := some 255 }) 16).mboxCmd = some 255) := by
  and_intros <;> decide +kernel

/-- Port 11 up, with some flits to be acknowledged. -/
def linked (p : Port) : State := { setPort demo 11 p with modid := 5 }

theorem witness_LinkEvents :
    ((portOf (linked { up := true }) 11).up = true ∧ (portOf demo 11).up = false) ∧
    ((portOf (linked { up := true, replays := 8 }) 11).replays = 8 ∧ 8 ≤ 8) ∧
    (let s := { linked { up := true, buffer := [(0, [])] } with gtime := 1000000 }
     (portOf s 11).buffer ≠ [] ∧ (portOf s 11).ackSince + 1000000 ≤ s.gtime) ∧
    (let x := portOf (linked { up := true, downs := [0, 0, 0] }) 11
     4 ≤ ((x.downs.filter fun t => decide ((0 : Nat) < t + 3600000000000)) ++ [0]).length) ∧
    ((linked { up := true }).modid ≠ 0 ∧ (∃ k, k < 12 ∧ (portOf (linked { up := true }) k).up = true) ∧ NoPolder (linked { up := true }) ∧
      (portOf (linked { up := true }) 11).buffer.length < 512 ∧ demo.modid = 0) ∧
    (let s := setFunc (linked { up := true }) 0 { pwin := [(15, BitVec.ofNat 64 (2 ^ 63 + 7 * 2 ^ 39))] }
     ∃ w, w < 16 ∧ (tgetD (funcOf s 0).pwin w 0).toNat / 2 ^ 63 = 1 ∧ (tgetD (funcOf s 0).pwin w 0).toNat / 2 ^ 39 % 2 ^ 12 = (7 : BitVec 12).toNat) ∧
    (let a : PeerAccess := { sender := 7, kind := .atomic .aadd 0, addr := 60, size := 4, data := [1, 0, 0, 0], poison := true }
     a.addr / 2 ^ 44 % 2 ^ 4 ≠ 0xF ∧ a.poison = true ∧ a.addr < 32 * (1 + 1) ∧ 32 * 1 < a.addr + 4) := by
  refine ⟨by decide +kernel, by decide +kernel, by decide +kernel, by decide +kernel, ⟨by decide +kernel, ⟨11, by decide, by decide⟩, ?_⟩,
    ⟨15, by decide, by decide, by decide⟩, by decide⟩
  and_intros <;> decide +kernel

theorem witness_LinkEvents_flits :
    (let x := portOf (linked { up := true, waiting := [2, 1] }) 11
     x.waiting = 2 :: [1] ∧ x.buffer.length < 512) ∧
    (512 ≤ (portOf (linked { up := true, buffer := (List.range 512).map fun i => (i, []) }) 11).buffer.length) ∧
    (∃ f : List Byte, f.length = 256 ∧ leVal (f.drop 248) = (flitCrc (f.take 248)).toNat ∧ leVal (f.take 8) = 3) ∧
    3 / 2 ^ 4 % 2 ^ 12 = ((portOf (linked { up := true }) 11).rxSeq + 1) % 4096 ∧
    (∃ k, k < 12 ∧ (portOf (linked { up := true }) k).up = true) ∧ 3 ≤ { linked { up := true } with retlnk := 2 }.retlnk + 1 ∧
    (portOf (linked { up := true, txWidth := 4 }) 11).txWidth ≤ 4 ∧ (portOf (linked { up := true, rxWidth := 8 }) 11).rxWidth / 2 = 4 := by
  have len : (leBytes 8 3 ++ List.replicate 240 0).length = 248 := by rw [List.length_append, leBytes_length, List.length_replicate]
  refine ⟨by decide +kernel, by decide +kernel, ⟨(leBytes 8 3 ++ List.replicate 240 0) ++
    leBytes 8 (flitCrc (leBytes 8 3 ++ List.replicate 240 0)).toNat, ?_, ?_, ?_⟩, by decide, ⟨11, by decide, by decide⟩, by decide, by decide, by decide⟩
  · rw [List.length_append, len, leBytes_length]
  · rw [List.drop_left' len, List.take_left' len, leVal_leBytes]
    exact Nat.mod_eq_of_lt (flitCrc _).isLt
  · rw [List.append_assoc, List.take_left' (leBytes_length 8 3)]
    decide

theorem witness_LinkEvents_collective :
    let y := { aCall 30 256 with acked := 1, sources := some [([0, 0, 0, 0], []), ([0, 0, 0, 0], [])] }
    ∀ m ∈ [0, 5], let s := { collecting 1024 m [y] with cores := [(0, coreOf (collecting 1024 m [y]) 0)] }
      (∀ k, k < 12 → (portOf s k).up = false) ∧ s.cores = [(0, coreOf s 0)] ∧ (coreOf s 0).copies = [y] ∧ y.state = .collective ∧ y.sources.isSome ∧
      (collRead s 256 64).isSome ∧ collRead s 2048 16 = some (List.replicate 8 0 ++ leBytes 8 m) ∧ s.modid = 0 := by
  decide +kernel

/-- The group with one hint. -/
def hinted (h : Hint) : State := { withG demo fun g => { g with hints := [h] } with gtime := 100 }

theorem witness_PowerAndResetEvents :
    (let w (x : Weir) : State := { withC demo fun c => { c with weir := x } with gtime := 10000 }
     ((coreOf (w { highRun := 256 }) 0).weir.pred = false ∧ (coreOf (w { lowRun := 256, pred := true }) 0).weir.pred = true) ∧
     ((coreOf (w { checkAt := some 10000, level := 1 }) 0).weir.checkAt = some 10000 ∧ (coreOf (w {}) 0).weir.checkAt = none)) ∧
    (let s := withC demo fun c => { c with weir := { c.weir with busy := (List.replicate 4 (2, 160)) ++ [(2, 600), (2, 600), (3, 512)] } }
     (groupOf s 2).place ≠ .ended ∧ intensityOf s 2 = 0 ∧ 2 ∉ (coreOf s 0).weir.throttled ∧ (ranCycles s 0 2).length = 6 ∧
      4 * intensityOf s 2 + 4 < 6 ∧ ((ranCycles s 0 2).drop (4 * 0)).count 600 = 2 ∧ ((ranCycles s 0 2).drop (4 * 0)).count 512 = 0 ∧
      (ranCycles demo 0 2).length = 0 ∧ 2 ∈ (coreOf (withC s fun c => { c with weir := { c.weir with throttled := [2] } }) 0).weir.throttled) ∧
    (∃ h ∈ (groupOf (hinted { declared := 0, onset := 101, intensity := 3, length := 10, active := false }) 2).hints,
      h.active = false ∧ h.declared ≤ 100 ∧ 100 < h.onset) ∧
    (let s := engaged (.tile .tmma 0 0) true
     s.teams = [(1, teamOf s 1)] ∧ (coreOf s 0).weir.frozen = false) ∧
    ({ demo with gtime := 1000 }.capAt + 1000 ≤ { demo with gtime := 1000 }.gtime ∧ demo.gtime < demo.capAt + 1000 ∧ demo.input ≤ 1000 * effcapWatts demo ∧
      (coreOf demo 191).weir.held = [40000] ∧ capclamp demo = false) ∧
    (demo.bring = .done ∧ { demo with bring := .verify }.bring = .verify ∧ { demo with devReady := false }.devReady = false) ∧
    ((groupOf (standing .resident .ended) 2).place = .ended ∧ (teamOf (standing .resident .ended) 1).token = none ∧
      (teamOf (withT (standing .resident .ended) fun t => { t with token := some 2 }) 1).token = some 2) ∧
    (2048 ≤ 16 * (coreOf demo 191).ilim.hard ∧ (coreOf demo 191).weir.ballastEnergy = 0 ∧ (∀ h ∈ demo.partmap, h.2 = 0) ∧ (∀ q ∈ demo.pfloor, q.2 = 0)) ∧
    (let h : Hint := { declared := 0, onset := 100, intensity := 3, length := 10, active := false }
     (groupOf (hinted h) 2).hints = [] ++ h :: [] ∧ h.onset ≤ (hinted h).gtime) ∧
    (let h : Hint := { declared := 0, onset := 90, intensity := 3, length := 10, active := true }
     ∃ x ∈ (groupOf (hinted h) 2).hints, x.active = true ∧ x.onset + x.length ≤ (hinted h).gtime) ∧
    ((demo.clusters.map Prod.fst).Nodup ∧ (demo.ports.map Prod.fst).Nodup) ∧
    (let s := setTask demo 9 { taskOf demo 9 with func := 16 }
     (s.tasks.map Prod.fst).Nodup ∧ (taskOf s 9).func = 16 ∧ (taskOf s 9).stage = .dispatched ∧ Recordless (taskOf s 9) ∧ (taskOf s 9).error = none) := by
  and_intros <;> decide +kernel

/-! ## Effects of instructions, on values worked out from the rules -/

/-- The state an instruction leaves. -/
def after (i : Instr) (s : State) : State := match exec i s with
  | .next t => t
  | .fault _ => s
  | .refused _ => s

/-- A scalar register of the group. -/
def sOf (s : State) (i : Nat) : DWord := sget (groupOf s 2) 0 i

/-- R119: the sum wraps, and a wide shift takes its count modulo 64. -/
theorem test_scalar_wraps : sOf (after (.add 5 6 0 1) (withS 6 (-1))) 5 = 0 ∧ sOf (after (.shl 5 6 0 65) (withS 6 3)) 5 = 6 ∧
    sOf (after (.mulh 5 6 6 0) (withS 6 (-2))) 5 = 0 ∧ sOf (after (.sar 5 6 0 63) (withS 6 (-8))) 5 = -1 := by decide +kernel

/-- R96: s0 discards a write. -/
theorem test_s0 : sOf (after (.li 0 7) demo) 0 = 0 := by decide +kernel

/-- R120: LIH keeps the low half. -/
theorem test_lih : sOf (after (.lih 6 0xDEADBEEF) (withS 6 0x123456789)) 6 = 0xDEADBEEF23456789 := by decide +kernel

/-- R96: a branch goes 32 bytes a bundle from its own address. -/
theorem test_bu : (splitOf (groupOf (after (.bu false 0 3) demo) 2) 0).pc = 96 ∧ (splitOf (groupOf (after (.bu true 0 3) demo) 2) 0).pc = 32 := by
  decide +kernel

/-- R124: BD diverges: the lanes of the condition go on from the target in a split of their own. -/
theorem test_bd : ((groupOf (after (.bd false 1 4 8) (halfMasked demo)) 2).splits.map fun e => (e.2.pc, e.2.mask)) =
    [(32, 0xFFFF0000), (128, 0x0000FFFF)] := by decide +kernel

/-- R309, R311: SYS traps with cause 0x0E or 0x0F at the next bundle's address; the handler is at 0x7_0000 in supervisor mode. -/
theorem test_sys : let g := groupOf (after (.sys 5) demo) 2
    g.super = true ∧ (splitOf g 0).pc = 0x70000 ∧ g.epc = 32 ∧ g.einfo = 5 ∧ g.user.isSome := by decide +kernel

/-- R306: ERET in user mode is privileged (0x0C), reported for the scalar slot (6). -/
theorem test_eret_user : let g := groupOf (after .eret demo) 2
    g.super = true ∧ g.ecause = 0x0C + 6 * 2 ^ 9 ∧ g.epc = 0 := by decide +kernel

/-- R155-R157: carry, high products, and the saturating forms at their ends. -/
theorem test_ia : iaLane .add 0xFFFFFFFF 1 0 = { o := 0, x := some 1 } ∧ iaLane .sub 0 1 0 = { o := 0xFFFFFFFF, x := some 1 } ∧
    (iaLane .mulhi 0x80000000 0x80000000 0).o = 0x40000000 ∧ (iaLane .adds 0x7FFFFFFF 1 0).o = 0x7FFFFFFF ∧
    (iaLane .subus 0 1 0).o = 0 ∧ (iaLane .abs 0x80000000 0 0).o = 0x80000000 ∧ (iaLane .clz 0 0 0).o = 32 := by decide +kernel

/-- R61, R165: 1 + 2^-24 ties to even, rounds up under ru, and 2^-149 x 2^-149 underflows. -/
theorem test_fm : fmLane (.add .rn) 0x3F800000 0x33800000 0 = { o := 0x3F800000, flags := 16 } ∧
    (fmLane (.add .ru) 0x3F800000 0x33800000 0).o = 0x3F800001 ∧ (fmLane (.mul .rn) 0x00000001 0x00000001 0).o = 0 ∧
    (fmLane (.fma .rn) 0x40000000 0x40400000 0x3F800000).o = 0x40E00000 := by decide +kernel

/-- R171, R172: 1 / 0 is infinity with divide-by-zero; the root of 2 rounded to nearest. -/
theorem test_sf : sfLane .div 0x3F800000 0 = { o := 0x7F800000, flags := 2 } ∧ (sfLane .sqrt 0x40000000 0).o = 0x3FB504F3 ∧ (sfLane .div 0x3F800000 0x40400000).o = 0x3EAAAAAB := by
  decide +kernel

/-- R182: ballot of the odd lanes among the low 16. -/
theorem test_ballot : laneGet (xlGroup false .ballot 0 0x0000FFFF [] (laneFill fun l => BitVec.ofNat 32 l)).o 3 = 0xAAAA := by decide +kernel

/-- R184: an inclusive sum of lane numbers up to lane 31. -/
theorem test_scan : laneGet (xlGroup false .scan 0 0xFFFFFFFF [] (laneFill fun l => BitVec.ofNat 32 l)).o 31 = 496 := by decide +kernel

/-- R7: a scalar store to the scratchpad leaves its bytes little-endian once it is performed. -/
theorem test_store : let s := after (.storeAccept 2 1) (after (.sst 6 2 0 0) (withG (withS 2 0xFFF0000000000010) (sr 6 0x0102030405060708)))
    memRead (coreOf s 0).sp 0x10 8 = [8, 7, 6, 5, 4, 3, 2, 1] := by decide +kernel

/-- Every step of an empty module makes time pass and keeps its memories. -/
theorem test_step : ∃ t, step State.reset = .next t ∧ t.mem = [] := ⟨_, rfl, rfl⟩

/-! ## Host software: qvas, qvdis, code objects, Olsis (R112-R116, R342-R348) -/

/-- The kernel of spec 05 after R116. -/
def lanebaseText : Text :=
  ("        .kernel lanebase, groups=1, rec=0, pclass=0\n        .profile 2\n        .regs 8\n        .scratch 0\n" ++
   "        .barriers 0\n0x0000: -\n        | s1 -> ia0.a!          ; held: survives the trigger\n        | lane -> ia0.b\n" ++
   "        | 2 -> ia0.lea          ; o := a + (b << 2)\n0x0020: -\n0x0040: EXIT\n        | ia0.o -> v1           ; due at this bundle\n" ++
   "        .kend\n").toList

/-- What qvas made of a text. -/
def assembled (t : Text) : AsmOut :=
  match assemble t with
  | .ok o => o
  | .error _ => {}

/-- The words that spec 05 gives the kernel after R116. -/
theorem test_qvas_lanebase :
    [0, 0x20, 0x40].map (wordsAt (assembled lanebaseText)) =
      [[0x02006003, 0x02086120, 0x040EC004, 0, 0, 0, 0, 0], [0, 0, 0, 0, 0, 0, 0, 0], [0x0000A000, 0, 0, 0, 0, 0, 0, 0x00201B00]] := by
  decide +kernel

/-- Its descriptor: PROF 2, NREG 1, NGRP 1 (R13), entry 0. -/
theorem test_qvas_descriptor :
    (assembled lanebaseText).kernels = [("lanebase".toList, leBytes 8 (2 * 2 ^ 60 + 2 ^ 53 + 2 ^ 31) ++ leBytes 8 0)] := by
  decide +kernel

/-- The bundle of spec 06: an FP32 literal goes to slot 5. -/
theorem test_qvas_literal :
    wordsAt (assembled ("0x0000: ADD s5, s5, 1\n | (m3) v12 -> fm0.a\n | v7 -> fm0.b\n | 1.5 -> fm0.fma ; rn\n").toList) 0 =
      [0x32400018, 0x0248000E, 0x0440614A, 0, 0, 0x3FC00000, 0x50000001, 0x08200014] := by
  decide +kernel

/-- R112: six moves and a long immediate are an error, and so is a wrong address. -/
theorem test_qvas_errors :
    assemble ("-\n | 5000 -> v1\n | v0 -> v2\n | v0 -> v3\n | v0 -> v4\n | v0 -> v5\n | v0 -> v6\n").toList = .error .slots ∧
      assemble ("0x0020: EXIT\n").toList = .error (.address 0 0x20) := by
  decide +kernel

/-- R116: what qvdis prints of the ADD bundle assembles to the same words, and the bundle of spec 06's table with H = 1 on a register is
printed as words with the slot named. -/
theorem test_qvdis :
    (showWord 0 1).head? = some (".word 0x00000001        ; illegal: slot 0, H = 1 with destination v0".toList) ∧
      showWord 128 (BitVec.ofNat 256 (0x0020A1FF * 2 ^ 224 + 0xFFFC0009 * 2 ^ 192)) = ["0x00080: LOOP at_00000, s9".toList] ∧
      (showWord 0 (BitVec.ofNat 256 (0x0020A1FF * 2 ^ 224 + 0xFFFC0009 * 2 ^ 192))).length = 8 := by
  decide +kernel

/-- An object of one Y40 overlay in slot 0 that holds one bundle, and one kernel descriptor (R342). -/
def smallObject (nreg kind : Nat) : List Byte :=
  leBytes 8 (0x4F435859 + 2 ^ 32 + 2 * 2 ^ 48) ++ leBytes 8 (2 + 16 + 256) ++ leBytes 8 0x12 ++ leBytes 8 64 ++ List.replicate 32 0 ++
  leBytes 8 (1 + 2 ^ 11) ++ leBytes 8 128 ++ leBytes 8 32 ++ leBytes 8 0 ++
  leBytes 8 kind ++ leBytes 8 160 ++ leBytes 8 16 ++ leBytes 8 0 ++
  List.replicate 32 0 ++ leBytes 8 (2 * 2 ^ 60 + nreg * 2 ^ 53 + 2 ^ 31) ++ leBytes 8 0

/-- R343: loaded; refused for a feature, a profile, a header error and a reserved KIND. -/
theorem test_object_refusals :
    objRefusal 0xFF (smallObject 1 2) = none ∧ objRefusal 0xEF (smallObject 1 2) = some .feature ∧
      objRefusal 0xFD (smallObject 1 2) = some .feature ∧ objRefusal 0xFF (smallObject 0 2) = some .descriptorHeader ∧
      objRefusal 0xFF (smallObject 1 6) = some .malformed := by
  decide +kernel

/-- R348's example: a key over 184 bytes, whose bytes 144-151 and 160-167 are as printed, and FEATVEC and NUMVER at reset. -/
theorem test_cache_bytes :
    let b := cacheBytes (List.replicate 144 0) 0x0000000300010000 0xFF 0x0000000001000042 1
    b.length = 184 ∧ (b.drop 144).take 8 = [0x00, 0x00, 0x01, 0x00, 0x03, 0x00, 0x00, 0x00] ∧
      (b.drop 160).take 8 = [0x42, 0x00, 0x00, 0x01, 0x00, 0x00, 0x00, 0x00] := by
  decide +kernel

/-- An operation word of R345. -/
def olsisWord (unit opc ra rb rc rg aux : Nat) : Nat :=
  unit * 2 ^ 60 + opc * 2 ^ 54 + ra * 2 ^ 46 + rb * 2 ^ 38 + rc * 2 ^ 30 + rg * 2 ^ 22 + aux

/-- GET c0; CONST 5; ia add; PUT c4; BRO 2, guarded by bit 0 of c0. -/
def smallOlsis : List Byte :=
  ([5, 0, olsisWord 12 0 255 255 255 255 0, 12 * 2 ^ 60 + 3 * 2 ^ 54 + 5 * 2 ^ 22, olsisWord 0 0 0 1 255 255 0,
    olsisWord 12 1 2 255 255 255 4, olsisWord 12 2 255 255 255 0 2, 0]).flatMap (leBytes 8)

/-- What the block leaves in the lanes of the group with GIX 1. -/
def smallOlsisRun : OlsisEnd :=
  match olsisBlocks smallOlsis with
  | some (k :: _) => olsisRun false 0 0xFFFFFFFF ⟨0, 0, [], 0, [], []⟩ (olsisEntry 1 0 0) k
  | _ => .trap []

/-- R346: lane l ends with c4 = 32 + l + 5; odd lanes go to the block at 2 x 16, even ones end. -/
theorem test_olsis_block :
    (match smallOlsisRun with
      | .commit _ c _ n => (laneGet (c.getD 4 []) 3, n.getD 3 none, n.getD 4 none)
      | .trap _ => (0, none, some 0)) = (40, some 2, none) := by
  decide +kernel

/-- R346: a producer at or above the operation's own index makes the section malformed. -/
theorem test_olsis_malformed :
    olsisBlocks (([1, 0, olsisWord 12 1 0 255 255 255 4, 0]).flatMap (leBytes 8)) = none := by
  decide +kernel

end Sys2Proof.Tests
end

namespace Sys2Proof.Proofs
open Sys2Proof.Machine Sys2Proof.Safety

/-! ### Memories (R7) -/

/-- Settles O48, by evaluation: after reset every memory lists no byte. -/
theorem resetMemories : Obligations.ResetMemories := by
  unfold Obligations.ResetMemories
  decide

/-- Bytes written read back (R7). -/
theorem memRead_memWrite (m : Mem) (a : Nat) (bs : List Byte) (h : memWf m = true) : memRead (memWrite m a bs) a bs.length = bs := by
  refine List.ext_getElem (by simp [memRead]) fun i h1 h2 => ?_
  have hi : a ≤ a + i ∧ a + i < a + bs.length := by omega
  simp [memRead, memGet_memWrite m a (a + i) bs h, hi, List.getD_eq_getElem?_getD, h2]

/-- Byte k of a number (R7). -/
theorem leBytes_getD (n v k : Nat) (h : k < n) : ((leBytes n v).getD k 0).toNat = v / 2 ^ (8 * k) % 256 := by
  induction n generalizing v k with
  | zero => omega
  | succ n ih =>
    cases k with
    | zero => simp [leBytes]
    | succ k =>
      have e : (2 : Nat) ^ (8 * (k + 1)) = 256 * 2 ^ (8 * k) := by rw [Nat.mul_add, Nat.pow_add, Nat.mul_comm]
      rw [leBytes, List.getD_cons_succ, ih _ _ (by omega), e, Nat.div_div_eq_div_mul]

/-- A byte that a canonical memory lists is no 0. -/
theorem memGet_head (j : Nat) (b : Byte) (r : Mem) : memGet ((j, b) :: r) j = b := by simp [memGet]

/-- Canonical memories with equal bytes are equal: a listed address holds a byte that is not 0, and below the first one all bytes are 0. -/
theorem memWfFrom_ext (m m' : Mem) (lo : Nat) (h : memWfFrom lo m = true) (h' : memWfFrom lo m' = true)
    (e : ∀ a, memGet m a = memGet m' a) : m = m' := by
  induction m generalizing m' lo with
  | nil =>
    cases m' with
    | nil => rfl
    | cons y r' =>
      obtain ⟨j, b⟩ := y
      simp only [memWfFrom, Bool.and_eq_true, decide_eq_true_eq] at h'
      exact absurd (by rw [← memGet_head j b r', ← e j]; rfl) h'.1.2
  | cons x r ih =>
    obtain ⟨i, b⟩ := x
    have hx := h
    simp only [memWfFrom, Bool.and_eq_true, decide_eq_true_eq] at h
    obtain ⟨⟨-, hb⟩, hr⟩ := h
    cases m' with
    | nil => exact absurd (by rw [← memGet_head i b r, e i]; rfl) hb
    | cons y r' =>
      obtain ⟨j, c⟩ := y
      simp only [memWfFrom, Bool.and_eq_true, decide_eq_true_eq] at h'
      obtain ⟨⟨-, hc⟩, hr'⟩ := h'
      have below {k l : Nat} {d : Byte} {q : Mem} (hq : memWfFrom (l + 1) q = true) (hk : k < l) : memGet ((l, d) :: q) k = 0 := by
        have hl : l ≠ k := by omega
        simp only [memGet, hl, if_false]
        exact memGet_below q (l + 1) k hq (by omega)
      have hij : i = j := by
        rcases Nat.lt_trichotomy i j with hlt | heq | hgt
        · exact absurd ((memGet_head i b r).symm.trans ((e i).trans (below hr' hlt))) hb
        · exact heq
        · exact absurd ((memGet_head j c r').symm.trans ((e j).symm.trans (below hr hgt))) hc
      subst hij
      have hbc : b = c := by have := e i; rwa [memGet_head, memGet_head] at this
      subst hbc
      have hrr : r = r' := by
        refine ih r' (i + 1) hr hr' fun a => ?_
        by_cases ha : i = a
        · subst ha
          rw [memGet_below r (i + 1) i hr (by omega), memGet_below r' (i + 1) i hr' (by omega)]
        · have := e a
          simpa only [memGet, ha, if_false] using this
      rw [hrr]

/-- Settles O46: reads of written bytes, bytes of a number, and the canonical form as the only one. -/
theorem memoryReadsBack : Obligations.MemoryReadsBack := by
  unfold Obligations.MemoryReadsBack
  refine ⟨fun m a bs h => ⟨memWrite_wf m a bs h, memRead_memWrite m a bs h, fun x hx => ?_⟩, fun n v => ⟨leBytes_length n v, ?_, leBytes_getD n v⟩,
    fun m m' h h' e => memWfFrom_ext m m' 0 h h' e⟩
  · rw [memGet_memWrite m a x bs h, if_neg (by omega)]
  · rw [leVal_leBytes, Nat.pow_mul]

end Sys2Proof.Proofs

namespace Sys2Proof.Proofs
open Sys2Proof.Machine Sys2Proof.Safety

/-! ### The canonical form is kept by every step

One lemma per function of the model, in the model's order and named `after_<function>`: it takes a state with canonical memories to one.
Only the functions that write a memory need the facts about `memWrite`; the others change fields that `Canonical` does not read (`frame`) or
call functions whose lemma stands before theirs. -/

/-- Every memory of a state is in canonical form. -/
def Canonical (s : State) : Prop := memoriesWf s = true

/-! ### Operations on one core that leave its memories alone -/

theorem coreMemWf_accWrite {c : Core} {team i : Nat} {ws : List (Nat × Word)} (h : coreMemWf c = true) :
    coreMemWf (accWrite c team i ws) = true := h

theorem coreMemWf_foldl {α : Type} {f : Core → α → Core} (hf : ∀ c a, coreMemWf c = true → coreMemWf (f c a) = true) {l : List α} {c : Core}
    (h : coreMemWf c = true) : coreMemWf (l.foldl f c) = true := by
  induction l generalizing c with
  | nil => exact h
  | cons a r ih => exact ih (hf c a h)

theorem coreMemWf_takeTiles {c : Core} {tid : Nat} {is : List Nat} (h : coreMemWf c = true) : coreMemWf (takeTiles c tid is) = true :=
  coreMemWf_foldl (f := fun c i => accTake c tid i) (fun _ _ h => h) h

theorem coreMemWf_lockBanks {c : Core} {owner : Nat} {rs : List (Nat × Nat)} (h : coreMemWf c = true) :
    coreMemWf (lockBanks c owner rs) = true := by
  unfold lockBanks
  split
  · exact h
  · exact h

theorem coreMemWf_unlockBanks {c : Core} {owner : Nat} (h : coreMemWf c = true) : coreMemWf (unlockBanks c owner) = true := h

/-- Bytes written to a core's instruction memory. -/
theorem coreMemWf_imem {c : Core} {a : Nat} {b : List Byte} {imemPoison ovres supplied} (h : coreMemWf c = true) :
    coreMemWf { c with imem := memWrite c.imem a b, imemPoison, ovres, supplied } = true := by
  simp only [coreMemWf, Bool.and_eq_true] at h ⊢
  exact ⟨h.1, memWrite_wf _ _ _ h.2⟩

theorem coreMemWf_imagePut {c : Core} {a : Nat} {b : List Byte} {p : Bool} (h : coreMemWf c = true) : coreMemWf (imagePut c a b p) = true :=
  coreMemWf_imem h

/-! ### The adjoint of an entry (R299, R300) works on a core's accumulators -/

theorem revWrite_core {o : RevOut} {tid acc : Nat} {ws : List (Nat × FRes)} (h : coreMemWf o.core = true) :
    coreMemWf (revWrite o tid acc ws).core = true := h

theorem revAdd_core {o : RevOut} {tid acc : Nat} {keys : List (Nat × Nat)} {p : Nat → Nat → PVal} (h : coreMemWf o.core = true) :
    coreMemWf (revAdd o tid acc keys p).core = true := h

theorem revPush_core {o : RevOut} {t : Team} {q rows cols : Nat} {f : Nat → Nat → FRes} (h : coreMemWf o.core = true) :
    coreMemWf (revPush o t q rows cols f).core = true := by
  unfold revPush
  split
  · exact h
  · exact h

theorem adjointTmma_core {o : RevOut} {t : Team} {e : Entry} {gd : Nat → Nat → Nat} {a b : RevOperand} (h : coreMemWf o.core = true) :
    coreMemWf (adjointTmma t e gd a b o).core = true := revPush_core (revPush_core h)

theorem adjointTout_core {o : RevOut} {tid : Nat} {t : Team} {e : Entry} {dy : Nat → Nat → FRes} {a b : RevOperand} (h : coreMemWf o.core = true) :
    coreMemWf (adjointTout tid t e dy a b o).core = true := by
  unfold adjointTout
  dsimp only
  split
  · exact h
  · split
    · split
      · exact revAdd_core h
      · exact revWrite_core (revAdd_core h)
    · exact revAdd_core h

theorem adjointTew_core {o : RevOut} {tid : Nat} {t : Team} {e : Entry} {gd : Nat → Nat → Nat} {a b : RevOperand} (h : coreMemWf o.core = true) :
    coreMemWf (adjointTew tid t e gd a b o).core = true := by
  unfold adjointTew
  extract_lets keys mul forA forB o1 o2
  have h1 : coreMemWf o1.core = true := by unfold o1; split <;> exact h
  have h2 : coreMemWf o2.core = true := by
    unfold o2
    split
    · exact h1
    · exact revAdd_core h1
  split
  · split
    · exact h2
    · exact revAdd_core h2
  · exact revPush_core h2

theorem adjoint_core {s : State} {tid : Nat} {rd : Nat → Byte} {p : Option Entry} {e : Entry} (h : memoriesWf s = true) :
    coreMemWf (adjoint s tid rd p e).core = true := by
  unfold adjoint
  extract_lets t c a b gacc tile gd o o1 keys onto
  have hc : coreMemWf o.core = true := coreMemWf_takeTiles (coreMemWf_of s t.core h)
  clear_value gacc
  have h1 : coreMemWf o1.core = true := by
    unfold o1
    split
    · split
      · exact revWrite_core hc
      · exact hc
    · exact hc
  have h2 (f : Nat → Nat → PVal) : coreMemWf (onto f).core = true := by
    unfold onto
    split
    · exact h1
    · exact revAdd_core h1
  split
  · exact adjointTmma_core h1
  · exact adjointTout_core h1
  · exact revPush_core h1
  · exact h1
  · exact adjointTew_core h1
  · exact adjointTew_core h1
  · exact h2 _
  · exact h2 _
  · exact h2 _
  · exact h2 _
  · exact h1
  · exact h1

theorem poisonRev_core {s : State} {tid : Nat} {old : Core} {o : RevOut} (h : coreMemWf o.core = true) :
    coreMemWf (poisonRev s tid old o).core = true := by
  unfold poisonRev
  exact coreMemWf_foldl (fun _ _ h => coreMemWf_accWrite h) h

theorem memWf_foldl {α : Type} {f : Mem → α → Mem} (hf : ∀ m a, memWf m = true → memWf (f m a) = true) {l : List α} {m : Mem}
    (h : memWf m = true) : memWf (l.foldl f m) = true := by
  induction l generalizing m with
  | nil => exact h
  | cons a r ih => exact ih (hf m a h)

/-! ### States -/

namespace Canonical

variable {s u : State}

/-- Only the memories matter. -/
theorem frame {
    agenda focus cur free nextId gtime memPoison hostPoison tlps hostPosted peerPoison peerRefuses ats groups teams clusters dies tasks
    domains hubServed queues qown funcs pcap pfloor idle capAt input didtDn modid minw partmap fpart secure hold preempting svload svAddr
    rasCe rasUe rasRes devReady bring retcl retlnk alarm keyLost attKey replace measure alarms ports flitsOut}
    (h : Canonical s) : Canonical { s with
      agenda, focus, cur, free, nextId, gtime, memPoison, hostPoison, tlps, hostPosted, peerPoison, peerRefuses, ats, groups, teams,
      clusters, dies, tasks, domains, hubServed, queues, qown, funcs, pcap, pfloor, idle, capAt, input, didtDn, modid, minw, partmap,
      fpart, secure, hold, preempting, svload, svAddr, rasCe, rasUe, rasRes, devReady, bring, retcl, retlnk, alarm, keyLost, attKey,
      replace, measure, alarms, ports, flitsOut } := h

theorem ite {p : Prop} [Decidable p] {a b : State} (ha : Canonical a) (hb : Canonical b) : Canonical (if p then a else b) := by
  split
  · exact ha
  · exact hb

/-- A fold over results that carry a state. -/
theorem foldl_of {α β : Type} {st : β → State} {f : β → α → β} (hf : ∀ b a, Canonical (st b) → Canonical (st (f b a))) {l : List α} {b : β}
    (h : Canonical (st b)) : Canonical (st (l.foldl f b)) := by
  induction l generalizing b with
  | nil => exact h
  | cons a r ih => exact ih (hf b a h)

theorem foldl {α : Type} {f : State → α → State} (hf : ∀ s a, Canonical s → Canonical (f s a)) {l : List α} (h : Canonical s) :
    Canonical (l.foldl f s) := foldl_wf f hf l s h

theorem core (h : Canonical s) {k : Nat} : coreMemWf (coreOf s k) = true := coreMemWf_of s k h

/-- Of a core, only its two memories matter. -/
theorem frame_core {k : Nat} {
    imemPoison ovres supplied loads spPoison pmap lines locks acc tables copies tlb swapth ilim weir closing}
    (h : Canonical s) : coreMemWf { coreOf s k with
      imemPoison, ovres, supplied, loads, spPoison, pmap, lines, locks, acc, tables, copies, tlb, swapth, ilim, weir, closing } = true :=
        h.core (k := k)

theorem sp (h : Canonical s) {k : Nat} : memWf (coreOf s k).sp = true := by
  have hc := h.core (k := k)
  simp only [coreMemWf, Bool.and_eq_true] at hc
  exact hc.1

theorem imem (h : Canonical s) {k : Nat} : memWf (coreOf s k).imem = true := by
  have hc := h.core (k := k)
  simp only [coreMemWf, Bool.and_eq_true] at hc
  exact hc.2

theorem mem (h : Canonical s) : memWf s.mem = true := by
  simp only [Canonical, memoriesWf, Bool.and_eq_true] at h
  exact h.1.1.1

theorem hostMem (h : Canonical s) : memWf s.hostMem = true := by
  simp only [Canonical, memoriesWf, Bool.and_eq_true] at h
  exact h.1.1.2

theorem with_mem {m : Mem} (h : Canonical s) (hm : memWf m = true) : Canonical { s with mem := m } := setMem_wf s m h hm

theorem with_hostMem {m : Mem} (h : Canonical s) (hm : memWf m = true) : Canonical { s with hostMem := m } := setHostMem_wf s m h hm

/-- A core whose scratchpad and instruction memory are in canonical form. -/
theorem coreMem {c : Core} (hs : memWf c.sp = true) (hi : memWf c.imem = true) : coreMemWf c = true := by
  simp only [coreMemWf, hs, hi, Bool.and_self]

theorem after_setCore {k : Nat} {c : Core} (h : Canonical s) (hc : coreMemWf c = true) : Canonical (setCore s k c) := setCore_wf s k c h hc

/-- A change of every core that leaves its memories alone. -/
theorem after_mapCores {f : Core → Core} (h : Canonical s) (hf : ∀ c, coreMemWf (f c) = coreMemWf c) :
    Canonical { s with cores := s.cores.map fun e => (e.1, f e.2) } := by
  simpa only [Canonical, memoriesWf, List.all_map, Function.comp_def, hf] using h

theorem after_setGroup {k : Nat} {x : Group} (h : Canonical s) : Canonical (setGroup s k x) := h
theorem after_setTeam {k : Nat} {x : Team} (h : Canonical s) : Canonical (setTeam s k x) := h
theorem after_setCluster {k : Nat} {x : Cluster} (h : Canonical s) : Canonical (setCluster s k x) := h
theorem after_setDie {k : Nat} {x : Die} (h : Canonical s) : Canonical (setDie s k x) := h
theorem after_setFunc {k : Nat} {x : Func} (h : Canonical s) : Canonical (setFunc s k x) := h
theorem after_setQueue {k : Nat} {x : HostQueue} (h : Canonical s) : Canonical (setQueue s k x) := h
theorem after_setTask {k : Nat} {x : Task} (h : Canonical s) : Canonical (setTask s k x) := h
theorem after_setPort {k : Nat} {x : Port} (h : Canonical s) : Canonical (setPort s k x) := h
theorem after_rawWrite {f : Nat} {sp : Space} {a : Nat} {bs : List Byte} {p : Bool} (h : Canonical s) :
    Canonical (rawWrite s f sp a bs p) := rawWrite_wf s f sp a bs p h
theorem after_spaceWrite {core f : Nat} {sp : Space} {a : Nat} {bs : List Byte} {p : Bool} (h : Canonical s) :
    Canonical (spaceWrite s core f sp a bs p) := spaceWrite_wf s core f sp a bs p h
theorem after_invalidateBlocks {core a n : Nat} (h : Canonical s) :
    Canonical (invalidateBlocks s core a n) := invalidateBlocks_wf s core a n h
theorem after_writeBack {k n : Nat} {l : PolderLine} (h : Canonical s) : Canonical (writeBack s k n l) := writeBack_wf s k n l h
theorem after_dropLine {k n : Nat} (h : Canonical s) : Canonical (dropLine s k n) := dropLine_wf s k n h
theorem after_recallRange {sp : Space} {k : Nat × Nat} {n : Nat} {w : Bool} (h : Canonical s) :
    Canonical (recallRange s sp k n w) := recallRange_wf s sp k n w h

/-! ### Ops -/

theorem after_drawBit (h : Canonical s) : Canonical (drawBit s).2 := h.frame

theorem after_drawNat (h : Canonical s) : Canonical (drawNat s).2 := h.frame

theorem after_sendMsix {f vec : Nat} (h : Canonical s) : Canonical (sendMsix s f vec) := h.frame

theorem after_setEvent {f bit : Nat} (h : Canonical s) : Canonical (setEvent s f bit) := ite h h.after_setFunc.after_sendMsix

theorem after_unthrottle {core gid : Nat} (h : Canonical s) : Canonical (unthrottle s core gid) := ite (h.after_setCore h.frame_core) h

theorem after_endGroup {gid : Nat} (h : Canonical s) : Canonical (endGroup s gid) := h.after_setGroup.after_setTeam.after_unthrottle

theorem after_failTask {t code : Nat} (h : Canonical s) : Canonical (failTask s t code) := h.after_setTask

theorem after_killGroup {gid : Nat} (h : Canonical s) : Canonical (killGroup s gid) := h.after_endGroup.after_failTask

theorem after_takeTrap {gid sid : Nat} {t : TrapInfo} {pc : Nat} {ports : Table PortCell} (h : Canonical s) :
    Canonical (takeTrap s gid sid t pc ports) :=
  ite h.after_killGroup h.after_setGroup

/-! ### Hints -/

theorem after_setHints {gid : Nat} {hs : List Hint} (h : Canonical s) : Canonical (setHints s gid hs) :=
  ite h.after_setGroup h.after_setGroup.after_unthrottle

theorem after_hintStarts {gid : Nat} (h : Canonical s) : Canonical (hintStarts s gid) := by
  unfold hintStarts
  split
  · exact h
  · exact h.after_setHints

theorem after_declareHint {gid onset intensity micros : Nat} {stagger : Bool} (h : Canonical s) :
    Canonical (declareHint s gid onset intensity micros stagger) :=
  ite h.after_setDie.after_setHints h.after_setDie.after_setGroup

theorem after_hintEnds {gid : Nat} (h : Canonical s) : Canonical (hintEnds s gid) := ite h.after_setHints h

/-! ### Flits -/

theorem after_putFlit {p type : Nat} (h : Canonical s) : Canonical (putFlit s p type) := h.after_setPort.frame

theorem after_sendFlit {p type : Nat} (h : Canonical s) : Canonical (sendFlit s p type) := ite h.after_setPort h.after_putFlit

theorem after_pumpPort {n p : Nat} (h : Canonical s) : Canonical (pumpPort n s p) := by
  induction n generalizing s with
  | zero => exact h
  | succ n ih =>
    unfold pumpPort
    dsimp only
    split
    · exact h
    · split
      · exact h
      · exact ih h.after_setPort.after_putFlit

theorem after_sendAck {p : Nat} {nak : Bool} (h : Canonical s) : Canonical (sendAck s p nak) := h.frame

theorem after_peerSend {f a : Nat} (h : Canonical s) : Canonical (peerSend s f a) := by
  unfold peerSend
  split
  · exact h
  · exact h.frame.after_sendFlit

/-! ### Translate -/

theorem after_setPoison {core f : Nat} {sp : Space} {a : Nat} {ps : List Nat} (h : Canonical s) :
    Canonical (setPoison s core f sp a ps) := by
  unfold setPoison
  dsimp only
  split
  · exact h.frame
  · exact h.frame
  · exact h.frame
  · exact h.after_setCore h.frame_core

theorem after_clearPoison {core f : Nat} {sp : Space} {addrs : List Nat} (h : Canonical s) : Canonical (clearPoison s core f sp addrs) := by
  unfold clearPoison
  dsimp only
  split
  · exact h
  · split
    · exact h
    · exact h.after_setPoison

theorem after_markPoison {core : Nat} {sp : Space} {a n : Nat} (h : Canonical s) : Canonical (markPoison s core sp a n) :=
  h.after_setPoison

theorem after_hostSend {f a : Nat} {kind : TlpKind} {bytes : List Byte} {poison : Bool} (h : Canonical s) :
    Canonical (hostSend s f a kind bytes poison) :=
  (h.with_hostMem (memWrite_wf _ a bytes h.hostMem)).frame

theorem after_sendOrdered {n : Nat} (h : Canonical s) : Canonical (sendOrdered n s) := h.frame

theorem after_dropLines {k : Nat} {ns : List Nat} (h : Canonical s) : Canonical (dropLines s k ns) :=
  foldl (fun _ _ h => h.after_dropLine) h

theorem after_refillBlocks {core a n : Nat} (h : Canonical s) : Canonical (refillBlocks s core a n) :=
  foldl (fun _ _ h => ite h.after_setTeam h) h

theorem after_walkReads {f asid va : Nat} (h : Canonical s) : Canonical (walkReads s f asid va) :=
  foldl (fun _ _ h => h.after_recallRange) h

theorem after_setAD {fr : Frame} {write : Bool} (h : Canonical s) : Canonical (setAD s fr write) := by
  unfold setAD
  dsimp only
  split
  · exact h
  · exact ite h h.after_spaceWrite

theorem after_touchPage {core f asid va : Nat} {fr : Frame} {write : Bool} (h : Canonical s) :
    Canonical (touchPage s core f asid va fr write) := by
  unfold touchPage
  extract_lets u1 u2 size e c u3 d
  have h1 : Canonical u1 := ite h.after_walkReads h
  have h2 : Canonical u2 := h1.after_setAD
  have h3 : Canonical u3 := by
    unfold u3
    split
    · exact h2
    · exact h2.after_setCore h2.frame_core
  exact ite h3 h3.after_setDie

/-! ### Memory -/

theorem after_fillLine {core n f : Nat} {fr : Frame} (h : Canonical s) : Canonical (fillLine s core n f fr) := by
  unfold fillLine
  extract_lets fr u1 u2 bytes bad u3 c
  have h2 : Canonical u2 := ite h.after_recallRange.after_peerSend h.after_recallRange
  have h3 : Canonical u3 := ite h2.after_setEvent h2
  exact h3.after_setCore (coreMem (memWrite_wf _ _ _ h3.sp) h3.imem)

theorem after_ensureLine {core a : Nat} (h : Canonical s) : Canonical (ensureLine s core a) := by
  unfold ensureLine
  split
  · exact h.after_touchPage.after_fillLine
  · exact h

theorem after_ensureRange {core a n : Nat} (h : Canonical s) : Canonical (ensureRange s core a n) :=
  foldl (fun _ _ h => h.after_ensureLine) h

theorem after_recallOthers {core n : Nat} {l : PolderLine} (h : Canonical s) : Canonical (recallOthers s core n l) :=
  foldl (fun _ _ h => h.after_dropLines) h

theorem after_dirtyLine {core a : Nat} (h : Canonical s) : Canonical (dirtyLine s core a) := by
  unfold dirtyLine
  split
  · exact h
  · extract_lets u1 u2 c
    have h1 : Canonical u1 := h.after_recallOthers.after_setAD
    have h2 : Canonical u2 := ite h1.after_invalidateBlocks h1
    exact h2.after_setCore h2.frame_core

theorem after_spadPut {core a : Nat} {bytes : List Byte} {poison : Bool} (h : Canonical s) : Canonical (spadPut s core a bytes poison) :=
  ite h ((foldl (fun _ _ h => h.after_dirtyLine) h.after_ensureRange).after_spaceWrite)

theorem after_spadGet {core a n : Nat} (h : Canonical s) : Canonical (spadGet s core a n).2 := h.after_ensureRange

theorem after_placeGet {core f : Nat} {sp : Space} {a n : Nat} (h : Canonical s) : Canonical (placeGet s core f sp a n).2.2 := by
  unfold placeGet
  dsimp only
  split
  · exact h.after_spadGet
  · exact h.after_recallRange.after_refillBlocks
  · exact h.after_recallRange
  · dsimp only
    split
    · exact h.after_recallRange.after_peerSend.after_setEvent
    · exact h.after_recallRange.after_peerSend

theorem after_placePut {core f : Nat} {sp : Space} {a : Nat} {bytes : List Byte} {poison : Bool} (h : Canonical s) :
    Canonical (placePut s core f sp a bytes poison) := by
  unfold placePut
  split
  · exact h.after_spadPut
  · exact h.after_peerSend.after_spaceWrite
  · exact h.after_spaceWrite
  · exact h.after_spaceWrite

theorem after_readElem {core f : Nat} {e : Elem} (h : Canonical s) : Canonical (readElem s core f e).2 := by
  unfold readElem
  dsimp only
  split
  · exact h
  · exact h.after_placeGet

theorem after_readElems {core f : Nat} {es : List Elem} (h : Canonical s) : Canonical (readElems s core f es).2 := by
  induction es generalizing s with
  | nil => exact h
  | cons e r ih => exact ih h.after_readElem

theorem after_clearElems {core f : Nat} {es : List Elem} (h : Canonical s) : Canonical (clearElems s core f es) :=
  foldl (fun _ _ h => h.after_clearPoison) h

theorem after_writeElems {core f : Nat} {es : List Elem} (h : Canonical s) : Canonical (writeElems s core f es) :=
  (foldl (fun _ _ h => h.after_placePut) h).after_clearElems

theorem after_putWord {core f : Nat} {op : StOp} {e : Elem} {w : Word} {poison : Bool} (h : Canonical s) :
    Canonical (putWord s core f op e w poison) :=
  ite h.after_recallRange.after_hostSend h.after_placePut

theorem after_rmwElem {core f : Nat} {op : StOp} {e : Elem} (h : Canonical s) : Canonical (rmwElem s core f op e).2 := by
  unfold rmwElem
  dsimp only
  split
  · exact h
  · exact h.after_placeGet.after_putWord

theorem after_rmwElems {core f : Nat} {op : StOp} {es : List Elem} (h : Canonical s) : Canonical (rmwElems s core f op es).2 := by
  induction es generalizing s with
  | nil => exact h
  | cons e r ih => exact ih h.after_rmwElem

theorem after_bytesOf {core f : Nat} {es : List Elem} (h : Canonical s) : Canonical (bytesOf s core f es).2.2 := by
  refine foldl_of (st := fun x : List Byte × Bool × State => x.2.2) (fun _ _ h => ?_) (b := ([], false, s)) h
  exact h.after_placeGet

theorem after_bytesSeen {core f : Nat} {es : List Elem} (h : Canonical s) : Canonical (bytesSeen s core f es).2.2 := by
  refine foldl_of (st := fun x : List Byte × Bool × State => x.2.2) (fun _ _ h => ?_) (b := ([], false, s)) h
  exact h.after_readElem

theorem after_bytesPut {core f : Nat} {es : List Elem} {bs : List Byte} (h : Canonical s) : Canonical (bytesPut s core f es bs) := by
  induction es generalizing s bs with
  | nil => exact h
  | cons e r ih => exact ih (ite h h.after_placePut)

theorem after_tldLane {core f fmt : Nat} {hem : Word} {t : TElem} (h : Canonical s) : Canonical (tldLane s core f fmt hem t).2.2 :=
  h.after_bytesSeen.after_bytesSeen

theorem after_tldLanes {core f fmt : Nat} {hem : Word} {ts : List TElem} (h : Canonical s) :
    Canonical (tldLanes s core f fmt hem ts).2 := by
  induction ts generalizing s with
  | nil => exact h
  | cons t r ih => exact ih (h.after_tldLane (fmt := fmt) (hem := hem))

theorem after_settleGroups {core f : Nat} {ts : List TElem} (h : Canonical s) : Canonical (settleGroups s core f ts) := by
  refine foldl (fun _ _ h => ?_) h
  dsimp only
  split
  · exact h.after_bytesOf
  · exact h.after_bytesOf.after_bytesPut.frame

theorem after_putCode {core f fmt : Nat} {place : List Elem} {sub code : Nat} (h : Canonical s) :
    Canonical (putCode s core f fmt place sub code) :=
  ite h.after_bytesOf.after_bytesPut h.after_bytesPut

theorem after_putBlock {core f fmt draw : Nat} {ts : List TElem} {t : TElem} (h : Canonical s) :
    Canonical (putBlock s core f fmt draw ts t).1 :=
  after_bytesPut (foldl_of (st := fun x : State × Flags => x.1) (fun _ _ h => h.after_putCode) h)

theorem after_tstPerform {core f fmt draw : Nat} {ts : List TElem} (h : Canonical s) : Canonical (tstPerform s core f fmt draw ts).1 := by
  unfold tstPerform
  extract_lets ts written
  split
  · refine after_clearElems (foldl_of (st := fun x : State × Flags => x.1) (fun _ _ h => ?_) (b := (s, 0)) h)
    exact h.after_putBlock
  · exact (foldl (fun _ _ h => h.after_putCode) (ite h.after_settleGroups h)).after_clearElems

theorem after_makeArrival {gid : Nat} {a : Arrival} (h : Canonical s) : Canonical (makeArrival s gid a) := h.after_setGroup.after_setTeam

theorem after_settleArrivals {n gid : Nat} (h : Canonical s) : Canonical (settleArrivals n s gid) := by
  induction n generalizing s with
  | zero => exact h
  | succ n ih =>
    unfold settleArrivals
    dsimp only
    split
    · exact h
    · split
      · exact ih h.after_setGroup.after_makeArrival
      · exact h

theorem after_afterOp {gid : Nat} (h : Canonical s) : Canonical (afterOp s gid) := h.after_settleArrivals

theorem after_performOp {gid : Nat} {op : MemOp} (h : Canonical s) : Canonical (performOp s gid op).1 := by
  unfold performOp
  dsimp only
  split
  · exact (ite h.after_readElems.after_sendOrdered h.after_readElems).after_setGroup.after_afterOp
  · split
    · exact (ite h.after_rmwElems.after_sendOrdered h.after_rmwElems).after_setGroup.after_afterOp
    · exact (ite h.after_writeElems.after_sendOrdered h.after_writeElems).after_setGroup.after_afterOp
  · exact (ite h.after_writeElems.after_sendOrdered h.after_writeElems).after_setGroup.after_afterOp
  · exact (ite h.after_readElems.after_setGroup.after_sendOrdered h.after_readElems.after_setGroup).after_setGroup.after_afterOp
  · exact (ite h.after_writeElems.after_sendOrdered h.after_writeElems).after_setGroup.after_afterOp
  · exact (ite h.after_readElems.after_sendOrdered h.after_readElems).after_setGroup.after_afterOp
  · exact (ite h.after_tldLanes.after_sendOrdered h.after_tldLanes).after_setGroup.after_afterOp
  · exact (ite h.after_tstPerform.after_setGroup.after_sendOrdered h.after_tstPerform.after_setGroup).after_setGroup.after_afterOp

theorem after_runElem {core f : Nat} {k : MemKind} {e : Elem} (h : Canonical s) : Canonical (runElem s core f k e).2 := by
  unfold runElem
  dsimp only
  split
  · exact h.after_readElem
  · exact h.after_readElem
  · split
    · exact h.after_rmwElem
    · exact h.after_placePut
  · exact h.after_placePut
  · exact h

theorem after_runElems {core f : Nat} {k : MemKind} {ks : List Nat} {n : Nat} {es : List Elem} (h : Canonical s) :
    Canonical (runElems s core f k ks n es).2 := by
  induction es generalizing s n with
  | nil => exact h
  | cons e r ih =>
    unfold runElems
    dsimp only
    split
    · exact ih h.after_runElem
    · exact ih h

theorem after_runTensor {core f : Nat} {k : MemKind} {ks : List Nat} {n : Nat} {ts : List TElem} (h : Canonical s) :
    Canonical (runTensor s core f k ks n ts).2 := by
  induction ts generalizing s n with
  | nil => exact h
  | cons t r ih => exact ih h.after_runElems.after_runElems

theorem after_performSome {gid : Nat} {op : MemOp} {ks : List Nat} (h : Canonical s) : Canonical (performSome s gid op ks) := by
  unfold performSome
  extract_lets t es sent hit
  split
  · exact h
  · split
    rename_i op' u e
    have hu : Canonical u := by
      have e' : _ = u := congrArg Prod.snd e
      rw [← e']
      split
      · exact h.after_runTensor
      · exact h.after_tstPerform
      all_goals exact h.after_runElems
    extract_lets u1 u2 g
    have h1 : Canonical u1 := ite hu.after_clearElems hu
    exact (ite h1.after_sendOrdered h1 : Canonical u2).after_setGroup

theorem after_performElements {gid id part : Nat} {ks : List Nat} (h : Canonical s) : Canonical (performElements s gid id part ks) := by
  unfold performElements
  split
  · exact h.after_performSome
  · exact h

/-! ### Pages -/

theorem after_writeFault {f : Nat} {r : PageReq} (h : Canonical s) : Canonical (writeFault s f r) :=
  h.after_hostSend.after_sendOrdered.after_setFunc.after_sendMsix

theorem after_pumpFaults {n f : Nat} (h : Canonical s) : Canonical (pumpFaults n s f) := by
  induction n generalizing s with
  | zero => exact h
  | succ n ih =>
    unfold pumpFaults
    dsimp only
    split
    · exact h
    · split
      · exact h
      · exact ih h.after_setFunc.after_writeFault

theorem after_raiseReq {f asid va level : Nat} {host : Bool} {kind srck : Nat} {who : List Requester} (h : Canonical s) :
    Canonical (raiseReq s f asid va level host kind srck who).2 :=
  ite h.after_setFunc.after_setEvent (ite h.after_setFunc h.after_setFunc.after_writeFault)

theorem after_touchPieces {core f asid : Nat} {ps : List Piece} {write : Bool} (h : Canonical s) :
    Canonical (touchPieces s core f asid ps write) :=
  foldl (fun _ _ h => h.after_touchPage) h

theorem after_readPieces {core f : Nat} {ps : List Piece} (h : Canonical s) : Canonical (readPieces s core f ps).2.2 := by
  induction ps generalizing s with
  | nil => exact h
  | cons p r ih => exact ih h.after_placeGet

theorem after_writePieces {core f : Nat} {poison : Bool} {ps : List Piece} {b : List Byte} (h : Canonical s) :
    Canonical (writePieces s core f poison ps b) := by
  induction ps generalizing s b with
  | nil => exact h
  | cons p r ih => exact ih h.after_placePut

theorem after_virtRead {core f asid va n : Nat} {sup : Bool} (h : Canonical s) : Canonical (virtRead s core f asid va n sup).2.2 :=
  h.after_touchPieces.after_readPieces

theorem after_virtWrite {core f asid va : Nat} {bytes : List Byte} {sup : Bool} (h : Canonical s) :
    Canonical (virtWrite s core f asid va bytes sup) :=
  h.after_touchPieces.after_writePieces

theorem after_raiseAll {f asid : Nat} {kind : PageMiss → Nat} {srck : Nat} {who : List Requester} {ms : List PageMiss} (h : Canonical s) :
    Canonical (raiseAll s f asid kind srck who ms).2 := by
  induction ms generalizing s with
  | nil => exact h
  | cons m r ih => exact ih h.after_walkReads.after_raiseReq

/-! ### Matrix -/

theorem after_mxAccept {gid opId : Nat} {op : MxOp} {lo hi : DWord} (h : Canonical s) : Canonical (mxAccept s gid opId op lo hi) :=
  ite h.frame.after_setTeam h.frame.after_setTeam

theorem after_mxApply {gid opId : Nat} {op : MxOp} {lo v : DWord} (h : Canonical s) : Canonical (mxApply s gid opId op lo v).1 := by
  unfold mxApply
  dsimp only
  split
  · exact h.after_setTeam
  · exact h.after_setTeam
  · exact h.after_mxAccept

theorem after_settleReaders {before : State} {core owner : Nat} {ends : Bool} {wrote : Nat → Bool} (h : Canonical s) :
    Canonical (settleReaders before s core owner ends wrote) := by
  refine foldl (fun _ _ h => ?_) h
  dsimp only
  split
  · exact h
  · split
    · exact h.after_setTeam.frame
    · exact h

theorem after_startDenied {tid : Nat} {i : EngineItem} {word : DWord} (h : Canonical s) : Canonical (startDenied s tid i word) :=
  h.after_setTeam

theorem after_startTile {tid : Nat} {i : EngineItem} {op : MxOp} {lo hi : DWord} (h : Canonical s) :
    Canonical (startTile s tid i op lo hi) := by
  unfold startTile
  extract_lets t x rs tg u1 u2 c nums u3 src
  split
  · exact h
  · split
    · exact h.after_startDenied
    · split
      · exact h.after_startDenied
      · exact h.after_raiseAll.after_setTeam
      · split
        · exact h
        · have h1 : Canonical u1 := foldl (fun _ _ h => h.after_ensureRange) h
          have h2 : Canonical u2 := by
            unfold u2
            split
            · exact h1
            · exact h1.after_touchPieces
          exact (h2.after_setCore (coreMemWf_lockBanks h2.core)).after_setTeam

theorem after_pokeBytes {core : Nat} {bs : List (Nat × Byte)} (h : Canonical s) : Canonical (pokeBytes s core bs) :=
  (foldl (fun _ _ h => h.after_spadPut) h).after_clearPoison

theorem after_putBytes {core owner : Nat} {shown : List Nat} {bs : List (Nat × Byte)} (h : Canonical s) :
    Canonical (putBytes s core owner shown bs) :=
  ite h h.after_pokeBytes.after_settleReaders

theorem after_showBytes {tid : Nat} {i : EngineItem} {ks : List Nat} {bs : List (Nat × Byte)} (h : Canonical s) :
    Canonical (showBytes s tid i ks bs) :=
  ite h h.after_pokeBytes.after_settleReaders.after_setTeam.frame

theorem after_writeTile {tid owner : Nat} {shown : List Nat} {op : MxOp} {lo hi : DWord} {r : TileRes} (h : Canonical s) :
    Canonical (writeTile s tid owner shown op lo hi r) := by
  unfold writeTile
  extract_lets k c1 c2 c3
  have h1 : coreMemWf c1 = true := coreMemWf_takeTiles h.core
  have h2 : coreMemWf c2 = true := by
    unfold c2
    split
    · exact coreMemWf_accWrite h1
    · exact h1
  have h3 : coreMemWf c3 = true := by
    unfold c3
    split
    · exact h2
    · exact h2
  exact (h.after_setCore h3).after_putBytes

theorem after_performLate {f : Nat} {ws : List LateWrite} (h : Canonical s) : Canonical (performLate s f ws) :=
  foldl (fun _ _ h => h.after_placePut) h

theorem after_writeLining {tid batch va : Nat} {bytes : List Byte} {poison : Bool} (h : Canonical s) :
    Canonical (writeLining s tid batch va bytes poison) :=
  h.after_touchPieces.after_writePieces.after_setTeam.frame

theorem after_showResult {tid : Nat} {i : EngineItem} {op : MxOp} {lo hi : DWord} {ks : List Nat} (h : Canonical s) :
    Canonical (showResult s tid i op lo hi ks) :=
  ite h.after_showBytes h

theorem after_retireTile {tid : Nat} {i : EngineItem} {op : MxOp} {lo hi : DWord} {poisoned : Bool} (h : Canonical s) :
    Canonical (retireTile s tid i op lo hi poisoned) := by
  unfold retireTile
  split
  · exact h
  · extract_lets t v r draws dirty bad s1 s2
    have h1 : Canonical s1 := h.after_writeTile
    have h2 : Canonical s2 := by
      unfold s2
      split
      · exact h1
      · exact h1.after_writeLining
    split
    rename_i u flags e
    have hu : Canonical u := by
      have e' : _ = u := congrArg Prod.fst e
      rw [← e']
      split
      · exact h
      · exact h2.frame
    exact (hu.after_setCore (coreMemWf_unlockBanks hu.core)).after_setTeam

theorem after_endBatch {tid : Nat} {b : Batch} (h : Canonical s) : Canonical (endBatch s tid b) := h.after_performLate.after_setTeam

theorem after_completeBatch {tid : Nat} (h : Canonical s) : Canonical (completeBatch s tid) := by
  unfold completeBatch
  dsimp only
  split
  · exact h
  · split
    · exact h
    · split
      · exact h.after_endBatch
      · split
        · exact h.after_endBatch
        · exact h.after_endBatch
        · exact h.after_raiseAll.after_setTeam
        · split
          · exact h
          · exact h.after_spadPut.after_endBatch

/-! ### Record -/

theorem after_reverseAccept {gid opId : Nat} (h : Canonical s) : Canonical (reverseAccept s gid opId).1 := h.frame.after_setTeam

theorem after_runEntry {tid : Nat} {i : EngineItem} {p : Option Entry} {e : Entry} {poisoned : Bool} (h : Canonical s) :
    Canonical (runEntry s tid i p e poisoned) := by
  unfold runEntry
  extract_lets t old draws o1 bad o n u1 u2
  have ho : coreMemWf o.core = true := by
    unfold o
    split
    · exact poisonRev_core (adjoint_core h)
    · exact adjoint_core h
  have h1 : Canonical u1 := (after_setCore h.frame ho).after_putBytes
  exact (h1.after_setCore (coreMemWf_unlockBanks h1.core)).after_setTeam

theorem after_beginEntry {tid : Nat} {i : EngineItem} {hs hp : List DWord} {p : Option Entry} {e : Entry} {x : RangeX} (h : Canonical s) :
    Canonical (beginEntry s tid i hs hp p e x) := by
  unfold beginEntry
  extract_lets t rs ws u1 u2 u3 c u4
  have h3 : Canonical u3 := foldl (fun _ _ h => h.after_ensureRange) h.after_touchPieces.after_virtRead
  exact (h3.after_setCore (coreMemWf_lockBanks h3.core)).after_setTeam

theorem after_finishEntry {tid : Nat} {i : EngineItem} {poisoned : Bool} (h : Canonical s) : Canonical (finishEntry s tid i poisoned) := by
  unfold finishEntry
  dsimp only
  split
  · exact h
  · split
    · exact h.after_runEntry
    · exact h

theorem after_showEntry {tid : Nat} {i : EngineItem} {ks : List Nat} (h : Canonical s) : Canonical (showEntry s tid i ks) := by
  unfold showEntry
  dsimp only
  split
  · exact h
  · split
    · exact h.after_showBytes
    · exact h

theorem after_showTile {tid : Nat} {ks : List Nat} (h : Canonical s) : Canonical (showTile s tid ks) := by
  unfold showTile
  split
  · exact h
  · split
    · exact h.after_showResult
    · exact h.after_showEntry

theorem after_reachEntry {tid : Nat} {i : EngineItem} (h : Canonical s) : Canonical (reachEntry s tid i) := by
  unfold reachEntry
  extract_lets t hx hd hp x
  split
  · exact h.after_setTeam
  · exact h.after_raiseAll.after_setTeam
  · split
    · exact h.after_setTeam
    · split
      · exact h
      · exact ite h h.after_beginEntry

theorem after_walkEntry {tid : Nat} {i : EngineItem} {poisoned : Bool} (h : Canonical s) : Canonical (walkEntry s tid i poisoned) := by
  unfold walkEntry
  dsimp only
  split
  · exact h
  · split
    · exact h.after_finishEntry
    · split
      · exact h.after_setTeam
      · split
        · exact h.after_setTeam
        · exact h.after_reachEntry

theorem after_suspendWalk {tid : Nat} (h : Canonical s) : Canonical (suspendWalk s tid) := by
  unfold suspendWalk
  dsimp only
  split
  · split
    · exact h.after_setTeam
    · exact h
  · exact h

theorem after_startReverse {tid : Nat} {i : EngineItem} (h : Canonical s) : Canonical (startReverse s tid i) := by
  unfold startReverse
  dsimp only
  split
  · exact h
  · split
    · exact h.after_raiseAll.after_setTeam
    · exact h.after_declareHint.after_setTeam

theorem after_reverseEnds {tid : Nat} {i : EngineItem} {fault : Option DWord} (h : Canonical s) : Canonical (reverseEnds s tid i fault) :=
  h.after_setTeam

theorem after_flushLining {tid : Nat} (h : Canonical s) : Canonical (flushLining s tid) := h.after_performLate.after_setTeam

theorem after_retireReverse {tid : Nat} {i : EngineItem} (h : Canonical s) : Canonical (retireReverse s tid i) := by
  unfold retireReverse
  dsimp only
  split
  · exact h
  · split
    · exact h.after_reverseEnds
    · split
      · exact h.after_reverseEnds
      · exact h.after_reverseEnds
      · exact h.after_raiseAll.after_setTeam
      · split
        · exact h
        · exact h.after_flushLining.after_virtWrite.after_reverseEnds

theorem after_engineStart {tid : Nat} (h : Canonical s) : Canonical (engineStart s tid) := by
  unfold engineStart
  split
  · exact h
  · split
    · exact h.after_startTile
    · exact h.after_startReverse

theorem after_engineRetire {tid : Nat} {poisoned : Bool} (h : Canonical s) : Canonical (engineRetire s tid poisoned) := by
  unfold engineRetire
  split
  · exact h
  · split
    · exact h.after_retireTile
    · exact h.after_retireReverse

theorem after_engineEntry {tid : Nat} {poisoned : Bool} (h : Canonical s) : Canonical (engineEntry s tid poisoned) := by
  unfold engineEntry
  split
  · exact h
  · split
    · exact h.after_walkEntry
    · exact h

/-! ### Sha256 -/

theorem after_extendMeasure {i : Nat} {item : List Byte} (h : Canonical s) : Canonical (extendMeasure s i item) := h.frame

/-! ### Copy -/

theorem after_cpApply {gid half opId : Nat} {op : CpOp} {a b c ctl : DWord} (h : Canonical s) :
    Canonical (cpApply s gid half opId op a b c ctl).1 :=
  h.after_setTeam.frame.after_setCore h.frame_core

theorem after_moveRead {x : CopyCmd} {m : CMove} (h : Canonical s) : Canonical (moveRead s x m).2.2 := by
  unfold moveRead
  dsimp only
  split
  · exact h.after_virtRead
  · exact h.after_spadGet
  · exact h

theorem after_moveWrite {x : CopyCmd} {m : CMove} {b : List Byte} {poison : Bool} (h : Canonical s) :
    Canonical (moveWrite s x m b poison) :=
  (ite h h.after_touchPieces).after_writePieces

theorem after_moveOld {x : CopyCmd} {m : CMove} (h : Canonical s) : Canonical (moveOld s x m).2 := h.after_readPieces

theorem after_runMove {x : CopyCmd} {part : CopyPart} {at_ : Nat} {m : CMove} {first : List Byte} (h : Canonical s) :
    Canonical (runMove s x part at_ m first) :=
  ite h h.after_moveRead.after_moveOld.after_moveWrite

theorem after_runMoves {x : CopyCmd} {part : CopyPart} {at_ : Nat} {ms : List CMove} {fs : List (List Byte)} (h : Canonical s) :
    Canonical (runMoves s x part at_ ms fs) := by
  induction ms generalizing s fs with
  | nil => exact h
  | cons m r ih => exact ih (ite h h.after_runMove)

theorem after_blurMoves {x : CopyCmd} {part : CopyPart} {q : Nat} {ms : List CMove} (h : Canonical s) :
    Canonical (blurMoves s x part q ms) := by
  induction ms generalizing s with
  | nil => exact h
  | cons m r ih =>
    unfold blurMoves
    split
    · exact ih h
    · exact ih h.after_moveRead.after_moveOld.after_moveWrite

theorem after_clearMoves {x : CopyCmd} {ms : List CMove} (h : Canonical s) : Canonical (clearMoves s x ms) :=
  foldl (fun _ _ h => h.after_clearPoison) h

theorem after_overlayBegin {core slot va asid func : Nat} {sup : Bool} {cmd : Option Nat} {after : Option (Nat × Nat)} (h : Canonical s) :
    Canonical (overlayBegin s core slot va asid func sup cmd after) :=
  h.frame.after_setCore h.frame_core

theorem after_overlayEnd {core : Nat} {l : OvLoad} {ok : Bool} (h : Canonical s) : Canonical (overlayEnd s core l ok) :=
  h.after_setCore h.frame_core

theorem after_overlayBlur {core : Nat} {l : OvLoad} {ps : List Piece} (h : Canonical s) : Canonical (overlayBlur s core l ps) := by
  refine foldl (fun _ p h => ?_) h
  have hr := h.after_readPieces (core := core) (f := l.func) (ps := [p])
  exact hr.after_setCore (coreMem hr.sp (memWrite_wf _ _ _ hr.imem))

theorem after_imageCopy {core : Nat} {l : OvLoad} {ps : List Piece} (h : Canonical s) : Canonical (imageCopy s core l ps) := by
  refine foldl (fun _ p h => ?_) h
  have hr := (h.after_touchPieces (core := core) (f := l.func) (asid := l.asid) (ps := [p]) (write := false)).after_readPieces
    (core := core) (f := l.func) (ps := [p])
  dsimp only
  split
  · exact after_setCore (hr.after_setCore (coreMemWf_imagePut hr.core)) (frame_core (hr.after_setCore (coreMemWf_imagePut hr.core)))
  · exact hr.after_setCore (coreMemWf_imagePut hr.core)

theorem after_cmdEnds {core : Nat} {x : CopyCmd} {cause : Option Nat} (h : Canonical s) : Canonical (cmdEnds s core x cause) := by
  unfold cmdEnds
  extract_lets t ch fail s1 g s2 c
  have h2 : Canonical s2 := h.after_setTeam.after_setGroup
  exact h2.after_setCore (coreMemWf_unlockBanks (owner := x.id) h2.core)

theorem after_setCmd {core : Nat} {x : CopyCmd} (h : Canonical s) : Canonical (setCmd s core x) := h.after_setCore h.frame_core

theorem after_setProg {x : CopyCmd} {prog : Nat} {pend : Bool} (h : Canonical s) : Canonical (setProg s x prog pend) := h.after_setTeam

theorem after_cmdStops {core : Nat} {x : CopyCmd} {q : Nat} {pages : List PageMiss} (h : Canonical s) :
    Canonical (cmdStops s core x q pages) :=
  h.after_raiseAll.after_setCmd.after_setProg

theorem after_touchLate {x : CopyCmd} {ms : List CMove} (h : Canonical s) : Canonical (touchLate s x ms) :=
  foldl (fun _ _ h => h.after_touchPieces) h

theorem after_cmdOpens {core : Nat} {x : CopyCmd} {at_ : Nat} {ms : List CMove} (h : Canonical s) : Canonical (cmdOpens s core x at_ ms) :=
  (ite h.frame.after_setCmd.after_setProg.after_runMoves.after_setCmd.after_touchLate
    h.frame.after_setCmd.after_setProg.after_runMoves).after_settleReaders

theorem after_readOperands {x : CopyCmd} (h : Canonical s) : Canonical (readOperands s x) := by
  unfold readOperands
  dsimp only
  split
  · exact h.after_virtRead
  · exact h.after_virtRead.after_virtRead
  all_goals exact h

theorem after_cmdHalts {core : Nat} {x : CopyCmd} {part : CopyPart} {at_ q : Nat} {ms : List CMove} (h : Canonical s) :
    Canonical (cmdHalts s core x part at_ q ms) :=
  h.after_runMoves.after_blurMoves.frame.after_settleReaders

theorem after_cmdRun {core : Nat} {x : CopyCmd} {at_ : Nat} (h : Canonical s) : Canonical (cmdRun s core x at_) := by
  unfold cmdRun
  split
  · exact h.after_cmdStops
  · extract_lets u1 u2 ms x pages
    have h1 : Canonical u1 := h.after_readOperands
    have h2 : Canonical u2 := h1.after_setCore (coreMemWf_lockBanks (coreMemWf_unlockBanks h1.core))
    split
    · exact h2.after_cmdEnds
    · split
      · exact h2.after_cmdStops
      · split
        · exact h2.after_cmdHalts.after_cmdStops
        · exact h2.after_cmdHalts.after_cmdEnds
        · exact h2.after_cmdHalts.after_cmdEnds
        · exact h2.after_cmdOpens

theorem after_copyStarts {core id : Nat} (h : Canonical s) : Canonical (copyStarts s core id) := by
  unfold copyStarts
  dsimp only
  split
  · exact h
  · split
    · exact h
    · split
      · exact h.after_setCmd.after_overlayBegin
      · exact h.after_setCmd
      · exact h.after_cmdRun

theorem after_copyResumes {core id : Nat} (h : Canonical s) : Canonical (copyResumes s core id) := by
  unfold copyResumes
  split
  · exact h
  · split
    · split
      · exact h
      · split
        · exact h.after_cmdEnds
        · split
          · exact h.after_setCmd.after_setProg
          · split
            · exact h
            · exact h.after_cmdRun
    all_goals exact h

theorem after_copyCompletes {core id : Nat} (h : Canonical s) : Canonical (copyCompletes s core id) := by
  unfold copyCompletes
  dsimp only
  split
  · exact h
  · split
    · exact h
    · split
      · split
        · exact h.after_performLate.after_clearMoves.after_cmdEnds
        · exact h
      · split
        · exact h
        · split
          · exact h.after_runMoves.after_clearMoves.after_settleReaders.after_cmdEnds
          · split
            · exact h.after_cmdHalts.after_cmdStops
            · exact h.after_cmdHalts.after_cmdEnds
            · exact h.after_cmdHalts.after_cmdEnds

theorem after_overlayFills {core : Nat} {l : OvLoad} {ps : List Piece} (h : Canonical s) : Canonical (overlayFills s core l ps) :=
  ite h.after_imageCopy.after_extendMeasure h.after_imageCopy

theorem after_overlayStops {core : Nat} {l : OvLoad} {x : RangeX} (h : Canonical s) : Canonical (overlayStops s core l x) := by
  unfold overlayStops
  dsimp only
  split
  · split
    · exact h.after_raiseAll.after_setCore h.after_raiseAll.frame_core
    · exact (h.after_raiseAll.after_setCore h.after_raiseAll.frame_core).after_imageCopy.after_setProg
  · exact h.after_raiseAll.after_setCore h.after_raiseAll.frame_core

theorem after_overlayStep {core slot : Nat} (h : Canonical s) : Canonical (overlayStep s core slot) := by
  unfold overlayStep
  split
  · exact h
  · extract_lets x finish s'
    have hfinish {u : State} {ok : Bool} (hu : Canonical u) : Canonical (finish u ok) := by
      unfold finish
      dsimp only
      split
      · exact hu.after_overlayEnd
      · split
        · exact hu.after_overlayEnd
        · exact hu.after_overlayEnd.after_cmdEnds
    split
    · exact h
    · have hs' : Canonical s' := h.after_overlayBlur
      split
      · exact hfinish hs'.frame
      · split
        · exact h.after_overlayStops
        · exact hfinish h.after_overlayFills

theorem after_collSends {n : Nat} (h : Canonical s) : Canonical (collSends n s) := by
  induction n generalizing s with
  | zero => exact h
  | succ n ih =>
    unfold collSends
    split
    · exact h
    · exact ih h.frame.after_sendFlit

theorem after_writeMixed {n : Nat} {x : CopyCmd} {dst : Nat} {b : List Byte} {bad : List Bool} (h : Canonical s) :
    Canonical (writeMixed n s x dst b bad) := by
  induction n generalizing s dst b bad with
  | zero => exact h
  | succ n ih =>
    unfold writeMixed
    split
    · exact h
    · exact ih h.after_moveWrite

theorem after_collWrites {core : Nat} {x : CopyCmd} {remote : Bool} {out : List Byte} {bad : List Bool} (h : Canonical s) :
    Canonical (collWrites s core x remote out bad) := by
  unfold collWrites
  extract_lets chunks left at_
  split
  rename_i k u e
  have hu : Canonical u := by
    have e' : _ = u := congrArg Prod.snd e
    rw [← e']
    split
    · exact h
    · exact h.frame
  extract_lets part u1 u2 y
  have h1 : Canonical u1 := ite hu.after_collSends hu
  have h2 : Canonical u2 := h1.after_writeMixed
  split
  · exact h2.after_cmdEnds
  · exact h2.after_setCmd.after_setProg

theorem after_collRuns {core : Nat} {x : CopyCmd} {c : Coll} {remote : Bool} {srcs : List (List Byte × List Bool)} (h : Canonical s) :
    Canonical (collRuns s core x c remote srcs) := by
  unfold collRuns
  dsimp only
  split
  · exact h.after_cmdEnds
  · exact h.after_cmdStops
  · split
    · exact h.after_collWrites
    · exact h

theorem after_collFails {c : Coll} (h : Canonical s) : Canonical (collFails s c) := foldl (fun _ _ h => h.after_cmdEnds) h

theorem after_collGathers {c : Coll} {ps : List RankPart} (h : Canonical s) : Canonical (collGathers s c ps) :=
  foldl (fun _ _ h => h.after_touchPieces.after_readPieces.after_setCmd) h

theorem after_collJoins {core : Nat} {x : CopyCmd} {c : Coll} {rt : List Byte} {ranks : List CollRank} (h : Canonical s) :
    Canonical (collJoins s core x c rt ranks) := by
  unfold collJoins
  dsimp only
  split
  · exact h.after_collRuns
  · split
    · exact h.after_cmdEnds
    · exact h.after_cmdStops
    · split
      · exact h
      · split
        · exact h.after_collFails
        · exact h.after_collGathers.after_collRuns

theorem after_collCalls {core id : Nat} {ranks : List CollRank} (h : Canonical s) : Canonical (collCalls s core id ranks) := by
  unfold collCalls
  dsimp only
  split
  · exact h
  · split
    · exact h
    · split
      · exact h.after_cmdStops
      · exact h.after_cmdEnds
      · split
        · exact h.after_cmdEnds
        · split
          · exact h
          · split
            · exact h.after_cmdStops
            · exact h.after_cmdEnds
            · split
              · exact h.after_cmdEnds
              · exact h.after_collJoins

theorem after_collReform (h : Canonical s) : Canonical (collReform s) := by
  unfold collReform
  split
  · exact h
  · refine foldl (fun _ _ h => foldl (fun _ _ h => ?_) h) h
    dsimp only
    split
    · exact h
    · exact h
    · split
      · exact h
      · exact h
      · exact ite h.after_cmdEnds h

theorem after_collTimesOut {core id : Nat} (h : Canonical s) : Canonical (collTimesOut s core id) := by
  unfold collTimesOut
  split
  · exact h
  · split
    · split
      · exact h.after_cmdEnds
      · exact h
    · exact h

/-! ### Team -/

theorem after_switchOut {gid : Nat} (h : Canonical s) : Canonical (switchOut s gid) := by
  unfold switchOut
  dsimp only
  split
  · split
    · exact h.after_setCluster.after_setGroup
    · exact h
  all_goals exact h

theorem after_raiseReplace (h : Canonical s) : Canonical (raiseReplace s) := ite h h.frame.after_setEvent

theorem after_retireCluster {cl : Nat} (h : Canonical s) : Canonical (retireCluster s cl) := by
  unfold retireCluster
  dsimp only
  split
  · exact (foldl (fun _ _ h => h.after_switchOut) h.after_setCluster.frame.after_setEvent).after_raiseReplace
  · exact foldl (fun _ _ h => h.after_switchOut) h.after_setCluster.frame.after_setEvent

theorem after_closeCore {core : Nat} (h : Canonical s) : Canonical (closeCore s core) :=
  ite (foldl (fun _ _ h => h.after_retireCluster) (h.after_setCore h.frame_core)) h

theorem after_takePending {gid : Nat} (h : Canonical s) : Canonical (takePending s gid) := by
  unfold takePending
  dsimp only
  split
  · exact h
  · split
    · exact h
    · exact h.after_setGroup.after_takeTrap

theorem after_raiseMisses {gid : Nat} {ms : List Miss} (h : Canonical s) : Canonical (raiseMisses s gid ms).2 := by
  induction ms generalizing s with
  | nil => exact h
  | cons m r ih => exact ih h.after_walkReads.after_raiseReq

theorem after_faultOut {gid : Nat} (h : Canonical s) : Canonical (faultOut s gid) := by
  unfold faultOut
  dsimp only
  split
  · exact h
  · split
    · exact h.after_switchOut.after_setGroup
    · exact h

theorem after_groupFault {gid sid : Nat} {ms : List Miss} (h : Canonical s) : Canonical (groupFault s gid sid ms) :=
  h.after_raiseMisses.after_setGroup.after_faultOut

theorem after_flushLine {core n : Nat} (h : Canonical s) : Canonical (flushLine s core n) := by
  unfold flushLine
  dsimp only
  split
  · exact h
  · exact h.after_writeBack.after_setCore h.after_writeBack.frame_core

theorem after_unmapGranule {core gr : Nat} (h : Canonical s) : Canonical (unmapGranule s core gr) := by
  unfold unmapGranule
  dsimp only
  split
  · exact h
  · have hf := foldl (fun _ i h => h.after_flushLine (core := core) (n := 4 * gr + i)) h (l := List.range 4)
    refine frame (hf.after_setCore (coreMem ?_ hf.imem))
    exact memWf_foldl (fun _ _ hm => memWrite_wf _ _ _ hm) hf.sp

theorem after_releaseTeam {tid : Nat} (h : Canonical s) : Canonical (releaseTeam s tid) :=
  (foldl (fun _ _ h => h.after_unmapGranule) h).after_setTeam

theorem after_performStores {gid : Nat} (h : Canonical s) : Canonical (performStores s gid) :=
  foldl (fun _ _ h => ite h.after_performOp h) h

theorem after_discardStep {tid : Nat} (h : Canonical s) : Canonical (discardStep s tid) := by
  have h1 : Canonical ((teamOf s tid).groups.foldl (fun s g => endGroup (performStores s g) g) s) :=
    foldl (fun _ _ h => h.after_performStores.after_endGroup) h
  exact (foldl (fun _ _ h => h.after_setGroup) h1).after_releaseTeam.after_closeCore.after_setTask

theorem after_commitStep {tid : Nat} (h : Canonical s) : Canonical (commitStep s tid) := ite h.after_setTeam h

theorem after_lanesDie {gid sid : Nat} {killed : Mask} {slot next : Nat} (h : Canonical s) :
    Canonical (lanesDie s gid sid killed slot next) := by
  unfold lanesDie
  dsimp only
  split
  · exact h
  · split
    · exact h.after_killGroup
    · split
      · exact h.after_discardStep
      · split
        · exact h.after_setGroup.after_endGroup
        · split
          · exact h.after_setGroup.after_setGroup
          · exact h.after_setGroup.after_takeTrap

/-! ### Waits -/

theorem after_appendTask {die q : Nat} {desc : List Byte} {func asid : Nat} (h : Canonical s) :
    Canonical (appendTask s die q desc func asid).1 :=
  h.frame.after_setTask.after_setDie

theorem after_waitTrap {gid : Nat} {tr : TrapInfo} (h : Canonical s) : Canonical (waitTrap s gid tr) :=
  ite h.after_killGroup h.after_setGroup

theorem after_waitEffect {gid : Nat} {w : Wait} (h : Canonical s) : Canonical (waitEffect s gid w) := by
  unfold waitEffect
  extract_lets g t
  cases w with
  | barw | dsync | waitc => exact h
  | mxwait batch =>
    dsimp only
    split
    · exact h
    · exact h.after_setTeam.after_waitTrap
  | cpwait ch id =>
    dsimp only
    split
    · exact h
    · exact ite h h.after_setTeam.after_waitTrap
  | regclaim => exact h.after_setGroup
  | mxtake => exact h.after_setTeam
  | pflush a n =>
    refine foldl (fun _ _ h => ?_) h
    dsimp only
    split
    · exact h
    · exact h.after_writeBack.after_setCore h.after_writeBack.frame_core
  | spawnRead => exact ite h.after_placeGet.after_lanesDie h.after_placeGet.after_setGroup
  | spawnRoom sd half q wait desc =>
    dsimp only
    split
    · exact h.after_appendTask.after_setGroup
    · exact ite h.after_appendTask.after_setGroup h.after_appendTask.after_setGroup
  | spawnEvent => exact h.after_setGroup
  | streamWrite => exact ite h.after_waitTrap h.after_setTeam
  | liningWrite => exact ite h.after_flushLining.after_waitTrap h.after_flushLining.after_setTeam

theorem after_waitDone {gid : Nat} {w : Wait} (h : Canonical s) : Canonical (waitDone s gid w) := h.after_setGroup.after_waitEffect

theorem after_tryWait {gid : Nat} {p : Wait → Bool} (h : Canonical s) : Canonical (tryWait s gid p) := by
  unfold tryWait
  dsimp only
  split
  · exact h
  · split
    · split
      · exact h.after_waitDone
      · exact h
    all_goals exact h

theorem after_dsyncAll {gid level phase : Nat} (h : Canonical s) : Canonical (dsyncAll s gid level phase) := by
  refine ite (foldl (fun _ _ h => ?_) h) h
  split
  · exact ite h.after_setGroup h
  · exact h

theorem after_enterWait {gid sid : Nat} {w : Wait} (h : Canonical s) : Canonical (enterWait s gid sid w) := by
  unfold enterWait
  dsimp only
  split
  · exact h.after_setGroup.after_dsyncAll
  · exact h.after_setGroup.after_tryWait.after_tryWait
  · exact h.after_setGroup.after_tryWait.after_tryWait
  · exact h.after_setGroup.after_tryWait

/-! ### Special -/

theorem after_specialWrite {gid sid n : Nat} {v : DWord} (h : Canonical s) : Canonical (specialWrite s gid sid n v) := by
  unfold specialWrite
  dsimp only
  split
  · exact h.after_enterWait
  · split
    · exact h.after_enterWait
    · split
      · exact h.after_setTeam
      · split
        · exact h.after_setCore h.frame_core
        · split
          · exact h.after_setCore h.frame_core
          · split
            · split
              · exact h
              · exact h.after_setCluster
            · exact h.after_setGroup

/-! ### Trigger -/

theorem after_touchAccs {gid : Nat} {as : List Access} (h : Canonical s) : Canonical (touchAccs s gid as) := by
  refine foldl (fun u a h => ?_) h
  extract_lets u1
  have h1 : Canonical u1 := by
    unfold u1
    split
    · exact h.after_ensureRange
    · split
      · exact h.after_touchPage
      · exact h
  split
  · exact h1.after_setAD
  · exact h1

theorem after_addOp {gid : Nat} {op : MemOp} (h : Canonical s) : Canonical (addOp s gid op) := h.after_setGroup

theorem after_addLanes {gid : Nat} {op : MemOp} (h : Canonical s) : Canonical (addLanes s gid op) :=
  ite h.after_addOp h.after_addOp.after_addOp

theorem after_readRecords {gid : Nat} {as : List Access} (h : Canonical s) : Canonical (readRecords s gid as) :=
  foldl (fun _ _ h => h.after_placeGet) h

theorem after_touchPlan {gid : Nat} {p : Plan} (h : Canonical s) : Canonical (touchPlan s gid p) :=
  h.after_touchAccs.after_readRecords.after_touchAccs

theorem after_lblkFire {gid half : Nat} {f : Fire} {plan : Plan} {id : Nat} (h : Canonical s) :
    Canonical (lblkFire s gid half f plan id) := by
  unfold lblkFire
  extract_lets g t n u1 b
  have h1 : Canonical u1 := by
    unfold u1
    split
    · exact h
    · exact h.after_setGroup
  exact h1.after_setTeam

theorem after_smFire {gid : Nat} {f : Fire} {op : SmOp} (h : Canonical s) : Canonical (smFire s gid f op) := ite h h.after_setGroup

theorem after_injectFire {gid : Nat} {f : Fire} {i : Inject} {id : Nat} (h : Canonical s) : Canonical (injectFire s gid f i id) :=
  h.after_setGroup

theorem after_fireRun {gid sid : Nat} {f : Fire} {plan : Plan} {id : Nat} (h : Canonical s) : Canonical (fireRun s gid sid f plan id) := by
  unfold fireRun
  extract_lets g half tid im paths place r x
  have hplace {u : State} (hu : Canonical u) : Canonical (place u) := hu.after_setGroup
  have hcommit {p : Prop} {_ : Decidable p} : Canonical (if p then commitStep s tid else s) := ite h.after_commitStep h
  split
  · exact hplace h.after_injectFire
  · split
    · exact hplace h.after_setGroup
    · exact hplace h.after_setGroup
    · exact hplace h.after_setGroup
    · exact hplace h.after_setGroup
    · exact hplace h.after_setGroup
    · exact hplace h.after_smFire
    · split
      · exact h
      · have hp : Canonical (place (setGroup s gid (addResult g r))) := hplace h.after_setGroup
        split
        · exact hp.after_touchPlan.after_addOp
        · exact (hplace h).after_touchPlan.after_lblkFire
        · exact ite (hplace h).after_touchAccs (hplace h).after_touchAccs.after_addOp
        all_goals exact hp.after_touchPlan.after_addLanes
    · split
      · exact h
      · dsimp only
        split
        · exact (hplace hcommit).after_touchPlan.frame.after_addOp
        · exact (hplace hcommit).after_touchPlan.after_addOp
        all_goals exact (hplace (ite hcommit.after_setGroup hcommit)).after_touchPlan.after_addLanes
    · dsimp only
      split
      · exact (hplace hcommit).after_mxApply
      · exact (hplace hcommit).after_mxApply.after_setGroup
    · exact (hplace hcommit).after_cpApply.after_setGroup

/-! ### Scalar -/

theorem after_setPc {gid sid pc : Nat} (h : Canonical s) : Canonical (setPc s gid sid pc) := h.after_setGroup

theorem after_writeS {gid hf i : Nat} {v : DWord} (h : Canonical s) : Canonical (writeS s gid hf i v) := h.after_setGroup

theorem after_basewApply {gid hf win : Nat} {a t : DWord} (h : Canonical s) : Canonical (basewApply s gid hf win a t) := by
  unfold basewApply
  dsimp only
  split
  · exact h.after_touchPage.after_setGroup
  · exact h
  · exact h

theorem after_exitApply {gid sid : Nat} (h : Canonical s) : Canonical (exitApply s gid sid) :=
  ite h.after_setGroup.after_endGroup h.after_setGroup

theorem after_pmapApply {gid : Nat} {off a t : DWord} (h : Canonical s) : Canonical (pmapApply s gid off a t) :=
  foldl (fun _ _ h => ite h.after_unmapGranule (h.after_unmapGranule.after_setCore h.after_unmapGranule.frame_core)) h

theorem after_baraApply {gid hf opId id w : Nat} {next : Option Nat} {release : Bool} (h : Canonical s) :
    Canonical (baraApply s gid hf opId id w next release) :=
  h.after_setGroup.after_afterOp

theorem after_dsyncApply {gid sid level : Nat} (h : Canonical s) : Canonical (dsyncApply s gid sid level) :=
  h.after_setGroup.after_enterWait

theorem after_fenceApply {gid opId scope : Nat} (h : Canonical s) : Canonical (fenceApply s gid opId scope) := ite h h.after_setGroup

theorem after_spawnApply {gid sid id sd t : Nat} {accs : List Access} (h : Canonical s) :
    Canonical (spawnApply s gid sid id sd t accs).1 := by
  unfold spawnApply
  dsimp only
  split
  · exact h.after_commitStep.after_writeS
  · split
    · exact h.after_commitStep
    · split
      · exact h.after_commitStep.after_enterWait
      · split
        · exact h.after_commitStep.after_placeGet
        · exact h.after_commitStep.after_placeGet.after_enterWait

theorem after_killScalar {gid sid next : Nat} (h : Canonical s) : Canonical (killScalar s gid sid next) := h.after_lanesDie

theorem after_eretApply {gid sid : Nat} (h : Canonical s) : Canonical (eretApply s gid sid) := by
  unfold eretApply
  dsimp only
  split
  · exact h.after_killGroup
  · split
    · split
      · exact h.after_killGroup
      · exact h.after_setGroup
    · exact h.after_setGroup

theorem after_goOn {gid sid pc : Nat} (h : Canonical s) : Canonical (goOn s gid sid pc).state := h.after_setPc

theorem after_scalarOp {gid hf id : Nat} {kind : MemKind} {accs : List Access} (h : Canonical s) :
    Canonical (scalarOp s gid hf id kind accs) := h.after_touchAccs.after_addOp

theorem after_scalarRun {gid sid : Nat} {g0 : Group} {id pc : Nat} {op : ScalarOp} {accs : List Access} {inj : Option Inject}
    (h : Canonical s) : Canonical (scalarRun s gid sid g0 id pc op accs inj).state := by
  unfold scalarRun
  extract_lets half sv tv put wait onGroup tid onTeam jump fall
  have hput (sd : BitVec 6) (v : DWord) : Canonical (put sd v).state := h.after_writeS.after_goOn
  have hwait (w : Wait) : Canonical (wait w).state := h.after_setPc.after_enterWait
  have hjump {u : State} {a : Nat} (hu : Canonical u) : Canonical (jump u a).state := hu.after_setPc
  cases op with
  | alu | li | liz | lih | mrd | rdsr => exact hput _ _
  | sld =>
    dsimp only
    split
    · exact hput _ _
    · exact h.after_scalarOp.after_goOn
  | sldq =>
    dsimp only
    split
    · exact h.after_writeS.after_writeS.after_goOn
    · exact h.after_scalarOp.after_goOn
  | sst | sstq =>
    dsimp only
    split
    · exact h.after_goOn
    · exact h.after_scalarOp.after_goOn
  | mwr | reggive => exact h.after_setGroup.after_goOn
  | recbeg | recend | mxgive => exact h.after_setTeam.after_goOn
  | pflush | barw | waitc | mxwait | cpwait => exact hwait _
  | ret | bu => exact hjump h
  | ovcall | call | loop => exact hjump h.after_writeS
  | basew => exact h.after_basewApply.after_goOn
  | regclaim | mxtake => exact after_enterWait (after_setPc h.frame)
  | bd => exact h.after_setGroup
  | exit => exact h.after_setPc.after_exitApply
  | reverse => exact h.after_reverseAccept.after_writeS.after_goOn
  | spawn => exact h.after_touchAccs.after_setPc.after_spawnApply
  | pmap => exact h.after_touchAccs.after_pmapApply.after_goOn
  | ovload => exact h.after_overlayBegin.after_goOn
  | phint => exact h.after_declareHint.after_goOn
  | bara => exact h.after_baraApply.after_goOn
  | dsync => exact h.after_setPc.after_dsyncApply
  | fence => exact (ite h.after_commitStep h).after_fenceApply.after_goOn
  | wrsr => exact h.after_setPc.after_specialWrite
  | sys | trap => exact h.after_setPc
  | eret => exact h.after_eretApply

/-! ### Issue -/

theorem after_fireAll {gid sid id : Nat} {fs : List (Fire × Plan)} (h : Canonical s) : Canonical (fireAll gid sid s id fs) := by
  induction fs generalizing s id with
  | nil => exact h
  | cons f r ih => exact ih h.after_fireRun

theorem after_countCluster {gid : Nat} {g : Group} {b : Bundle} (h : Canonical s) : Canonical (countCluster s gid g b) := by
  unfold countCluster
  dsimp only
  split
  · exact h
  · exact (h.after_setCore h.frame_core).after_setCluster

theorem after_codeTrap {gid sid : Nat} {killed : Mask} {t : TrapInfo × Nat} (h : Canonical s) : Canonical (codeTrap s gid sid killed t) :=
  ite h (ite h.after_takeTrap h.after_setGroup)

theorem after_scalarStep {gid sid : Nat} {g0 : Group} {id pc : Nat} {b : Bundle} {p : Plan} (h : Canonical s) :
    Canonical (scalarStep s gid sid g0 id pc b p).state := by
  unfold scalarStep
  split
  · exact h.after_goOn
  · exact h.after_scalarRun

theorem after_bundleEnd {gid sid : Nat} {out : ScalarOut} {killed : Mask} {slot : Nat} (h : Canonical out.state) :
    Canonical (bundleEnd gid sid out killed slot) := by
  unfold bundleEnd
  dsimp only
  split
  · exact h.after_lanesDie
  · exact h.after_lanesDie.after_codeTrap

theorem after_performNow {gid id : Nat} (h : Canonical s) : Canonical (performNow s gid id) := foldl (fun _ _ h => h.after_performOp) h

theorem after_performFirst {gid id : Nat} {fs : List (Fire × Plan)} (h : Canonical s) : Canonical (performFirst s gid id fs) :=
  foldl (fun _ _ h => ite h.after_performNow h) h

theorem after_issuedMoves {gid sid : Nat} {b : Bundle} {g0 g2 : Group} {fs : List (Fire × Plan)} (h : Canonical s) :
    Canonical (issuedMoves s gid sid b g0 g2 fs) :=
  h.after_setGroup.after_fireAll.after_performFirst.after_setGroup.after_countCluster

theorem after_issueBundle {gid sid : Nat} {b : Bundle} {g0 g2 : Group} {ms : List Moved} {fs : List (Fire × Plan)} {sp : Plan}
    (h : Canonical s) : Canonical (issueBundle s gid sid b g0 g2 ms fs sp) := h.after_issuedMoves.after_scalarStep.after_bundleEnd

theorem after_countPort {gid sid : Nat} (h : Canonical s) : Canonical (countPort s gid sid) := by
  unfold countPort
  dsimp only
  split
  · exact h
  · split
    · exact h.after_setGroup
    · exact h.after_setGroup.after_setCluster

theorem after_stallBundle {gid sid : Nat} {b : Bundle} (h : Canonical s) : Canonical (stallBundle s gid sid b) :=
  ite h.after_countPort (ite h.after_setGroup h)

theorem after_trapBundle {gid sid : Nat} {t : TrapInfo} {ports : Table PortCell} (h : Canonical s) :
    Canonical (trapBundle s gid sid t ports) :=
  h.after_setGroup.after_takeTrap

theorem after_checkBundle {gid sid : Nat} {b : Bundle} (h : Canonical s) : Canonical (checkBundle s gid sid b) := by
  unfold checkBundle
  dsimp only
  split
  · exact h.after_trapBundle
  · split
    · exact h.after_issueBundle
    · exact h.after_groupFault

theorem after_delivered {gid : Nat} {b : Bundle} (h : Canonical s) : Canonical (delivered s gid b) := h.after_setGroup

theorem after_issueAt {gid sid : Nat} {b : Bundle} (h : Canonical s) : Canonical (issueAt s gid sid b) := by
  unfold issueAt
  dsimp only
  split
  · exact h.after_trapBundle
  · split
    · exact h.after_delivered.after_stallBundle
    · exact h.after_delivered.after_checkBundle

/-! ### Supervisor -/

theorem after_scratchRegs {gid hf : Nat} (h : Canonical s) : Canonical (scratchRegs s gid hf) := h.after_setGroup.frame

theorem after_routineKills {gid sid : Nat} (h : Canonical s) : Canonical (routineKills s gid sid) := h.after_setGroup.after_eretApply

theorem after_routineDelegates {gid sid : Nat} (h : Canonical s) : Canonical (routineDelegates s gid sid) :=
  h.after_scratchRegs.after_setGroup.after_setPc

theorem after_emulByte {gid : Nat} {p : Plan} {write : Bool} (h : Canonical s) : Canonical (emulByte s gid p write) := by
  unfold emulByte
  dsimp only
  split
  · exact h.after_drawNat
  · split
    · refine after_setGroup ?_
      split
      · exact h.after_drawNat.after_touchAccs.after_writeElems
      · exact h.after_drawNat.after_touchAccs.after_readElems
    · exact h.after_drawNat

theorem after_emulNext {gid : Nat} {p : Plan} {write : Bool} {finish : State → List (Nat × Nat × Bool) → State} (h : Canonical s)
    (hf : ∀ t l, Canonical t → Canonical (finish t l)) : Canonical (emulNext s gid p write finish) :=
  ite (hf _ _ h.after_setGroup) h.after_emulByte

theorem after_emulLoaded {gid : Nat} {rs : List (Nat × Nat × Bool)} {go : State} (h : Canonical s) (hgo : Canonical go) :
    Canonical (emulLoaded s gid rs go) :=
  ite h.after_killGroup hgo

theorem after_emulRegs {gid sid : Nat} {op : LdOp} {rs : List (Nat × Nat × Bool)} (h : Canonical s) :
    Canonical (emulRegs s gid sid op rs) :=
  h.after_setGroup.frame

theorem after_routineInjects {gid sid : Nat} {injx : Bool} {vreg : Nat} (h : Canonical s) :
    Canonical (routineInjects s gid sid injx vreg) :=
  h.after_setGroup.after_eretApply

theorem after_routinePlan {gid sid : Nat} {p : Plan} {go : State} (h : Canonical s) (hgo : Canonical go) :
    Canonical (routinePlan s gid sid p go) :=
  ite h.after_killGroup (ite h.after_groupFault hgo)

theorem after_emulLane {gid sid : Nat} {t : Trigger} (h : Canonical s) : Canonical (emulLane s gid sid t) := by
  unfold emulLane
  dsimp only
  split
  · exact h.after_routinePlan (h.after_emulNext fun _ _ h => h.after_emulLoaded h.after_scratchRegs.after_emulRegs.after_routineInjects)
  · exact h.after_routinePlan (h.after_emulNext fun _ _ h => h.after_scratchRegs.after_routineInjects)
  · exact h.after_routineKills

theorem after_emulScalarLoad {gid sid : Nat} {a : DWord} {n : Nat} (h : Canonical s) : Canonical (emulScalarLoad s gid sid a n) :=
  h.after_routinePlan (h.after_emulNext fun _ _ h => h.after_emulLoaded
    (ite h.after_scratchRegs.after_writeS.after_writeS h.after_scratchRegs.after_writeS).after_routineInjects)

theorem after_emulScalarStore {gid sid : Nat} {a : DWord} {n v : Nat} (h : Canonical s) : Canonical (emulScalarStore s gid sid a n v) :=
  h.after_routinePlan (h.after_emulNext fun _ _ h => h.after_scratchRegs.after_routineInjects)

theorem after_emulScalar {gid sid : Nat} {op : ScalarOp} (h : Canonical s) : Canonical (emulScalar s gid sid op) := by
  unfold emulScalar
  dsimp only
  split
  · exact h.after_emulScalarLoad
  · exact h.after_emulScalarLoad
  · exact h.after_emulScalarStore
  · exact h.after_emulScalarStore
  · exact h.after_routineKills

theorem after_routineEmulates {gid sid : Nat} (h : Canonical s) : Canonical (routineEmulates s gid sid) := by
  unfold routineEmulates
  dsimp only
  split
  · exact h
  · split
    · exact h.after_routineKills
    · split
      · split
        · exact h.after_emulScalar
        · exact h.after_routineKills
      · split
        · exact h.after_emulLane
        · exact h.after_routineKills

theorem after_routineStep {gid sid : Nat} (h : Canonical s) : Canonical (routineStep s gid sid) := by
  unfold routineStep
  dsimp only
  split
  · exact h.after_routineDelegates
  · split
    · exact h.after_routineEmulates
    · split
      · exact h.after_scratchRegs.after_eretApply
      · exact h.after_routineKills

/-! ### Tasks -/

theorem after_sysTouch {core f asid va n : Nat} (h : Canonical s) : Canonical (sysTouch s core f asid va n) := h.after_virtRead

theorem after_setQueueTasks {r : QueueRef} {ts : List Nat} (h : Canonical s) : Canonical (setQueueTasks s r ts) := by
  unfold setQueueTasks
  dsimp only
  split
  · exact h.after_setQueue
  · exact h.after_setDie

theorem after_leaveQueue {t : Nat} (h : Canonical s) : Canonical (leaveQueue s t) := h.after_setQueueTasks

theorem after_hostTaskError {x : Task} {code : Nat} (h : Canonical s) : Canonical (hostTaskError s x code) :=
  h.after_setFunc.after_setEvent

theorem after_packageEvent {x : Task} (h : Canonical s) : Canonical (packageEvent s x) := ite h.after_sendMsix (ite h.frame h)

theorem after_taskEnds {t : Nat} (h : Canonical s) : Canonical (taskEnds s t) := by
  unfold taskEnds
  dsimp only
  split
  · exact h.after_setTask.frame.after_packageEvent.after_hostTaskError
  · exact h.after_setTask.frame.after_packageEvent

theorem after_recordPut {x : Task} {w : Nat × DWord} {ps : List Piece} {bytes : List Byte} (h : Canonical s) :
    Canonical (recordPut s x w ps bytes) := by
  unfold recordPut
  extract_lets n u1 u2
  have h1 : Canonical u1 := h.after_touchPieces
  have h2 : Canonical u2 := by
    unfold u2
    split
    · exact ite h1.after_recallRange.after_hostSend h1.after_writePieces
    · exact h1.after_writePieces
  exact ite h2.after_sendOrdered h2

theorem after_dropRecord {t : Nat} (h : Canonical s) : Canonical (dropRecord s t) :=
  ite h.after_setTask.after_hostTaskError h.after_setTask.after_failTask

theorem after_pumpRecord {n t : Nat} (h : Canonical s) : Canonical (pumpRecord n s t) := by
  induction n generalizing s with
  | zero => exact h
  | succ n ih =>
    unfold pumpRecord
    extract_lets x
    split
    · exact h
    · split
      · exact ite h.after_taskEnds h
      · extract_lets done
        have hdone {u : State} (hu : Canonical u) : Canonical (done u) := hu.after_setTask
        split
        · exact ih (hdone h)
        · extract_lets c y
          split
          · exact ih h.after_dropRecord
          · split
            · exact h.after_raiseAll.after_setTask
            · exact ih (hdone h.after_recordPut)

theorem after_writeRecord {t : Nat} {ws : List (Nat × DWord)} {last : Bool} (h : Canonical s) : Canonical (writeRecord s t ws last) :=
  h.after_setTask.after_pumpRecord

theorem after_finishTask {t : Nat} (h : Canonical s) : Canonical (finishTask s t) := ite h h.after_leaveQueue.after_writeRecord

theorem after_failEarly {t code : Nat} (h : Canonical s) : Canonical (failEarly s t code) := h.after_failTask.after_finishTask

theorem after_acceptTask {t : Nat} {j : Judged} (h : Canonical s) : Canonical (acceptTask s t j) := h.after_setTask

theorem after_judgeHead {t : Nat} (h : Canonical s) : Canonical (judgeHead s t) := by
  unfold judgeHead
  extract_lets x j core u1 u2
  have h1 : Canonical u1 := by
    unfold u1
    split
    · exact h.after_sysTouch
    · exact h
  have h2 : Canonical u2 := by
    unfold u2
    split
    · exact h1.after_sysTouch
    · exact h1
  split
  · exact h2.after_raiseAll.after_setTask
  · split
    · exact h2.after_failEarly
    · exact h2.after_acceptTask

theorem after_enterEntry {q : Nat} {words : List DWord} {bad : Bool} (h : Canonical s) : Canonical (enterEntry s q words bad) :=
  ite h.frame.after_setTask.after_setQueue.after_failEarly h.frame.after_setTask.after_setQueue.after_judgeHead

theorem after_readEntry {q : Nat} (h : Canonical s) : Canonical (readEntry s q) := by
  unfold readEntry
  dsimp only
  split
  · exact h.after_sysTouch.after_enterEntry
  · exact h.after_enterEntry
  · exact h.after_raiseAll.after_setQueue

theorem after_fetchTask {r : QueueRef} (h : Canonical s) : Canonical (fetchTask s r) := by
  unfold fetchTask
  dsimp only
  split
  · split
    · exact h.after_judgeHead
    · exact h
  · split
    · exact h
    · split
      · exact h.after_readEntry
      · exact h

theorem after_pollDeps {r : QueueRef} (h : Canonical s) : Canonical (pollDeps s r) := by
  unfold pollDeps
  dsimp only
  split
  · exact h
  · split
    · exact h
    · split
      · exact (foldl (fun _ _ h => h.after_sysTouch) h).after_failEarly
      · split
        · exact (foldl (fun _ _ h => h.after_sysTouch) h).after_raiseAll.after_setTask
        · split
          · exact (foldl (fun _ _ h => h.after_sysTouch) h).after_setTask
          · exact (foldl (fun _ _ h => h.after_sysTouch) h).after_setTask

theorem after_raisePriority {r : QueueRef} (h : Canonical s) : Canonical (raisePriority s r) := by
  unfold raisePriority
  dsimp only
  split
  · exact h
  · split
    · split
      · exact h.after_setTask
      · exact h
    · exact h

theorem after_launchGroups {tid n : Nat} {ids : List Nat} (h : Canonical s) : Canonical (launchGroups s tid n ids).1 := by
  induction n generalizing s ids with
  | zero => exact h
  | succ n ih => exact ih h.after_setGroup.frame

theorem after_makeTeam {task index die : Nat} {coords : List Nat} {regs : List (Nat × DWord)} {chain : List Nat} {again : Bool}
    (h : Canonical s) :
    Canonical (makeTeam s task index die coords regs chain again).1 :=
  h.frame.after_setTeam.after_setTask

theorem after_admitTeam {tid core : Nat} (h : Canonical s) : Canonical (admitTeam s tid core) :=
  (h.after_setCore (clearPad_wf _ _ _ h.core)).after_setTeam.after_launchGroups.after_setTeam.after_setTask

theorem after_teamAdmits {tid core : Nat} (h : Canonical s) : Canonical (teamAdmits s tid core) := ite h.after_admitTeam h

theorem after_domainOf {task level scope : Nat} (h : Canonical s) : Canonical (domainOf s task level scope).1 := by
  unfold domainOf
  dsimp only
  split
  · exact h
  · exact h.after_drawNat.frame

theorem after_assignDomains {tid : Nat} (h : Canonical s) : Canonical (assignDomains s tid) := by
  unfold assignDomains
  extract_lets t m get
  have hget {u : State} {level scope : Nat} (hu : Canonical u) : Canonical (get u level scope).1 := by
    unfold get
    split
    · exact hu.after_domainOf
    · exact hu
  exact (hget (hget (hget h))).after_setTeam

theorem after_levelEvents {t : Nat} (h : Canonical s) : Canonical (levelEvents s t) := by
  unfold levelEvents
  dsimp only
  split
  · exact h
  · split
    · exact foldl (fun _ _ h => h.after_sendMsix) (ite (foldl (fun _ _ h => h.after_sendMsix) h.after_setTask) h.after_setTask)
    · split
      · exact foldl (fun _ _ h => h.after_sendMsix) h.after_setTask
      · exact h.after_setTask

theorem after_drawDie {ds : List Nat} (h : Canonical s) : Canonical (drawDie s ds).2 := h.after_drawNat

theorem after_offerTeam {t : Nat} (h : Canonical s) : Canonical (offerTeam s t) := by
  unfold offerTeam
  dsimp only
  split
  · exact h.after_drawDie.after_makeTeam.after_setTask.after_leaveQueue.after_levelEvents
  · exact h.after_drawDie.after_makeTeam.after_setTask

theorem after_admitAll {n t : Nat} (h : Canonical s) (e : admitAll n s t = some u) : Canonical u := by
  induction n generalizing s with
  | zero => exact (Option.some.inj e) ▸ h
  | succ n ih =>
    unfold admitAll at e
    dsimp only at e
    split at e
    · cases e
    · split at e
      · cases e
      · exact ih h.after_drawDie.after_makeTeam.after_admitTeam.after_assignDomains.after_setTask e

theorem after_setServed {d q : Nat} (h : Canonical s) : Canonical (setServed s d q) := ite h.frame h.after_setDie

theorem after_dropFailed {d : Nat} (h : Canonical s) : Canonical (dropFailed s d) := by
  refine foldl (fun _ _ h => ?_) h
  split
  · exact ite h.after_leaveQueue h
  · exact h

theorem after_beginDispatch {t : Nat} (h : Canonical s) : Canonical (beginDispatch s t) := by
  unfold beginDispatch
  dsimp only
  split
  · exact h.after_failEarly
  · split
    · exact h.after_setTask.after_writeRecord.after_finishTask
    · split
      · exact h.after_setTask.after_writeRecord
      · split
        · exact h.after_setTask.after_writeRecord.after_finishTask
        · exact h.after_setTask.after_writeRecord.after_setDie.after_leaveQueue

theorem after_dispatchTask {d : Nat} (h : Canonical s) : Canonical (dispatchTask s d) := by
  have h1 := h.after_dropFailed (d := d)
  unfold dispatchTask
  dsimp only
  split
  · exact h1
  · split
    · exact h1.after_setServed.after_beginDispatch
    · split
      · exact h1.after_setServed.after_offerTeam
      · split
        next e => exact (h1.after_setServed.after_admitAll e).after_setTask.after_leaveQueue.after_levelEvents
        next => exact h1.after_setServed

theorem after_expandTask {t : Nat} (h : Canonical s) : Canonical (expandTask s t) := ite h.after_setDie.after_setTask h

theorem after_launchStep {t : Nat} (h : Canonical s) : Canonical (launchStep s t) := by
  unfold launchStep
  dsimp only
  split
  · exact h
  · split
    · exact (ite h.after_makeTeam.after_setTask h.after_makeTeam.after_setTask).after_levelEvents
    · exact h

theorem after_withdrawOffered {t : Nat} (h : Canonical s) : Canonical (withdrawOffered s t) := ite h h.after_setTask.frame

theorem after_afterRetire {t : Nat} (h : Canonical s) : Canonical (afterRetire s t) :=
  ite h.after_withdrawOffered.after_levelEvents.after_finishTask h.after_withdrawOffered.after_levelEvents

theorem after_dropTeam {tid : Nat} (h : Canonical s) : Canonical (dropTeam s tid) := h.frame

theorem after_retireTeam {tid : Nat} (h : Canonical s) : Canonical (retireTeam s tid) :=
  ite h.after_releaseTeam.after_dropTeam.after_setTask.after_writeRecord.after_afterRetire h

/-! ### Residency -/

theorem after_placeGroup {gid cl slot order : Nat} (h : Canonical s) : Canonical (placeGroup s gid cl slot order) := h.after_setGroup

theorem after_replayOps {gid : Nat} (h : Canonical s) : Canonical (replayOps s gid) := foldl (fun _ _ h => ite h.after_performOp h) h

theorem after_placeGroups {core order : Nat} {gs cs : List Nat} (h : Canonical s) (e : placeGroups core order s gs cs = some u) :
    Canonical u := by
  induction gs generalizing s cs with
  | nil =>
    cases cs with
    | nil => exact (Option.some.inj e) ▸ h
    | cons => cases e
  | cons g gs ih =>
    cases cs with
    | nil => cases e
    | cons c cs =>
      unfold placeGroups at e
      split at e
      · split at e
        · exact ih h.after_placeGroup e
        · cases e
      · cases e

theorem after_teamResides {tid : Nat} {clusters : List Nat} (h : Canonical s) : Canonical (teamResides s tid clusters) := by
  unfold teamResides
  dsimp only
  split
  · split
    · exact h
    · split
      · exact h
      · split
        next e => exact (after_placeGroups h.frame e).after_setTeam
        next => exact h
  · exact h

theorem after_moveImages {core : Nat} (h : Canonical s) : Canonical (moveImages s core) := foldl (fun _ _ h => ite h.after_setGroup h) h

theorem after_parkNow {tid : Nat} (h : Canonical s) : Canonical (parkNow s tid) :=
  (foldl (fun _ _ h => h.after_switchOut) h).after_setTeam

theorem after_parkTeam {tid : Nat} (h : Canonical s) : Canonical (parkTeam s tid) := by
  unfold parkTeam
  dsimp only
  split
  · exact h
  · split
    · split
      · exact h.after_parkNow
      · split
        · exact h.after_drawBit.after_moveImages.after_parkNow
        · exact h.after_drawBit
    · exact h

theorem after_readyTeam {tid : Nat} (h : Canonical s) : Canonical (readyTeam s tid) := ite h.after_setTeam.frame h

theorem after_serveClaim {cl : Nat} (h : Canonical s) : Canonical (serveClaim s cl) := by
  unfold serveClaim
  dsimp only
  split
  · exact h
  · exact h.after_tryWait

theorem after_preemptTeam {tid : Nat} (h : Canonical s) : Canonical (preemptTeam s tid) := by
  unfold preemptTeam
  dsimp only
  split
  · exact h
  · split
    · exact foldl (fun _ _ h => ite h.after_takePending h) h
    · split
      · exact h
      · split
        · exact h.after_drawBit.after_discardStep.after_dropTeam
        · exact (foldl (fun _ _ h => h.after_switchOut) h.after_drawBit).after_setTeam.frame

theorem after_preempts {tid : Nat} (h : Canonical s) : Canonical (preempts s tid) := ite h.after_preemptTeam h

theorem after_preemptPartition {p : Nat} (h : Canonical s) : Canonical (preemptPartition s p) :=
  ite (ite ((foldl (fun _ _ h => h.after_preemptTeam) h).frame) (foldl (fun _ _ h => h.after_preemptTeam) h)) h

/-! ### Power -/

theorem after_onWeir {k : Nat} {f : Weir → Weir} (h : Canonical s) : Canonical (onWeir s k f) := h.after_setCore h.frame_core

theorem after_itemCycles {core : Nat} {a : Nat × State} {t : Team} (h : Canonical a.2) : Canonical (itemCycles core a t).2 := by
  unfold itemCycles
  split
  · exact h
  · split
    · exact h.after_drawNat.after_onWeir
    · exact h

theorem after_engineWeight {core : Nat} (h : Canonical s) : Canonical (engineWeight s core).2 := by
  unfold engineWeight
  split
  · exact h
  · exact foldl_of (st := Prod.snd) (fun _ _ h => h.after_itemCycles) (b := (0, s)) h

theorem after_weirCycles {core : Nat} (h : Canonical s) : Canonical (weirCycles s core) :=
  h.after_engineWeight.after_setCore h.after_engineWeight.frame_core

theorem after_predRises {core : Nat} (h : Canonical s) : Canonical (predRises s core) := h.after_onWeir

theorem after_predFalls {core : Nat} (h : Canonical s) : Canonical (predFalls s core) := h.after_onWeir

theorem after_checkForced {core : Nat} (h : Canonical s) : Canonical (checkForced s core) := h.after_onWeir

theorem after_recap {f : State → State} (h : Canonical s) (hf : ∀ t, Canonical t → Canonical (f t)) : Canonical (recap s f) :=
  ite (hf s h).after_setEvent (hf s h)

theorem after_capPeriod {m : PowerMeasure} (h : Canonical s) : Canonical (capPeriod s m) :=
  ite h ((foldl (fun _ _ h => h.after_onWeir) (h.frame.after_recap (fun _ h => h.frame))).frame)

theorem after_throttleWindow {core gid busy narrow wide : Nat} (h : Canonical s) : Canonical (throttleWindow s core gid busy narrow wide) :=
  ite h (ite h.after_onWeir h.after_onWeir.after_setGroup.after_onWeir)

theorem after_narrowLink {p : Nat} {m : LinkMeasure} (h : Canonical s) : Canonical (narrowLink s p m) := ite h.after_setPort h

theorem after_widenLink {p : Nat} {m : LinkMeasure} (h : Canonical s) : Canonical (widenLink s p m) := ite h.after_setPort h

/-! ### Delivery -/

theorem after_countCorrected (h : Canonical s) : Canonical (countCorrected s) := h.frame

theorem after_countUncorrectable (h : Canonical s) : Canonical (countUncorrectable s) := h.frame

theorem after_clusterError {cl : Nat} (h : Canonical s) : Canonical (clusterError s cl) := by
  unfold clusterError
  dsimp only
  split
  · exact h.after_setCluster
  · split
    · exact h.after_setCluster.after_setCore h.after_setCluster.frame_core
    · exact h.after_setCluster.after_retireCluster

theorem after_groupError {gid : Nat} (h : Canonical s) : Canonical (groupError s gid) := by
  unfold groupError
  split
  · exact h.after_clusterError
  · exact h

theorem after_poisonMemory {sp : Space} {core a : Nat} (h : Canonical s) : Canonical (poisonMemory s sp core a) :=
  h.after_countUncorrectable.after_markPoison

theorem after_poisonCode {core a : Nat} (h : Canonical s) : Canonical (poisonCode s core a) :=
  (h.after_setCore h.frame_core).after_countUncorrectable

theorem after_poisonAcc {core tile elem : Nat} (h : Canonical s) : Canonical (poisonAcc s core tile elem) :=
  (h.after_setCore h.frame_core).after_countUncorrectable

theorem after_countResidue (h : Canonical s) : Canonical (countResidue s) := h.frame

theorem after_poisonReg {gid reg : Nat} {m : Mask} (h : Canonical s) : Canonical (poisonReg s gid reg m) :=
  h.after_setGroup.after_countUncorrectable.after_groupError

theorem after_poisonScalar {gid reg : Nat} (h : Canonical s) : Canonical (poisonScalar s gid reg) :=
  h.after_setGroup.after_countUncorrectable.after_groupError

theorem after_deliverResult {gid id : Nat} {retried poisoned : Mask} (h : Canonical s) :
    Canonical (deliverResult s gid id retried poisoned) :=
  ite h (ite h.after_setGroup.frame h.after_setGroup.frame.after_countUncorrectable.after_groupError)

theorem after_performReady {gid id : Nat} {p : MemOp → Bool} (h : Canonical s) : Canonical (performReady s gid id p) := by
  unfold performReady
  dsimp only
  split
  · exact h
  · split
    · split
      · exact (ite h h.frame).after_performOp.after_killScalar
      · exact (ite h h.frame).after_performOp
    · exact h

theorem after_memoryReturns {gid id : Nat} {k : OpClass} (h : Canonical s) : Canonical (memoryReturns s gid id k) := h.after_performReady

theorem after_peerAcknowledges {gid id : Nat} (h : Canonical s) : Canonical (peerAcknowledges s gid id) := h.after_performReady

theorem after_fillBlock {core tid n : Nat} (h : Canonical s) : Canonical (fillBlock s core tid n) := by
  unfold fillBlock
  dsimp only
  split
  · exact h
  · split
    · exact h.after_setTeam.after_setGroup
    · exact h

theorem after_invalidateBlockLine {core tid n line : Nat} (h : Canonical s) : Canonical (invalidateBlockLine s core tid n line) := by
  unfold invalidateBlockLine
  dsimp only
  split
  · exact h
  · split
    · exact h.after_setTeam
    · exact h

theorem after_recallLine {core line : Nat} {exclusive : Bool} (h : Canonical s) : Canonical (recallLine s core line exclusive) := by
  unfold recallLine
  split
  · exact h
  · split
    · exact h.after_dropLine
    · exact h

theorem after_seamDelivers {gid : Nat} (h : Canonical s) : Canonical (seamDelivers s gid) := by
  unfold seamDelivers
  dsimp only
  split
  · exact h
  · split
    · exact h
    · split
      · exact h.after_setGroup
      · split
        · exact h.after_setGroup
        · split
          · exact h.after_setGroup.after_setGroup
          · exact h

theorem after_heldTimesOut {gid sid : Nat} (h : Canonical s) : Canonical (heldTimesOut s gid sid) := ite h.after_setGroup h

theorem after_issueNext {cl : Nat} (h : Canonical s) : Canonical (issueNext s cl) := h.frame

theorem after_splitStarves {gid sid : Nat} (h : Canonical s) : Canonical (splitStarves s gid sid) := by
  unfold splitStarves
  dsimp only
  split
  · exact h
  · split
    · exact h.after_issueNext
    · exact h

theorem after_contextStarves {gid : Nat} (h : Canonical s) : Canonical (contextStarves s gid) := by
  unfold contextStarves
  dsimp only
  split
  · exact h
  · split
    · split
      · exact h.after_issueNext
      · exact h
    · exact h

theorem after_yieldEnds {gid : Nat} (h : Canonical s) : Canonical (yieldEnds s gid) := by
  unfold yieldEnds
  dsimp only
  split
  · split
    · exact h.after_setGroup
    · exact h
  · exact h

theorem after_tryTeam {tid : Nat} {p : Wait → Bool} (h : Canonical s) : Canonical (tryTeam s tid p) :=
  foldl (fun _ _ h => h.after_tryWait) h

theorem after_barrierWakes {tid id : Nat} (h : Canonical s) : Canonical (barrierWakes s tid id) := h.after_tryTeam

theorem after_dsyncWakes {ident : Nat} (h : Canonical s) : Canonical (dsyncWakes s ident) := by
  refine foldl (fun _ _ h => ?_) h
  split
  · exact ite h.after_dsyncAll h
  · exact h

theorem after_fenceEnds {gid id : Nat} (h : Canonical s) : Canonical (fenceEnds s gid id) := by
  unfold fenceEnds
  dsimp only
  split
  · split
    · exact h.after_setGroup
    · exact h
  · exact h

theorem after_engineStep {tid : Nat} {f : State → State} (h : Canonical s) (hf : ∀ t, Canonical t → Canonical (f t)) :
    Canonical (engineStep s tid f) := ite h (hf s h)

theorem after_engineStarts {tid : Nat} (h : Canonical s) : Canonical (engineStarts s tid) :=
  ite (h.after_engineStep (fun _ h => h.after_engineStart)) h

theorem after_countPersistent (h : Canonical s) : Canonical (countPersistent s) := h.after_countResidue.after_countUncorrectable

theorem after_engineRetires {tid : Nat} {poisoned : Bool} (h : Canonical s) : Canonical (engineRetires s tid poisoned) :=
  h.after_engineStep (fun _ h => ite h.after_engineRetire.after_countPersistent h.after_engineRetire)

theorem after_entryRuns {tid : Nat} {poisoned : Bool} (h : Canonical s) : Canonical (entryRuns s tid poisoned) :=
  ite (h.after_engineStep (fun _ h => ite h.after_engineEntry.after_countPersistent h.after_engineEntry)) h

theorem after_batchCompletes {tid : Nat} (h : Canonical s) : Canonical (batchCompletes s tid) :=
  h.after_engineStep (fun _ h => h.after_completeBatch)

theorem after_teamRetires {tid : Nat} (h : Canonical s) : Canonical (teamRetires s tid) := h.after_retireTeam.after_closeCore

/-! ### Links -/

theorem after_noteAck {p : Nat} {f : List Byte} (h : Canonical s) : Canonical (noteAck s p f) := h.after_setPort.after_pumpPort

theorem after_flitReceives {p : Nat} {f : List Byte} (h : Canonical s) : Canonical (flitReceives s p f) := by
  unfold flitReceives
  dsimp only
  split
  · exact h
  · split
    · exact h.after_sendAck
    · split
      · exact h.after_noteAck
      · split
        · exact h.after_noteAck.after_setPort.after_sendAck
        · split
          · exact h.after_noteAck.after_sendAck
          · exact h.after_noteAck.after_sendAck

theorem after_flitReplays {p : Nat} (h : Canonical s) : Canonical (flitReplays s p) := ite h.after_setPort.frame h

theorem after_portDowns {p : Nat} {c : PortDownCause} (h : Canonical s) : Canonical (portDowns s p c) := by
  unfold portDowns
  dsimp only
  split
  · exact h
  · split
    · exact h.after_setPort.after_setEvent.after_collReform
    · split
      · exact h.after_setPort.after_setEvent.after_collReform.frame.after_setEvent.after_raiseReplace
      · exact h.after_setPort.after_setEvent.after_collReform.frame.after_setEvent

theorem after_portUps {p : Nat} (h : Canonical s) : Canonical (portUps s p) := ite h h.after_setPort.after_setEvent

theorem after_peerEffect {a : PeerAccess} (h : Canonical s) : Canonical (peerEffect s a) := by
  unfold peerEffect
  split
  · exact h.after_placeGet
  · exact h.after_placePut
  · have hg := h.after_placeGet (core := noCore) (f := 0) (sp := .dev) (a := a.addr) (n := 4)
    exact hg.after_placePut

theorem after_peerArrives {a : PeerAccess} (h : Canonical s) : Canonical (peerArrives s a) := by
  unfold peerArrives
  dsimp only
  split
  · exact h
  · split
    · exact h
    · exact (ite h.frame.after_peerEffect h.frame).after_sendFlit

/-! ### Security -/

theorem after_mailboxStart {f cmd : Nat} (h : Canonical s) : Canonical (mailboxStart s f cmd) := ite h.after_setEvent h.after_setFunc

theorem after_mailboxStatus {f status : Nat} (h : Canonical s) : Canonical (mailboxStatus s f status) := h.after_setFunc

theorem after_mailboxEnds {f : Nat} (h : Canonical s) : Canonical (mailboxEnds s f) := by
  unfold mailboxEnds
  dsimp only
  split
  · exact h
  · split
    · exact h.after_recallRange.after_spaceWrite.after_mailboxStatus.frame
    · exact h.after_mailboxStatus
  · exact h.after_spaceWrite.after_mailboxStatus
  · exact h.after_mailboxStatus

theorem after_alarmRaised {x : Sensor} (h : Canonical s) : Canonical (alarmRaised s x) := h.frame.after_setEvent.frame

theorem after_svloadStarts {addr : Nat} (h : Canonical s) : Canonical (svloadStarts s addr) :=
  (foldl (fun _ _ h => h.after_setCore h.frame_core) h.after_extendMeasure).frame

theorem after_svloadEnds {core : Nat} (h : Canonical s) : Canonical (svloadEnds s core) := by
  unfold svloadEnds
  split
  · exact h
  · split
    · exact (h.after_setCore (coreMemWf_imem h.core)).frame
    · exact h

theorem after_resetModule (h : Canonical s) : Canonical (resetModule s) := by
  simp only [Canonical, memoriesWf, Bool.and_eq_true] at h ⊢
  obtain ⟨⟨⟨-, hhost⟩, hpeer⟩, -⟩ := h
  exact ⟨⟨⟨rfl, hhost⟩, hpeer⟩, rfl⟩

theorem after_bringUpStep (h : Canonical s) : Canonical (bringUpStep s) := by
  unfold bringUpStep
  split
  · exact h.frame
  · split
    · exact h.frame
    · exact h.frame
  · exact h.frame
  · exact h.frame
  · exact h.frame
  · exact h
  · exact h

theorem after_resetBy {c : ResetCause} (h : Canonical s) : Canonical (resetBy s c) := by
  unfold resetBy
  split
  · exact h.after_resetModule
  · exact ite h.after_resetModule h

theorem after_dropTlbs {p : TlbEntry → Bool} (h : Canonical s) : Canonical (dropTlbs s p) := by
  exact (h.after_mapCores (f := fun c => { c with tlb := c.tlb.filter fun x => !p x }) fun _ => rfl).frame

theorem after_endTeam {tid : Nat} (h : Canonical s) : Canonical (endTeam s tid) := by
  unfold endTeam
  extract_lets t u1 c mine ids u2 u3 x
  have h1 : Canonical u1 := foldl (fun _ _ h => h.after_endGroup) h
  have h2 : Canonical u2 := h1.after_setCore h1.frame_core
  have h3 : Canonical u3 := ite h2 h2.after_releaseTeam.after_closeCore
  exact h3.after_setTask.after_dropTeam

theorem after_dropWaits {f : Nat} (h : Canonical s) : Canonical (dropWaits s f) := by
  exact (h.after_mapCores (f := fun c => { c with loads := c.loads.filter fun l => decide (l.func ≠ f) || l.waits.isEmpty })
    fun _ => rfl).frame

theorem after_dropQueues {f : Nat} (h : Canonical s) : Canonical (dropQueues s f) := h.frame

theorem after_dropRecords {f : Nat} (h : Canonical s) : Canonical (dropRecords s f) :=
  foldl (fun _ _ h => h.after_dropRecord.after_pumpRecord) h

theorem after_endSteps {t : Nat} (h : Canonical s) : Canonical (endSteps s t) := h.after_setTask

theorem after_flrVf {f : Nat} (h : Canonical s) : Canonical (flrVf s f) := by
  unfold flrVf
  extract_lets tasks u1 u2 u3
  have h1 : Canonical u1 := foldl (fun _ _ h => h.after_endTeam) h
  have h2 : Canonical u2 := foldl (fun _ _ h => h.after_failTask.after_endSteps.after_levelEvents.after_finishTask) h1
  exact ite h h2.after_dropRecords.after_dropWaits.after_dropTlbs.after_dropQueues.after_setFunc

/-! ### Host -/

theorem after_dropWrite {f : Nat} (h : Canonical s) : Canonical (dropWrite s f) := h.after_setEvent

theorem after_hostWrite {f : Nat} {go : State} (h : Canonical s) (hgo : Canonical go) : Canonical (hostWrite s f go) := ite hgo h

theorem after_pfWrite {f : Nat} {go : State} (h : Canonical s) (hgo : Canonical go) : Canonical (pfWrite s f go) :=
  h.after_hostWrite (ite hgo h.after_dropWrite)

theorem after_answerGroup {gid tag va : Nat} {host ok : Bool} (h : Canonical s) : Canonical (answerGroup s gid tag va host ok) := by
  unfold answerGroup
  dsimp only
  split
  · exact h
  · exact h.after_setGroup

theorem after_answerEngine {tid tag va : Nat} {ok : Bool} (h : Canonical s) : Canonical (answerEngine s tid tag va ok) := by
  unfold answerEngine
  dsimp only
  split
  · exact h
  · exact h.after_setTeam

theorem after_answerBatch {tid tag va : Nat} {ok : Bool} (h : Canonical s) : Canonical (answerBatch s tid tag va ok) := by
  unfold answerBatch
  dsimp only
  split
  · exact h
  · exact h.after_setTeam

theorem after_pendClears {x : CopyCmd} {waits : List PageWait} {failed : Bool} (h : Canonical s) :
    Canonical (pendClears s x waits failed) :=
  ite h.after_setProg h

theorem after_answerCopy {core id tag : Nat} {ok : Bool} (h : Canonical s) : Canonical (answerCopy s core id tag ok) := by
  unfold answerCopy
  dsimp only
  split
  · exact h
  · exact h.after_setCmd.after_pendClears

theorem after_answerOverlay {core id tag : Nat} {ok : Bool} (h : Canonical s) : Canonical (answerOverlay s core id tag ok) := by
  unfold answerOverlay
  dsimp only
  split
  · exact h.after_setCore h.frame_core
  · split
    · exact h.after_setCore h.frame_core
    · exact (h.after_setCore h.frame_core).after_pendClears

theorem after_answerQueue {r : QueueRef} {tag : Nat} {ok : Bool} (h : Canonical s) : Canonical (answerQueue s r tag ok) := by
  unfold answerQueue
  dsimp only
  split
  · exact h.after_setTask
  · split
    · exact h
    · split
      · exact h
      · split
        · exact h.after_setQueue
        · exact h.after_enterEntry

theorem after_answerRecord {t tag : Nat} {ok : Bool} (h : Canonical s) : Canonical (answerRecord s t tag ok) := by
  unfold answerRecord
  extract_lets x u1 u2
  have h2 : Canonical u2 := after_pumpRecord (ite h.after_setTask h.after_dropRecord)
  exact ite h2.after_afterRetire h2

theorem after_answer {tag va : Nat} {host ok : Bool} {r : Requester} (h : Canonical s) : Canonical (answer s tag va host ok r) := by
  cases r with
  | group => exact h.after_answerGroup
  | engine => exact h.after_answerEngine
  | copy => exact h.after_answerCopy
  | overlay => exact h.after_answerOverlay
  | queue => exact h.after_answerQueue
  | record => exact h.after_answerRecord
  | batch => exact h.after_answerBatch

theorem after_respond {f tag : Nat} {host ok : Bool} (h : Canonical s) (e : respond s f tag host ok = some u) : Canonical u := by
  obtain ⟨r, -, rfl⟩ := Option.map_eq_some_iff.mp e
  exact foldl (fun _ _ h => h.after_answer) h.after_setFunc

theorem after_fqResponse {f : Nat} {tag : BitVec 16} {ok : Bool} (h : Canonical s) : Canonical (fqResponse s f tag ok) := by
  unfold fqResponse
  refine after_hostWrite h ?_
  cases e : respond s f tag.toNat false ok with
  | none => exact h.after_dropWrite
  | some u => exact h.after_respond e

theorem after_priAnswers {f : Nat} {tag : BitVec 16} {ok : Bool} (h : Canonical s) : Canonical (priAnswers s f tag ok) := by
  unfold priAnswers
  cases e : respond s f tag.toNat true ok with
  | none => exact h
  | some u => exact h.after_respond e

theorem after_startInval {f kind asid : Nat} (h : Canonical s) : Canonical (startInval s f kind asid) :=
  h.after_hostWrite (ite h.after_dropWrite h.after_setFunc)

theorem after_atsWithdrawn {f asid va : Nat} (h : Canonical s) : Canonical (atsWithdrawn s f asid va) := h.frame.after_setFunc

theorem after_invalReplays {f : Nat} {i : Inval} (h : Canonical s) : Canonical (invalReplays s f i) :=
  foldl (fun _ _ h => ite h.after_replayOps h) h

theorem after_invalRemoves {f : Nat} {i : Inval} (h : Canonical s) : Canonical (invalRemoves s f i) :=
  h.after_invalReplays.after_dropTlbs.frame

theorem after_serveAts {f : Nat} {i : Inval} (h : Canonical s) : Canonical (serveAts s f i) := ite h.after_invalRemoves.after_setFunc h

theorem after_invalEnds {f : Nat} (h : Canonical s) : Canonical (invalEnds s f) := by
  unfold invalEnds
  dsimp only
  split
  · exact foldl (fun _ _ h => h.after_serveAts) h
  · split
    · exact (foldl (fun _ _ h => h.after_serveAts) h).after_invalRemoves.after_setFunc.after_setEvent
    · exact foldl (fun _ _ h => h.after_serveAts) h

theorem after_hostPosts {f a : Nat} {b : List Byte} (h : Canonical s) : Canonical (hostPosts s f a b) := h.frame

theorem after_hostArrives {p : Nat × Nat × List Byte} (h : Canonical s) : Canonical (hostArrives s p) :=
  (h.after_recallRange.with_hostMem (memWrite_wf _ _ _ h.after_recallRange.hostMem)).frame

theorem after_performPosted {ps : List (Nat × Nat × List Byte)} (h : Canonical s) : Canonical (performPosted s ps) :=
  foldl (fun _ _ h => h.after_hostArrives) h

theorem after_hostPerforms (h : Canonical s) : Canonical (hostPerforms s) := ite h h.after_drawNat.after_performPosted.frame

theorem after_postedArrive {f : Nat} (h : Canonical s) : Canonical (postedArrive s f) := h.after_performPosted.frame

theorem after_notify {f q : Nat} {relaxed : Bool} {T : Nat} (h : Canonical s) : Canonical (notify s f q relaxed T) :=
  ite h.after_setQueue.after_setEvent (ite h.after_setQueue.after_setEvent h.after_postedArrive.after_setQueue)

theorem after_tailWrite {f q : Nat} {part : WPart} {relaxed : Bool} {v : DWord} (h : Canonical s) :
    Canonical (tailWrite s f q part relaxed v) := by
  refine after_hostWrite h (ite h.after_dropWrite ?_)
  split
  · exact h.after_dropWrite
  · exact h.after_notify
  · exact ite h.after_dropWrite h.after_notify

theorem after_queueWrite {f q : Nat} {ctl : Bool} {part : WPart} {v : DWord} (h : Canonical s) : Canonical (queueWrite s f q ctl part v) :=
  h.after_hostWrite (ite h.after_dropWrite (ite (ite h.after_dropWrite h.after_setQueue) (ite h.after_dropWrite h.after_setQueue)))

theorem after_qstatWrite {q : Nat} {part : WPart} {v : DWord} (h : Canonical s) : Canonical (qstatWrite s q part v) := h.after_setQueue

theorem after_qownWrites {f off : Nat} {part : WPart} {v : DWord} (h : Canonical s) : Canonical (qownWrites s f off part v) :=
  h.after_pfWrite (ite h (ite h.after_dropWrite h.frame))

theorem after_fqctlWrites {f : Nat} {part : WPart} {v : DWord} (h : Canonical s) : Canonical (fqctlWrites s f part v) :=
  h.after_hostWrite (ite h.after_dropWrite h.after_setFunc.after_pumpFaults)

theorem after_wholeOnly {f : Nat} {part : WPart} {go : State} (h : Canonical s) (hg : Canonical go) :
    Canonical (wholeOnly s f part go) := by
  refine after_hostWrite h ?_
  split
  · exact hg
  · exact h.after_dropWrite
  · exact h.after_dropWrite

theorem after_invcmdWrite {f : Nat} {part : WPart} {v : DWord} (h : Canonical s) : Canonical (invcmdWrite s f part v) :=
  h.after_wholeOnly (ite h.after_dropWrite h.after_startInval)

theorem after_fqrespWrite {f : Nat} {part : WPart} {v : DWord} (h : Canonical s) : Canonical (fqrespWrite s f part v) :=
  h.after_wholeOnly (ite h.after_dropWrite h.after_fqResponse)

theorem after_mboxWrite {f cmd : Nat} (h : Canonical s) : Canonical (mboxWrite s f cmd) := h.after_hostWrite h.after_mailboxStart

theorem after_pcapWrites {f : Nat} {part : WPart} {v : DWord} (h : Canonical s) : Canonical (pcapWrites s f part v) :=
  h.after_pfWrite (h.after_recap (fun _ h => h.frame))

theorem after_pfloorWrites {f i : Nat} {part : WPart} {v : DWord} (h : Canonical s) : Canonical (pfloorWrites s f i part v) :=
  h.after_pfWrite (ite h.after_dropWrite (h.after_recap (fun _ h => h.frame)))

theorem after_didtWrites {f : Nat} {part : WPart} {v : DWord} (h : Canonical s) : Canonical (didtWrites s f part v) :=
  h.after_pfWrite (ite h.after_dropWrite h.frame)

theorem after_widenPort {p : Nat} (h : Canonical s) : Canonical (widenPort s p) := h.after_setPort

theorem after_linkcfgWrites {f : Nat} {part : WPart} {v : DWord} (h : Canonical s) : Canonical (linkcfgWrites s f part v) :=
  h.after_pfWrite (ite h.after_dropWrite (foldl (fun _ _ h => h.after_widenPort) h.frame))

theorem after_partmapWrites {f : Nat} {part : WPart} {v : DWord} (h : Canonical s) : Canonical (partmapWrites s f part v) :=
  h.after_pfWrite (ite h.after_dropWrite h.frame.after_extendMeasure)

theorem after_fpartWrites {f : Nat} {part : WPart} {v : DWord} (h : Canonical s) : Canonical (fpartWrites s f part v) :=
  h.after_pfWrite (ite h.after_dropWrite h.frame.after_extendMeasure)

theorem after_partctlWrites {f : Nat} {part : WPart} {v : DWord} (h : Canonical s) : Canonical (partctlWrites s f part v) :=
  h.after_pfWrite (ite h.after_dropWrite (ite h h.frame.after_extendMeasure))

theorem after_svloadWrites {f : Nat} {part : WPart} {v : DWord} (h : Canonical s) : Canonical (svloadWrites s f part v) := by
  refine after_pfWrite h ?_
  split
  · exact h.after_dropWrite
  · exact h.after_dropWrite
  · exact ite h.after_dropWrite (ite h.frame (ite h.after_dropWrite (after_svloadStarts h.frame)))

theorem after_plainWrite {f off : Nat} {part : WPart} {v : DWord} (h : Canonical s) : Canonical (plainWrite s f off part v) := by
  unfold plainWrite
  dsimp only
  split
  · exact h.after_setFunc
  · split
    · split
      · exact h.after_dropWrite
      · exact h.after_setFunc
    · split
      · split
        · exact h.after_dropWrite
        · exact h.after_setFunc
      · split
        · split
          · exact h.after_dropWrite
          · exact h.after_setFunc
        · split
          · split
            · exact h.after_dropWrite
            · exact h.after_setFunc
          · split
            · split
              · exact h.after_dropWrite
              · exact h.after_setFunc
            · split
              · split
                · exact h.after_dropWrite
                · exact h.after_setFunc
              · split
                · split
                  · exact h.after_dropWrite
                  · exact h.after_setFunc
                · split
                  · exact h
                  · exact h.after_dropWrite

theorem after_pfRegWrite {f off : Nat} {part : WPart} {v : DWord} (h : Canonical s) : Canonical (pfRegWrite s f off part v) := by
  unfold pfRegWrite
  split
  · exact h.after_pcapWrites
  · split
    · exact h.after_pfloorWrites
    · split
      · exact h.after_didtWrites
      · split
        · exact h.after_linkcfgWrites
        · split
          · exact h.after_partmapWrites
          · split
            · exact h.after_fpartWrites
            · split
              · exact h.after_partctlWrites
              · split
                · exact h.after_svloadWrites
                · split
                  · exact h.after_pfWrite h
                  · split
                    · exact h.after_qownWrites
                    · exact h.after_dropWrite

theorem after_queueRegWrite {f off : Nat} {part : WPart} {v : DWord} (h : Canonical s) : Canonical (queueRegWrite s f off part v) := by
  unfold queueRegWrite
  dsimp only
  split
  · exact h.after_queueWrite
  · exact h.after_queueWrite
  · exact h.after_tailWrite
  · split
    · exact h.after_qstatWrite
    · exact h.after_dropWrite

theorem after_regWrite {f off : Nat} {part : WPart} {v : DWord} (h : Canonical s) : Canonical (regWrite s f off part v) := by
  unfold regWrite
  split
  · exact h
  · exact h.after_hostWrite (ite h.after_invcmdWrite (ite h.after_fqctlWrites (ite h.after_fqrespWrite (ite (h.after_wholeOnly
      h.after_mboxWrite) (ite h.after_plainWrite (ite h.after_pfRegWrite (ite h.after_queueRegWrite h.after_dropWrite)))))))

/-! ### Cycle -/

theorem after_resumeFault {gid : Nat} (h : Canonical s) : Canonical (resumeFault s gid) := by
  unfold resumeFault
  dsimp only
  split
  · exact h
  · split
    · exact h
    · split
      · exact h.after_setGroup
      · exact h.after_setGroup.after_takeTrap

theorem after_countStall {gid : Nat} (h : Canonical s) : Canonical (countStall s gid) := by
  unfold countStall
  dsimp only
  split
  · split
    · split
      · exact h.after_stallBundle
      · exact h
    · exact h
  · exact h

theorem after_groupBoundary {gid : Nat} (h : Canonical s) : Canonical (groupBoundary s gid) :=
  h.after_faultOut.after_replayOps.after_resumeFault.after_takePending.after_setGroup.after_countStall

theorem after_leaveRetired {cl : Nat} (h : Canonical s) : Canonical (leaveRetired s cl) :=
  ite (foldl (fun _ _ h => h.after_switchOut) h) h

theorem after_markReady {cl gid : Nat} (h : Canonical s) : Canonical (markReady s cl gid) := h.after_setGroup

theorem after_clusterBoundary {cl : Nat} (h : Canonical s) : Canonical (clusterBoundary s cl) :=
  foldl (fun _ _ h => h.after_markReady) (foldl (fun _ _ h => h.after_groupBoundary) h).after_leaveRetired

/-- The state after an outcome, where there is one, is canonical. -/
def Keeps : Host.Outcome State Fault Refusal → Prop
  | .next t => Canonical t
  | .fault _ | .refused _ => True

theorem keeps_issue {b : Bundle} (h : Canonical s) : Keeps (issue b s) := by
  unfold issue
  split
  · trivial
  · exact h.after_issueAt

theorem keeps_exec {i : Instr} (h : Canonical s) : Keeps (exec i s) := by
  cases e : toBundle i with
  | some b => exact exec_toBundle i b s e ▸ h.keeps_issue
  | none =>
    cases i with
    | resultDelivery => exact h.after_deliverResult
    | loadDataReturn | scalarLoadReturn | storeAccept | prefetchFill => exact h.after_memoryReturns
    | lblkFillComplete => exact h.after_fillBlock
    | lblkLineInvalidate => exact h.after_invalidateBlockLine
    | polderRecall => exact h.after_recallLine
    | seamDelivery => exact h.after_seamDelivers
    | heldSplitTimeout => exact h.after_heldTimesOut
    | splitStarvationPresent => exact h.after_splitStarves
    | contextStarvationPrimary => exact h.after_contextStarves
    | yieldEnd => exact h.after_yieldEnds
    | regclaimServed => exact h.after_serveClaim
    | spawnQueueRoom | spawnEventWake | pflushComplete | waitcComplete | mxwaitComplete | cpwaitComplete | streamWriteWaitEnd |
      liningWriteWaitEnd => exact h.after_tryWait
    | overlayLoadComplete => exact h.after_overlayStep
    | barrierPhaseComplete => exact h.after_barrierWakes
    | dsyncComplete => exact h.after_dsyncWakes
    | fenceComplete => exact h.after_fenceEnds
    | mxtakeGrant => exact h.after_tryTeam
    | mxCommandStart => exact h.after_engineStarts
    | mxCommandRetire => exact h.after_engineRetires
    | batchComplete => exact h.after_batchCompletes
    | reverseEntry => exact h.after_entryRuns
    | reverseSuspend => exact h.after_engineStep fun _ h => h.after_suspendWalk
    | copyStart => exact h.after_copyStarts
    | copyResume => exact h.after_copyResumes
    | copyComplete => exact h.after_copyCompletes
    | collCall => exact h.after_collCalls
    | collJoinTimeout => exact h.after_collTimesOut
    | taskFetch => exact h.after_fetchTask
    | dependencePoll => exact h.after_pollDeps
    | taskPriorityRise => exact h.after_raisePriority
    | taskDispatch => exact h.after_dispatchTask
    | walkerExpand => exact h.after_expandTask
    | tileStepLaunch => exact h.after_launchStep
    | teamAdmit => exact h.after_teamAdmits
    | teamResident => exact h.after_teamResides
    | teamPark => exact h.after_parkTeam
    | teamReady => exact h.after_readyTeam
    | preempt => exact h.after_preempts
    | teamRetire => exact h.after_teamRetires
    | pageResponseOk | pageResponseFail => exact h.after_fqResponse
    | priResponse => exact h.after_priAnswers
    | invPage | invAsid | invFunction => exact h.after_startInval
    | atsInvalidateRequest => exact h.after_atsWithdrawn
    | invalidationEnd => exact h.after_invalEnds
    | qtailNotify => exact h.after_tailWrite
    | queueConfigWrite => exact h.after_queueWrite
    | qownWrite => exact h.after_qownWrites
    | fqctlWrite => exact h.after_fqctlWrites
    | pcapWrite => exact h.after_pcapWrites
    | pfloorWrite => exact h.after_pfloorWrites
    | didtDnWrite => exact h.after_didtWrites
    | linkcfgWrite => exact h.after_linkcfgWrites
    | partmapWrite => exact h.after_partmapWrites
    | fpartWrite => exact h.after_fpartWrites
    | partctlWrite => exact h.after_partctlWrites
    | partitionPreempt => exact h.after_preemptPartition
    | svloadGo => exact h.after_svloadWrites
    | mboxReport | mboxAlarmLog => exact h.after_mboxWrite
    | mboxBadCommand => exact ite h h.after_mboxWrite
    | registerWrite => exact h.after_regWrite
    | flitReceive => exact h.after_flitReceives
    | flitReplay => exact h.after_flitReplays
    | portDown => exact h.after_portDowns
    | linkNarrow => exact h.after_narrowLink
    | linkWiden => exact h.after_widenLink
    | peerInboundAccess => exact h.after_peerArrives
    | peerAcknowledge => exact h.after_peerAcknowledges
    | weirCycle => exact h.after_weirCycles
    | predRise => exact h.after_predRises
    | predFall => exact h.after_predFalls
    | forcedCheck => exact h.after_checkForced
    | capControllerPeriod => exact h.after_capPeriod
    | engineThrottleWindow => exact h.after_throttleWindow
    | hintOnset => exact h.after_hintStarts
    | hintExpiry => exact h.after_hintEnds
    | tamperAlarm => exact h.after_alarmRaised
    | moduleReset => exact h.after_resetBy
    | vfFlr => exact h.after_flrVf
    | portUp => exact h.after_portUps
    | svloadLoadEnd => exact h.after_svloadEnds
    | mailboxCommandEnd => exact h.after_mailboxEnds
    | _ => cases e

theorem keeps_onNext {f : State → State} {o : Host.Outcome State Fault Refusal} (hf : ∀ t, Canonical t → Canonical (f t)) (ho : Keeps o) :
    Keeps (onNext f o) := by
  cases o with
  | next t => exact hf t ho
  | fault | refused => trivial

theorem keeps_runFetch {gid sid : Nat} {f : Fetch} (h : Canonical s) : Keeps (runFetch s gid sid f) := by
  cases f with
  | bundle i => exact keeps_onNext (fun _ h => h.frame) (keeps_exec h.frame)
  | illegal | absent => exact h.after_trapBundle
  | routine => exact h.after_routineStep
  | poisoned => exact h.after_killScalar
  | frozen => exact h

theorem keeps_runContext {gid : Nat} (h : Canonical s) : Keeps (runContext s gid) := by
  unfold runContext
  split
  · exact h
  · exact h.keeps_runFetch

theorem after_choosePair {cl gid : Nat} {rs : List (Nat × Group)} (h : Canonical s) : Canonical (choosePair s cl gid rs) :=
  h.after_setCluster

theorem after_idleCycle {cl : Nat} (h : Canonical s) : Canonical (idleCycle s cl) := h.after_setCluster

theorem after_endPair {cl : Nat} (h : Canonical s) : Canonical (endPair cl s) := h.after_setCluster

theorem after_passCycle {cl before : Nat} (h : Canonical s) : Canonical (passCycle cl before s) := ite h.after_setCluster h

theorem keeps_clusterIssues {cl : Nat} {o : Host.Outcome State Fault Refusal} (h : Canonical s) (e : clusterIssues s cl = some o) :
    Keeps o := by
  unfold clusterIssues at e
  dsimp only at e
  split at e
  · cases e
    exact keeps_onNext (fun _ h => h.after_endPair) h.keeps_runContext
  · obtain ⟨gid, -, rfl⟩ := Option.map_eq_some_iff.mp e
    exact keeps_onNext (fun _ h => h.after_passCycle) h.after_choosePair.keeps_runContext

theorem after_firstState {l : List (Option State)} (h : Canonical s) (hl : ∀ t, some t ∈ l → Canonical t) : Canonical (firstState l s) := by
  induction l with
  | nil => exact h
  | cons o r ih =>
    cases o with
    | none => exact ih fun t ht => hl t (List.mem_cons_of_mem _ ht)
    | some t => exact hl t List.mem_cons_self

theorem after_progressOps {gid : Nat} (h : Canonical s) (e : progressOps s gid = some u) : Canonical u := by
  obtain ⟨o, -, rfl⟩ := Option.map_eq_some_iff.mp e
  exact h.after_performReady

theorem after_progressWait {gid : Nat} (h : Canonical s) (e : progressWait s gid = some u) : Canonical u := by
  unfold progressWait at e
  split at e
  · split at e
    · cases e
      exact h.after_tryWait
    · cases e
  · cases e

theorem after_progressFence {gid : Nat} (h : Canonical s) (e : progressFence s gid = some u) : Canonical u := by
  obtain ⟨o, -, rfl⟩ := Option.map_eq_some_iff.mp e
  exact h.after_fenceEnds

theorem after_progressResult {gid : Nat} (h : Canonical s) (e : progressResult s gid = some u) : Canonical u := by
  obtain ⟨o, -, rfl⟩ := Option.map_eq_some_iff.mp e
  exact h.after_deliverResult

theorem after_progressSeam {gid : Nat} (h : Canonical s) (e : progressSeam s gid = some u) : Canonical u := by
  unfold progressSeam at e
  dsimp only at e
  split at e
  · cases e
    exact h.after_seamDelivers
  · cases e

theorem after_teamMoved {tid : Nat} {t : State} (h : Canonical t) (e : teamMoved s tid t = some u) : Canonical u := by
  unfold teamMoved at e
  split at e
  · cases e
  · cases e
    exact h

theorem after_progressEngine {tid : Nat} (h : Canonical s) (e : progressEngine s tid = some u) : Canonical u := by
  unfold progressEngine at e
  dsimp only at e
  split at e
  · split at e
    · cases e
    · exact h.after_batchCompletes.after_teamMoved e
  · refine after_teamMoved (ite h.after_engineStarts ?_) e
    split
    · exact h.after_engineRetires
    · exact ite h.after_engineRetires h.after_entryRuns

theorem after_progressCopy {core : Nat} (h : Canonical s) (e : progressCopy s core = some u) : Canonical u := by
  unfold progressCopy at e
  dsimp only at e
  split at e
  · cases e
    exact h.after_copyCompletes
  · obtain ⟨x, -, rfl⟩ := Option.map_eq_some_iff.mp e
    exact h.after_copyStarts

theorem after_progress {cl : Nat} (h : Canonical s) : Canonical (progress s cl) := by
  unfold progress
  dsimp only
  split
  · exact h.after_weirCycles
  · refine h.after_firstState fun t ht => ?_
    simp only [List.mem_append, List.mem_map, List.mem_singleton, or_assoc] at ht
    obtain ⟨_, -, e⟩ | ⟨_, -, e⟩ | ⟨_, -, e⟩ | ⟨_, -, e⟩ | ⟨_, -, e⟩ | e | ⟨_, -, e⟩ := ht
    · exact h.after_progressOps e
    · exact h.after_progressWait e
    · exact h.after_progressFence e
    · exact h.after_progressSeam e
    · exact h.after_progressEngine e
    · exact h.after_progressCopy e.symm
    · exact h.after_progressResult e

theorem keeps_runCluster {dflt : Bool} {cl : Nat} (h : Canonical s) : Keeps (runCluster dflt s cl) := by
  unfold runCluster
  dsimp only
  split
  · exact ite h.after_progress h
  · split
    next e => exact h.after_clusterBoundary.keeps_clusterIssues e
    next => exact ite h.after_clusterBoundary.after_idleCycle.after_progress h.after_clusterBoundary.after_idleCycle

theorem keeps_runAct {a : Act} (h : Canonical s) : Keeps (runAct s a) := by
  cases a with
  | issue cl =>
    unfold runAct
    dsimp only
    split
    · exact h.keeps_runCluster
    · exact h
  | event i =>
    unfold runAct
    dsimp only
    split
    · exact h
    · exact h.keeps_exec
  | eccCorrected => exact h.after_countCorrected
  | uncorrectable => exact h.after_poisonMemory
  | uncorrectableReg => exact ite h.after_poisonReg h
  | uncorrectableCode => exact h.after_poisonCode
  | uncorrectableAcc => exact h.after_poisonAcc
  | chunkRetry => exact h.after_countResidue
  | uncorrectableScalar => exact ite h.after_poisonScalar h
  | hostPost => exact h.after_hostPosts
  | hostPerform => exact h.after_hostPerforms
  | poll => exact h.after_pollDeps
  | bringUp => exact h.after_bringUpStep
  | elements => exact ite h.after_performElements h
  | tileBytes => exact ite (h.after_engineStep fun _ h => h.after_showTile) h

theorem after_tick (h : Canonical s) : Canonical (tick s) := h.frame

/-! ### Step -/

theorem keeps_step (h : Canonical s) : Keeps (step s) := by
  refine keeps_onNext (fun _ h => h.after_tick) ?_
  split
  · exact h.keeps_runCluster
  · exact keeps_runAct h.frame

end Canonical

/-- Settles O49: the outcome of a step keeps the form, by the cases of the schedule. -/
theorem stepsKeepMemories : Obligations.StepsKeepMemories := by
  unfold Obligations.StepsKeepMemories
  intro s t h e
  have hk := Canonical.keeps_step h
  rwa [e] at hk

end Sys2Proof.Proofs

namespace Sys2Proof.Proofs
open Sys2Proof.Machine Sys2Proof.Safety

/-! ### Words and their instructions (R76-R110) -/

/-- A place in a list without repetition is the place of its entry. -/
theorem idxOf_of_getElem? {α : Type} [DecidableEq α] {l : List α} {n : Nat} {a : α} (hl : l.Nodup) (h : l[n]? = some a) : l.idxOf a = n := by
  obtain ⟨hn, rfl⟩ := List.getElem?_eq_some_iff.mp h
  exact hl.idxOf_getElem n hn

/-- A bit as a number. -/
theorem getLsbD_toNat {w : Nat} (x : BitVec w) (i : Nat) : (if x.getLsbD i then 1 else 0) = x.toNat / 2 ^ i % 2 := by
  rw [← Nat.toNat_testBit, BitVec.testBit_toNat]
  cases x.getLsbD i <;> rfl

/-- A field as a number. -/
theorem field_toNat {w : Nat} (x : BitVec w) (i n : Nat) : (x.extractLsb' i n).toNat = x.toNat / 2 ^ i % 2 ^ n := by
  rw [BitVec.extractLsb'_toNat, Nat.shiftRight_eq_div_pow]

theorem unitNo_of_unitOf {n : Nat} {u : FUnit} (h : unitOf n = some u) : unitNo u = n := by
  unfold unitOf at h
  split at h
  next hn => cases h; exact hn.symm
  next =>
    have hu : u ≠ .sp := by
      rintro rfl
      exact absurd (List.mem_of_getElem? h) (by decide)
    rw [unitNo, if_neg hu]
    exact idxOf_of_getElem? (by decide) h

theorem unitOf_lt {n : Nat} {u : FUnit} (h : unitOf n = some u) : n < 16 := by
  unfold unitOf at h
  split at h
  · omega
  · have := (List.getElem?_eq_some_iff.mp h).1
    have hl : units.length = 12 := rfl
    omega

theorem fmNo_of_fmRounding {k : Nat} {m : Rounding} {o : FmOp} (h : (fmRounding m)[k]? = some o) : fmNo o = 4 * k + roundingNo m := by
  have hk : k < 12 := (List.getElem?_eq_some_iff.mp h).1
  interval_cases k <;> cases h <;> rfl

theorem fmNo_of_fmPlain {k : Nat} {o : FmOp} (h : fmPlain[k]? = some o) : fmNo o = 48 + k := by
  have hk : k < 15 := (List.getElem?_eq_some_iff.mp h).1
  interval_cases k <;> cases h <;> rfl

theorem fmNo_of_fmOf {n : Nat} {o : FmOp} (h : fmOf n = some o) : fmNo o = n := by
  unfold fmOf at h
  split at h
  · obtain ⟨m, hm, ho⟩ := Option.bind_eq_some_iff.mp h
    have hr : roundingNo m = n % 4 := idxOf_of_getElem? (by decide) hm
    rw [fmNo_of_fmRounding ho, hr]
    omega
  · rw [fmNo_of_fmPlain h]
    omega

theorem stNo_of_stPlain {k : Nat} {o : StOp} (h : stPlain[k]? = some o) : stNo o = k := by
  have hk : k < 7 := (List.getElem?_eq_some_iff.mp h).1
  interval_cases k <;> cases h <;> rfl

theorem stNo_of_stAtomic {k : Nat} {o : StOp} (h : stAtomic[k]? = some o) : stNo o = 0x10 + k := by
  have hk : k < 11 := (List.getElem?_eq_some_iff.mp h).1
  interval_cases k <;> cases h <;> rfl

theorem stNo_of_stOf {n : Nat} {o : StOp} (h : stOf n = some o) : stNo o = n := by
  unfold stOf at h
  split at h
  · exact stNo_of_stPlain h
  · split at h
    · rw [stNo_of_stAtomic h]
      omega
    · split at h
      next hn => cases h; exact hn.symm
      next =>
        split at h
        next hn => cases h; exact hn.symm
        next =>
          split at h
          next hn => cases h; exact hn.symm
          next => cases h

/-- A trigger that a unit and an opcode name is that unit's and has that opcode (R79, R97-R107). -/
theorem triggerNo_of_triggerOf {u : FUnit} {n : Nat} {t : Trigger} (h : triggerOf u n = some t) : triggerUnit t = u ∧ triggerNo t = n := by
  cases u with
  | sp => cases h
  | fm0 | fm1 =>
    obtain ⟨o, ho, rfl⟩ := Option.map_eq_some_iff.mp h
    exact ⟨rfl, fmNo_of_fmOf ho⟩
  | st =>
    obtain ⟨o, ho, rfl⟩ := Option.map_eq_some_iff.mp h
    exact ⟨rfl, stNo_of_stOf ho⟩
  | _ =>
    obtain ⟨o, ho, rfl⟩ := Option.map_eq_some_iff.mp h
    exact ⟨rfl, idxOf_of_getElem? (by decide) ho⟩

/-- R81, R82: a source field that is read is the source's own. -/
theorem encodeSrc_of_decodeSrc {f : BitVec 14} {x : Src} (h : decodeSrc f = some x) : encodeSrc x = f := by
  apply BitVec.eq_of_toNat_eq
  have hf := f.isLt
  have hc : (f.extractLsb' 0 12).toNat = f.toNat % 4096 := by simp
  have hk : (f.extractLsb' 12 2).toNat = f.toNat / 4096 := by
    rw [field_toNat]
    omega
  unfold decodeSrc at h
  simp only [hc, hk] at h
  split at h
  next =>
    split at h
    · cases h
      simp only [encodeSrc, BitVec.toNat_setWidth, field_toNat]
      omega
    · cases h
  next =>
    split at h
    next hz =>
      obtain ⟨h10, h2⟩ := hz
      replace h10 : f.toNat / 2 ^ 10 % 2 ^ 2 = 0 := field_toNat f 10 2 ▸ congrArg BitVec.toNat h10
      replace h2 : f.toNat / 2 ^ 2 % 2 ^ 4 = 0 := field_toNat f 2 4 ▸ congrArg BitVec.toNat h2
      simp only [field_toNat] at h
      split at h
      next u hu ho =>
        cases h
        simp only [encodeSrc, BitVec.toNat_ofNat, unitNo_of_unitOf hu, Bool.false_eq_true, if_false]
        omega
      next u hu ho =>
        cases h
        simp only [encodeSrc, BitVec.toNat_ofNat, unitNo_of_unitOf hu, if_true]
        omega
      next => cases h
    next => cases h
  next =>
    cases h
    simp only [encodeSrc, BitVec.toNat_ofNat, field_toNat]
    omega
  next h0 h1 h2 =>
    have hi : f.toNat / 4096 = 3 := by
      have : f.toNat / 4096 ≠ 0 ∧ f.toNat / 4096 ≠ 1 ∧ f.toNat / 4096 ≠ 2 := ⟨h0, h1, h2⟩
      omega
    repeat' split at h
    case isFalse => cases h
    all_goals
      cases h
      simp only [encodeSrc, BitVec.toNat_ofNat, BitVec.reduceToNat, field_toNat]
      omega

/-- The code that a latch's name has. -/
theorem latchNo_latchOf {n : Nat} (h : n < 4) : latchNo (latchOf n) = n := by
  interval_cases n <;> rfl

/-- R78-R80: a destination field that is read is the destination's own, with its H bit. -/
theorem encodeDst_of_decodeDst {f : BitVec 12} {hold : Bool} {d : Dst} (h : decodeDst f hold = some d) :
    encodeDst d = f ∧ dstHold d = hold := by
  have hf := f.isLt
  have hc : (f.extractLsb' 0 10).toNat = f.toNat % 1024 := by simp
  have hk : (f.extractLsb' 10 2).toNat = f.toNat / 1024 := by
    rw [field_toNat]
    omega
  unfold decodeDst at h
  simp only [hc, hk] at h
  split at h
  next =>
    split at h
    · cases h
    next hh =>
      cases h
      refine ⟨BitVec.eq_of_toNat_eq ?_, (Bool.eq_false_iff.mpr hh).symm⟩
      simp only [encodeDst, BitVec.toNat_setWidth, field_toNat]
      omega
  next =>
    split at h
    next hz =>
      replace hz : f.toNat / 2 ^ 0 % 2 ^ 4 = 0 := field_toNat f 0 4 ▸ congrArg BitVec.toNat hz
      obtain ⟨u, hu, rfl⟩ := Option.map_eq_some_iff.mp h
      have hl := latchNo_latchOf (f.extractLsb' 4 2).isLt
      refine ⟨BitVec.eq_of_toNat_eq ?_, rfl⟩
      simp only [field_toNat] at hl
      simp only [encodeDst, BitVec.toNat_ofNat, unitNo_of_unitOf hu, field_toNat]
      omega
    next => cases h
  next =>
    split at h
    · cases h
    next hh =>
      obtain ⟨u, hu, hmap⟩ := Option.bind_eq_some_iff.mp h
      obtain ⟨t, ht, rfl⟩ := Option.map_eq_some_iff.mp hmap
      obtain ⟨htu, htn⟩ := triggerNo_of_triggerOf ht
      refine ⟨BitVec.eq_of_toNat_eq ?_, (Bool.eq_false_iff.mpr hh).symm⟩
      simp only [encodeDst, BitVec.toNat_ofNat, htu, htn, unitNo_of_unitOf hu, field_toNat]
      omega
  next h0 h1 h2 =>
    have hi : f.toNat / 1024 = 3 := by
      have : f.toNat / 1024 ≠ 0 ∧ f.toNat / 1024 ≠ 1 ∧ f.toNat / 1024 ≠ 2 := ⟨h0, h1, h2⟩
      omega
    split at h
    · cases h
    next hh =>
      repeat' split at h
      case isFalse => cases h
      all_goals
        cases h
        refine ⟨BitVec.eq_of_toNat_eq ?_, (Bool.eq_false_iff.mpr hh).symm⟩
        simp only [encodeDst, BitVec.toNat_ofNat, BitVec.reduceToNat, field_toNat]
        omega

/-- The parts of a move's word (R78). -/
theorem moveWord_toNat (w : Word) : w.toNat = w.toNat / 2 ^ 28 % 2 ^ 4 * 2 ^ 28 + w.toNat / 2 ^ 27 % 2 * 2 ^ 27 +
    w.toNat / 2 ^ 15 % 2 ^ 12 * 2 ^ 15 + w.toNat / 2 ^ 1 % 2 ^ 14 * 2 + w.toNat / 2 ^ 0 % 2 := by
  have := w.isLt
  omega

/-- R77, R78: a slot that is read is the slot's own word, and its K bit says whether it holds a long immediate. -/
theorem encodeSlot_of_decodeSlot {k : Bool} {w : Word} {x : Slot} (h : decodeSlot k w = some x) : encodeSlot x = w ∧ slotIsLim x = k := by
  unfold decodeSlot at h
  split at h
  next hk =>
    cases h
    exact ⟨rfl, hk.symm⟩
  next hk =>
    have hk' : k = false := Bool.eq_false_iff.mpr hk
    unfold decodeMove at h
    split at h
    next hw =>
      cases h
      exact ⟨hw.symm, hk'.symm⟩
    next =>
      split at h
      next d y hd hy =>
        cases h
        obtain ⟨hd, hh⟩ := encodeDst_of_decodeDst hd
        refine ⟨BitVec.eq_of_toNat_eq ?_, hk'.symm⟩
        have h0 := getLsbD_toNat w 0
        have h27 := getLsbD_toNat w 27
        have hm := moveWord_toNat w
        simp only [encodeSlot, hd, hh, encodeSrc_of_decodeSrc hy, field_toNat, BitVec.toNat_ofNat]
        have hb : (if w.getLsbD 27 = true then 2 ^ 27 else 0) = w.toNat / 2 ^ 27 % 2 * 2 ^ 27 := by
          rw [← h27]
          split <;> rfl
        rw [hb, h0, ← hm]
        exact Nat.mod_eq_of_lt w.isLt
      next => cases h

/-! ### The scalar slot (R95, R109) -/

/-- A field that uses its low bits alone, widened again. -/
theorem setWidth_extractLsb' {n : Nat} (x : BitVec n) (k : Nat) (h : x.toNat < 2 ^ k) : (x.extractLsb' 0 k).setWidth n = x := by
  apply BitVec.eq_of_toNat_eq
  rw [BitVec.toNat_setWidth, field_toNat, Nat.pow_zero, Nat.div_one, Nat.mod_eq_of_lt h, Nat.mod_eq_of_lt x.isLt]

theorem encodeScalarNat_of_decodeSS {n : Nat} {sd sa sb : BitVec 6} {imm : BitVec 22} {o : ScalarOp} (h : decodeSS n sd sa sb imm = some o) :
    encodeScalarNat o = encodeSS n sd sa sb imm := by
  unfold decodeSS at h
  dsimp only at h
  split at h
  case h_21 => cases h
  -- the operations that use every field
  case h_1 | h_2 | h_3 | h_4 | h_15 | h_16 =>
    cases h
    rfl
  -- MRD, MWR and BASEW use the low bits of a register field
  case h_5 =>
    obtain ⟨⟨hsa, hsb, himm⟩, ho⟩ := Option.ite_none_right_eq_some.mp h
    cases ho
    rw [encodeScalarNat, setWidth_extractLsb' sa 4 hsa, hsb, himm]
  case h_6 | h_7 =>
    obtain ⟨hz, ho⟩ := Option.ite_none_right_eq_some.mp h
    cases ho
    rw [encodeScalarNat, setWidth_extractLsb' sd _ hz]
  all_goals
    obtain ⟨hz, ho⟩ := Option.ite_none_right_eq_some.mp h
    cases ho
    simp only [encodeScalarNat, hz]

theorem encodeScalarNat_of_decodeSI {n : Nat} {sd : BitVec 6} {r : BitVec 2} {imm : BitVec 32} {o : ScalarOp}
    (h : decodeSI n sd r imm = some o) : r = 0 ∧ encodeScalarNat o = encodeSI n sd imm := by
  unfold decodeSI at h
  obtain ⟨hr, ho⟩ := Option.ite_none_right_eq_some.mp h
  refine ⟨hr, ?_⟩
  split at ho
  case h_4 => cases ho
  all_goals
    cases ho
    rfl

/-- The condition bits of a BD or BU opcode (R96). -/
theorem encodeCond_extract (op : BitVec 8) : encodeCond (op.getLsbD 4) (op.extractLsb' 0 4) = op.toNat % 32 := by
  have h := getLsbD_toNat op 4
  have hc : (if op.getLsbD 4 then 16 else 0) = 16 * (op.toNat / 2 ^ 4 % 2) := by
    rw [← h]
    split <;> rfl
  rw [encodeCond, hc, field_toNat]
  omega

theorem encodeScalarNat_of_decodeBR {op : BitVec 8} {target : BitVec 24} {join : BitVec 16} {o : ScalarOp} (hop : 0x60 ≤ op.toNat)
    (h : decodeBR op target join = some o) : encodeScalarNat o = encodeBR op.toNat target join := by
  unfold decodeBR at h
  dsimp only at h
  split at h
  · cases h
    rw [encodeScalarNat, encodeCond_extract]
    congr 1
    omega
  · split at h
    · obtain ⟨hj, ho⟩ := Option.ite_none_right_eq_some.mp h
      cases ho
      rw [encodeScalarNat, encodeCond_extract, hj]
      congr 1
      omega
    · split at h
      next hn =>
        obtain ⟨hj, ho⟩ := Option.ite_none_right_eq_some.mp h
        cases ho
        rw [encodeScalarNat, hj, hn]
      next =>
        obtain ⟨hn, h⟩ := Option.ite_none_right_eq_some.mp h
        obtain ⟨hj, ho⟩ := Option.ite_none_right_eq_some.mp h
        cases ho
        replace hj : join.toNat / 2 ^ 6 % 2 ^ 10 = 0 := field_toNat join 6 10 ▸ congrArg BitVec.toNat hj
        rw [encodeScalarNat, hn]
        congr 1
        apply BitVec.eq_of_toNat_eq
        rw [BitVec.toNat_setWidth, field_toNat]
        have := join.isLt
        omega

theorem encodeScalarNat_of_decodeSY {n : Nat} {sa sb id : BitVec 6} {scope : BitVec 3} {r : BitVec 19} {o : ScalarOp}
    (h : decodeSY n sa sb id scope r = some o) : r = 0 ∧ encodeScalarNat o = encodeSY n sa sb id scope := by
  unfold decodeSY at h
  obtain ⟨hr, ho⟩ := Option.ite_none_right_eq_some.mp h
  refine ⟨hr, ?_⟩
  split at ho
  case h_10 => cases ho
  case h_1 =>
    cases ho
    rfl
  all_goals
    obtain ⟨hz, hs⟩ := Option.ite_none_right_eq_some.mp ho
    cases hs
    simp only [encodeScalarNat, hz]

theorem encodeScalarNat_of_decodeSX {n : Nat} {sd sa : BitVec 6} {imm : BitVec 16} {r : BitVec 12} {o : ScalarOp}
    (h : decodeSX n sd sa imm r = some o) : r = 0 ∧ encodeScalarNat o = encodeSX n sd sa imm := by
  unfold decodeSX at h
  obtain ⟨hr, ho⟩ := Option.ite_none_right_eq_some.mp h
  refine ⟨hr, ?_⟩
  split at ho
  case h_6 => cases ho
  all_goals
    obtain ⟨hz, hs⟩ := Option.ite_none_right_eq_some.mp ho
    cases hs
    simp only [encodeScalarNat, hz]

/-- A scalar slot that is read is the operation's own (R95, R109). -/
theorem encodeScalar_of_decodeScalar {w : BitVec 48} {o : ScalarOp} (h : decodeScalar w = some o) : encodeScalar o = w := by
  apply BitVec.eq_of_toNat_eq
  rw [encodeScalar, BitVec.toNat_ofNat, ← Nat.mod_eq_of_lt w.isLt]
  congr 1
  have hw := w.isLt
  have hn : (w.extractLsb' 40 8).toNat = w.toNat / 2 ^ 40 % 2 ^ 8 := field_toNat w 40 8
  unfold decodeScalar at h
  dsimp only at h
  split at h
  · obtain ⟨a, ha, rfl⟩ := Option.map_eq_some_iff.mp h
    have hi : aluOps.idxOf a = _ := idxOf_of_getElem? (by decide) ha
    simp only [encodeScalarNat, hi, encodeSS, field_toNat]
    omega
  · split at h
    · rw [encodeScalarNat_of_decodeSS h]
      simp only [encodeSS, field_toNat]
      omega
    · split at h
      · obtain ⟨hr, he⟩ := encodeScalarNat_of_decodeSI h
        replace hr : w.toNat / 2 ^ 32 % 2 ^ 2 = 0 := field_toNat w 32 2 ▸ congrArg BitVec.toNat hr
        rw [he]
        simp only [encodeSI, field_toNat]
        omega
      · split at h
        · rw [encodeScalarNat_of_decodeBR (by omega) h]
          simp only [encodeBR, field_toNat]
          omega
        · split at h
          · obtain ⟨hr, he⟩ := encodeScalarNat_of_decodeSY h
            replace hr : w.toNat / 2 ^ 0 % 2 ^ 19 = 0 := field_toNat w 0 19 ▸ congrArg BitVec.toNat hr
            rw [he]
            simp only [encodeSY, field_toNat]
            omega
          · obtain ⟨hr, he⟩ := encodeScalarNat_of_decodeSX h
            replace hr : w.toNat / 2 ^ 0 % 2 ^ 12 = 0 := field_toNat w 0 12 ▸ congrArg BitVec.toNat hr
            rw [he]
            simp only [encodeSX, field_toNat]
            omega

/-! ### The bundle (R76, R110) -/

/-- The slots from `k` on are read from their words. -/
def SlotsFrom (w : BundleWord) : Nat → List Slot → Prop
  | _, [] => True
  | k, x :: r => decodeSlot (w.getLsbD (246 + k)) (w.extractLsb' (32 * k) 32) = some x ∧ SlotsFrom w (k + 1) r

theorem encodeSlots_of_slotsFrom {w : BundleWord} {k : Nat} {l : List Slot} (h : SlotsFrom w k l) :
    encodeSlots l = w.toNat / 2 ^ (32 * k) % 2 ^ (32 * l.length) := by
  induction l generalizing k with
  | nil => simp [encodeSlots, Nat.mod_one]
  | cons x r ih =>
    obtain ⟨hx, hr⟩ := h
    obtain ⟨he, -⟩ := encodeSlot_of_decodeSlot hx
    rw [encodeSlots, he, field_toNat, ih hr, List.length_cons, Nat.mul_add 32 r.length 1, Nat.mul_add 32 k 1, Nat.mul_one, Nat.pow_add,
      Nat.pow_add, ← Nat.div_div_eq_div_mul, Nat.mul_comm (2 ^ (32 * r.length)), Nat.mod_mul]

theorem encodeK_of_slotsFrom {w : BundleWord} {k : Nat} {l : List Slot} (h : SlotsFrom w k l) :
    encodeK l = w.toNat / 2 ^ (246 + k) % 2 ^ l.length := by
  induction l generalizing k with
  | nil => simp [encodeK, Nat.mod_one]
  | cons x r ih =>
    obtain ⟨hx, hr⟩ := h
    obtain ⟨-, hk⟩ := encodeSlot_of_decodeSlot hx
    rw [encodeK, hk, getLsbD_toNat, ih hr, List.length_cons, Nat.pow_succ, ← Nat.add_assoc, Nat.pow_succ, ← Nat.div_div_eq_div_mul,
      Nat.mul_comm (2 ^ r.length), Nat.mod_mul]

/-- Slots that were all read. -/
theorem isSome_of_firstUnread {k : Nat} {l : List (Option Slot)} (h : firstUnread k l = none) : ∀ x ∈ l, x.isSome := by
  induction l generalizing k with
  | nil => simp
  | cons x r ih =>
    cases x with
    | none => cases h
    | some x =>
      intro y hy
      cases hy with
      | head => rfl
      | tail _ hy => exact ih h y hy

theorem firstOf_eq_none {a b : Option Nat} (h : firstOf a b = none) : a = none ∧ b = none := by
  cases a with
  | none => exact ⟨rfl, h⟩
  | some => cases b <;> cases h

/-- Six slots that were read are those of the word. -/
theorem slotsFrom_of_decodeSlots {w : BundleWord} {k : Nat} (h : firstUnread k (decodeSlots w) = none) :
    SlotsFrom w 0 ((decodeSlots w).map fun x => x.getD .empty) := by
  have hs := isSome_of_firstUnread h
  have hget (i : Nat) (hi : i < 6) : decodeSlot (w.getLsbD (246 + i)) (w.extractLsb' (32 * i) 32) =
      some ((decodeSlot (w.getLsbD (246 + i)) (w.extractLsb' (32 * i) 32)).getD .empty) := by
    obtain ⟨x, hx⟩ := Option.isSome_iff_exists.mp (hs _ (List.mem_map.mpr ⟨i, List.mem_range.mpr hi, rfl⟩))
    rw [hx]
    rfl
  exact ⟨hget 0 (by omega), hget 1 (by omega), hget 2 (by omega), hget 3 (by omega), hget 4 (by omega), hget 5 (by omega), trivial⟩

/-- The fields of a bundle's word (R76). -/
theorem bundleWord_toNat (w : BundleWord) : w.toNat = w.toNat / 2 ^ 0 % 2 ^ 192 + 2 ^ 192 * (w.toNat / 2 ^ 192 % 2 ^ 48) +
    2 ^ 240 * (w.toNat / 2 ^ 240 % 2 ^ 4) + 2 ^ 244 * (w.toNat / 2 ^ 244 % 2) + 2 ^ 245 * (w.toNat / 2 ^ 245 % 2) +
    2 ^ 246 * (w.toNat / 2 ^ 246 % 2 ^ 6) + 2 ^ 252 * (w.toNat / 2 ^ 252 % 2 ^ 4) := by
  have := w.isLt
  omega

/-- A scalar slot's value, none being 0. -/
def scalarNat (o : Option ScalarOp) : Nat :=
  match o with
  | some op => (encodeScalar op).toNat
  | none => 0

/-- A bundle with the fields of a word is that word's. -/
theorem encodeBundle_eq {w : BundleWord} {slots : List Slot} {o : Option ScalarOp} (hl : slots.length = 6) (hs : SlotsFrom w 0 slots)
    (hz : w.extractLsb' 240 4 = 0) (ho : o.isSome = w.getLsbD 245) (hn : scalarNat o = w.toNat / 2 ^ 192 % 2 ^ 48) :
    encodeBundle { la := w.extractLsb' 252 4, y := w.getLsbD 244, slots := slots, scalar := o } = w := by
  apply BitVec.eq_of_toNat_eq
  replace hz : w.toNat / 2 ^ 240 % 2 ^ 4 = 0 := field_toNat w 240 4 ▸ congrArg BitVec.toNat hz
  have he : encodeBundle { la := w.extractLsb' 252 4, y := w.getLsbD 244, slots := slots, scalar := o } =
      BitVec.ofNat 256 (encodeSlots slots + 2 ^ 192 * scalarNat o + 2 ^ 244 * (if w.getLsbD 244 then 1 else 0) +
        2 ^ 245 * (if o.isSome then 1 else 0) + 2 ^ 246 * encodeK slots + 2 ^ 252 * (w.extractLsb' 252 4).toNat) := rfl
  have hw := bundleWord_toNat w
  rw [he, encodeSlots_of_slotsFrom hs, encodeK_of_slotsFrom hs, hl, ho, getLsbD_toNat, getLsbD_toNat, hn, field_toNat, BitVec.toNat_ofNat]
  rw [hz, Nat.mul_zero, Nat.add_zero] at hw
  exact (congrArg (· % 2 ^ 256) hw).symm.trans (Nat.mod_eq_of_lt w.isLt)

theorem bundleLegal_of {b : Bundle} (hl : b.slots.length = 6) (hs : firstIllegalSlot b.slots [] 0 b.slots = none)
    (ho : ∀ op, b.scalar = some op → scalarLegal op = true) : bundleLegal b = true := by
  have hf : firstIllegal b = none := by
    unfold firstIllegal
    rw [hs]
    dsimp only
    split
    next op e => rw [if_pos (ho op e)]
    next => rfl
  rw [bundleLegal, hl, hf]
  rfl

/-- A bundle that is read is legal, and its word is the one that was read (R110). -/
theorem encodeBundle_of_decodeBundle {w : BundleWord} {b : Bundle} (h : decodeBundle w = .ok b) : bundleLegal b = true ∧ encodeBundle b = w := by
  unfold decodeBundle at h
  extract_lets bs has read slots la y at h
  split at h
  · cases h
  next hz =>
    simp only [ne_eq, not_or, not_and, not_not] at hz
    obtain ⟨hr, hz⟩ := hz
    split at h
    · cases h
    next hf =>
      obtain ⟨hu, hi⟩ := firstOf_eq_none hf
      have hs : SlotsFrom w 0 slots := slotsFrom_of_decodeSlots hu
      have hl : slots.length = 6 := by simp [slots, read, decodeSlots]
      split at h
      next hb =>
        split at h
        next op ho =>
          split at h
          next hleg =>
            cases h
            refine ⟨?_, encodeBundle_eq hl hs hr hb.symm ?_⟩
            · exact bundleLegal_of hl hi fun _ e => Option.some.inj e ▸ hleg
            · rw [scalarNat, encodeScalar_of_decodeScalar ho, field_toNat]
          next => cases h
        next => cases h
      next hb =>
        have hb' : has = false := Bool.eq_false_iff.mpr hb
        cases h
        refine ⟨?_, encodeBundle_eq hl hs hr hb'.symm ?_⟩
        · exact bundleLegal_of hl hi fun _ e => absurd e (Option.some_ne_none _).symm
        · exact (field_toNat w 192 48 ▸ congrArg BitVec.toNat (hz hb')).symm

/-! ### Bundles and their instructions -/

/-- A lone scalar operation is the instruction of its bundle. -/
theorem toBundle_scalarInstr (op : ScalarOp) : toBundle (scalarInstr op) = some (scalarBundle op) := by
  cases op with
  | alu op => cases op <;> rfl
  | wrsr sa reg =>
    rw [scalarInstr, wrsrInstr]
    repeat' split
    all_goals rfl
  | _ => rfl

/-- A lone trigger is the instruction of its bundle; an mx or cp trigger has no guard (R83). -/
theorem toBundle_triggerInstr {t : Trigger} {g : Guard} (src : Src) (hg : unitUniform (triggerUnit t) = true → g = noGuard) :
    toBundle (triggerInstr t g src) = some (triggerBundle t g src) := by
  cases t with
  | mx op =>
    cases hg rfl
    cases op <;> rfl
  | cp op =>
    cases hg rfl
    cases op <;> rfl
  | ia _ op | lg op | fm _ op | sf op | xl op | sm op | ld op | st op => cases op <;> rfl

theorem canonical_scalarInstr (op : ScalarOp) : WellFormed.canonical (scalarInstr op) = scalarInstr op := by
  cases op with
  | alu op => cases op <;> rfl
  | wrsr sa reg =>
    rw [scalarInstr, wrsrInstr]
    repeat' split
    all_goals rfl
  | _ => rfl

theorem canonical_triggerInstr (t : Trigger) (g : Guard) (src : Src) :
    WellFormed.canonical (triggerInstr t g src) = triggerInstr t g src := by
  cases t with
  | ia _ op | lg op | fm _ op | sf op | xl op | sm op | ld op | st op | mx op | cp op => cases op <;> rfl

/-- A legal move to mx or cp has the guard m0 (R83). -/
theorem guard_of_moveLegal {slots : List Slot} {m : Move} (h : moveLegal slots m = true) (hd : destUniform m.dst = true) : m.g = noGuard := by
  simp only [moveLegal, Bool.and_eq_true] at h
  obtain ⟨⟨⟨hg, -⟩, -⟩, -⟩ := h
  unfold guardLegal at hg
  split at hg
  next hm =>
    rw [Bool.not_eq_true'] at hg
    rw [noGuard, ← hm, ← hg]
  next =>
    rw [hd] at hg
    cases hg

/-- The first slot of a legal bundle. -/
theorem moveLegal_of_head {b : Bundle} {m : Move} {r : List Slot} (hb : bundleLegal b = true) (hs : b.slots = .move m :: r) :
    moveLegal b.slots m = true := by
  simp only [bundleLegal, Bool.and_eq_true, decide_eq_true_eq] at hb
  obtain ⟨-, hf⟩ := hb
  by_contra hm
  rw [Bool.not_eq_true] at hm
  unfold firstIllegal at hf
  rw [hs, firstIllegalSlot, slotLegal, ← hs, hm] at hf
  cases hf

/-- A legal bundle's instruction has that bundle, and is its own form. -/
theorem toBundle_ofBundle {b : Bundle} (hb : bundleLegal b = true) :
    toBundle (ofBundle b) = some b ∧ WellFormed.canonical (ofBundle b) = ofBundle b := by
  unfold ofBundle
  split
  next hly =>
    obtain ⟨hla, hy⟩ := hly
    split
    next op hs ho =>
      refine ⟨?_, canonical_scalarInstr op⟩
      obtain ⟨la, y, slots, scalar⟩ := b
      cases hla; cases hy; cases hs; cases ho
      exact toBundle_scalarInstr op
    next m hs ho =>
      split
      next t ht =>
        refine ⟨?_, canonical_triggerInstr t m.g m.src⟩
        have hg : unitUniform (triggerUnit t) = true → m.g = noGuard := fun hu =>
          guard_of_moveLegal (moveLegal_of_head hb hs) (by rw [ht]; exact hu)
        obtain ⟨la, y, slots, scalar⟩ := b
        obtain ⟨g, dst, src⟩ := m
        cases hla; cases hy; cases hs; cases ho; cases ht
        exact toBundle_triggerInstr src hg
      next => exact ⟨rfl, rfl⟩
    next => exact ⟨rfl, rfl⟩
  next => exact ⟨rfl, rfl⟩

/-- Settles O43: each field that is read is its value's own, so the word is the bundle's; the bundle is legal as read. -/
theorem encodeDecode : Obligations.EncodeDecode := by
  unfold Obligations.EncodeDecode
  intro w i h
  unfold decode at h
  split at h
  next b e =>
    cases h
    obtain ⟨hleg, hw⟩ := encodeBundle_of_decodeBundle e
    obtain ⟨hto, hcan⟩ := toBundle_ofBundle hleg
    refine ⟨?_, ?_⟩
    · simp only [WellFormed.wf, hto, hleg, hcan, decide_true, Bool.and_self]
    · rw [encode, hto, Option.map_some, hw]
  next => cases h

end Sys2Proof.Proofs

namespace Sys2Proof.Proofs
open Sys2Proof.Machine Sys2Proof.Safety

/-! ### Special registers (R141) -/

section Reads
variable (s : State) (gid h : Nat)

theorem specialValue_chdone {n : Nat} (hn : n < 8) :
    specialValue s gid h (0x018 + n) = chdoneWord (tgetD (teamOf s (groupOf s gid).team).channels n {}) := by
  interval_cases n <;> rfl

theorem specialValue_gmap {n : Nat} (hn : n < 8) : specialValue s gid h (0x023 + n) = tgetD (teamOf s (groupOf s gid).team).gmap n 0 := by
  interval_cases n <;> rfl

theorem specialValue_qw0 {q : Nat} (hq : q < 16) :
    specialValue s gid h (0x040 + 2 * q) = (streamOf (teamOf s (groupOf s gid).team) q).qw0 := by
  interval_cases q <;> rfl

theorem specialValue_qw1 {q : Nat} (hq : q < 16) :
    specialValue s gid h (0x041 + 2 * q) = qw1Word (streamOf (teamOf s (groupOf s gid).team) q) := by
  interval_cases q <;> rfl

theorem specialValue_pfloor {n : Nat} (hn : n < 8) : specialValue s gid h (0x128 + n) = BitVec.ofNat 64 (tgetD s.pfloor n 0) := by
  interval_cases n <;> rfl

theorem specialValue_portwait {k slot : Nat} (hp : (groupOf s gid).place = .resident k slot) :
    specialValue s gid h 0x00A = BitVec.ofNat 64 (clusterOf s k).portwait := by
  have hk : (clusterOfGroup (groupOf s gid)).getD 0 = k := by rw [clusterOfGroup, hp]; rfl
  rw [← hk]
  rfl

theorem specialValue_clkpat {k slot : Nat} (hp : (groupOf s gid).place = .resident k slot) :
    specialValue s gid h 0x121 = (clusterOf s k).clkpat.setWidth 64 := by
  have hk : (clusterOfGroup (groupOf s gid)).getD 0 = k := by rw [clusterOfGroup, hp]; rfl
  rw [← hk]
  rfl

end Reads

/-- A number that fits its register. -/
theorem ofNat64_toNat {x : Nat} (hx : x < 2 ^ 64) : (BitVec.ofNat 64 x).toNat = x := by
  rw [BitVec.toNat_ofNat, Nat.mod_eq_of_lt hx]

/-! #### Words of several fields -/

/-- The low five flags (R59). -/
theorem and_lowFlags_toNat (x : BitVec 13) : (x &&& 0x001F).toNat = x.toNat % 2 ^ 5 := Nat.and_two_pow_sub_one_eq_mod x.toNat 5

/-- The flags 12:8 (R59, R349). -/
theorem and_highFlags_toNat (x : BitVec 13) : (x &&& 0x1F00).toNat = x.toNat / 2 ^ 8 * 2 ^ 8 := by
  have hx : x &&& (0x1F00 : BitVec 13) = (x >>> 8) <<< 8 := by
    apply BitVec.eq_of_getLsbD_eq
    intro i hi
    interval_cases i <;> simp
  have := x.isLt
  rw [hx, BitVec.toNat_shiftLeft, BitVec.toNat_ushiftRight, Nat.shiftRight_eq_div_pow, Nat.shiftLeft_eq, Nat.mod_eq_of_lt (by omega)]

/-- FSTAT reads the flags that belong to the half. -/
theorem fstatWord_toNat (g : Group) (h : Nat) : (fstatWord g h).toNat = (g.fstat &&& fstatHalf g h).toNat := by
  rw [fstatWord, BitVec.toNat_setWidth, Nat.mod_eq_of_lt ((g.fstat &&& fstatHalf g h).isLt.trans (by decide))]

/-- GSTAT's dead-source bits are those of the half that owns them (R349, R350). -/
theorem gstatWord_toNat (g : Group) (h : Nat) : (gstatWord g h).toNat =
    (if g.deadSrc = true ∧ (g.lw = true → h ≠ 1) then 1 else 0) + (if g.deadSrcH = true ∧ g.lw = true ∧ h = 1 then 2 else 0) +
      (if g.super then 4 else 0) + (if g.lw then 8 else 0) + (if g.deleg then 16 else 0) := by
  have h1 : ((g.deadSrc && ownsDead g h false) = true) = (g.deadSrc = true ∧ (g.lw = true → h ≠ 1)) := by
    cases hl : g.lw <;> simp [ownsDead, hl]
  have h2 : ((g.deadSrcH && ownsDead g h true) = true) = (g.deadSrcH = true ∧ g.lw = true ∧ h = 1) := by
    cases hl : g.lw <;> simp [ownsDead, hl]
  have hle (p : Prop) [Decidable p] (n : Nat) : (if p then n else 0) ≤ n := by split <;> omega
  unfold gstatWord
  simp only [h1, h2]
  refine ofNat64_toNat ?_
  have a1 := hle (g.deadSrc = true ∧ (g.lw = true → h ≠ 1)) 1
  have a2 := hle (g.deadSrcH = true ∧ g.lw = true ∧ h = 1) 2
  have a3 := hle (g.super = true) 4
  have a4 := hle (g.lw = true) 8
  have a5 := hle (g.deleg = true) 16
  omega

/-- A half's flags (R59, R349). -/
theorem fstatWord_native {g : Group} {h : Nat} (hl : g.lw = false) : (fstatWord g h).toNat = g.fstat.toNat % 2 ^ 5 := by
  rw [fstatWord_toNat, fstatHalf, hl]
  exact and_lowFlags_toNat g.fstat

theorem fstatWord_lower {g : Group} {h : Nat} (hl : g.lw = true) (hh : h = 0) : (fstatWord g h).toNat = g.fstat.toNat % 2 ^ 5 := by
  rw [fstatWord_toNat, fstatHalf, hl, hh]
  exact and_lowFlags_toNat g.fstat

theorem fstatWord_upper {g : Group} {h : Nat} (hl : g.lw = true) (hh : h = 1) : (fstatWord g h).toNat = g.fstat.toNat / 2 ^ 8 * 2 ^ 8 := by
  rw [fstatWord_toNat, fstatHalf, hl, hh]
  exact and_highFlags_toNat g.fstat

/-- ROLE's fields (R16). -/
theorem roleWord_fields {g : Group} (h1 : g.role < 16) (h2 : g.rix < 16) (h3 : g.gix < 16) :
    (roleWord g).toNat % 16 = g.role ∧ (roleWord g).toNat / 16 % 16 = g.rix ∧ (roleWord g).toNat / 256 = g.gix := by
  rw [roleWord, ofNat64_toNat (by omega)]
  omega

/-- DOM's fields (R18). -/
theorem domWord_fields {t : Team} {a b d : Nat} (hd : t.dom = [a, b, d]) (h1 : a < 2 ^ 16) (h2 : b < 2 ^ 16) (h3 : d < 2 ^ 16) :
    (domWord t).toNat % 2 ^ 16 = a ∧ (domWord t).toNat / 2 ^ 16 % 2 ^ 16 = b ∧ (domWord t).toNat / 2 ^ 32 = d := by
  have hv : domWord t = BitVec.ofNat 64 (a + b * 2 ^ 16 + d * 2 ^ 32) := by
    rw [domWord, hd]
    rfl
  rw [hv, ofNat64_toNat (by omega)]
  omega

/-- MXTOK names the holder and whether it is the reader (R143). -/
theorem mxtokWord_none {s : State} {gid : Nat} {t : Team} (h : t.token = none) : (mxtokWord s gid t).toNat = 0 := by
  rw [mxtokWord, h]
  rfl

theorem mxtokWord_self {s : State} {gid : Nat} {t : Team} (h : t.token = some gid) (hg : (groupOf s gid).gix < 16) :
    (mxtokWord s gid t).toNat = (groupOf s gid).gix + 16 + 32 := by
  rw [mxtokWord, h]
  dsimp only
  rw [if_pos rfl, ofNat64_toNat (by omega)]

theorem mxtokWord_other {s : State} {gid k : Nat} {t : Team} (h : t.token = some k) (hk : k ≠ gid) (hg : (groupOf s k).gix < 16) :
    (mxtokWord s gid t).toNat = (groupOf s k).gix + 32 := by
  rw [mxtokWord, h]
  dsimp only
  rw [if_neg hk, ofNat64_toNat (by omega)]

/-- CHDONE's fields (R234). -/
theorem chdoneWord_fields {x : Channel} (hd : x.done < 2 ^ 32) (hp : x.prog < 2 ^ 28) :
    (chdoneWord x).toNat % 2 ^ 32 = x.done ∧ (chdoneWord x).toNat / 2 ^ 32 % 2 ^ 28 = x.prog ∧
      (chdoneWord x).toNat / 2 ^ 62 % 2 = (if x.pend then 1 else 0) ∧ (chdoneWord x).toNat / 2 ^ 63 = (if x.fail.isSome then 1 else 0) := by
  have hw : (chdoneWord x).toNat = x.done + x.prog * 2 ^ 32 + (if x.pend then 2 ^ 62 else 0) + if x.fail.isSome then 2 ^ 63 else 0 := by
    refine ofNat64_toNat ?_
    split <;> split <;> omega
  rw [hw]
  cases x.pend <;> cases x.fail.isSome <;> simp only [if_true, Bool.false_eq_true, if_false] <;> omega

/-- LNHEAD's fields (R287). -/
theorem lnheadWord_fields {t : Team} (h1 : t.lnHead < 2 ^ 26) (h2 : t.lnCur < 2 ^ 26) (h3 : t.lnSt < 4) :
    (lnheadWord t).toNat % 2 ^ 26 = t.lnHead ∧ (lnheadWord t).toNat / 2 ^ 26 % 2 ^ 26 = t.lnCur ∧ (lnheadWord t).toNat / 2 ^ 62 = t.lnSt := by
  rw [lnheadWord, ofNat64_toNat (by omega)]
  omega

/-- QW1's fields (R263). -/
theorem qw1Word_fields {x : Stream} (h1 : x.head < 2 ^ 32) (h2 : x.tail < 2 ^ 32) :
    (qw1Word x).toNat % 2 ^ 32 = x.head ∧ (qw1Word x).toNat / 2 ^ 32 = x.tail := by
  rw [qw1Word, ofNat64_toNat (by omega)]
  omega

/-- ILIM's fields (R327). -/
theorem ilimWord_fields {c : Core} (h1 : c.ilim.hard < 2 ^ 16) (h2 : c.ilim.soft < 2 ^ 16) (h3 : c.ilim.frz2 < 2 ^ 6) (h4 : c.ilim.fduty < 2 ^ 5) :
    (ilimWord c).toNat % 2 ^ 16 = c.ilim.hard ∧ (ilimWord c).toNat / 2 ^ 16 % 2 ^ 16 = c.ilim.soft ∧
      (ilimWord c).toNat / 2 ^ 32 % 2 ^ 6 = c.ilim.frz2 ∧ (ilimWord c).toNat / 2 ^ 38 = c.ilim.fduty := by
  rw [ilimWord, ofNat64_toNat (by omega)]
  omega

/-- The floors' sum (R334). -/
theorem floorSum_eq (s : State) : floorSum s = ((List.range 8).map fun n => tgetD s.pfloor n 0).sum := by
  simp [floorSum, List.range, List.range.loop, Nat.add_assoc]

/-- EFFCAP's fields (R334). -/
theorem effcapWord_fields {s : State} (hw : effcapWatts s < 2 ^ 11) (hi : s.idle < 2 ^ 11) :
    (effcapWord s).toNat % 2 ^ 11 = effcapWatts s ∧
      (effcapWord s).toNat / 2 ^ 11 % 2 ^ 5 = (if min s.pcap 1600 < effcapWatts s then 1 else 0) ∧ (effcapWord s).toNat / 2 ^ 16 = s.idle := by
  have he : (effcapWord s).toNat = effcapWatts s + (if capclamp s then 2 ^ 11 else 0) + s.idle * 2 ^ 16 := by
    refine ofNat64_toNat ?_
    split <;> omega
  rw [he]
  by_cases hc : min s.pcap 1600 < effcapWatts s
  · simp only [capclamp, gt_iff_lt, hc, decide_true, if_true]
    omega
  · simp only [capclamp, gt_iff_lt, hc, decide_false, Bool.false_eq_true, if_false]
    omega

/-- PSTATE's fields (R330). -/
theorem pstateWord_fields {c : Core} (hl : c.weir.level < 4) :
    let p := (pstateWord c).toNat; let w := c.weir; let hard := 16 * w.ilim.hard
    (p % 2 = 1 ↔ w.pred = true) ∧ (p / 2 % 2 = 1 ↔ w.forced = true) ∧ p / 2 ^ 2 % 4 = w.level ∧ (p / 2 ^ 4 % 2 = 1 ↔ w.throttled ≠ []) ∧
      (p / 2 ^ 5 % 2 = 1 ↔ w.budget < hard) ∧ (p / 2 ^ 6 % 2 = 1 ↔ w.ballast = true) ∧ p / 2 ^ 7 % 2 = 0 ∧
      p / 2 ^ 8 = min 255 (256 * min hard w.budget / hard) := by
  intro p w hard
  have hlevel : w.level < 4 := hl
  have hbit (b : Prop) [Decidable b] (n : Nat) : ∃ k, (if b then n else 0) = n * k ∧ k < 2 ∧ (k = 1 ↔ b) := by
    by_cases h : b
    · exact ⟨1, by simp [h], by omega, by simp [h]⟩
    · exact ⟨0, by simp [h], by omega, by simp [h]⟩
  obtain ⟨k0, e0, l0, i0⟩ := hbit (w.pred = true) 1
  obtain ⟨k1, e1, l1, i1⟩ := hbit (w.forced = true) 2
  obtain ⟨k4, e4, l4, i4⟩ := hbit (w.throttled ≠ []) 16
  obtain ⟨k5, e5, l5, i5⟩ := hbit (w.budget < hard) 32
  obtain ⟨k6, e6, l6, i6⟩ := hbit (w.ballast = true) 64
  have hm : min 255 (256 * min hard w.budget / hard) ≤ 255 := Nat.min_le_left _ _
  have ht : (if w.throttled.isEmpty = true then 0 else 16) = if w.throttled ≠ [] then 16 else 0 := by
    cases w.throttled <;> rfl
  have hp : p = k0 + 2 * k1 + w.level * 4 + 16 * k4 + 32 * k5 + 64 * k6 + min 255 (256 * min hard w.budget / hard) * 256 := by
    have hv : p = (BitVec.ofNat 64 ((if w.pred = true then 1 else 0) + (if w.forced = true then 2 else 0) + w.level * 4 +
      (if w.throttled.isEmpty = true then 0 else 16) + (if w.budget < hard then 32 else 0) +
      (if w.ballast = true then 64 else 0) + min 255 (256 * min hard w.budget / hard) * 256)).toNat := rfl
    rw [hv, ht, e0, e1, e4, e5, e6, Nat.one_mul, ofNat64_toNat (by omega)]
  rw [hp, ← i0, ← i1, ← i4, ← i5, ← i6]
  generalize min 255 (256 * min hard w.budget / hard) = m at hm
  omega

/-- MCREV reads no 0 and has no reserved bit (R341). -/
theorem mcrevWord_ok : mcrevWord.toNat / 2 ^ 32 = 0 ∧ mcrevWord.toNat ≠ 0 := by
  have hx : (Config.mcrev &&& 0xFFFFFFFF).toNat < 2 ^ 32 := by
    rw [BitVec.toNat_and]
    exact Nat.and_lt_two_pow _ (by decide)
  unfold mcrevWord
  dsimp only
  split
  · decide
  next h => exact ⟨Nat.div_eq_of_lt hx, fun e => h (BitVec.eq_of_toNat_eq e)⟩

/-- The read itself: RDSR puts the register's value in s[sd] and goes on. -/
theorem rdsr_issues {sd : BitVec 6} {reg : BitVec 16} {s : State} {gid sid : Nat} (h : Issues s gid sid (scalarBundle (.rdsr sd reg))) :
    ∃ w, IssueOf s gid (scalarBundle (.rdsr sd reg)) w ∧
      exec (.rdsr sd reg) s = .next (goesOn (putS w gid sid sd (specialValue w gid (half s gid sid) reg.toNat)) gid sid) := by
  obtain ⟨w, hw, he⟩ := scalar_issues h
  refine ⟨w, hw, ?_⟩
  rw [exec_toBundle _ _ s rfl, he, bundleEnd_plain _ _ _ rfl rfl]
  change Host.Outcome.next (setPc (writeS w gid (halfOf (seen s gid _) sid) sd.toNat
    (specialValue w gid (halfOf (seen s gid _) sid) reg.toNat)) gid sid (nextPc (pcOf s gid sid))) = _
  rw [halfOf_seen, writeS_putS hw, setPc_putS hw]

/-- A register that is narrower than the word. -/
theorem setWidth64_toNat {n : Nat} (x : BitVec n) (hn : n ≤ 64) : (x.setWidth 64).toNat = x.toNat := by
  rw [BitVec.toNat_setWidth, Nat.mod_eq_of_lt (x.isLt.trans_le (Nat.pow_le_pow_right (by decide) hn))]

/-- Settles O12: the issue of RDSR, then each register's word field by field. -/
theorem specialRegisterReads : Obligations.SpecialRegisterReads := by
  unfold Obligations.SpecialRegisterReads
  refine ⟨fun sd reg s gid sid h => rdsr_issues h, ?_⟩
  intro s gid h g t c v
  refine ⟨fstatWord_native, fstatWord_lower, fstatWord_upper, gstatWord_toNat g h, roleWord_fields, fun _ _ _ => domWord_fields,
    ofNat64_toNat ∘ fun hr => hr.trans (by decide), ofNat64_toNat, ofNat64_toNat, ofNat64_toNat, ofNat64_toNat,
    mxtokWord_none, mxtokWord_self, fun _ => mxtokWord_other, ?_, ofNat64_toNat, ofNat64_toNat, lnheadWord_fields,
    fun n hn => specialValue_gmap s gid h hn, ?_, setWidth64_toNat t.bflags (by decide), setWidth64_toNat t.ovmask (by decide),
    setWidth64_toNat c.ovres (by decide), rfl, rfl, rfl, rfl, rfl, rfl, ofNat64_toNat, ofNat64_toNat, pstateWord_fields,
    ?_, ofNat64_toNat, rfl, mcrevWord_ok.1, mcrevWord_ok.2,
    ilimWord_fields, ?_, ?_⟩
  · intro n hn x hd hp
    have hf := chdoneWord_fields hd hp
    rwa [← specialValue_chdone s gid h hn] at hf
  · intro q hq
    refine ⟨specialValue_qw0 s gid h hq, fun h1 h2 => ?_⟩
    have hf := qw1Word_fields h1 h2
    rwa [← specialValue_qw1 s gid h hq] at hf
  · intro k slot hp
    refine ⟨?_, fun hn => ?_⟩
    · rw [show v 0x121 = _ from congrArg BitVec.toNat (specialValue_clkpat s gid h hp), setWidth64_toNat _ (by decide)]
    · rw [show v 0x00A = _ from congrArg BitVec.toNat (specialValue_portwait s gid h hp), ofNat64_toNat hn]
  · intro floors watts hw hi
    have he : effcapWatts s = watts := by rw [effcapWatts, floorSum_eq]
    rw [← he] at hw ⊢
    exact effcapWord_fields hw hi
  · intro n hn hp
    rw [show v (0x128 + n) = _ from congrArg BitVec.toNat (specialValue_pfloor s gid h hn), ofNat64_toNat hp]

end Sys2Proof.Proofs

namespace Sys2Proof.Proofs
open Sys2Proof.Machine Sys2Proof.Safety

/-! ### Host writes of the register block (R354-R362, R374)

A write acts where its function exists and bring-up is complete. Each lemma below gives what one write then does, in the fields of the value. -/

/-! #### Merged values (R354) -/

/-- A 4-byte write replaces one half. -/
theorem mergeWrite_halves (old : Nat) (part : WPart) (v : DWord) : (part = .whole → mergeWrite old part v = v.toNat) ∧
    (part = .low → mergeWrite old part v % 2 ^ 32 = v.toNat % 2 ^ 32 ∧ mergeWrite old part v / 2 ^ 32 = old / 2 ^ 32 % 2 ^ 32) ∧
    (part = .high → mergeWrite old part v % 2 ^ 32 = old % 2 ^ 32 ∧ mergeWrite old part v / 2 ^ 32 = v.toNat % 2 ^ 32) := by
  refine ⟨?_, ?_, ?_⟩
  · rintro rfl
    rfl
  · rintro rfl
    simp only [mergeWrite, bits]
    omega
  · rintro rfl
    simp only [mergeWrite, bits]
    omega

/-- A write that puts ones is a write over zeros. -/
theorem onesWritten_eq (part : WPart) (v : DWord) : onesWritten part v = mergeWrite 0 part v := by
  cases part with
  | whole => rfl
  | low => simp [onesWritten, mergeWrite, bits]
  | high => simp [onesWritten, mergeWrite, bits]

/-- A field from bit 0 up. -/
theorem bits_zero (x n : Nat) : bits x 0 n = x % 2 ^ n := by rw [bits, Nat.pow_zero, Nat.div_one]

/-- The fields of a word's top bits. -/
theorem bits_top {x lo n : Nat} (h : x < 2 ^ (lo + n)) : bits x lo n = x / 2 ^ lo := by
  rw [bits]
  exact Nat.mod_eq_of_lt (Nat.div_lt_of_lt_mul (by rwa [← Nat.pow_add]))

/-! #### Which writes act -/

theorem hostWrite_eq (s : State) (f : Nat) (go : State) : hostWrite s f go = if s.devReady = true ∧ f ≤ 16 then go else s := by
  simp [hostWrite]

theorem pfWrite_eq (s : State) (f : Nat) (go : State) :
    pfWrite s f go = if s.devReady = true ∧ f ≤ 16 then (if f = 0 then go else setEvent s f 10) else s := by
  rw [pfWrite, hostWrite_eq]
  rfl

theorem hostWrite_hostWrite (s : State) (f : Nat) (go : State) : hostWrite s f (hostWrite s f go) = hostWrite s f go := by
  rw [hostWrite_eq s f (hostWrite s f go), hostWrite_eq]
  split <;> rfl

theorem hostWrite_pfWrite (s : State) (f : Nat) (go : State) : hostWrite s f (pfWrite s f go) = pfWrite s f go := hostWrite_hostWrite _ _ _

/-- A PF's write that acts. -/
theorem pfWrite_zero {s : State} (go : State) (h : s.devReady = true) : pfWrite s 0 go = go := by
  rw [pfWrite_eq, if_pos ⟨h, by decide⟩, if_pos rfl]

/-- A write that is dropped, or is not the PF's, sets FEVENT.BADREG. -/
theorem pfWrite_bad {s : State} {f : Nat} {go : State} (h : f = 0 → go = setEvent s f 10) :
    pfWrite s f go = if s.devReady = true ∧ f ≤ 16 then setEvent s f 10 else s := by
  rw [pfWrite_eq]
  by_cases hf : f = 0
  · rw [if_pos hf, h hf]
  · rw [if_neg hf]

/-! #### The host's posted writes (R259) -/

/-- Without Polder lines nothing is recalled. -/
theorem recallRange_noPolder {s : State} (sp : Space) (k : Nat × Nat) (n : Nat) (w : Bool) (h : NoPolder s) : recallRange s sp k n w = s := by
  obtain ⟨-, hc⟩ := h
  unfold recallRange
  suffices hl : ∀ (l : List (Nat × Core)) (u : State), (∀ e ∈ l, e.2.lines = []) →
      l.foldl (fun s e => dropLines s e.1 (linesMeeting s e.2 sp k n w)) u = u from hl _ _ fun e he => (hc e he).2
  intro l
  induction l with
  | nil => intros; rfl
  | cons e r ih =>
    intro u hu
    have he : linesMeeting u e.2 sp k n w = [] := by rw [linesMeeting, hu e List.mem_cons_self]; rfl
    rw [List.foldl_cons, he]
    exact ih u fun x hx => hu x (List.mem_cons_of_mem _ hx)

theorem noPolder_hostArrives {s : State} {p : Nat × Nat × List Byte} (h : NoPolder s) :
    hostArrives s p = { s with hostMem := memWrite s.hostMem p.2.1 p.2.2, hostPoison := poisonAfter s.hostPoison p.2.1 p.2.2.length false } ∧
      NoPolder (hostArrives s p) := by
  have he : hostArrives s p = { s with
      hostMem := memWrite s.hostMem p.2.1 p.2.2, hostPoison := poisonAfter s.hostPoison p.2.1 p.2.2.length false } := by
    unfold hostArrives
    rw [recallRange_noPolder _ _ _ _ h]
  refine ⟨he, ?_⟩
  rw [he]
  obtain ⟨hm, hc⟩ := h
  refine ⟨setHostMem_wf s _ hm (memWrite_wf _ _ _ ?_), hc⟩
  simp only [memoriesWf, Bool.and_eq_true] at hm
  exact hm.1.1.2

theorem performPosted_eq {s : State} (ps : List (Nat × Nat × List Byte)) (h : NoPolder s) : performPosted s ps = { s with
    hostMem := ps.foldl (fun m p => memWrite m p.2.1 p.2.2) s.hostMem
    hostPoison := ps.foldl (fun m p => poisonAfter m p.2.1 p.2.2.length false) s.hostPoison } := by
  unfold performPosted
  induction ps generalizing s with
  | nil => rfl
  | cons p r ih =>
    obtain ⟨he, hn⟩ := noPolder_hostArrives (p := p) h
    rw [List.foldl_cons, ih hn, he]
    rfl

/-! #### Reads (R354) -/

theorem hostRead_whole {s : State} {f off : Nat} (ho : off < 0x10000) (h8 : off % 8 = 0) : hostRead s f off 8 = some (regRead s f off) := by
  rw [hostRead, if_neg (by omega), if_pos ⟨rfl, h8⟩]

theorem hostRead_half {s : State} {f off lo : Nat} (ho : off < 0x10000) (h8 : off % 8 = 0) (hlo : lo = 0 ∨ lo = 4) :
    hostRead s f (off + lo) 4 = some (regRead s f off / 2 ^ (8 * lo) % 2 ^ 32) := by
  have e1 : (off + lo) / 8 * 8 = off := by omega
  have e2 : (off + lo) % 8 = lo := by omega
  rw [hostRead, if_neg (by omega), if_neg (by omega), if_pos (by omega), e1, e2]
  rfl

theorem hostRead_low {s : State} {f off : Nat} (ho : off < 0x10000) (h8 : off % 8 = 0) : hostRead s f off 4 = some (regRead s f off % 2 ^ 32) := by
  have h := hostRead_half (s := s) (f := f) ho h8 (.inl rfl)
  rwa [Nat.add_zero, Nat.mul_zero, Nat.pow_zero, Nat.div_one] at h

theorem hostRead_none {s : State} {f off size : Nat} (h : 0x10000 ≤ off ∨ off % size ≠ 0 ∨ (size ≠ 4 ∧ size ≠ 8)) :
    hostRead s f off size = none := by
  unfold hostRead
  by_cases ho : 0x10000 ≤ off
  · rw [if_pos ho]
  · have h8 : ¬(size = 8 ∧ off % 8 = 0) := by
      rintro ⟨rfl, h8⟩
      omega
    have h4 : ¬(size = 4 ∧ off % 4 = 0) := by
      rintro ⟨rfl, h4⟩
      omega
    rw [if_neg ho, if_neg h8, if_neg h4]

/-! #### Queues (R354, R359, R360) -/

/-- A difference of 32-bit counters. -/
theorem counter_sub {a b : Nat} (hb : b < 2 ^ 32) : (((a + 2 ^ 32 - b) % 2 ^ 32 : Nat) : Int) = ((a : Int) - b) % 2 ^ 32 := by
  omega

theorem notify_eq {s : State} {f q T : Nat} {relaxed : Bool} (hh : (queueOf s q).head < 2 ^ 32) :
    notify s f q relaxed T =
      if (queueOf s q).en = false ∨ (2 : Int) ^ (queueOf s q).log2n < ((T : Int) - (queueOf s q).head) % 2 ^ 32 ∨
          ((T : Int) - (queueOf s q).head) % 2 ^ 32 < (((queueOf s q).tail : Int) - (queueOf s q).head) % 2 ^ 32 then
        setEvent (setQueue s q { queueOf s q with badtail := true }) f 3
      else if relaxed = true then
        setEvent (setQueue s q { queueOf s q with
          tail := T, notifyro := true, rlxcnt := min ((queueOf s q).rlxcnt + 1) (2 ^ 16 - 1) }) f 2
      else setQueue (postedArrive s f) q { queueOf s q with tail := T } := by
  unfold notify
  have hp : (2 : Int) ^ (queueOf s q).log2n = ((2 ^ (queueOf s q).log2n : Nat) : Int) := by simp
  rw [← counter_sub hh, ← counter_sub hh, hp]
  simp only [Bool.not_eq_true', gt_iff_lt, Int.ofNat_lt]

theorem tailWrite_eq {s : State} {f q : Nat} {part : WPart} {relaxed : Bool} {v : DWord} :
    tailWrite s f q part relaxed v = if s.devReady = true ∧ f ≤ 16 then
      (if ¬(q < 256 ∧ ownerOf s q = f) ∨ part = .high ∨ (part = .whole ∧ v.toNat / 2 ^ 32 ≠ 0) then setEvent s f 10
      else notify s f q relaxed (v.toNat % 2 ^ 32)) else s := by
  have hv : bits v.toNat 32 32 = v.toNat / 2 ^ 32 := bits_top v.isLt
  unfold tailWrite
  rw [hostWrite_eq, reachesQueue, bits_zero, hv]
  congr 1
  by_cases hm : q < 256 ∧ ownerOf s q = f
  · cases part with
    | whole => simp only [hm, and_self, decide_true, Bool.not_true, Bool.false_eq_true, if_false, not_true, false_or, reduceCtorEq, true_and]; rfl
    | low => simp only [hm, and_self, decide_true, Bool.not_true, Bool.false_eq_true, if_false, not_true, reduceCtorEq, false_and, or_self]
    | high => simp only [hm, and_self, decide_true, Bool.not_true, Bool.false_eq_true, if_false, not_true, true_or, or_true, if_true]; rfl
  · simp only [hm, decide_false, Bool.not_false, if_true, not_false_eq_true, true_or]
    rfl

/-- LOG2N is judged where a write covers it. -/
theorem coversBit_zero (part : WPart) : coversBit part 0 = true ↔ part ≠ .high := by
  cases part <;> decide

theorem qctlWrite_eq {s : State} {f q : Nat} {part : WPart} {v : DWord} :
    let n := mergeWrite (qctlWord (queueOf s q)) part v
    queueWrite s f q true part v = if s.devReady = true ∧ f ≤ 16 then
      (if ¬(q < 256 ∧ ownerOf s q = f) ∨ n / 2 ^ 52 % 2 ^ 12 ≠ 0 ∨ n / 2 ^ 8 % 2 ^ 24 ≠ 0 ∨ n / 2 ^ 5 % 2 ^ 2 ≠ 0 ∨
          (part ≠ .high ∧ (n % 2 ^ 5 < 4 ∨ 16 < n % 2 ^ 5)) ∨ ((queueOf s q).en = true ∧ n ≠ qctlWord { queueOf s q with en := false }) then
        setEvent s f 10
      else setQueue s q { queueOf s q with qasid := n / 2 ^ 32 % 2 ^ 20, en := decide (n / 2 ^ 7 % 2 = 1), log2n := n % 2 ^ 5 }) else s := by
  intro n
  have hd : qctlDropped (queueOf s q) part n = true ↔ n / 2 ^ 52 % 2 ^ 12 ≠ 0 ∨ n / 2 ^ 8 % 2 ^ 24 ≠ 0 ∨ n / 2 ^ 5 % 2 ^ 2 ≠ 0 ∨
      (part ≠ .high ∧ (n % 2 ^ 5 < 4 ∨ 16 < n % 2 ^ 5)) ∨ ((queueOf s q).en = true ∧ n ≠ qctlWord { queueOf s q with en := false }) := by
    simp only [qctlDropped, Bool.or_eq_true, Bool.and_eq_true, decide_eq_true_eq, coversBit_zero, bits_zero, gt_iff_lt, or_assoc]
    rfl
  rw [queueWrite, hostWrite_eq]
  congr 1
  by_cases hm : q < 256 ∧ ownerOf s q = f
  · simp only [reachesQueue, hm, and_self, decide_true, Bool.not_true, Bool.false_eq_true, if_false, if_true, not_true, false_or]
    rw [if_congr hd rfl rfl, bits_zero]
    rfl
  · simp only [reachesQueue, hm, decide_false, Bool.not_false, if_true, not_false_eq_true, true_or]
    rfl

theorem qbaseWrite_eq {s : State} {f q : Nat} {part : WPart} {v : DWord} :
    let n := mergeWrite (queueOf s q).base part v
    queueWrite s f q false part v = if s.devReady = true ∧ f ≤ 16 then
      (if ¬(q < 256 ∧ ownerOf s q = f) ∨ (queueOf s q).en = true ∨ n / 2 ^ 52 % 2 ^ 12 ≠ 0 ∨ n % 2 ^ 6 ≠ 0 then setEvent s f 10
      else setQueue s q { queueOf s q with base := n }) else s := by
  intro n
  have hd : qbaseDropped (queueOf s q) n = true ↔ (queueOf s q).en = true ∨ n / 2 ^ 52 % 2 ^ 12 ≠ 0 ∨ n % 2 ^ 6 ≠ 0 := by
    simp only [qbaseDropped, Bool.or_eq_true, decide_eq_true_eq, bits_zero]
    rfl
  rw [queueWrite, hostWrite_eq]
  congr 1
  by_cases hm : q < 256 ∧ ownerOf s q = f
  · simp only [reachesQueue, hm, and_self, decide_true, Bool.not_true, Bool.false_eq_true, if_false, not_true, false_or]
    rw [if_congr hd rfl rfl]
    rfl
  · simp only [reachesQueue, hm, decide_false, Bool.not_false, if_true, not_false_eq_true, true_or]
    rfl

/-! #### Entries set one after the other -/

/-- The entries `b`, `b + 1`, … set in turn. -/
theorem tgetD_foldl_range {α : Type} (t : Table α) (g : Nat → α) (b n k : Nat) (d : α) :
    tgetD ((List.range n).foldl (fun t j => tset t (b + j) (g j)) t) k d = if b ≤ k ∧ k < b + n then g (k - b) else tgetD t k d := by
  induction n with
  | zero => rw [if_neg (by omega)]; rfl
  | succ n ih =>
    rw [List.range_succ, List.foldl_append, List.foldl_cons, List.foldl_nil]
    by_cases hk : k = b + n
    · subst hk
      rw [tgetD_tset_same, if_pos (by omega), Nat.add_sub_cancel_left]
    · rw [tgetD_tset_ne _ hk, ih]
      exact if_congr (by omega) rfl rfl

/-- The entries below `n` set in turn. -/
theorem tgetD_foldl_range_zero {α : Type} (t : Table α) (g : Nat → α) (n k : Nat) (d : α) (hk : k < n) :
    tgetD ((List.range n).foldl (fun t j => tset t j (g j)) t) k d = g k := by
  have h := tgetD_foldl_range t g 0 n k d
  simp only [Nat.zero_add, Nat.zero_le, hk, and_self, if_true, Nat.sub_zero] at h
  exact h

/-- A change of the first cores in turn. -/
theorem foldl_setCore (g : Core → Core) (n : Nat) (s : State) :
    (List.range n).foldl (fun s k => setCore s k (g (coreOf s k))) s =
      { s with cores := ((List.range n).foldl (fun s k => setCore s k (g (coreOf s k))) s).cores } ∧
    ∀ k, coreOf ((List.range n).foldl (fun s k => setCore s k (g (coreOf s k))) s) k = if k < n then g (coreOf s k) else coreOf s k := by
  induction n with
  | zero => exact ⟨rfl, fun _ => rfl⟩
  | succ n ih =>
    obtain ⟨hf, hc⟩ := ih
    rw [List.range_succ, List.foldl_append, List.foldl_cons, List.foldl_nil]
    refine ⟨?_, fun k => ?_⟩
    · rw [hf]
      rfl
    · by_cases hk : k = n
      · subst hk
        rw [coreOf_setCore, hc, if_neg (Nat.lt_irrefl k), if_pos (Nat.lt_succ_self k)]
      · rw [coreOf_setCore_ne _ hk, hc]
        exact if_congr (by omega) rfl rfl

/-- Ports widened in turn (R362). -/
theorem foldl_widenPort (n : Nat) (s : State) :
    (List.range n).foldl widenPort s = { s with ports := ((List.range n).foldl widenPort s).ports } ∧
    ∀ p, portOf ((List.range n).foldl widenPort s) p = if p < n then { portOf s p with
      txWidth := max (portOf s p).txWidth (leastWidth s p), rxWidth := max (portOf s p).rxWidth (leastWidth s p) } else portOf s p := by
  induction n with
  | zero => exact ⟨rfl, fun _ => rfl⟩
  | succ n ih =>
    obtain ⟨hf, hc⟩ := ih
    rw [List.range_succ, List.foldl_append, List.foldl_cons, List.foldl_nil]
    refine ⟨?_, fun p => ?_⟩
    · rw [hf]
      rfl
    · have hw : leastWidth ((List.range n).foldl widenPort s) n = leastWidth s n := by rw [hf]; rfl
      by_cases hp : p = n
      · subst hp
        rw [widenPort, portOf_setPort, hc, hw, if_neg (Nat.lt_irrefl p), if_pos (Nat.lt_succ_self p)]
      · rw [widenPort, portOf_setPort_ne _ hp, hc]
        exact if_congr (by omega) rfl rfl

/-! #### Owners of queues (R354) -/

/-- QOWN's dropped values. -/
theorem qownDropped_iff (s : State) (base n : Nat) : qownDropped s base n = true ↔
    ∃ j, j < 8 ∧ ((17 ≤ n / 2 ^ (8 * j) % 2 ^ 8 ∧ n / 2 ^ (8 * j) % 2 ^ 8 ≤ 0xFE) ∨
      ((queueOf s (base + j)).en = true ∧ n / 2 ^ (8 * j) % 2 ^ 8 ≠ ownerOf s (base + j))) := by
  simp only [qownDropped, List.any_eq_true, List.mem_range, Bool.or_eq_true, Bool.and_eq_true, decide_eq_true_eq]
  rfl

theorem qownWrites_eq {s : State} {f off : Nat} {part : WPart} {v : DWord} (h1 : 0x200 ≤ off) (h2 : off < 0x300) (h8 : off % 8 = 0) :
    qownWrites s f off part v = pfWrite s f (if qownDropped s (off - 0x200) (mergeWrite (qownWord s ((off - 0x200) / 8)) part v) = true then
      dropWrite s f
    else { s with qown := (List.range 8).foldl (fun t j => tset t (off - 0x200 + j)
      (bits (mergeWrite (qownWord s ((off - 0x200) / 8)) part v) (8 * j) 8)) s.qown }) := by
  rw [qownWrites]
  dsimp only
  rw [if_neg (by omega)]

/-! #### The fault queue (R358) -/

/-- Nothing waits for room. -/
theorem pumpFaults_none {n f : Nat} {s : State} (h : ∀ r ∈ (funcOf s f).reqs, r.queued = false) : pumpFaults n s f = s := by
  cases n with
  | zero => rfl
  | succ n =>
    have hw : waitingReq (funcOf s f) = none := List.find?_eq_none.mpr fun r hr => by rw [h r hr]; decide
    rw [pumpFaults, hw]

theorem fqctlWrites_bad {s : State} {f : Nat} {part : WPart} {v : DWord} (h : 12 ≤ mergeWrite (fqctlWord (funcOf s f)) part v % 2 ^ 4) :
    fqctlWrites s f part v = if s.devReady = true ∧ f ≤ 16 then setEvent s f 10 else s := by
  rw [← bits_zero] at h
  rw [fqctlWrites, hostWrite_eq]
  congr 1
  exact if_pos h

theorem fqctlWrites_ok {s : State} {f : Nat} {part : WPart} {v : DWord} (h : mergeWrite (fqctlWord (funcOf s f)) part v % 2 ^ 4 < 12)
    (hr : ∀ r ∈ (funcOf s f).reqs, r.queued = false) : let n := mergeWrite (fqctlWord (funcOf s f)) part v
    fqctlWrites s f part v = if s.devReady = true ∧ f ≤ 16 then
      setFunc s f { funcOf s f with fqHead := n / 2 ^ 48 % 2 ^ 16, fqVec := n / 2 ^ 4 % 2 ^ 11, fqLog2n := n % 2 ^ 4 } else s := by
  intro n
  rw [← bits_zero] at h
  rw [fqctlWrites, hostWrite_eq, ← bits_zero n 4]
  congr 1
  refine (if_neg (Nat.not_le.mpr h)).trans ?_
  exact pumpFaults_none (by rwa [funcOf_setFunc])

/-! #### Power (R333, R334) -/

/-- A clamp that begins is told by FEVENT (R334). -/
theorem recap_eq (s : State) (g : State → State) : recap s g =
    if min s.pcap 1600 < effcapWatts s ∨ effcapWatts (g s) ≤ min (g s).pcap 1600 then g s else setEvent (g s) 0 1 := by
  unfold recap capclamp
  simp only [gt_iff_lt]
  by_cases h1 : min s.pcap 1600 < effcapWatts s
  · simp [h1]
  · by_cases h2 : min (g s).pcap 1600 < effcapWatts (g s)
    · simp [h1, h2, Nat.not_le.mpr h2]
    · simp [h1, h2, Nat.not_lt.mp h2]

theorem pcapWrites_eq {s : State} {f : Nat} {part : WPart} {v : DWord} :
    pcapWrites s f part v = pfWrite s f (recap s fun s => { s with pcap := mergeWrite s.pcap part v % 2 ^ 11 }) := by
  simp only [pcapWrites, bits_zero]

theorem pfloorWrites_eq {s : State} {f i : Nat} {part : WPart} {v : DWord} :
    let t := { s with pfloor := tset s.pfloor i (mergeWrite (tgetD s.pfloor i 0) part v % 2 ^ 11) }
    pfloorWrites s f i part v = pfWrite s f (if 7 < i ∨ 1600 < floorSum t then setEvent s f 10 else recap s fun s =>
      { s with pfloor := tset s.pfloor i (mergeWrite (tgetD s.pfloor i 0) part v % 2 ^ 11) }) := by
  intro t
  simp only [pfloorWrites, bits_zero, recap]
  rfl

/-! #### Links (R362) -/

theorem linkcfgWrites_bad {s : State} {f : Nat} {part : WPart} {v : DWord}
    (h : f ≠ 0 ∨ mergeWrite (linkcfgWord s) part v / 2 ^ 24 % 2 ^ 28 ≠ 0) :
    linkcfgWrites s f part v = if s.devReady = true ∧ f ≤ 16 then setEvent s f 10 else s := by
  refine pfWrite_bad fun hf => ?_
  exact if_pos (h.resolve_left (not_not.mpr hf))

/-- A word put in LINKCFG sets MODID and the least widths, and widens the ports that are narrower. -/
theorem linkcfg_put {s u : State} {n : Nat} (hu : u = (List.range 12).foldl widenPort { s with
      modid := bits n 52 12, minw := (List.range 12).foldl (fun t p => tset t p (bits n (2 * p) 2)) s.minw }) :
    u = { s with modid := n / 2 ^ 52 % 2 ^ 12, minw := u.minw, ports := u.ports } ∧
      ∀ p, p < 12 → tgetD u.minw p 0 = n / 2 ^ (2 * p) % 2 ^ 2 ∧ portOf u p = { portOf s p with
        txWidth := max (portOf s p).txWidth (2 ^ (n / 2 ^ (2 * p) % 2 ^ 2)), rxWidth := max (portOf s p).rxWidth (2 ^ (n / 2 ^ (2 * p) % 2 ^ 2)) } := by
  have hw := fun p => tgetD_foldl_range_zero s.minw (fun p => bits n (2 * p) 2) 12 p 0
  generalize (List.range 12).foldl (fun t p => tset t p (bits n (2 * p) 2)) s.minw = t at hu hw
  obtain ⟨hf, hp⟩ := foldl_widenPort 12 { s with modid := bits n 52 12, minw := t }
  rw [← hu] at hf hp
  have hm : u.minw = t := by rw [hf]
  subst hm
  refine ⟨hf, fun p hlt => ⟨hw p hlt, ?_⟩⟩
  rw [hp, if_pos hlt, leastWidth, hw p hlt]
  rfl

theorem linkcfgWrites_ok {s : State} {part : WPart} {v : DWord} (hd : s.devReady = true)
    (h : ¬mergeWrite (linkcfgWord s) part v / 2 ^ 24 % 2 ^ 28 ≠ 0) : linkcfgWrites s 0 part v = (List.range 12).foldl widenPort { s with
      modid := bits (mergeWrite (linkcfgWord s) part v) 52 12
      minw := (List.range 12).foldl (fun t p => tset t p (bits (mergeWrite (linkcfgWord s) part v) (2 * p) 2)) s.minw } := by
  rw [linkcfgWrites, pfWrite_zero _ hd]
  exact if_neg h

/-! #### Measured writes (R361, R373) -/

/-- What one item adds to the measurements. -/
theorem extendMeasure_measured (s : State) (i : Nat) (b : List Byte) :
    measureOf (extendMeasure s i b) i = digestVal (sha256 (digestBytes (measureOf s i) ++ sha256 b)) ∧
      ∀ k, k ≠ i → measureOf (extendMeasure s i b) k = measureOf s k :=
  ⟨tgetD_tset_same _ _ _ _, fun _ hk => tgetD_tset_ne _ hk _ _⟩

/-- A word put in PARTMAP moves the half-dies and is measured. -/
theorem partmap_put {s u : State} {n : Nat} (hu : u = extendMeasure { s with
      partmap := (List.range 8).foldl (fun t h => tset t h (bits n (4 * h) 4)) s.partmap } 2 (leBytes 8 n)) :
    u = { s with partmap := u.partmap, measure := u.measure } ∧ (∀ h, h < 8 → tgetD u.partmap h 0 = n / 2 ^ (4 * h) % 2 ^ 4) ∧
      measureOf u 2 = digestVal (sha256 (digestBytes (measureOf s 2) ++ sha256 (leBytes 8 n))) ∧ ∀ k, k ≠ 2 → measureOf u k = measureOf s k := by
  have hw := fun h => tgetD_foldl_range_zero s.partmap (fun h => bits n (4 * h) 4) 8 h 0
  generalize (List.range 8).foldl (fun t h => tset t h (bits n (4 * h) 4)) s.partmap = t at hu hw
  subst hu
  exact ⟨rfl, hw, extendMeasure_measured _ _ _⟩

/-- A word put in FPART moves the functions and is measured. -/
theorem fpart_put {s u : State} {n : Nat} (hu : u = extendMeasure { s with
      fpart := (List.range 17).foldl (fun t k => tset t k (bits n (3 * k) 3)) s.fpart } 2 (leBytes 8 n)) :
    u = { s with fpart := u.fpart, measure := u.measure } ∧ (∀ k, k < 17 → tgetD u.fpart k 0 = n / 2 ^ (3 * k) % 2 ^ 3) ∧
      measureOf u 2 = digestVal (sha256 (digestBytes (measureOf s 2) ++ sha256 (leBytes 8 n))) ∧ ∀ k, k ≠ 2 → measureOf u k = measureOf s k := by
  have hw := fun k => tgetD_foldl_range_zero s.fpart (fun k => bits n (3 * k) 3) 17 k 0
  generalize (List.range 17).foldl (fun t k => tset t k (bits n (3 * k) 3)) s.fpart = t at hu hw
  subst hu
  exact ⟨rfl, hw, extendMeasure_measured _ _ _⟩

theorem partmapDropped_iff (s : State) (n : Nat) : partmapDropped s n = true ↔ n / 2 ^ 32 % 2 ^ 32 ≠ 0 ∨
    ∃ h, h < 8 ∧ ((8 ≤ n / 2 ^ (4 * h) % 2 ^ 4 ∧ n / 2 ^ (4 * h) % 2 ^ 4 ≤ 0xE) ∨ (n / 2 ^ (4 * h) % 2 ^ 4 ≠ tgetD s.partmap h 0 ∧
      ∃ e ∈ s.teams, e.2.core / 24 = h ∧ e.2.place ≠ .offered ∧ e.2.place ≠ .retired)) := by
  simp only [partmapDropped, halfBusy, List.any_eq_true, List.mem_range, Bool.or_eq_true, Bool.and_eq_true, decide_eq_true_eq]
  rfl

/-- FPART's dropped values. -/
theorem fpartDropped_iff (s : State) (n : Nat) :
    (decide (bits n 51 13 ≠ 0) || (List.range 17).any fun k => decide (bits n (3 * k) 3 ≠ tgetD s.fpart k 0) && funcBusy s k) = true ↔
    n / 2 ^ 51 % 2 ^ 13 ≠ 0 ∨ ∃ k, k < 17 ∧ n / 2 ^ (3 * k) % 2 ^ 3 ≠ tgetD s.fpart k 0 ∧
      ((∃ e ∈ s.tasks, e.2.func = k ∧ e.2.stage ≠ .ended) ∨ ∃ e ∈ s.queues, ownerOf s e.1 = k ∧ e.2.tail ≠ e.2.head) := by
  simp only [funcBusy, List.any_eq_true, List.mem_range, Bool.or_eq_true, Bool.and_eq_true, decide_eq_true_eq]
  rfl

/-! #### Supervisor images (R362) -/

/-- What changes only cores after an item has been measured changes cores and measurements. -/
theorem eq_of_measured {s u : State} {i : Nat} {b : List Byte} (h : u = { extendMeasure s i b with cores := u.cores }) :
    u = { s with cores := u.cores, measure := u.measure } ∧ u.measure = (extendMeasure s i b).measure := by
  have hm := congrArg State.measure h
  refine ⟨?_, hm⟩
  rw [hm]
  exact h

/-- A GO changes OVRES of every core and M1. -/
theorem svloadStarts_eq (s : State) (a : Nat) : ∃ w, svloadStarts s a = { w with svload := some { addr := a, cores := List.range 192 } } ∧
    w = { s with cores := w.cores, measure := w.measure } ∧ w.measure = (extendMeasure s 1 (devRead s a slotBytes)).measure ∧
    ∀ k, k < 192 → coreOf w k = { coreOf s k with ovres := (coreOf s k).ovres &&& 0x7F } := by
  unfold svloadStarts allCores
  generalize devRead s a slotBytes = b
  generalize 192 = n
  obtain ⟨hf, hc⟩ := foldl_setCore (fun c => { c with ovres := c.ovres &&& 0x7F }) n (extendMeasure s 1 b)
  obtain ⟨hw, hm⟩ := eq_of_measured hf
  exact ⟨_, rfl, hw, hm, fun k hk => (hc k).trans (if_pos hk)⟩

/-- A GO with its address. -/
theorem svload_put {s u : State} {a : Nat} (hu : u = svloadStarts { s with svAddr := a } a) :
    u = { s with svAddr := a, svload := some { addr := a, cores := List.range 192 }, cores := u.cores, measure := u.measure } ∧
      measureOf u 1 = digestVal (sha256 (digestBytes (measureOf s 1) ++ sha256 (devRead s a slotBytes))) ∧
      ∀ k, k < 192 → coreOf u k = { coreOf s k with ovres := (coreOf s k).ovres &&& 0x7F } := by
  obtain ⟨w, he, hw, hm, hc⟩ := svloadStarts_eq { s with svAddr := a } a
  rw [he] at hu
  subst hu
  generalize List.range 192 = cs
  refine ⟨?_, ?_, hc⟩
  · rw [hw]
  · change tgetD w.measure 1 0 = _
    rw [hm]
    exact tgetD_tset_same _ _ _ _

/-! #### Dropped and accepted writes of the PF's module registers -/

/-- A dropped write of QOWN. -/
theorem qownWrites_bad {s : State} {f off : Nat} {part : WPart} {v : DWord} (h1 : 0x200 ≤ off) (h2 : off < 0x300) (h8 : off % 8 = 0)
    (h : qownDropped s (off - 0x200) (mergeWrite (qownWord s ((off - 0x200) / 8)) part v) = true ∨ f ≠ 0) :
    qownWrites s f off part v = if s.devReady = true ∧ f ≤ 16 then setEvent s f 10 else s := by
  rw [qownWrites_eq h1 h2 h8]
  exact pfWrite_bad fun hf => if_pos (h.resolve_right (not_not.mpr hf))

/-- An accepted write of QOWN gives 8 queues their owners. -/
theorem qownWrites_ok {s : State} {off : Nat} {part : WPart} {v : DWord} (h1 : 0x200 ≤ off) (h2 : off < 0x300) (h8 : off % 8 = 0)
    (hd : s.devReady = true) (h : ¬qownDropped s (off - 0x200) (mergeWrite (qownWord s ((off - 0x200) / 8)) part v) = true) :
    qownWrites s 0 off part v = { s with qown := (List.range 8).foldl (fun t j => tset t (off - 0x200 + j)
      (mergeWrite (qownWord s ((off - 0x200) / 8)) part v / 2 ^ (8 * j) % 2 ^ 8)) s.qown } := by
  rw [qownWrites_eq h1 h2 h8, pfWrite_zero _ hd, if_neg h]
  rfl

theorem pfloorWrites_drops_iff {s : State} {f i : Nat} {part : WPart} {v : DWord} :
    let t := { s with pfloor := tset s.pfloor i (mergeWrite (tgetD s.pfloor i 0) part v % 2 ^ 11) }
    pfloorWrites s f i part v = if s.devReady = true ∧ f ≤ 16 then
      (if f = 0 then
        (if 7 < i ∨ 1600 < ((List.range 8).map fun p => tgetD t.pfloor p 0).sum then setEvent s f 10
        else if min s.pcap 1600 < effcapWatts s ∨ effcapWatts t ≤ min t.pcap 1600 then t else setEvent t 0 1)
      else setEvent s f 10) else s := by
  intro t
  rw [pfloorWrites_eq, pfWrite_eq, recap_eq, floorSum_eq]

theorem didtWrites_eq {s : State} {f : Nat} {part : WPart} {v : DWord} : didtWrites s f part v = if s.devReady = true ∧ f ≤ 16 then
    (if f = 0 then (if mergeWrite s.didtDn part v % 2 ^ 8 = 0 then setEvent s f 10 else { s with didtDn := mergeWrite s.didtDn part v % 2 ^ 8 })
    else setEvent s f 10) else s := by
  rw [didtWrites, pfWrite_eq]
  simp only [bits_zero]
  rfl

/-- A dropped write of PARTMAP. -/
theorem partmapWrites_bad {s : State} {f : Nat} {part : WPart} {v : DWord}
    (h : partmapDropped s (mergeWrite (partmapWord s) part v) = true ∨ f ≠ 0) :
    partmapWrites s f part v = if s.devReady = true ∧ f ≤ 16 then setEvent s f 10 else s :=
  pfWrite_bad fun hf => if_pos (h.resolve_right (not_not.mpr hf))

/-- An accepted write of PARTMAP moves the half-dies and is measured. -/
theorem partmapWrites_ok {s : State} {part : WPart} {v : DWord} (hd : s.devReady = true)
    (h : ¬partmapDropped s (mergeWrite (partmapWord s) part v) = true) : partmapWrites s 0 part v = extendMeasure { s with
      partmap := (List.range 8).foldl (fun t h => tset t h (bits (mergeWrite (partmapWord s) part v) (4 * h) 4)) s.partmap } 2
        (leBytes 8 (mergeWrite (partmapWord s) part v)) := by
  rw [partmapWrites, pfWrite_zero _ hd]
  exact if_neg h

/-- A dropped write of FPART. -/
theorem fpartWrites_bad {s : State} {f : Nat} {part : WPart} {v : DWord} (h : (decide (bits (mergeWrite (fpartWord s) part v) 51 13 ≠ 0) ||
      (List.range 17).any fun k => decide (bits (mergeWrite (fpartWord s) part v) (3 * k) 3 ≠ tgetD s.fpart k 0) && funcBusy s k) = true ∨ f ≠ 0) :
    fpartWrites s f part v = if s.devReady = true ∧ f ≤ 16 then setEvent s f 10 else s :=
  pfWrite_bad fun hf => if_pos (h.resolve_right (not_not.mpr hf))

/-- An accepted write of FPART moves the functions and is measured. -/
theorem fpartWrites_ok {s : State} {part : WPart} {v : DWord} (hd : s.devReady = true)
    (h : ¬(decide (bits (mergeWrite (fpartWord s) part v) 51 13 ≠ 0) ||
      (List.range 17).any fun k => decide (bits (mergeWrite (fpartWord s) part v) (3 * k) 3 ≠ tgetD s.fpart k 0) && funcBusy s k) = true) :
    fpartWrites s 0 part v = extendMeasure { s with
      fpart := (List.range 17).foldl (fun t k => tset t k (bits (mergeWrite (fpartWord s) part v) (3 * k) 3)) s.fpart } 2
        (leBytes 8 (mergeWrite (fpartWord s) part v)) := by
  rw [fpartWrites, pfWrite_zero _ hd]
  exact if_neg h

/-- A dropped write of PARTCTL. -/
theorem partctlWrites_bad {s : State} {f : Nat} {part : WPart} {v : DWord} (h : f ≠ 0 ∨ mergeWrite (partctlWord s) part v / 2 ^ 24 % 2 ^ 40 ≠ 0) :
    partctlWrites s f part v = if s.devReady = true ∧ f ≤ 16 then setEvent s f 10 else s :=
  pfWrite_bad fun hf => if_pos (h.resolve_left (not_not.mpr hf))

/-- A write of PARTCTL's reserved half alone changes nothing. -/
theorem partctlWrites_high {s : State} {f : Nat} {part : WPart} {v : DWord} (h : ¬mergeWrite (partctlWord s) part v / 2 ^ 24 % 2 ^ 40 ≠ 0)
    (hp : part = .high) : partctlWrites s f part v = if s.devReady = true ∧ f ≤ 16 then (if f = 0 then s else setEvent s f 10) else s := by
  subst hp
  rw [partctlWrites, pfWrite_eq]
  exact congrArg (fun t => if s.devReady = true ∧ f ≤ 16 then (if f = 0 then t else setEvent s f 10) else s) (if_neg h)

/-- The 8-bit fields of PARTCTL. -/
theorem ofNat8_bits (n lo : Nat) : BitVec.ofNat 8 (bits n lo 8) = BitVec.ofNat 8 (n / 2 ^ lo) := by
  apply BitVec.eq_of_toNat_eq
  rw [BitVec.toNat_ofNat, BitVec.toNat_ofNat, bits, Nat.mod_mod]

/-- An accepted write of PARTCTL's fields is measured. -/
theorem partctlWrites_ok {s : State} {part : WPart} {v : DWord} (hd : s.devReady = true)
    (h : ¬mergeWrite (partctlWord s) part v / 2 ^ 24 % 2 ^ 40 ≠ 0) (hp : part ≠ .high) : partctlWrites s 0 part v = extendMeasure { s with
      secure := BitVec.ofNat 8 (mergeWrite (partctlWord s) part v / 2 ^ 16), hold := BitVec.ofNat 8 (mergeWrite (partctlWord s) part v / 2 ^ 8)
      preempting := s.preempting ||| BitVec.ofNat 8 v.toNat } 2 (leBytes 8 (mergeWrite (partctlWord s) part v)) := by
  have hc : (!coversBit part 0) = false := by rw [(coversBit_zero part).mpr hp]; rfl
  have h0 : BitVec.ofNat 8 v.toNat = BitVec.ofNat 8 (bits v.toNat 0 8) := by rw [ofNat8_bits, Nat.pow_zero, Nat.div_one]
  rw [partctlWrites, pfWrite_zero _ hd, h0, ← ofNat8_bits, ← ofNat8_bits]
  refine (if_neg h).trans ?_
  rw [hc]
  rfl

/-! #### SVLOAD (R362) -/

/-- A write of SVLOAD that is not whole, or with a reserved bit. -/
theorem svloadWrites_bad {s : State} {f : Nat} {part : WPart} {v : DWord}
    (h : part ≠ .whole ∨ v.toNat / 2 ^ 48 ≠ 0 ∨ v.toNat / 2 % 2 ^ 15 ≠ 0) :
    svloadWrites s f part v = if s.devReady = true ∧ f ≤ 16 then (if f = 0 then setEvent s f 10 else setEvent s f 10) else s := by
  cases part with
  | whole =>
    have hv := h.resolve_left (not_not.mpr rfl)
    rw [← bits_top (n := 16) v.isLt] at hv
    exact (congrArg (pfWrite s f) (if_pos hv)).trans (pfWrite_eq s f _)
  | low => exact pfWrite_eq s f _
  | high => exact pfWrite_eq s f _

/-- A whole write of SVLOAD without reserved bits: its address, or a GO. -/
theorem svloadWrites_eq {s : State} {f : Nat} {v : DWord} (h : ¬(v.toNat / 2 ^ 48 ≠ 0 ∨ v.toNat / 2 % 2 ^ 15 ≠ 0)) :
    let a := v.toNat / 2 ^ 16 % 2 ^ 32 * 2 ^ 16
    svloadWrites s f .whole v = pfWrite s f (if v.toNat % 2 = 0 then { s with svAddr := a } else if s.svload.isSome then setEvent s f 10
      else svloadStarts { s with svAddr := a } a) := by
  rw [← bits_top (n := 16) v.isLt] at h
  exact congrArg (pfWrite s f) ((if_neg h).trans (by rw [bits_zero]; rfl))

theorem svloadEnds_none {s : State} {core : Nat} (h : s.svload = none) : svloadEnds s core = s := by
  rw [svloadEnds, h]

theorem svloadEnds_idle {s : State} {core : Nat} {l : SvLoad} (h : s.svload = some l) (hc : core ∉ l.cores) : svloadEnds s core = s := by
  rw [svloadEnds, h]
  exact if_neg (by simpa using hc)

theorem svloadEnds_holds {s : State} {core : Nat} {l : SvLoad} (h : s.svload = some l) (hc : core ∈ l.cores) :
    let c := coreOf s core
    let left := l.cores.filter fun k => decide (k ≠ core)
    svloadEnds s core = setCore { s with svload := if left = [] then none else some { l with cores := left } } core { c with
      imem := memWrite c.imem supervisorPc (devRead s l.addr slotBytes), ovres := c.ovres ||| 0x80, supplied := false
      imemPoison := (c.imemPoison.filter fun k => decide (k < supervisorPc / 32)) ++ imagePoison s l.addr } := by
  intro c left
  rw [svloadEnds, h]
  refine (if_pos (by simpa using hc)).trans ?_
  simp only [List.isEmpty_iff]
  rfl

/-! #### The mailbox (R374) -/

theorem mboxWrite_eq (s : State) (f cmd : Nat) : mboxWrite s f cmd = if s.devReady = true ∧ f ≤ 16 then
    (if (funcOf s f).mboxCmd ≠ none then setEvent s f 10 else setFunc s f { funcOf s f with mboxCmd := some cmd }) else s := by
  rw [mboxWrite, hostWrite_eq, mailboxStart]
  exact congrArg (fun t => if s.devReady = true ∧ f ≤ 16 then t else s) (if_congr Option.isSome_iff_ne_none rfl rfl)

/-- A result put in the host's memory and told by STATUS. -/
theorem noPolder_mailboxOut {s : State} {f a : Nat} {b : List Byte} (h : NoPolder s) : mailboxStatus (spaceWrite s noCore f .host a b false) f 0 =
    setFunc (hostSend s f a .write b false) f { funcOf s f with mboxCmd := none, mboxStatus := 0 } := by
  have hw : spaceWrite s noCore f .host a b false = hostSend s f a .write b false := by
    change rawWrite (recallRange s .host _ _ true) f .host a b false = _
    rw [recallRange_noPolder _ _ _ _ h]
    rfl
  rw [hw]
  rfl

theorem mailboxEnds_none {s : State} {f : Nat} (h : (funcOf s f).mboxCmd = none) : mailboxEnds s f = s := by
  simp only [mailboxEnds, h]

/-- A report without its key. -/
theorem mailboxEnds_keyless {s : State} {f : Nat} (h : (funcOf s f).mboxCmd = some 1) (hk : s.attKey = false ∨ s.keyLost = true) :
    mailboxEnds s f = mailboxStatus s f 1 := by
  have hb : (s.attKey && !s.keyLost) = false := by
    rcases hk with hk | hk
    · rw [hk]; rfl
    · rw [hk, Bool.not_true, Bool.and_false]
  simp only [mailboxEnds, h, hb, Bool.false_eq_true, if_false]

/-- A report. -/
theorem mailboxEnds_report {s : State} {f : Nat} (h : (funcOf s f).mboxCmd = some 1) (ha : s.attKey = true) (hk : s.keyLost = false) :
    let w := recallRange s .host (0, (funcOf s f).mboxAddr) 32 false
    mailboxEnds s f = { mailboxStatus (spaceWrite w noCore f .host ((funcOf s f).mboxAddr + 0x1000) (reportBytes w f) false) f 0 with
      free := w.free + 25 } := by
  simp only [mailboxEnds, h, ha, hk, Bool.not_false, Bool.and_self, if_true]

/-- An alarm log. -/
theorem mailboxEnds_log {s : State} {f : Nat} (h : (funcOf s f).mboxCmd = some 2) : mailboxEnds s f =
    mailboxStatus (spaceWrite s noCore f .host ((funcOf s f).mboxAddr + 0x1000) (alarmBytes s) false) f 0 := by
  simp only [mailboxEnds, h]

/-- Another command. -/
theorem mailboxEnds_bad {s : State} {f k : Nat} (h : (funcOf s f).mboxCmd = some k) (h1 : k ≠ 1) (h2 : k ≠ 2) :
    mailboxEnds s f = mailboxStatus s f 2 := by
  unfold mailboxEnds
  dsimp only
  rw [h]
  split
  next he => exact absurd he (by simp)
  next he => exact absurd (Option.some.inj he) h1
  next he => exact absurd (Option.some.inj he) h2
  next => rfl

theorem funcOf_mailboxStatus (s : State) (f n : Nat) : funcOf (mailboxStatus s f n) f = { funcOf s f with mboxCmd := none, mboxStatus := n } :=
  funcOf_setFunc _ _ _

/-- The bytes of a report. -/
theorem digestBytes_length (x : BitVec 256) : (digestBytes x).length = 32 := by
  rw [digestBytes, List.length_reverse, leBytes_length]

theorem memRead_length (m : Mem) (a n : Nat) : (memRead m a n).length = n := by
  rw [memRead, List.length_map, List.length_range]

theorem reportState_length (s : State) (f : Nat) : (reportState s f).length = 32 := by
  unfold reportState
  split <;> simp only [List.length_append, leBytes_length]

/-- Entries of 32 bytes one after the other. -/
theorem flatMap_digest_length (g : Nat → BitVec 256) (l : List Nat) : (l.flatMap fun i => digestBytes (g i)).length = 32 * l.length := by
  induction l with
  | nil => rfl
  | cons i r ih => rw [List.flatMap_cons, List.length_append, digestBytes_length, ih, List.length_cons]; omega

theorem flatMap_digest_entry (g : Nat → BitVec 256) (n i : Nat) (hi : i < n) (r : List Byte) :
    ((((List.range n).flatMap fun i => digestBytes (g i)) ++ r).drop (32 * i)).take 32 = digestBytes (g i) := by
  have hs : List.range n = List.range i ++ i :: (List.range' (i + 1) (n - i - 1)) := by
    have h := List.range'_append_1 (s := 0) (m := i) (n := n - i - 1 + 1)
    rw [Nat.zero_add, show i + (n - i - 1 + 1) = n by omega] at h
    rw [List.range_eq_range', List.range_eq_range', ← List.range'_succ, h]
  have hl : (((List.range i).flatMap fun i => digestBytes (g i))).length = 32 * i := by rw [flatMap_digest_length, List.length_range]
  rw [hs, List.flatMap_append, List.flatMap_cons, List.append_assoc, ← hl, List.drop_left, List.append_assoc, ← digestBytes_length (g i), List.take_left]

theorem reportBytes_length (s : State) (f : Nat) : (reportBytes s f).length = 8200 := by
  simp only [reportBytes, reportBody, List.length_append, List.length_map, List.length_range, memRead_length, flatMap_digest_length,
    leBytes_length, reportState_length]

/-- A report begins with the nonce and the measurements. -/
theorem reportBytes_eq (s : State) (f : Nat) : ∃ r, reportBytes s f =
    memRead s.hostMem (funcOf s f).mboxAddr 32 ++ (((List.range 8).flatMap fun i => digestBytes (measureOf s i)) ++ r) := by
  unfold reportBytes reportBody
  simp only [List.append_assoc]
  exact ⟨_, rfl⟩

theorem reportBytes_nonce (s : State) (f : Nat) : (reportBytes s f).take 32 = memRead s.hostMem (funcOf s f).mboxAddr 32 := by
  obtain ⟨r, hr⟩ := reportBytes_eq s f
  rw [hr]
  exact List.take_left' (memRead_length _ _ _)

theorem reportBytes_measure (s : State) (f : Nat) {i : Nat} (hi : i < 8) :
    ((reportBytes s f).drop (32 + 32 * i)).take 32 = digestBytes (measureOf s i) := by
  obtain ⟨r, hr⟩ := reportBytes_eq s f
  rw [hr, ← List.drop_drop, List.drop_left' (memRead_length _ _ _), flatMap_digest_entry _ _ _ hi]

/-! #### A write by its offset (R354, R355) -/

section
variable {s : State} {f off : Nat} {part : WPart} {v : DWord}

theorem hostWrite_ready {go : State} (hd : s.devReady = true) (hf : f ≤ 16) : hostWrite s f go = go := by
  rw [hostWrite_eq, if_pos ⟨hd, hf⟩]

theorem regWrite_outside (h : off % 8 ≠ 0 ∨ 0x10000 ≤ off) : regWrite s f off part v = s := if_pos h

/-- The registers that a write just fills. -/
theorem regWrite_plain {r : State}
    (ho : off % 8 = 0 ∧ off < 0x100 ∧ off ≠ 0x030 ∧ off ≠ 0x040 ∧ off ≠ 0x048 ∧ off ≠ 0x058) (hr : plainWrite s f off part v = r) :
    regWrite s f off part v = if s.devReady = true ∧ f ≤ 16 then r else s := by
  obtain ⟨h8, h1, n1, n2, n3, n4⟩ := ho
  rw [regWrite, if_neg (by omega), if_neg n1, if_neg n2, if_neg n3, if_neg n4, if_pos h1, hr, hostWrite_eq]

/-- The registers of the PF. -/
theorem regWrite_pf {r : State} (hd : s.devReady = true) (hf : f ≤ 16) (ho : off % 8 = 0 ∧ 0x100 ≤ off ∧ off < 0x300)
    (hr : pfRegWrite s f off part v = r) : regWrite s f off part v = r := by
  rw [regWrite, if_neg (by omega), hostWrite_ready hd hf, if_neg (by omega), if_neg (by omega), if_neg (by omega), if_neg (by omega),
    if_neg (by omega), if_pos (by omega), hr]

/-- A register of the PF by its name. -/
theorem regWrite_pf_at {n : Nat} {r : State} (hd : s.devReady = true) (hf : f ≤ 16) (hn : n % 8 = 0 ∧ 0x100 ≤ n ∧ n < 0x300) (ho : off = n)
    (hr : pfRegWrite s f n part v = r) : regWrite s f off part v = r :=
  regWrite_pf hd hf (ho ▸ hn) (ho ▸ hr)

/-- The registers of a queue. -/
theorem regWrite_queue {q r : Nat} (hd : s.devReady = true) (hf : f ≤ 16) (hq : q < 256) (hr : r < 4) (ho : off = 0x1000 + 32 * q + 8 * r) :
    regWrite s f off part v = match (generalizing := false) r with
      | 0 => queueWrite s f q false part v
      | 1 => queueWrite s f q true part v
      | 2 => tailWrite s f q part false v
      | _ => if reachesQueue s f q then qstatWrite s q part v else dropWrite s f := by
  have e1 : (off - 0x1000) / 32 = q := by omega
  have e2 : (off - 0x1000) % 32 / 8 = r := by omega
  rw [regWrite, if_neg (by omega), hostWrite_ready hd hf, if_neg (by omega), if_neg (by omega), if_neg (by omega), if_neg (by omega),
    if_neg (by omega), if_neg (by omega), if_pos (by omega)]
  subst e1 e2
  rfl

/-- The holes of the block. -/
theorem regWrite_hole (hd : s.devReady = true) (hf : f ≤ 16) (h8 : off % 8 = 0)
    (h : 0x3000 ≤ off ∧ off < 0x10000 ∨ 0x300 ≤ off ∧ off < 0x1000) : regWrite s f off part v = setEvent s f 10 := by
  rw [regWrite, if_neg (by omega), hostWrite_ready hd hf, if_neg (by omega), if_neg (by omega), if_neg (by omega), if_neg (by omega),
    if_neg (by omega), if_neg (by omega), if_neg (by omega)]
  rfl

/-! ##### Registers that a write just fills -/

theorem plainWrite_event (ho : off = 0x008) : plainWrite s f off part v =
    setFunc s f { funcOf s f with event := (funcOf s f).event &&& ~~~BitVec.ofNat 11 (mergeWrite 0 part v) } := by
  subst ho
  rw [← onesWritten_eq]
  rfl

theorem plainWrite_evvec (ho : off = 0x010) : plainWrite s f off part v =
    setFunc s f { funcOf s f with evvec := mergeWrite (funcOf s f).evvec part v % 2 ^ 11 } := by
  subst ho
  rw [← bits_zero]
  rfl

theorem plainWrite_root (ho : off = 0x020) : let n := mergeWrite ((funcOf s f).rootAddr + (funcOf s f).rootLog2n) part v
    plainWrite s f off part v = if n / 2 ^ 48 % 2 ^ 16 ≠ 0 ∨ n / 2 ^ 5 % 2 ^ 7 ≠ 0 ∨ 20 < n % 2 ^ 5 then setEvent s f 10
      else setFunc s f { funcOf s f with rootAddr := n / 2 ^ 12 % 2 ^ 36 * 2 ^ 12, rootLog2n := n % 2 ^ 5 } := by
  subst ho
  intro n
  have hr : plainReserved 0x020 n = true ↔ n / 2 ^ 48 % 2 ^ 16 ≠ 0 ∨ n / 2 ^ 5 % 2 ^ 7 ≠ 0 ∨ 20 < n % 2 ^ 5 := by
    rw [← bits_zero n 5]
    exact decide_eq_true_iff
  rw [← bits_zero n 5] at hr ⊢
  exact if_congr hr rfl rfl

theorem plainWrite_invaddr (ho : off = 0x028) : plainWrite s f off part v =
    setFunc s f { funcOf s f with invaddr := mergeWrite (funcOf s f).invaddr part v / 2 ^ 16 % 2 ^ 36 * 2 ^ 16 } := by
  subst ho
  rfl

theorem plainWrite_fqbase (ho : off = 0x038) : plainWrite s f off part v =
    setFunc s f { funcOf s f with fqbase := mergeWrite ((funcOf s f).fqbase * 4096) part v / 2 ^ 12 % 2 ^ 52 } := by
  subst ho
  rfl

theorem plainWrite_mboxAddr (ho : off = 0x050) : plainWrite s f off part v =
    setFunc s f { funcOf s f with mboxAddr := mergeWrite (funcOf s f).mboxAddr part v / 2 ^ 12 % 2 ^ 52 * 2 ^ 12 } := by
  subst ho
  rfl

theorem plainWrite_ovdef (ho : off = 0x060) : let n := mergeWrite (funcOf s f).ovdef.toNat part v
    plainWrite s f off part v = if n / 2 ^ 7 % 2 ^ 57 ≠ 0 then setEvent s f 10
      else setFunc s f { funcOf s f with ovdef := BitVec.ofNat 7 n } := by
  subst ho
  intro n
  have hr : plainReserved 0x060 n = true ↔ n / 2 ^ 7 % 2 ^ 57 ≠ 0 := decide_eq_true_iff
  have ho : BitVec.ofNat 7 n = BitVec.ofNat 7 (bits n 0 7) := by
    apply BitVec.eq_of_toNat_eq
    rw [BitVec.toNat_ofNat, BitVec.toNat_ofNat, bits_zero, Nat.mod_mod]
  rw [ho]
  exact if_congr hr rfl rfl

theorem plainWrite_pwin {w : Nat} (hw : w < 16) (ho : off = 0x080 + 8 * w) : let n := mergeWrite (tgetD (funcOf s f).pwin w 0).toNat part v
    let y : DWord := BitVec.ofNat 64 (n / 2 ^ 63 % 2 * 2 ^ 63 + n / 2 ^ 27 % 2 ^ 24 * 2 ^ 27 + n % 2 ^ 8)
    plainWrite s f off part v = if n / 2 ^ 51 % 2 ^ 12 ≠ 0 ∨ n / 2 ^ 8 % 2 ^ 19 ≠ 0 then setEvent s f 10
      else setFunc s f { funcOf s f with pwin := tset (funcOf s f).pwin w y } := by
  intro n y
  have hr : plainReserved off n = true ↔ n / 2 ^ 51 % 2 ^ 12 ≠ 0 ∨ n / 2 ^ 8 % 2 ^ 19 ≠ 0 := by
    rw [plainReserved, if_neg (by omega), if_neg (by omega), decide_eq_true (by omega), Bool.true_and]
    exact decide_eq_true_iff
  have e : (off - 0x080) / 8 = w := by omega
  have hy : y = BitVec.ofNat 64 (bits n 63 1 * 2 ^ 63 + bits n 27 24 * 2 ^ 27 + bits n 0 8) := by
    rw [bits_zero]
    rfl
  rw [plainWrite, if_neg (by omega), if_neg (by omega), if_neg (by omega), if_neg (by omega), if_neg (by omega), if_neg (by omega),
    if_neg (by omega), if_pos (by omega), e, hy]
  exact if_congr hr rfl rfl

/-! ##### Registers that start something -/

theorem regWrite_fqctl (ho : off = 0x040) : regWrite s f off part v = fqctlWrites s f part v := by
  subst ho
  exact hostWrite_hostWrite _ _ _

/-- A command register written in part. -/
theorem regWrite_command_part (ho : off = 0x030 ∨ off = 0x048 ∨ off = 0x058) (hp : part ≠ .whole) :
    regWrite s f off part v = if s.devReady = true ∧ f ≤ 16 then setEvent s f 10 else s := by
  have hw (go : State) : wholeOnly s f part go = hostWrite s f (setEvent s f 10) := by
    cases part with
    | whole => exact absurd rfl hp
    | low => rfl
    | high => rfl
  rw [← hostWrite_eq, ← hostWrite_hostWrite]
  rcases ho with rfl | rfl | rfl
  · exact congrArg (hostWrite s f) (hw _)
  · exact congrArg (hostWrite s f) (hw _)
  · exact congrArg (hostWrite s f) (hw _)

/-- INVCMD. -/
theorem regWrite_inval : regWrite s f 0x030 .whole v = hostWrite s f (if v.toNat / 2 ^ 20 % 2 ^ 2 = 3 then setEvent s f 10
    else startInval s f (v.toNat / 2 ^ 20 % 2 ^ 2) (v.toNat % 2 ^ 20)) := by
  rw [← bits_zero v.toNat 20]
  exact hostWrite_hostWrite _ _ _

theorem regWrite_inval_start {k : Nat} (hk : v.toNat / 2 ^ 20 % 2 ^ 2 = k) (h3 : k ≠ 3) :
    regWrite s f 0x030 .whole v = startInval s f k (v.toNat % 2 ^ 20) := by
  rw [regWrite_inval, hk, if_neg h3]
  exact hostWrite_hostWrite _ _ _

/-- FQRESP. -/
theorem regWrite_fqresp : regWrite s f 0x048 .whole v = hostWrite s f (if v.toNat / 2 ^ 48 ≠ 0 ∨ v.toNat / 2 % 2 ^ 31 ≠ 0 then setEvent s f 10
    else fqResponse s f (BitVec.ofNat 16 (v.toNat / 2 ^ 32)) (decide (v.toNat % 2 = 1))) := by
  have ht : BitVec.ofNat 16 (v.toNat / 2 ^ 32) = BitVec.ofNat 16 (bits v.toNat 32 16) := by
    apply BitVec.eq_of_toNat_eq
    rw [BitVec.toNat_ofNat, BitVec.toNat_ofNat, bits, Nat.mod_mod]
  rw [ht, ← bits_top (n := 16) v.isLt]
  refine (hostWrite_hostWrite _ _ _).trans ?_
  rw [bits_zero]
  rfl

theorem regWrite_fqresp_ok (h1 : v.toNat / 2 ^ 48 = 0) (h2 : v.toNat / 2 % 2 ^ 31 = 0) :
    regWrite s f 0x048 .whole v = fqResponse s f (BitVec.ofNat 16 (v.toNat / 2 ^ 32)) (decide (v.toNat % 2 = 1)) := by
  rw [regWrite_fqresp, if_neg (not_or.mpr ⟨not_not.mpr h1, not_not.mpr h2⟩)]
  exact hostWrite_hostWrite _ _ _

/-- MBOXCMD. -/
theorem regWrite_mbox : regWrite s f 0x058 .whole v = mboxWrite s f (v.toNat % 2 ^ 8) := by
  rw [← bits_zero]
  exact (hostWrite_hostWrite _ _ _).trans (hostWrite_hostWrite _ _ _)

/-! ##### Registers of the PF and of queues -/

theorem pfRegWrite_floor {i : Nat} (hi : i < 8) (ho : off = 0x108 + 8 * i) : pfRegWrite s f off part v = pfloorWrites s f i part v := by
  rw [pfRegWrite, if_neg (by omega), if_pos (by omega), show (off - 0x108) / 8 = i by omega]

theorem pfRegWrite_qown (h : 0x200 ≤ off) : pfRegWrite s f off part v = qownWrites s f off part v := by
  rw [pfRegWrite, if_neg (by omega), if_neg (by omega), if_neg (by omega), if_neg (by omega), if_neg (by omega), if_neg (by omega),
    if_neg (by omega), if_neg (by omega), if_neg (by omega), if_pos h]

/-- QSTAT's bits that a write of ones clears. -/
theorem regWrite_qstat {q : Nat} (hd : s.devReady = true) (hf : f ≤ 16) (hq : q < 256) (ho : off = 0x1000 + 32 * q + 8 * 3) :
    regWrite s f off part v = if ownerOf s q = f then setQueue s q { queueOf s q with
      badtail := (queueOf s q).badtail && decide (mergeWrite 0 part v / 2 ^ 49 % 2 = 0)
      notifyro := (queueOf s q).notifyro && decide (mergeWrite 0 part v / 2 ^ 48 % 2 = 0) } else setEvent s f 10 := by
  rw [regWrite_queue hd hf hq (by decide) ho, ← onesWritten_eq]
  have hr : reachesQueue s f q = true ↔ ownerOf s q = f := by
    rw [reachesQueue, decide_eq_true_iff]
    exact and_iff_right hq
  exact if_congr hr rfl rfl

end

/-! #### The statement -/

/-- What an instruction that goes on leaves. -/
theorem exec_next {i : Instr} {s u r : State} (he : exec i s = .next u) (h : u = r) : exec i s = .next r := h ▸ he

/-- Settles O58: each clause is the lemma about its write. -/
theorem registerWrites : Obligations.RegisterWrites := by
  unfold Obligations.RegisterWrites
  intro s f part v x bad W P M
  refine ⟨fun old => mergeWrite_halves old part v, ?posted, ?reads, ?queues, ?qown, ?fqctl, ?power, ?linkcfg, ⟨?partmap, ?fpart, ?partctl⟩, ?svload,
    ?svloadEnd, ?mailbox, ?registers⟩
  case posted =>
    intro h ps
    rw [postedArrive, performPosted_eq _ h]
  case reads => exact fun off size => ⟨hostRead_whole, fun h1 h8 => ⟨hostRead_low h1 h8, hostRead_half h1 h8 (.inr rfl)⟩, hostRead_none⟩
  case queues =>
    intro q h mine
    refine ⟨fun relaxed hh _ => exec_next rfl ?_, exec_next rfl qctlWrite_eq, exec_next rfl qbaseWrite_eq⟩
    rw [tailWrite_eq, notify_eq hh]
  case qown =>
    intro off h1 h2 h8 base owner wrong
    have hw : qownDropped s base (M (qownWord s (base / 8))) = true ↔ wrong := qownDropped_iff _ _ _
    refine ⟨fun h => exec_next rfl (qownWrites_bad h1 h2 h8 (h.imp_left hw.mpr)), ?_⟩
    rintro h rfl hd
    exact ⟨_, exec_next rfl (qownWrites_ok h1 h2 h8 hd (mt hw.mp h)), rfl, fun k => tgetD_foldl_range _ _ _ _ _ _⟩
  case fqctl => exact ⟨fun h => exec_next rfl (fqctlWrites_bad h), fun h hr => exec_next rfl (fqctlWrites_ok h hr)⟩
  case power =>
    intro told floors
    refine ⟨fun t => by rw [effcapWatts, floorSum_eq], exec_next rfl ?_, fun i => exec_next rfl pfloorWrites_drops_iff, exec_next rfl didtWrites_eq⟩
    rw [pcapWrites_eq, recap_eq, pfWrite_eq]
  case linkcfg =>
    intro n reserved
    refine ⟨fun h => exec_next rfl (linkcfgWrites_bad h), ?_⟩
    rintro rfl h hd
    exact ⟨_, rfl, linkcfg_put (linkcfgWrites_ok hd h)⟩
  case partmap =>
    intro n to_ wrong
    have hw : partmapDropped s n = true ↔ wrong := partmapDropped_iff _ _
    refine ⟨fun h => exec_next rfl (partmapWrites_bad (h.imp_left hw.mpr)), ?_⟩
    rintro h rfl hd
    exact ⟨_, rfl, partmap_put (partmapWrites_ok hd (mt hw.mp h))⟩
  case fpart =>
    intro n to_ wrong
    have hw := fpartDropped_iff s n
    refine ⟨fun h => exec_next rfl (fpartWrites_bad (h.imp_left hw.mpr)), ?_⟩
    rintro h rfl hd
    exact ⟨_, rfl, fpart_put (fpartWrites_ok hd (mt hw.mp h))⟩
  case partctl =>
    intro n reserved
    refine ⟨fun h => exec_next rfl (partctlWrites_bad h), fun h hp => exec_next rfl (partctlWrites_high h hp), ?_⟩
    rintro rfl h hp hd
    exact ⟨_, exec_next rfl (partctlWrites_ok hd h hp), extendMeasure_measured _ _ _, rfl⟩
  case svload =>
    intro a reserved
    refine ⟨fun h => exec_next rfl (svloadWrites_bad h), ?_, ?_, ?_⟩
    · rintro rfl h h0
      refine exec_next rfl ((svloadWrites_eq h).trans ?_)
      rw [if_pos h0, pfWrite_eq]
    · rintro rfl h h1 hl
      refine exec_next rfl ((svloadWrites_eq h).trans ?_)
      rw [if_neg (by omega), if_pos (Option.isSome_iff_ne_none.mpr hl), pfWrite_eq]
    · rintro rfl h h1 hl rfl hd
      refine ⟨_, rfl, svload_put ((svloadWrites_eq h).trans ?_)⟩
      rw [pfWrite_zero _ hd, if_neg (by omega), hl]
      rfl
  case svloadEnd =>
    exact fun core => ⟨fun h => exec_next rfl (svloadEnds_none h), fun l hl => ⟨fun hc => exec_next rfl (svloadEnds_idle hl hc), fun hc =>
      exec_next rfl (svloadEnds_holds hl hc)⟩⟩
  case mailbox =>
    intro begun
    refine ⟨exec_next rfl (mboxWrite_eq s f 1), exec_next rfl (mboxWrite_eq s f 2), fun cmd h1 h2 => exec_next rfl ?bad, ?ends⟩
    case bad => exact (if_neg (not_or.mpr ⟨h1, h2⟩)).trans (mboxWrite_eq s f cmd.toNat)
    case ends =>
      intro done
      refine ⟨fun h => exec_next rfl (mailboxEnds_none h), fun h hk => exec_next rfl (mailboxEnds_keyless h hk), fun h ha hk hn => exec_next rfl ?_,
        fun h ha hk => ⟨_, exec_next rfl (mailboxEnds_report h ha hk), ?_, ?_⟩, reportBytes_length s f, reportBytes_nonce s f,
        fun i hi => reportBytes_measure s f hi, fun h hn => exec_next rfl ((mailboxEnds_log h).trans (noPolder_mailboxOut hn)),
        fun h => ⟨_, exec_next rfl (mailboxEnds_log h), ?_, ?_⟩, fun k h h1 h2 => exec_next rfl (mailboxEnds_bad h h1 h2)⟩
      · rw [mailboxEnds_report h ha hk, recallRange_noPolder _ _ _ _ hn, noPolder_mailboxOut hn]
        rfl
      · exact congrArg Func.mboxCmd (funcOf_mailboxStatus _ f 0)
      · exact congrArg Func.mboxStatus (funcOf_mailboxStatus _ f 0)
      · exact congrArg Func.mboxCmd (funcOf_mailboxStatus _ f 0)
      · exact congrArg Func.mboxStatus (funcOf_mailboxStatus _ f 0)
  case registers =>
    intro off R
    refine ⟨fun h => exec_next rfl (regWrite_outside h), ?ro, fun h => exec_next rfl (regWrite_plain (by omega) (plainWrite_event h)),
      fun h => exec_next rfl (regWrite_plain (by omega) (plainWrite_evvec h)), fun h => exec_next rfl (regWrite_plain (by omega) (plainWrite_root h)),
      fun h => exec_next rfl (regWrite_plain (by omega) (plainWrite_invaddr h)), ?inval,
      fun h => exec_next rfl (regWrite_plain (by omega) (plainWrite_fqbase h)), fun h => exec_next rfl (regWrite_fqctl h), ?fqresp,
      fun h => exec_next rfl (regWrite_plain (by omega) (plainWrite_mboxAddr h)), ?mbox,
      fun h hp => exec_next rfl (regWrite_command_part h hp), fun h => exec_next rfl (regWrite_plain (by omega) (plainWrite_ovdef h)), ?unnamed,
      fun w hw h => exec_next rfl (regWrite_plain (by omega) (plainWrite_pwin hw h)), ?named⟩
    case ro =>
      rintro (rfl | rfl)
      · exact exec_next rfl (regWrite_plain (by decide) rfl)
      · exact exec_next rfl (regWrite_plain (by decide) rfl)
    case inval =>
      rintro rfl rfl k asid
      have ha : asid.toNat = v.toNat % 2 ^ 20 := BitVec.toNat_ofNat _ _
      refine ⟨fun hk => exec_next rfl ?_, fun hk => exec_next rfl ?_, fun hk h0 => exec_next rfl ?_, fun hk => exec_next rfl ?_⟩
      · rw [regWrite_inval_start hk (by decide), ha]
      · rw [regWrite_inval_start hk (by decide), ha]
      · rw [regWrite_inval_start hk (by decide), h0]
      · rw [regWrite_inval, if_pos hk, hostWrite_eq]
    case fqresp =>
      rintro rfl rfl tag
      refine ⟨fun h => exec_next rfl ?_, fun h1 h2 => (exec_next rfl (regWrite_fqresp_ok h1 h2)).trans ?_⟩
      · rw [regWrite_fqresp, if_pos h, hostWrite_eq]
      · split
        next h => rw [decide_eq_true h]; rfl
        next h => rw [decide_eq_false h]; rfl
    case mbox =>
      rintro rfl rfl k
      have hc : (BitVec.ofNat 8 v.toNat).toNat = k := BitVec.toNat_ofNat _ _
      have hm : regWrite s f 0x058 .whole v = mboxWrite s f k := regWrite_mbox
      refine ⟨fun hk => exec_next rfl (hk ▸ hm), fun hk => exec_next rfl (hk ▸ hm), fun h1 h2 => exec_next rfl ?_⟩
      have hn : ¬(BitVec.ofNat 8 v.toNat = 1 ∨ BitVec.ofNat 8 v.toNat = 2) := by
        rintro (h | h)
        · exact h1 (hc.symm.trans (congrArg BitVec.toNat h))
        · exact h2 (hc.symm.trans (congrArg BitVec.toNat h))
      rw [if_neg hn, hc, hm]
    case unnamed =>
      rintro (rfl | rfl | rfl)
      · exact exec_next rfl (regWrite_plain (by decide) rfl)
      · exact exec_next rfl (regWrite_plain (by decide) rfl)
      · exact exec_next rfl (regWrite_plain (by decide) rfl)
    case named =>
      intro hd hf
      exact ⟨fun h => exec_next rfl (regWrite_pf_at hd hf (by decide) h rfl),
        fun i hi h => exec_next rfl (regWrite_pf hd hf (by omega) (pfRegWrite_floor hi h)),
        fun h => exec_next rfl (regWrite_pf_at hd hf (by decide) h rfl), fun h => exec_next rfl (regWrite_pf_at hd hf (by decide) h rfl),
        fun h => exec_next rfl (regWrite_pf_at hd hf (by decide) h rfl), fun h => exec_next rfl (regWrite_pf_at hd hf (by decide) h rfl),
        fun h => exec_next rfl (regWrite_pf_at hd hf (by decide) h rfl), fun h => exec_next rfl (regWrite_pf_at hd hf (by decide) h rfl),
        fun h => exec_next rfl (regWrite_pf_at hd hf (by decide) h (pfWrite_eq s f s)),
        fun h1 h2 h8 => exec_next rfl (regWrite_pf hd hf ⟨h8, by omega, h2⟩ (pfRegWrite_qown h1)),
        fun q hq => ⟨fun h => exec_next rfl (regWrite_queue (r := 0) hd hf hq (by decide) (by omega)),
          fun h => exec_next rfl (regWrite_queue (r := 1) hd hf hq (by decide) (by omega)),
          fun h => exec_next rfl (regWrite_queue (r := 2) hd hf hq (by decide) (by omega)),
          fun h => exec_next rfl (regWrite_qstat hd hf hq (by omega)), fun h8 h => exec_next rfl (regWrite_hole hd hf h8 h)⟩⟩

end Sys2Proof.Proofs

namespace Sys2Proof.Proofs
open Sys2Proof.Machine Sys2Proof.Safety

/-! ### Reset (R376) -/

/-- Settles O47: every table but the measurements is empty after reset, so each record is at its default. -/
theorem resetValues : Obligations.ResetValues := by
  unfold Obligations.ResetValues
  refine ⟨rfl, rfl, rfl, rfl, rfl, fun _ => rfl, fun _ => ⟨rfl, rfl, rfl, rfl, rfl⟩, fun _ => ⟨rfl, rfl⟩, fun _ => rfl, fun _ => rfl, fun _ => rfl,
    fun _ => ⟨rfl, rfl⟩, rfl, rfl, fun k hk _ => ?_⟩
  have h0 : 0 ≠ k := by omega
  have h1 : 1 ≠ k := by omega
  simp [State.reset, tget, h0, h1]

end Sys2Proof.Proofs

namespace Sys2Proof.Proofs
open Sys2Proof.Machine Sys2Proof.Safety

/-! ### Trap entry (R308, R311) -/

/-- The fields of the ECAUSE word that a trap writes. -/
theorem ecauseWord_fields {t : TrapInfo} {sid : Nat} (h : FitsEcause t sid) : Ecause (ecauseWord t sid) t sid := by
  obtain ⟨hc, hs, hi, hl⟩ := h
  have ha : (if t.after then 2 ^ 8 else 0) = 2 ^ 8 * (if t.after then 1 else 0) := by split <;> rfl
  have hb : (if t.after then 1 else 0) < 2 := by split <;> decide
  unfold Ecause ecauseWord
  rw [ha]
  generalize (if t.after then 1 else 0) = a at hb ⊢
  cases he : t.lane with
  | none =>
    dsimp only [Option.isSome, Option.getD_none]
    rw [if_neg (by decide), BitVec.toNat_ofNat]
    omega
  | some l =>
    have := hl l he
    dsimp only [Option.isSome, Option.getD_some]
    rw [if_pos rfl, BitVec.toNat_ofNat]
    omega

/-- Trap entry of a group that holds no replaced access, as R311 gives it. -/
theorem trapGroup_entered (g : Group) (sid : Nat) (t : TrapInfo) (pc : Nat) (ports : Table PortCell) :
    Entered g (trapGroup { g with inject := none } sid t pc ports) sid t pc ports := ⟨rfl, ecauseWord_fields⟩

/-! ### A cluster's turn (R45, R46, R316) -/

theorem leVal_memRead (m : Mem) (a n : Nat) :
    leVal (memRead m a n) = ((List.range n).map fun k => (memGet m (a + k)).toNat * 2 ^ (8 * k)).sum := by
  induction n generalizing a with
  | zero => rfl
  | succ n ih =>
    have hr : memRead m a (n + 1) = memGet m a :: memRead m (a + 1) n := by
      simp [memRead, List.range_succ_eq_map, Nat.add_comm, Nat.add_left_comm]
    rw [hr, leVal, ih, List.range_succ_eq_map, List.map_cons, List.sum_cons, ← List.sum_map_mul_left]
    simp [Function.comp_def, Nat.add_left_comm, Nat.add_comm, Nat.mul_add, Nat.pow_add, Nat.mul_left_comm]

/-- The step of a cluster's turn: its chosen context runs, what belongs to the choice follows, and time passes. -/
theorem step_turn {s u : State} {cl gid sid : Nat} {after : State → State} (h : Turn s cl gid sid u after) :
    step s = onNext tick (onNext after (runContext u gid)) := by
  obtain ⟨rest, hst, hf, hv⟩ := h
  have hrun (dflt : Bool) : runCluster dflt { s with agenda := rest } cl = onNext after (runContext u gid) := by
    obtain ⟨⟨hs, hp, rfl, rfl⟩ | ⟨⟨g, hs⟩, rfl, rfl⟩, -⟩ := hv
    · simp [runCluster, hf, clusterIssues, hs, hp]
    · simp [runCluster, hf, clusterIssues, hs]
  obtain ⟨ha, hc⟩ | ⟨ha, rfl, rfl⟩ := hst
  · simp [step, ha, runAct, hc, hrun]
  · have he : ({ s with agenda := [] } : State) = s := by rw [← ha]
    simp only [step, ha]
    rw [← he, hrun]

theorem runContext_present {u : State} {gid sid : Nat} (h : present (groupOf u gid) = some sid) :
    runContext u gid = runFetch u gid sid (fetch (coreOf u (groupCore u gid)) (groupOf u gid).super (pcOf u gid sid)) := by
  simp [runContext, presented, h, pcOf]

theorem fetch_fetchable {u : State} {gid sid : Nat} {i : Instr} (h : Fetchable u gid sid) (hd : decode (fetched u gid sid) = .ok i) :
    fetch (coreOf u (groupCore u gid)) (groupOf u gid).super (pcOf u gid sid) = .bundle i := by
  obtain ⟨h1, h2, h3⟩ := h
  have hb : bundleWord (coreOf u (groupCore u gid)) (pcOf u gid sid) = fetched u gid sid := by rw [bundleWord, leVal_memRead]; rfl
  have hr : ((groupOf u gid).super && decide (pcOf u gid sid = supervisorPc) && (coreOf u (groupCore u gid)).supplied) = false := by
    by_cases hs : (groupOf u gid).super = true
    · by_cases hp : pcOf u gid sid = supervisorPc
      · simp [h2 hs hp]
      · simp [hp]
    · simp [hs]
  simp [fetch, h1, hr, h3, hb, hd]

theorem fetch_absent {c : Core} {pc : Nat} (h1 : c.ovres.getLsbD (pc / 65536) = false) (h2 : ∀ l ∈ c.loads, l.slot ≠ pc / 65536) :
    fetch c false pc = .absent (pc / 65536) := by
  have h3 : c.loads.any (fun l => decide (l.slot = pc / 65536)) = false := by simpa using h2
  simp [fetch, h1, h3]

/-- Settles O45: the turn's context runs what its fetch gives (`step_turn`); an event runs its meaning unless it is a bundle. -/
theorem stepRunsDecoded : Obligations.StepRunsDecoded := by
  unfold Obligations.StepRunsDecoded
  refine ⟨fun s u cl gid sid after h => ?_, fun s i rest ha => ⟨fun hi => ?_, fun b hb => ?_⟩⟩
  · have hs := step_turn h
    obtain ⟨-, -, -, -, hp⟩ := h
    rw [runContext_present hp] at hs
    refine ⟨fun i hf hd => by rw [hs, fetch_fetchable hf hd]; rfl, fun hu ho hl => ?_⟩
    rw [hu, fetch_absent ho hl] at hs
    refine ⟨_, hs.trans ?_, trapGroup_entered _ _ _ _ _⟩
    simp [runFetch, trapBundle, takeTrap, hu, onNext, pcOf]
  · simp [step, ha, runAct, hi]
  · simp [step, ha, runAct, hb, onNext]

end Sys2Proof.Proofs

namespace Sys2Proof.Proofs
open Sys2Proof.Machine Sys2Proof.Safety

/-! ### Divergent branches (R20) -/

/-- A BD that issues: its lanes and targets as R20 gives them, on the group left by the counts of the issue. -/
theorem bd_issues {inv : Bool} {mask : BitVec 4} {target : BitVec 24} {join : BitVec 16} {s : State} {gid sid : Nat}
    (h : Issues s gid sid (scalarBundle (.bd inv mask target join))) :
    ∃ w, IssueOf s gid (scalarBundle (.bd inv mask target join)) w ∧ exec (.bd inv mask target join) s =
      .next (setGroup w gid (bdApply (groupOf w gid) sid (condOf s gid sid inv mask)
        (activeMask (groupOf s gid) sid &&& ~~~condOf s gid sid inv mask) (bundleAway s gid sid target) (bundleAway s gid sid join)
        (nextPc (pcOf s gid sid)))) := by
  obtain ⟨w, hw, hx⟩ := scalar_issues h
  have ht : bdTraps (groupOf (delivered s gid (scalarBundle (.bd inv mask target join))) gid) sid (pcOf s gid sid) inv mask target join = [] :=
    (scalarPlan_of_issues h).1
  simp only [bdTraps, List.append_eq_nil_iff] at ht
  obtain ⟨⟨h1, h2⟩, -⟩ := ht
  refine ⟨w, hw, (exec_toBundle _ _ _ rfl).trans (hx.trans ?_)⟩
  rw [bundleEnd_plain _ _ _ rfl rfl]
  simp only [scalarRun, condLanes_seen, activeMask_seen, branchTo_away h1, branchTo_away h2]

/-- Settles O3: `bdApply` by its cases, the condition's lanes none, all, or some, and a split id free or not. -/
theorem divergentBranch : Obligations.DivergentBranch := by
  unfold Obligations.DivergentBranch
  intro inv mask target join s gid sid h
  obtain ⟨w, hw, hx⟩ := bd_issues h
  refine ⟨w, hw, fun ht => ?none, fun ht hn => ?all, fun ht hn i hi => ?free, fun ht hn hi => ?stack⟩
  case none => rw [hx, bdApply, if_pos ht]; rfl
  case all => rw [hx, bdApply, if_neg ht, if_pos hn]; rfl
  case free => rw [hx, bdApply, if_neg ht, if_neg hn, hi]
  case stack => rw [hx, bdApply, if_neg ht, if_neg hn, hi]

end Sys2Proof.Proofs

namespace Sys2Proof.Proofs
open Sys2Proof.Machine Sys2Proof.Safety

/-! ### Waits as they begin (R117) -/

theorem issueOf_place {s w : State} {gid : Nat} {b : Bundle} (h : IssueOf s gid b w) : (groupOf w gid).place = (groupOf s gid).place := by
  rw [h.2.1, seen_delivered]; unfold seen; rw [deliverFor_frame]

@[simp] theorem groupOf_goesOn_place (w : State) (gid sid : Nat) : (groupOf (goesOn w gid sid) gid).place = (groupOf w gid).place := by
  simp [goesOn, setPc, setSplit]

theorem goesOn_issueOf {s w : State} {gid : Nat} {b : Bundle} (h : IssueOf s gid b w) (sid : Nat) :
    setPc w gid sid (nextPc (pcOf s gid sid)) = goesOn w gid sid := by
  rw [goesOn, issueOf_pc h]

@[simp] theorem groupOf_waiting (w : State) (gid sid : Nat) (x : Wait) :
    groupOf (waiting w gid sid x) gid = { groupOf w gid with wait := some x, waitSplit := sid, waitSince := w.gtime } := groupOf_setGroup _ _ _

/-- A wait of a resident context that is tried as it begins: it takes its effect where its condition holds, and lasts where it does not. -/
theorem tryWait_waiting {w : State} {gid sid c k : Nat} (x : Wait) (hp : (groupOf w gid).place = .resident c k) :
    tryWait (waiting w gid sid x) gid (fun _ => true) =
      if waitMet (waiting w gid sid x) gid x = true then waitEffect (waited w gid sid) gid x else waiting w gid sid x := by
  simp [tryWait, hp, waitDone, waiting, waited]

/-! ### Register counts (R17, R135) -/

theorem tget_filter_lt {α : Type} (t : Table α) (c i : Nat) :
    tget (t.filter fun e => decide (e.1 < c)) i = if i < c then tget t i else none := by
  induction t with
  | nil => simp [tget]
  | cons e r ih =>
    obtain ⟨j, a⟩ := e
    by_cases hj : j < c
    · by_cases hi : j = i
      · subst hi; simp [tget, hj]
      · simp [tget, hj, hi, ih]
    · have hn : i < c → j ≠ i := by omega
      by_cases hi : i < c <;> simp [tget, hj, hi, ih, hn]

theorem countBad_give {c t : Nat} : countBad c t false = false ↔ 0 < t ∧ t % 8 = 0 ∧ t + 8 ≤ c := by
  simp only [countBad, Bool.or_eq_false_iff, decide_eq_false_iff_not, Bool.false_eq_true, if_false]; omega

theorem countBad_claim {c t : Nat} : countBad c t true = false ↔ 0 < t ∧ t % 8 = 0 ∧ c + t ≤ 320 := by
  simp only [countBad, Bool.or_eq_false_iff, decide_eq_false_iff_not, if_true]; omega

theorem trapIf_eq_nil {b : Bool} {code info slot : Nat} : trapIf b code info slot = [] ↔ b = false := by
  cases b <;> simp [trapIf, slotTrap]

theorem waitMet_regclaim {w : State} {gid c k n order : Nat} (hp : (groupOf w gid).place = .resident c k) :
    waitMet w gid (.regclaim n order) = (decide (n ≤ poolFree w c) && !claimBefore w c order) := by
  simp [waitMet, clusterOfGroup, hp]

theorem regcnt_seen (s : State) (gid : Nat) (b : Bundle) : (seen s gid b).regcnt = (groupOf s gid).regcnt := by
  unfold seen; rw [deliverFor_frame]

/-- A REGGIVE that issues: its count is in range, and the highest registers leave. -/
theorem reggive_issues {sb : BitVec 6} {imm : BitVec 22} {s : State} {gid sid : Nat} (h : Issues s gid sid (scalarBundle (.reggive sb imm))) :
    countBad (groupOf s gid).regcnt (operandT s gid sid sb imm).toNat false = false ∧
    ∃ w, IssueOf s gid (scalarBundle (.reggive sb imm)) w ∧ exec (.reggive sb imm) s =
      .next (goesOn (setGroup w gid (reggiveApply (groupOf w gid) (operandT s gid sid sb imm).toNat)) gid sid) := by
  obtain ⟨w, hw, hx⟩ := scalar_issues h
  have ht := (scalarPlan_of_issues h).1
  simp only [scalarPlan, seen_delivered, scalarT_seen, regcnt_seen, trapIf_eq_nil] at ht
  refine ⟨ht, w, hw, (exec_toBundle _ _ _ rfl).trans (hx.trans ?_)⟩
  have hp : pcOf (setGroup w gid (reggiveApply (groupOf w gid) (operandT s gid sid sb imm).toNat)) gid sid = pcOf s gid sid := by
    rw [← issueOf_pc hw]; simp [pcOf, reggiveApply, splitOf]
  rw [bundleEnd_plain _ _ _ rfl rfl, goesOn, hp]
  simp only [scalarRun, goOn, scalarT_seen]

/-- A REGCLAIM that issues: its count is in range, and it waits as the youngest claim of its cluster. -/
theorem regclaim_issues {sb : BitVec 6} {imm : BitVec 22} {s : State} {gid sid : Nat} (h : Issues s gid sid (scalarBundle (.regclaim sb imm))) :
    countBad (groupOf s gid).regcnt (operandT s gid sid sb imm).toNat true = false ∧
    ∃ w, IssueOf s gid (scalarBundle (.regclaim sb imm)) w ∧ exec (.regclaim sb imm) s =
      .next (tryWait (waiting { goesOn w gid sid with nextId := w.nextId + 1 } gid sid (.regclaim (operandT s gid sid sb imm).toNat w.nextId))
        gid fun _ => true) := by
  obtain ⟨w, hw, hx⟩ := scalar_issues h
  have ht := (scalarPlan_of_issues h).1
  simp only [scalarPlan, seen_delivered, scalarT_seen, regcnt_seen, trapIf_eq_nil] at ht
  refine ⟨ht, w, hw, (exec_toBundle _ _ _ rfl).trans (hx.trans ?_)⟩
  rw [bundleEnd_plain _ _ _ rfl rfl, ← goesOn_issueOf hw]
  simp only [scalarRun, scalarT_seen]
  rfl

/-- Settles O17: the highest registers are cut off by number; a claim is served as it begins or waits, by `waitMet`. -/
theorem registerCounts : Obligations.RegisterCounts := by
  unfold Obligations.RegisterCounts
  intro sb imm s gid sid
  refine ⟨fun h => ?_, fun c k hp h => ?_⟩
  · obtain ⟨ht, w, hw, hx⟩ := reggive_issues h
    obtain ⟨h0, h8, hc⟩ := countBad_give.1 ht
    refine ⟨h0, h8, hc, w, hw, _, _, fun i hi => ⟨?_, ?_⟩, fun i hi => ⟨?_, ?_⟩, hx⟩
    · rw [tget_filter_lt, if_pos hi]
    · rw [tget_filter_lt, if_pos hi]
    · rw [tget_filter_lt, if_neg (by omega)]
    · rw [tget_filter_lt, if_neg (by omega)]
  · obtain ⟨ht, w, hw, hx⟩ := regclaim_issues h
    obtain ⟨h0, h8, hc⟩ := countBad_claim.1 ht
    have hr : (groupOf { goesOn w gid sid with nextId := w.nextId + 1 } gid).place = .resident c k :=
      (groupOf_goesOn_place w gid sid).trans ((issueOf_place hw).trans hp)
    rw [tryWait_waiting _ hr, waitMet_regclaim (c := c) (k := k) (by rw [groupOf_waiting]; exact hr)] at hx
    refine ⟨h0, h8, hc, w, hw, fun hn => ?_, fun h1 h2 => ?_⟩
    · rw [hx, if_neg]
      intro hb
      simp only [Bool.and_eq_true, decide_eq_true_eq, Bool.not_eq_true'] at hb
      rcases hn with hn | hn
      · exact Nat.not_le.2 hn hb.1
      · exact absurd (hb.2.symm.trans hn) (by decide)
    · rw [hx, if_pos (by rw [h2, decide_eq_true h1]; rfl)]
      rfl

end Sys2Proof.Proofs

namespace Sys2Proof.Proofs
open Sys2Proof.Machine Sys2Proof.Safety

/-! ### Domains (R19, R130) -/

/-- A group wakes where it waits in a phase of a DSYNC. -/
def dsyncWake (level phase : Nat) (s : State) (k : Nat) : State :=
  if (groupOf s k).wait = some (.dsync level phase) then setGroup s k { groupOf s k with wait := none } else s

theorem dsyncAll_ready {s : State} {gid level phase : Nat} (h : domainReady s gid level phase = true) :
    dsyncAll s gid level phase =
      ((domainMembers s (groupTeam s gid).task level ((groupTeam s gid).dom.getD (level - 3) 0)).map Prod.fst).foldl (dsyncWake level phase) s := by
  rw [dsyncAll, if_pos h, List.foldl_map]
  congr 1
  funext u e
  unfold dsyncWake
  split
  · rename_i l p hl
    simp [hl]
  · rename_i hn
    rw [if_neg (hn _ _)]

theorem dsyncAll_waits {s : State} {gid level phase : Nat} (h : domainReady s gid level phase = false) : dsyncAll s gid level phase = s := by
  simp [dsyncAll, h]

/-- What waking some groups of a DSYNC changes: the waits of those that waited in its phase. -/
theorem foldl_dsyncWake (level phase : Nat) (ks : List Nat) (s : State) :
    ks.foldl (dsyncWake level phase) s = { s with groups := (ks.foldl (dsyncWake level phase) s).groups } ∧
      ∀ k, groupOf (ks.foldl (dsyncWake level phase) s) k =
        if (groupOf s k).wait = some (.dsync level phase) ∧ k ∈ ks then { groupOf s k with wait := none } else groupOf s k := by
  induction ks generalizing s with
  | nil => simp
  | cons j r ih =>
    obtain ⟨h1, h2⟩ := ih (dsyncWake level phase s j)
    rw [List.foldl_cons]
    by_cases hj : (groupOf s j).wait = some (.dsync level phase)
    · have he : dsyncWake level phase s j = setGroup s j { groupOf s j with wait := none } := if_pos hj
      refine ⟨h1.trans (by rw [he]; rfl), fun k => (h2 k).trans ?_⟩
      rw [he]
      by_cases hk : k = j
      · subst hk; simp [hj]
      · simp [groupOf_setGroup_ne _ hk, hk]
    · have he : dsyncWake level phase s j = s := if_neg hj
      rw [he] at h1 h2 ⊢
      refine ⟨h1, fun k => (h2 k).trans ?_⟩
      by_cases hk : k = j
      · subst hk; simp [hj]
      · simp [hk]

theorem issueOf_teams {s w : State} {gid : Nat} {b : Bundle} (h : IssueOf s gid b w) : w.teams = s.teams := by
  rw [h.1.1]; rfl

theorem issueOf_teamId {s w : State} {gid : Nat} {b : Bundle} (h : IssueOf s gid b w) : teamId w gid = teamId s gid := by
  unfold teamId; rw [h.2.1, seen_delivered]; unfold seen; rw [deliverFor_frame]

theorem teamOf_issueOf {s w : State} {gid : Nat} {b : Bundle} (h : IssueOf s gid b w) (k : Nat) : teamOf w k = teamOf s k := by
  unfold teamOf; rw [issueOf_teams h]

/-- A DSYNC that issues: its domain is there, and it is recorded for its half and waits. -/
theorem dsync_issues {scope : BitVec 3} {s : State} {gid sid : Nat} (h : Issues s gid sid (scalarBundle (.dsync scope))) :
    (teamOf s (teamId s gid)).dom.getD (scope.toNat - 2) 0 ≠ 0 ∧
    ∃ w, IssueOf s gid (scalarBundle (.dsync scope)) w ∧
      exec (.dsync scope) s = .next (dsyncApply (goesOn w gid sid) gid sid (scope.toNat + 1)) := by
  obtain ⟨w, hw, hx⟩ := scalar_issues h
  have ht := (scalarPlan_of_issues h).1
  have hg : (groupOf (delivered s gid (scalarBundle (.dsync scope))) gid).team = teamId s gid := by
    rw [seen_delivered]; unfold seen; rw [deliverFor_frame]; rfl
  simp only [scalarPlan, hg, trapIf_eq_nil, decide_eq_false_iff_not] at ht
  refine ⟨ht, w, hw, (exec_toBundle _ _ _ rfl).trans (hx.trans ?_)⟩
  rw [bundleEnd_plain _ _ _ rfl rfl, ← goesOn_issueOf hw]
  rfl

/-- Settles O24: the DSYNC is counted and its context waits; `dsyncAll` then wakes the members of the phase once the domain is ready. -/
theorem domainSynchronisation : Obligations.DomainSynchronisation := by
  unfold Obligations.DomainSynchronisation
  intro scope s gid sid h
  obtain ⟨ht, w, hw, hx⟩ := dsync_issues h
  refine ⟨w, hw, ?_⟩
  intro level x n y t
  have hd : t = teamOf s (teamId s gid) := by rw [← issueOf_teamId hw, ← teamOf_issueOf hw]
  have hl : level - 3 = scope.toNat - 2 := by omega
  have hy : exec (.dsync scope) s = .next (dsyncAll y gid level n) := by
    have hh : halfOf (groupOf (goesOn w gid sid) gid) sid = half s gid sid := by
      rw [← issueOf_half hw]; simp [goesOn, setPc, setSplit, half, halfOf]
    have hn : dsyncCount (groupOf (goesOn w gid sid) gid) (scope.toNat + 1) (half s gid sid) + 1 = n := by
      simp [goesOn, setPc, setSplit, dsyncCount, n, level]
    rw [hx, dsyncApply, hh, hn]
    rfl
  have hyt : groupTeam y gid = t := by
    simp [groupTeam, y, waiting, x, goesOn, setPc, setSplit, t, teamId, groupOf]
  refine ⟨by rw [hd, hl]; exact ht, fun hr => by rw [hy, dsyncAll_waits hr], fun hr => ?_⟩
  rw [dsyncAll_ready hr, hyt] at hy
  obtain ⟨h1, h2⟩ := foldl_dsyncWake level n _ y
  exact ⟨_, hy, h1, h2⟩

end Sys2Proof.Proofs

namespace Sys2Proof.Proofs
open Sys2Proof.Machine Sys2Proof.Safety

/-! ### Lanes -/

theorem laneGet_laneFill (f : Nat → Word) {l : Nat} (hl : l < 32) : laneGet (laneFill f) l = f l := by
  simp [laneGet, laneFill, lanes, List.getD_eq_getElem?_getD, hl]

theorem laneGet_laneMerge (old new : Lanes) (m : Mask) {l : Nat} (hl : l < 32) :
    laneGet (laneMerge old new m) l = if m.getLsbD l then laneGet new l else laneGet old l := laneGet_laneFill _ hl

/-! ### What a bundle without triggers leaves (R86) -/

theorem countCluster_setGroup (s : State) (k : Nat) (x : Group) (gid : Nat) (g : Group) (b : Bundle) :
    countCluster (setGroup s k x) gid g b = setGroup (countCluster s gid g b) k x := by
  unfold countCluster
  split <;> rfl

/-- The counts of a bundle that fires no trigger, without the yield of its Y bit (R49). -/
def countsOf (d : State) (gid sid : Nat) (b : Bundle) (g : Group) : State :=
  countCluster (setGroup d gid (countIssue { g with mPrev := [] } sid b.la.toNat [] (g.opId + 1) none)) gid (groupOf d gid) b

theorem countsOf_counts (d : State) (gid sid : Nat) (b : Bundle) (g : Group) : Counts (setGroup d gid g) (countsOf d gid sid b g) gid := by
  refine ⟨?_, ?_⟩
  · have h := countCluster_onlyGroup (setGroup d gid g) gid (countIssue { g with mPrev := [] } sid b.la.toNat [] (g.opId + 1) none)
      (groupOf d gid) b
    rwa [setGroup_setGroup] at h
  · rw [countsOf, countCluster_groupOf, groupOf_setGroup, groupOf_setGroup]
    exact counted_countIssue _ _ _ _ _

theorem clusterOfGroup_place {g h : Group} (e : g.place = h.place) : clusterOfGroup g = clusterOfGroup h := by simp [clusterOfGroup, e]

theorem groupOf_countsOf (d : State) (gid sid : Nat) (b : Bundle) (g : Group) :
    groupOf (countsOf d gid sid b g) gid = countIssue { g with mPrev := [] } sid b.la.toNat [] (g.opId + 1) none := by
  rw [countsOf, countCluster_groupOf, groupOf_setGroup]

/-- The Y bit of the issued bundle counts from the cycles that its cluster has then (R49). -/
theorem yields_countsOf {d : State} {gid sid : Nat} {b : Bundle} {g : Group} (hp : g.place = (groupOf d gid).place) :
    yields (countsOf d gid sid b g) gid b = yieldOf (setGroup d gid { g with mPrev := [] }) gid (groupOf d gid) b := by
  have hc : clusterOfGroup (groupOf (countsOf d gid sid b g) gid) = clusterOfGroup (groupOf d gid) := by
    refine clusterOfGroup_place ?_
    rw [groupOf_countsOf, countIssue_frame]
    exact hp
  unfold yields yieldOf
  rw [hc]
  cases hk : clusterOfGroup (groupOf d gid) with
  | none => rfl
  | some c =>
    have hy : (clusterOf (countsOf d gid sid b g) c).cycles =
        (clusterOf d c).cycles + addedCycles d gid (groupOf d gid) b (coreOf d (coreOfCluster c)).weir.level := by
      simp only [countsOf, countCluster, hk, clusterOf_setCluster]
      rfl
    simp only [Option.map_some, hy]
    rfl

/-- A bundle that fires no trigger, after its moves and counts: the counts, with the yield of its Y bit. -/
theorem issuedMoves_countsOf {d : State} {gid sid : Nat} {b : Bundle} {g : Group} (hp : g.place = (groupOf d gid).place)
    (ho : g.opId = (groupOf d gid).opId) :
    issuedMoves d gid sid b (groupOf d gid) { g with mPrev := [] } [] =
      setGroup (countsOf d gid sid b g) gid { groupOf (countsOf d gid sid b g) gid with
        yieldUntil := (yields (countsOf d gid sid b g) gid b).orElse fun _ => g.yieldUntil } := by
  rw [yields_countsOf hp, groupOf_countsOf, countsOf, ← countCluster_setGroup, setGroup_setGroup, ho]
  simp only [issuedMoves, performFirst_nil, fireAll, groupOf_setGroup, setGroup_setGroup, List.map_nil, coveredIds, List.length_nil, Nat.add_zero]
  rfl

/-! ### The death of lanes (R26, R321) -/

/-- Lanes that die in user mode, others of their group still running, give the after-trap 0x0A with their mask. -/
theorem lanesDie_traps {s : State} {gid sid slot next : Nat} {killed : Mask} (hk : killed ≠ 0) (hp : (groupOf s gid).place ≠ .ended)
    (hs : (groupOf s gid).super = false) (hw : (groupOf s gid).wait = none) (hi : (groupOf s gid).inject = none)
    (ht : restartable (teamOf s (groupOf s gid).team) = false)
    (hr : ~~~((groupOf s gid).dead ||| (groupOf s gid).exited) &&& ~~~killed ≠ 0) :
    ∃ x, lanesDie s gid sid killed slot next = setGroup s gid x ∧
      Entered { groupOf s gid with dead := (groupOf s gid).dead ||| killed } x sid
        { code := 0x0A, info := killed.setWidth 64, slot := slot, lane := some (lowestLane killed), after := true } next [] := by
  have hl : runningLanes { groupOf s gid with dead := (groupOf s gid).dead ||| killed } ≠ 0 := by
    intro h
    apply hr
    rw [← h]
    unfold runningLanes
    ext i hi
    cases h1 : (groupOf s gid).dead[i] <;> cases h2 : (groupOf s gid).exited[i] <;> cases h3 : killed[i] <;> simp [h1, h2, h3]
  have h1 : ¬(killed = 0 ∨ (groupOf s gid).place = .ended) := by tauto
  have h2 : ¬(groupOf s gid).super = true := by simp [hs]
  have h3 : ¬(restartable (teamOf s (groupOf s gid).team) && !engineBusy (teamOf s (groupOf s gid).team)) = true := by simp [ht]
  have h4 : ¬(groupOf s gid).wait.isSome = true := by simp [hw]
  have he : ({ groupOf s gid with dead := (groupOf s gid).dead ||| killed } : Group) =
      { groupOf s gid with dead := (groupOf s gid).dead ||| killed, inject := none } := by rw [← hi]
  refine ⟨trapGroup _ sid _ next [], ?_, trapGroup_entered _ _ _ _ _⟩
  unfold lanesDie
  dsimp only
  rw [if_neg h1, if_neg h2, if_neg h3, if_neg hl, if_neg h4, takeTrap, groupOf_setGroup, setGroup_setGroup]
  dsimp only
  rw [if_neg h2, he]
  rfl

/-- The end of a bundle whose counts leave `w` and whose poisoned operands kill lanes: its split goes on, and the after-trap is entered. -/
theorem bundleEnd_dies {w : State} {gid sid slot : Nat} {killed : Mask} {y : Option Nat} (hk : killed ≠ 0)
    (hp : (groupOf w gid).place ≠ .ended) (hs : (groupOf w gid).super = false) (hw : (groupOf w gid).wait = none)
    (hi : (groupOf w gid).inject = none) (ht : restartable (teamOf w (groupOf w gid).team) = false)
    (hr : ~~~((groupOf w gid).dead ||| (groupOf w gid).exited) &&& ~~~killed ≠ 0) :
    ∃ x, bundleEnd gid sid (goOn (setGroup w gid { groupOf w gid with yieldUntil := y }) gid sid (pcOf w gid sid)) killed slot = setGroup w gid x ∧
      Entered { groupOf (goesOn w gid sid) gid with yieldUntil := y, dead := (groupOf w gid).dead ||| killed } x sid
        { code := 0x0A, info := killed.setWidth 64, slot := slot, lane := some (lowestLane killed), after := true }
        (nextPc (pcOf w gid sid)) [] := by
  have hg : groupOf (setPc (setGroup w gid { groupOf w gid with yieldUntil := y }) gid sid (nextPc (pcOf w gid sid))) gid =
      { groupOf (goesOn w gid sid) gid with yieldUntil := y } := by simp [setPc, goesOn, setSplit, splitOf]
  have hq : groupOf (goesOn w gid sid) gid =
      setSplit (groupOf w gid) sid { splitOf (groupOf w gid) sid with pc := nextPc (pcOf w gid sid) } := groupOf_setGroup _ _ _
  obtain ⟨x, hx, he⟩ := lanesDie_traps (s := setPc (setGroup w gid { groupOf w gid with yieldUntil := y }) gid sid (nextPc (pcOf w gid sid)))
    (gid := gid) (sid := sid) (slot := slot) (next := nextPc (pcOf w gid sid)) hk (by rw [hg, hq]; exact hp) (by rw [hg, hq]; exact hs)
    (by rw [hg, hq]; exact hw) (by rw [hg, hq]; exact hi) (by rw [hg, hq]; exact ht) (by rw [hg, hq]; exact hr)
  refine ⟨x, ?_, ?_⟩
  · have hpc : (splitOf (groupOf (setPc (setGroup w gid { groupOf w gid with yieldUntil := y }) gid sid (nextPc (pcOf w gid sid))) gid) sid).pc =
        nextPc (pcOf w gid sid) := by
      rw [hg, hq]; simp [setSplit, splitOf]
    unfold bundleEnd goOn
    dsimp only
    rw [hpc, if_neg hk]
    exact hx.trans (by simp [setPc])
  · rw [hg] at he
    rw [hq] at he ⊢
    exact he

/-! ### Bundles of register moves (R79, R86) -/

/-- The poison met so far, and the first slot that met any, after one more move (R321). -/
def meetPoison (a : Mask × Nat) (m : Moved) : Mask × Nat := (a.1 ||| m.poison, if a.1 = 0 ∧ m.poison ≠ 0 then m.slot else a.2)

theorem foldl_meetPoison (ms : List Moved) (a : Mask × Nat) :
    (∀ l, (ms.foldl meetPoison a).1.getLsbD l = (a.1.getLsbD l || ms.any fun m => m.poison.getLsbD l)) ∧
      ((ms.foldl meetPoison a).1 ≠ 0 → if a.1 = 0 then ∃ m ∈ ms, m.slot = (ms.foldl meetPoison a).2 ∧ m.poison ≠ 0
        else (ms.foldl meetPoison a).2 = a.2) := by
  induction ms generalizing a with
  | nil => simp
  | cons m r ih =>
    obtain ⟨h1, h2⟩ := ih (meetPoison a m)
    refine ⟨fun l => by rw [List.foldl_cons, h1]; simp [meetPoison, Bool.or_assoc], fun hr => ?_⟩
    have h3 := h2 hr
    have hz : (meetPoison a m).1 = 0 ↔ a.1 = 0 ∧ m.poison = 0 := BitVec.or_eq_zero_iff
    rw [List.foldl_cons]
    by_cases ha : a.1 = 0
    · rw [if_pos ha]
      by_cases hm : m.poison = 0
      · rw [if_pos (hz.2 ⟨ha, hm⟩)] at h3
        obtain ⟨k, hk, h4⟩ := h3
        exact ⟨k, by simp [hk], h4⟩
      · rw [if_neg fun e => hm (hz.1 e).2] at h3
        exact ⟨m, by simp, by rw [h3, meetPoison, if_pos ⟨ha, hm⟩], hm⟩
    · rw [if_neg fun e => ha (hz.1 e).1] at h3
      rw [if_neg ha, h3, meetPoison, if_neg fun e => ha e.1]

/-- The lanes that a bundle of register moves kills, and the slot of a move that met poison. -/
theorem killedBy_vmoves (g : Group) (h : Nat) (ms : List Moved) (hv : ∀ m ∈ ms, ∃ i, m.mv.dst = .v i) :
    (∀ l, (killedBy g h ms).1.getLsbD l = ms.any fun m => m.poison.getLsbD l) ∧
      ((killedBy g h ms).1 ≠ 0 → ∃ m ∈ ms, m.slot = (killedBy g h ms).2 ∧ m.poison ≠ 0) := by
  have he : killedBy g h ms = ms.foldl meetPoison (0, 0) := by
    unfold killedBy
    refine List.foldl_ext _ _ _ fun a m hm => ?_
    obtain ⟨i, hi⟩ := hv m hm
    simp only [hi, meetPoison]
  obtain ⟨h1, h2⟩ := foldl_meetPoison ms (0, 0)
  rw [he]
  exact ⟨fun l => by rw [h1]; simp, fun hn => by simpa using h2 hn⟩

theorem masksWritten_vmoves (g : Group) (ms : List Moved) (hv : ∀ m ∈ ms, ∃ i, m.mv.dst = .v i) : masksWritten g ms = [] := by
  have he : masksWritten g ms = ms.foldl (fun t _ => t) [] := by
    unfold masksWritten
    refine List.foldl_ext _ _ _ fun a m hm => ?_
    obtain ⟨i, hi⟩ := hv m hm
    simp only [hi]
  rw [he, List.foldl_const]
  exact Function.iterate_id _ ▸ rfl

theorem moveApply_v {h : Nat} {g : Group} {m : Moved} {i : BitVec 10} (hi : m.mv.dst = .v i) :
    moveApply h g m = { g with
      v := tset g.v i.toNat (laneMerge (vget g i.toNat) m.val (m.lanes &&& ~~~m.poison))
      vPoison := tset g.vPoison i.toNat (tgetD g.vPoison i.toNat 0 &&& ~~~(m.lanes &&& ~~~m.poison)) } := by
  unfold moveApply
  rw [hi]
  rfl

/-- Register moves change vector registers and their poison alone, and none in a lane where every move to it is poisoned. -/
theorem foldl_moveApply_v (h : Nat) (ms : List Moved) (g : Group) (hv : ∀ m ∈ ms, ∃ i, m.mv.dst = .v i) :
    let r := ms.foldl (moveApply h) g
    r = { g with v := r.v, vPoison := r.vPoison } ∧
      ∀ (i : BitVec 10) l, l < 32 → (∀ m ∈ ms, m.mv.dst = .v i → m.lanes.getLsbD l = true → m.poison.getLsbD l = true) →
        laneGet (vget r i.toNat) l = laneGet (vget g i.toNat) l := by
  induction ms generalizing g with
  | nil => exact ⟨rfl, fun _ _ _ _ => rfl⟩
  | cons m r ih =>
    obtain ⟨j, hj⟩ := hv m (by simp)
    obtain ⟨h1, h2⟩ := ih (moveApply h g m) fun k hk => hv k (by simp [hk])
    refine ⟨by rw [List.foldl_cons, h1, moveApply_v hj], fun i l hl hb => ?_⟩
    rw [List.foldl_cons, h2 i l hl fun k hk => hb k (by simp [hk])]
    rw [vget, moveApply_v hj]
    dsimp only
    by_cases hi : i = j
    · subst hi
      have hz : (m.lanes &&& ~~~m.poison).getLsbD l = false := by
        rw [BitVec.getLsbD_and]
        cases hml : m.lanes.getLsbD l with
        | false => rfl
        | true => simp [hb m (by simp) hj hml]
      rw [tgetD_tset_same, laneGet_laneMerge _ _ _ hl, hz, if_neg (by decide)]
    · rw [tgetD_tset_ne _ fun e => hi (BitVec.eq_of_toNat_eq e)]
      rfl

theorem readMoves_dst {s : State} {gid sid : Nat} {b : Bundle} (h : ∀ p ∈ bundleMoves b, ∃ i, p.2.dst = .v i) :
    ∀ m ∈ readMoves s gid sid b, ∃ i, m.mv.dst = .v i := by
  intro m hm
  obtain ⟨p, hp, rfl⟩ := List.mem_map.1 hm
  exact h p hp

theorem firesOf_vmoves {g : Group} {h : Nat} {ms : List Moved} (hv : ∀ m ∈ ms, ∃ i, m.mv.dst = .v i) (inj : Option Inject) :
    firesOf g h ms inj = [] := by
  have he : ∀ f : Moved → Option Fire, (∀ m ∈ ms, f m = none) → ms.filterMap f = [] := fun f hf => List.filterMap_eq_nil_iff.2 hf
  unfold firesOf
  dsimp only
  rw [he _ fun m hm => by obtain ⟨i, hi⟩ := hv m hm; simp only [hi]]
  rfl

/-- The group that a bundle of register moves leaves, but for the masks that guards see. -/
def vmoved (s : State) (gid sid : Nat) (b : Bundle) : Group :=
  let r := bundleMoved (delivered s gid b) gid sid b
  { seen s gid b with v := r.v, vPoison := r.vPoison }

theorem bundleMoved_vmoves {s : State} {gid sid : Nat} {b : Bundle} (hv : ∀ p ∈ bundleMoves b, ∃ i, p.2.dst = .v i) :
    bundleMoved (delivered s gid b) gid sid b = { vmoved s gid sid b with mPrev := [] } := by
  have hms := readMoves_dst (s := delivered s gid b) (gid := gid) (sid := sid) hv
  have h := (foldl_moveApply_v (halfOf (seen s gid b) sid) _ { seen s gid b with mPrev := [] } hms).1
  have hb : bundleMoved (delivered s gid b) gid sid b =
      (readMoves (delivered s gid b) gid sid b).foldl (moveApply (halfOf (seen s gid b) sid)) { seen s gid b with mPrev := [] } := by
    rw [bundleMoved, movesApply, masksWritten_vmoves _ _ hms, seen_delivered]
  rw [vmoved, hb]
  exact h

/-- A register keeps its value in a lane where every move to it reads poison (R152). -/
theorem vmoved_keeps {s : State} {gid sid : Nat} {b : Bundle} (hv : ∀ p ∈ bundleMoves b, ∃ i, p.2.dst = .v i) {i : BitVec 10} {l : Nat}
    (hl : l < 32) (hb : ∀ m ∈ readMoves (delivered s gid b) gid sid b, m.mv.dst = .v i → m.lanes.getLsbD l = true → m.poison.getLsbD l = true) :
    laneGet (vget (vmoved s gid sid b) i.toNat) l = laneGet (vget (seen s gid b) i.toNat) l := by
  have hms := readMoves_dst (s := delivered s gid b) (gid := gid) (sid := sid) hv
  have h := (foldl_moveApply_v (halfOf (seen s gid b) sid) _ { seen s gid b with mPrev := [] } hms).2 i l hl hb
  have hw : vget (vmoved s gid sid b) i.toNat = vget (bundleMoved (delivered s gid b) gid sid b) i.toNat := rfl
  rw [hw, bundleMoved, movesApply, masksWritten_vmoves _ _ hms, seen_delivered]
  exact h

/-- A bundle without triggers that passes its checks and whose scalar slot has no effect issues: its moves, its counts, and its end. -/
theorem issue_vmoves {s : State} {gid sid : Nat} {b : Bundle} (h : Passes s gid sid b) (hv : ∀ p ∈ bundleMoves b, ∃ i, p.2.dst = .v i)
    (hn : scalarOpPoisoned (seen s gid b) sid b = true ∨ b.scalar = none) :
    let w := countsOf (delivered s gid b) gid sid b (vmoved s gid sid b)
    let k := bundleKill (seen s gid b) (bundleMoved (delivered s gid b) gid sid b) sid b (readMoves (delivered s gid b) gid sid b)
    issue b s = .next (bundleEnd gid sid (goOn (setGroup w gid { groupOf w gid with
      yieldUntil := (yields w gid b).orElse fun _ => (seen s gid b).yieldUntil }) gid sid (pcOf s gid sid)) k.1 k.2) := by
  obtain ⟨⟨⟨hc, -⟩, hl, hs⟩, ht, hm⟩ := h
  intro w k
  have hms := readMoves_dst (s := delivered s gid b) (gid := gid) (sid := sid) hv
  have hf : bundleFires (delivered s gid b) gid sid b = [] := by
    unfold bundleFires
    simp only [firesOf_vmoves hms, List.map_nil]
  have hw := issuedMoves_countsOf (d := delivered s gid b) (gid := gid) (sid := sid) (b := b) (g := vmoved s gid sid b)
    (by rw [seen_delivered]; rfl) (by rw [seen_delivered]; rfl)
  have hq : (splitOf (seen s gid b) sid).pc = pcOf s gid sid := by rw [splitOf_seen]; rfl
  have hsc (u : State) (id pc : Nat) (p : Plan) : scalarStep u gid sid (seen s gid b) id pc b p = goOn u gid sid pc := by
    rcases hn with hn | hn <;> simp [scalarStep, hn]
  rw [← bundleMoved_vmoves hv, seen_delivered] at hw
  rw [issue_cur _ _ _ _ hc, issueAt_runs _ _ _ _ hl hs ht hm, hf, seen_delivered, issueBundle, hw, hsc, hq]
  rfl

/-- The lanes in which a move as read carries poison: of its source where its guard holds, or of its guard. -/
theorem poison_readMoves {s : State} {gid sid : Nat} {b : Bundle} {m : Moved} (hm : m ∈ readMoves (delivered s gid b) gid sid b) :
    (m.slot, m.mv) ∈ bundleMoves b ∧ m.lanes = guardLanes (seen s gid b) sid m.mv.g ∧
      m.poison = (guardLanes (seen s gid b) sid m.mv.g &&& srcPoison (seen s gid b) (halfOf (seen s gid b) sid) m.mv.src) |||
        guardPoison (seen s gid b) sid m.mv.g := by
  obtain ⟨p, hp, rfl⟩ := List.mem_map.1 hm
  rw [seen_delivered]
  exact ⟨hp, rfl, rfl⟩

/-- The end of a bundle that poison kills lanes of, in the terms of the state in which it was presented. -/
theorem counts_lanesDie {s w : State} {gid sid slot : Nat} {b : Bundle} {killed : Mask} {y : Option Nat} {h : Group}
    (hw : Counts (setGroup (delivered s gid b) gid { seen s gid b with v := h.v, vPoison := h.vPoison }) w gid)
    (hk : killed ≠ 0) (hs : (seen s gid b).super = false) (he : (seen s gid b).place ≠ .ended) (hwt : (seen s gid b).wait = none)
    (ht : restartable (teamOf s (teamId s gid)) = false) (hr : ~~~((seen s gid b).dead ||| (seen s gid b).exited) &&& ~~~killed ≠ 0) :
    ∃ x, bundleEnd gid sid (goOn (setGroup w gid { groupOf w gid with yieldUntil := y }) gid sid (pcOf s gid sid)) killed slot = setGroup w gid x ∧
      Entered { groupOf (goesOn w gid sid) gid with yieldUntil := y, dead := (seen s gid b).dead ||| killed } x sid
        { code := 0x0A, info := killed.setWidth 64, slot := slot, lane := some (lowestLane killed), after := true }
        (nextPc (pcOf s gid sid)) [] := by
  obtain ⟨⟨hf, -⟩, hc, -, hsp⟩ := hw
  rw [groupOf_setGroup] at hc hsp
  have hpc : pcOf w gid sid = pcOf s gid sid := by
    unfold pcOf
    rw [hsp sid]
    exact (congrArg Split.pc (splitOf_seen s gid sid b) : _)
  have hi : (groupOf w gid).inject = none := by rw [hc]; dsimp only; rw [hs]; rfl
  have htm : teamOf w (groupOf w gid).team = teamOf s (teamId s gid) := by
    have h1 : (groupOf w gid).team = teamId s gid := by rw [hc]; dsimp only; unfold seen; rw [deliverFor_frame]; rfl
    have h2 : w.teams = s.teams := by rw [hf]; rfl
    rw [h1, teamOf, h2]
    rfl
  have hd : (groupOf w gid).dead = (seen s gid b).dead := by rw [hc]
  have hx : (groupOf w gid).exited = (seen s gid b).exited := by rw [hc]
  rw [← hpc, ← hd]
  exact bundleEnd_dies hk (by rw [hc]; exact he) (by rw [hc]; exact hs) (by rw [hc]; exact hwt) hi (by rw [htm]; exact ht) (by rw [hd, hx]; exact hr)

/-- A bundle of register moves without a poisoned scalar operand kills the lanes in which a move carries poison. -/
theorem bundleKill_vmoves {s : State} {gid sid : Nat} {b : Bundle} (hsound : Sound s gid sid b) (hv : ∀ p ∈ bundleMoves b, ∃ i, p.2.dst = .v i) :
    let ms := readMoves (delivered s gid b) gid sid b
    let k := bundleKill (seen s gid b) (bundleMoved (delivered s gid b) gid sid b) sid b ms
    (∀ l, k.1.getLsbD l = ms.any fun m => m.poison.getLsbD l) ∧ (k.1 ≠ 0 → ∃ m ∈ ms, m.slot = k.2 ∧ m.poison ≠ 0) := by
  have hk : scalarPoisoned (seen s gid b) sid b = false := hsound
  simp only [bundleKill, hk, Bool.false_eq_true, if_false]
  exact killedBy_vmoves _ _ _ (readMoves_dst hv)

theorem exists_bit_of_ne_zero {m : Mask} (h : m ≠ 0) : ∃ l, m.getLsbD l = true := by
  by_contra hn
  exact h (BitVec.eq_of_getLsbD_eq fun l _ => by simpa using fun e => hn ⟨l, e⟩)

theorem vmoved_counts (s : State) (gid sid : Nat) (b : Bundle) :
    Counts (setGroup (delivered s gid b) gid { seen s gid b with v := (vmoved s gid sid b).v, vPoison := (vmoved s gid sid b).vPoison })
      (countsOf (delivered s gid b) gid sid b (vmoved s gid sid b)) gid := countsOf_counts _ _ _ _ _

theorem vmoved_nil {s : State} {gid sid : Nat} {b : Bundle} (hb : bundleMoves b = []) : vmoved s gid sid b = seen s gid b := by
  have h := seen_delivered s gid b
  simp only [vmoved, bundleMoved, movesApply, readMoves, hb, List.map_nil, List.foldl_nil, h]

theorem halfMask_getLsbD {g : Group} {sid l : Nat} (hl : l < 32) (hh : g.lw = true → halfOf g sid < 2) :
    (halfMask g (halfOf g sid)).getLsbD l = (!g.lw || decide (l / 16 = halfOf g sid)) := by
  have h0 : ∀ l, l < 32 → (0xFFFFFFFF : Mask).getLsbD l = true := by decide
  have h1 : ∀ l, l < 32 → (0x0000FFFF : Mask).getLsbD l = decide (l / 16 = 0) := by decide
  have h2 : ∀ l, l < 32 → (0xFFFF0000 : Mask).getLsbD l = decide (l / 16 = 1) := by decide
  unfold halfMask
  cases hw : g.lw with
  | false => exact h0 l hl
  | true =>
    rw [if_pos rfl]
    have := hh hw
    rcases Nat.lt_or_ge (halfOf g sid) 1 with h | h
    · rw [if_pos (by omega), h1 l hl, show halfOf g sid = 0 by omega]; rfl
    · rw [if_neg (by omega), h2 l hl, show halfOf g sid = 1 by omega]; rfl

/-- Settles O41: a bundle of register moves, and one whose scalar operands are poisoned, both end in `bundleEnd` with the lanes they kill. -/
theorem poisonedMoves : Obligations.PoisonedMoves := by
  unfold Obligations.PoisonedMoves
  intro b killed s gid sid hp g Dies bad hk hs he hwt ht hr
  have bad_iff {m : Moved} (hm : m ∈ readMoves (delivered s gid b) gid sid b) (l : Nat) : m.poison.getLsbD l = bad m.mv l := by
    rw [(poison_readMoves hm).2.2]
    simp [bad, g]
  have hx (hv : ∀ p ∈ bundleMoves b, ∃ i, p.2.dst = .v i) (hn : scalarOpPoisoned (seen s gid b) sid b = true ∨ b.scalar = none)
      (hkb : (bundleKill (seen s gid b) (bundleMoved (delivered s gid b) gid sid b) sid b (readMoves (delivered s gid b) gid sid b)).1 = killed) :
      Dies (countsOf (delivered s gid b) gid sid b (vmoved s gid sid b))
        (bundleKill (seen s gid b) (bundleMoved (delivered s gid b) gid sid b) sid b (readMoves (delivered s gid b) gid sid b)).2 := by
    obtain ⟨x, hd, hent⟩ := counts_lanesDie (vmoved_counts s gid sid b) hk hs he hwt ht hr
    exact ⟨x, (exec_toBundle _ _ _ rfl).trans ((issue_vmoves hp hv hn).trans (by rw [hkb]; exact congrArg _ hd)), hent⟩
  refine ⟨fun hsound hn hv hkill => ?moves, fun op hop hb hpo hkill => ?scalar⟩
  case moves =>
    obtain ⟨hk1, hk2⟩ := bundleKill_vmoves hsound hv
    have hkb : (bundleKill (seen s gid b) (bundleMoved (delivered s gid b) gid sid b) sid b (readMoves (delivered s gid b) gid sid b)).1 =
        killed := by
      refine BitVec.eq_of_getLsbD_eq fun l _ => ?_
      rw [hk1, hkill, readMoves, List.any_map, seen_delivered]
      simp [bad, g, Function.comp_def]
    obtain ⟨m, hm, hslot, hpoi⟩ := hk2 (by rw [hkb]; exact hk)
    obtain ⟨l, hl⟩ := exists_bit_of_ne_zero hpoi
    refine ⟨countsOf (delivered s gid b) gid sid b (vmoved s gid sid b), vmoved s gid sid b,
      (bundleKill (seen s gid b) (bundleMoved (delivered s gid b) gid sid b) sid b (readMoves (delivered s gid b) gid sid b)).2, ?_, ?_,
      ⟨m.mv, ?_, l, (bad_iff hm l).symm.trans hl⟩, fun i l hl hi => ?_⟩
    · exact vmoved_counts s gid sid b
    · exact hx hv (.inr hn) hkb
    · rw [← hslot]; exact (poison_readMoves hm).1
    · refine vmoved_keeps hv hl fun k hk hd _ => ?_
      rw [bad_iff hk l]
      exact hi (k.slot, k.mv) (poison_readMoves hk).1 hd
  case scalar =>
    have hv : ∀ p ∈ bundleMoves b, ∃ i, p.2.dst = .v i := by rw [hb]; simp
    have ho : scalarOpPoisoned (seen s gid b) sid b = true := by
      rw [← halfOf_seen s gid sid b] at hpo
      simpa [scalarOpPoisoned, hop, g] using hpo
    have hsp : scalarPoisoned (seen s gid b) sid b = true := by simp [scalarPoisoned, ho]
    have hkb : bundleKill (seen s gid b) (bundleMoved (delivered s gid b) gid sid b) sid b (readMoves (delivered s gid b) gid sid b) =
        (scalarLanes (seen s gid b) sid, 6) := by
      simp [bundleKill, hsp, readMoves, hb, killedBy]
    have hkl : scalarLanes (seen s gid b) sid = killed := by
      obtain ⟨n, hn⟩ := exists_bit_of_ne_zero hk
      have hh : g.lw = true → halfOf g sid < 2 := by
        intro hw
        rw [hkill n] at hn
        simp only [hw, Bool.and_eq_true, decide_eq_true_eq, Bool.not_true, Bool.false_or] at hn
        rw [halfOf_seen, ← hn.2]
        omega
      refine BitVec.eq_of_getLsbD_eq fun l hl => ?_
      rw [hkill l, scalarLanes, BitVec.getLsbD_and, halfMask_getLsbD hl hh, halfOf_seen]
      simp [runningLanes, hl, g]
    have hd := hx hv (.inl ho) (by rw [hkb]; exact hkl)
    rw [hkb, vmoved_nil hb] at hd
    have hc := countsOf_counts (delivered s gid b) gid sid b (seen s gid b)
    rw [delivered, setGroup_setGroup] at hc
    exact ⟨_, hc, hd⟩

end Sys2Proof.Proofs

namespace Sys2Proof.Proofs
open Sys2Proof.Machine Sys2Proof.Safety

/-! ### Polder lines written back (R204, R205) -/

theorem memWrite_append (m : Mem) (a : Nat) (xs ys : List Byte) : memWrite m a (xs ++ ys) = memWrite (memWrite m a xs) (a + xs.length) ys := by
  induction xs generalizing m a with
  | nil => rfl
  | cons b r ih =>
    rw [List.cons_append, memWrite, memWrite, ih, List.length_cons]
    congr 1
    omega

theorem memRead_add (m : Mem) (a n k : Nat) : memRead m a (n + k) = memRead m a n ++ memRead m (a + n) k := by
  simp [memRead, List.range_add, Nat.add_assoc]

/-- Granules copied one after the other are a copy of the whole. -/
theorem foldl_memWrite_granules (sp m : Mem) (a b n : Nat) :
    (List.range n).foldl (fun m i => memWrite m (a + 32 * i) (memRead sp (b + 32 * i) 32)) m = memWrite m a (memRead sp b (32 * n)) := by
  induction n with
  | zero => rfl
  | succ n ih =>
    rw [List.range_succ, List.foldl_append, ih, Nat.mul_succ, memRead_add, memWrite_append, memRead_length, List.foldl_cons, List.foldl_nil]

theorem granulesOf_aligned {a : Nat} (ha : a % 32 = 0) : granulesOf a 32 = [a / 32] := by
  have h : (a + 32 - 1) / 32 - a / 32 + 1 = 1 := by omega
  rw [granulesOf, if_neg (by decide), h]
  rfl

theorem mem_poisonAfter_granule {ps : List Nat} {a k : Nat} {bad : Bool} (ha : a % 32 = 0) :
    k ∈ poisonAfter ps a 32 bad ↔ if k = a / 32 then bad = true else k ∈ ps := by
  cases bad with
  | true =>
    simp only [poisonAfter, if_true, poisonAdd, granulesOf_aligned ha, List.mem_append, List.mem_filter, List.mem_singleton]
    by_cases hk : k = a / 32
    · simp [hk, em]
    · simp [hk]
  | false =>
    have h : (a ≤ 32 * k ∧ 32 * k + 32 ≤ a + 32) ↔ k = a / 32 := by omega
    simp only [poisonAfter, Bool.false_eq_true, if_false, List.mem_filter, h]
    by_cases hk : k = a / 32 <;> simp [hk]

/-- The poison of some granules written one after the other (R369). -/
def granulesPoison (ps : List Nat) (a n : Nat) (bad : Nat → Bool) : List Nat :=
  (List.range n).foldl (fun ps i => poisonAfter ps (a + 32 * i) 32 (bad i)) ps

theorem mem_granulesPoison {ps : List Nat} {a : Nat} (n : Nat) {k : Nat} {bad : Nat → Bool} (ha : a % 32 = 0) :
    k ∈ granulesPoison ps a n bad ↔ if a / 32 ≤ k ∧ k < a / 32 + n then bad (k - a / 32) = true else k ∈ ps := by
  induction n with
  | zero => simp [granulesPoison]
  | succ n ih =>
    rw [granulesPoison] at ih ⊢
    rw [List.range_succ, List.foldl_append, List.foldl_cons, List.foldl_nil, mem_poisonAfter_granule (by omega)]
    by_cases hk : k = (a + 32 * n) / 32
    · have hn : k - a / 32 = n := by omega
      rw [if_pos hk, if_pos (by omega), hn]
    · rw [if_neg hk, ih]
      by_cases h : a / 32 ≤ k ∧ k < a / 32 + n
      · rw [if_pos h, if_pos (by omega)]
      · rw [if_neg h, if_neg (by omega)]

/-- What a run of written granules sends to the host (R258, R369). -/
def granuleTlps (f a b n : Nat) (sp : Mem) (bad : Nat → Bool) : List Tlp :=
  (List.range n).map fun i =>
    { func := f, addr := a + 32 * i, bytes := memRead sp (b + 32 * i) 32, kind := .write, ro := true, poisoned := bad i }

theorem foldl_rawWrite_dev (s : State) (f a b n : Nat) (sp : Mem) (bad : Nat → Bool) :
    (List.range n).foldl (fun s i => rawWrite s f .dev (a + 32 * i) (memRead sp (b + 32 * i) 32) (bad i)) s =
      { s with mem := memWrite s.mem a (memRead sp b (32 * n)), memPoison := granulesPoison s.memPoison a n bad } := by
  rw [← foldl_memWrite_granules]
  induction n with
  | zero => rfl
  | succ n ih =>
    simp only [granulesPoison, List.range_succ, List.foldl_append, List.foldl_cons, List.foldl_nil] at ih ⊢
    rw [ih, rawWrite, memRead_length]

theorem foldl_rawWrite_host (s : State) (f a b n : Nat) (sp : Mem) (bad : Nat → Bool) :
    (List.range n).foldl (fun s i => rawWrite s f .host (a + 32 * i) (memRead sp (b + 32 * i) 32) (bad i)) s =
      { s with
        hostMem := memWrite s.hostMem a (memRead sp b (32 * n)), hostPoison := granulesPoison s.hostPoison a n bad
        tlps := s.tlps ++ granuleTlps f a b n sp bad } := by
  rw [← foldl_memWrite_granules]
  induction n with
  | zero => simp [granuleTlps, granulesPoison]
  | succ n ih =>
    simp only [granulesPoison, granuleTlps, List.range_succ, List.foldl_append, List.foldl_cons, List.foldl_nil, List.map_append, List.map_cons,
      List.map_nil] at ih ⊢
    rw [ih, rawWrite, hostSend, memRead_length, List.append_assoc]

/-- The state after a line of device memory is written back, load-block units apart. -/
theorem writeBack_dev {s : State} {k n : Nat} {l : PolderLine} (hd : l.dirty = true) (hs : l.frame.space = .dev) :
    writeBack s k n l = invalidateBlocks { s with
      mem := memWrite s.mem l.frame.pa (memRead (coreOf s k).sp (128 * n) 128)
      memPoison := granulesPoison s.memPoison l.frame.pa 4 fun i => (coreOf s k).spPoison.contains (4 * n + i) } noCore l.frame.pa 128 := by
  rw [writeBack, if_pos hd, hs, if_pos rfl, if_neg (by decide)]
  exact congrArg (fun u => invalidateBlocks u noCore l.frame.pa 128) (foldl_rawWrite_dev _ _ _ _ _ _ _)

theorem writeBack_host {s : State} {k n : Nat} {l : PolderLine} (hd : l.dirty = true) (hs : l.frame.space = .host) :
    writeBack s k n l = { s with
      hostMem := memWrite s.hostMem l.frame.pa (memRead (coreOf s k).sp (128 * n) 128)
      hostPoison := granulesPoison s.hostPoison l.frame.pa 4 fun i => (coreOf s k).spPoison.contains (4 * n + i)
      tlps := s.tlps ++ granuleTlps l.func l.frame.pa (128 * n) 4 (coreOf s k).sp fun i => (coreOf s k).spPoison.contains (4 * n + i) } := by
  rw [writeBack, if_pos hd, hs, if_neg (by decide), if_neg (by decide)]
  exact foldl_rawWrite_host _ _ _ _ _ _ _

/-! ### Load-block lines that a write meets (R207) -/

/-- A team without the lines of its load-block units that a range meets. -/
def unblocked (a n : Nat) (t : Team) : Team :=
  { t with blocks := t.blocks.map fun b => (b.1, { b.2 with filled := b.2.filled.filter fun l => !blockMeets a n l }) }

theorem unblocked_unblocked (a n : Nat) (t : Team) : unblocked a n (unblocked a n t) = unblocked a n t := by
  simp [unblocked, Function.comp_def]

theorem unblocked_self {a n : Nat} {t : Team} (h : (t.blocks.any fun b => b.2.filled.any (blockMeets a n)) = false) : unblocked a n t = t := by
  have hm : t.blocks.map (fun b => (b.1, { b.2 with filled := b.2.filled.filter fun l => !blockMeets a n l })) = t.blocks := by
    refine (List.map_congr_left fun b hb => ?_).trans (List.map_id _)
    have hf : b.2.filled.filter (fun l => !blockMeets a n l) = b.2.filled := by
      refine List.filter_eq_self.2 fun l hl => ?_
      have hb := List.any_eq_false.1 h b hb
      simp only [Bool.not_eq_true, List.any_eq_false] at hb
      simpa using hb l hl
    rw [hf]; rfl
  rw [unblocked, hm]

/-- One team's part of an invalidation of load-block lines. -/
def unblockStep (core a n : Nat) (s : State) (e : Nat × Team) : State :=
  if decide (e.2.core ≠ core) && e.2.blocks.any fun b => b.2.filled.any (blockMeets a n) then setTeam s e.1 (unblocked a n (teamOf s e.1)) else s

theorem foldl_unblockStep (core a n : Nat) (es : List (Nat × Team)) (s : State) :
    let v := es.foldl (unblockStep core a n) s
    v = { s with teams := v.teams } ∧ ∀ k,
      (teamOf v k = teamOf s k ∨ teamOf v k = unblocked a n (teamOf s k)) ∧
        ∀ t, (k, t) ∈ es → t.core ≠ core → (t.blocks.any fun b => b.2.filled.any (blockMeets a n)) = true →
          teamOf v k = unblocked a n (teamOf s k) := by
  induction es generalizing s with
  | nil => simp
  | cons e r ih =>
    obtain ⟨h1, h2⟩ := ih (unblockStep core a n s e)
    intro v
    have hv : v = r.foldl (unblockStep core a n) (unblockStep core a n s e) := rfl
    rw [← hv] at h1 h2
    by_cases hc : (decide (e.2.core ≠ core) && e.2.blocks.any fun b => b.2.filled.any (blockMeets a n)) = true
    · have he : unblockStep core a n s e = setTeam s e.1 (unblocked a n (teamOf s e.1)) := if_pos hc
      rw [he] at h1 h2
      refine ⟨h1, fun k => ?_⟩
      obtain ⟨h3, h4⟩ := h2 k
      by_cases hk : k = e.1
      · subst hk
        rw [teamOf_setTeam, unblocked_unblocked, or_self] at h3
        exact ⟨.inr h3, fun _ _ _ _ => h3⟩
      · rw [teamOf_setTeam_ne _ hk] at h3 h4
        refine ⟨h3, fun t ht => h4 t ?_⟩
        rcases List.mem_cons.1 ht with rfl | ht
        · exact absurd rfl hk
        · exact ht
    · have he : unblockStep core a n s e = s := if_neg hc
      rw [he] at h1 h2
      refine ⟨h1, fun k => ⟨(h2 k).1, fun t ht h5 h6 => (h2 k).2 t ?_ h5 h6⟩⟩
      rcases List.mem_cons.1 ht with rfl | ht
      · exact absurd (by rw [decide_eq_true h5, h6]; rfl) hc
      · exact ht

theorem invalidateBlocks_invalidated (s : State) (core a n : Nat) : Invalidated s core a n (invalidateBlocks s core a n) := by
  have hv : invalidateBlocks s core a n = s.teams.foldl (unblockStep core a n) s := rfl
  obtain ⟨h1, h2⟩ := foldl_unblockStep core a n s.teams s
  rw [← hv] at h1 h2
  have hu (t : Team) : unblocked a n t = { t with
      blocks := t.blocks.map fun b => (b.1, { b.2 with filled := b.2.filled.filter fun l => decide (¬(l < a + n ∧ a < l + 128)) }) } := by
    simp only [unblocked, blockMeets, decide_not]
  refine ⟨h1, fun k hk => ?_⟩
  rw [← hu]
  cases hm : (teamOf s k).blocks.any fun b => b.2.filled.any (blockMeets a n) with
  | false =>
    have h3 := (h2 k).1
    rwa [unblocked_self hm, or_self, ← unblocked_self hm] at h3
  | true =>
    cases ht : tget s.teams k with
    | none => simp [teamOf, tgetD, ht, noTeam] at hm
    | some t =>
      have he : teamOf s k = t := by simp [teamOf, tgetD, ht]
      exact (h2 k).2 t (mem_of_tget _ _ _ ht) (he ▸ hk) (he ▸ hm)

end Sys2Proof.Proofs

namespace Sys2Proof.Proofs
open Sys2Proof.Machine Sys2Proof.Safety

/-! ### The context ready longest (R46) -/

/-- A key comes no later than another, ties by its second part. -/
def keyLe (a b : Nat × Nat) : Prop := a.1 < b.1 ∨ (a.1 = b.1 ∧ a.2 ≤ b.2)

theorem leastBy_cons_ne_none (key : Group → Nat × Nat) (e : Nat × Group) (r : List (Nat × Group)) : leastBy key (e :: r) ≠ none := by
  rw [leastBy]
  cases leastBy key r with
  | none => simp
  | some x => dsimp only; split <;> simp

/-- The entry that `leastBy` gives is one of the list, and none has a lesser key. -/
theorem leastBy_some {key : Group → Nat × Nat} {rs : List (Nat × Group)} {y : Nat × Group} (h : leastBy key rs = some y) :
    y ∈ rs ∧ ∀ x ∈ rs, keyLe (key y.2) (key x.2) := by
  induction rs generalizing y with
  | nil => simp [leastBy] at h
  | cons e r ih =>
    rw [leastBy] at h
    cases hr : leastBy key r with
    | none =>
      have hn : r = [] := by
        cases r with
        | nil => rfl
        | cons x q => exact absurd hr (leastBy_cons_ne_none key x q)
      rw [hr] at h
      cases h
      subst hn
      simp [keyLe]
    | some z =>
      obtain ⟨hz, hm⟩ := ih hr
      rw [hr] at h
      dsimp only at h
      split at h
      next hc =>
        cases h
        refine ⟨by simp, fun x hx => ?_⟩
        rcases List.mem_cons.1 hx with rfl | hx
        · exact .inr ⟨rfl, Nat.le_refl _⟩
        · have := hm x hx
          unfold keyLe at this ⊢
          omega
      next hc =>
        cases h
        refine ⟨by simp [hz], fun x hx => ?_⟩
        rcases List.mem_cons.1 hx with rfl | hx
        · unfold keyLe; omega
        · exact hm x hx

theorem leastBy_least {key : Group → Nat × Nat} {rs : List (Nat × Group)} {e : Nat × Group} (he : e ∈ rs)
    (hl : ∀ x ∈ rs, x = e ∨ ¬keyLe (key x.2) (key e.2)) : leastBy key rs = some e := by
  cases h : leastBy key rs with
  | none =>
    cases rs with
    | nil => simp at he
    | cons x r => exact absurd h (leastBy_cons_ne_none key x r)
  | some y =>
    obtain ⟨hy, hm⟩ := leastBy_some h
    rcases hl y hy with rfl | hn
    · rfl
    · exact absurd (hm e he) hn

theorem mem_residents {s : State} {c : Nat} {e : Nat × Group} : e ∈ residents s c ↔ e ∈ s.groups ∧ clusterOfGroup e.2 = some c := by
  simp [residents]

/-- The entries of a table with different numbers are told by their numbers. -/
theorem entry_of_nodup {α : Type} {t : Table α} {e : Nat × α} (hn : (t.map Prod.fst).Nodup) (he : e ∈ t) : tget t e.1 = some e.2 := by
  induction t with
  | nil => simp at he
  | cons x r ih =>
    obtain ⟨j, a⟩ := x
    rw [List.map_cons, List.nodup_cons] at hn
    rcases List.mem_cons.1 he with rfl | he
    · simp [tget]
    · have hj : j ≠ e.1 := fun h => hn.1 (h ▸ List.mem_map.2 ⟨e, he, rfl⟩)
      rw [tget, if_neg hj]
      exact ih hn.2 he

theorem groupOf_of_mem {s : State} {e : Nat × Group} (hn : (s.groups.map Prod.fst).Nodup) (he : e ∈ s.groups) : groupOf s e.1 = e.2 := by
  rw [groupOf, tgetD, entry_of_nodup hn he]; rfl

theorem mem_groups_of_isSome {s : State} {gid : Nat} (h : (tget s.groups gid).isSome = true) : (gid, groupOf s gid) ∈ s.groups := by
  obtain ⟨g, hg⟩ := Option.isSome_iff_exists.1 h
  rw [groupOf, tgetD, hg]
  exact mem_of_tget _ _ _ hg

theorem mem_longest {c : Cluster} {rs : List (Nat × Group)} {e : Nat × Group} (h : longestReady c rs = some e) :
    e ∈ rs ∧ e.2.readySince.getD c.cycles + 64 ≤ c.cycles ∧ ∀ x ∈ rs, x.2.readySince.getD c.cycles + 64 ≤ c.cycles →
      keyLe (e.2.readySince.getD 0, slotOfGroup e.2) (x.2.readySince.getD 0, slotOfGroup x.2) := by
  obtain ⟨h1, h2⟩ := leastBy_some h
  rw [List.mem_filter, decide_eq_true_eq] at h1
  exact ⟨h1.1, h1.2, fun x hx hc => h2 x (List.mem_filter.2 ⟨hx, decide_eq_true hc⟩)⟩

/-- The context that has been ready longest among some of a cluster, for 64 cycles, is the one taken. -/
theorem longestReady_eq {s : State} {c gid n : Nat} {rs : List (Nat × Group)} (hn : (groupOf s gid).readySince = some n)
    (hu : (s.groups.map Prod.fst).Nodup) (hc : n + 64 ≤ (clusterOf s c).cycles)
    (hl : ∀ e ∈ residents s c, e.1 ≠ gid → ∀ m, e.2.readySince = some m →
      n < m ∨ (n = m ∧ slotOfGroup (groupOf s gid) < slotOfGroup e.2))
    (hr : ∀ e ∈ rs, e ∈ residents s c ∧ e.2.readySince.isSome = true) (hg : (gid, groupOf s gid) ∈ rs) :
    longestReady (clusterOf s c) rs = some (gid, groupOf s gid) := by
  refine leastBy_least (List.mem_filter.2 ⟨hg, by simpa [hn] using hc⟩) fun x hx => ?_
  obtain ⟨hres, hs⟩ := hr x (List.mem_filter.1 hx).1
  by_cases hk : x.1 = gid
  · left
    have := groupOf_of_mem hu (mem_residents.1 hres).1
    rw [← hk, this]
  · right
    obtain ⟨m, hm⟩ := Option.isSome_iff_exists.1 hs
    have := hl x hres hk m hm
    simp only [keyLe, hm, hn, Option.getD_some]
    omega

theorem contextStarves_starved {s : State} {c k gid n : Nat} (hp : (groupOf s gid).place = .resident c k)
    (hn : (groupOf s gid).readySince = some n) (hu : (s.groups.map Prod.fst).Nodup) (hi : (tget s.groups gid).isSome = true)
    (hc : n + 64 ≤ (clusterOf s c).cycles)
    (hl : ∀ e ∈ residents s c, e.1 ≠ gid → ∀ m, e.2.readySince = some m →
      n < m ∨ (n = m ∧ slotOfGroup (groupOf s gid) < slotOfGroup e.2)) :
    contextStarves s gid = { s with agenda := .issue c :: s.agenda } := by
  have hg : clusterOfGroup (groupOf s gid) = some c := by simp [clusterOfGroup, hp]
  have hm : (gid, groupOf s gid) ∈ (residents s c).filter fun e => e.2.readySince.isSome :=
    List.mem_filter.2 ⟨mem_residents.2 ⟨mem_groups_of_isSome hi, hg⟩, by simp [hn]⟩
  rw [contextStarves, hg]
  dsimp only
  rw [longestReady_eq hn hu hc hl (fun e he => List.mem_filter.1 he) hm]
  exact if_pos rfl

theorem contextStarves_not {s : State} {c k gid n : Nat} (hp : (groupOf s gid).place = .resident c k)
    (hn : (groupOf s gid).readySince = some n) (hu : (s.groups.map Prod.fst).Nodup)
    (hc : (clusterOf s c).cycles < n + 64 ∨ ∃ e ∈ residents s c, ∃ m, e.2.readySince = some m ∧ m < n) : contextStarves s gid = s := by
  have hg : clusterOfGroup (groupOf s gid) = some c := by simp [clusterOfGroup, hp]
  rw [contextStarves, hg]
  dsimp only
  cases h : longestReady (clusterOf s c) ((residents s c).filter fun e => e.2.readySince.isSome) with
  | none => rfl
  | some e =>
    obtain ⟨h1, h2, h3⟩ := mem_longest h
    refine if_neg fun hk => ?_
    have he : e.2 = groupOf s gid := by rw [← hk, groupOf_of_mem hu (mem_residents.1 (List.mem_filter.1 h1).1).1]
    rw [he, hn, Option.getD_some] at h2
    rcases hc with hc | ⟨x, hx, m, hm, hlt⟩
    · omega
    · have h4 := h3 x (List.mem_filter.2 ⟨hx, by simp [hm]⟩) (by rw [hm, Option.getD_some]; omega)
      simp only [keyLe, he, hn, hm, Option.getD_some] at h4
      omega

theorem primaryOf_longest {c : Cluster} {rs : List (Nat × Group)} {e : Nat × Group} (h : longestReady c rs = some e) :
    primaryOf c rs = some e.1 := by simp [primaryOf, h]

/-! ### Fences (R131, R242, R246) -/

/-- The accesses that a fence of group scope need not wait for: those that give no value. -/
def storeOnly (scope : Nat) (o : MemOp) : Bool :=
  decide (scope = 0) && match o.kind with
    | .scalarStore | .tensorStore _ | .multicast | .prefetch => true
    | .store op => !Machine.stAtomic op || op == .radd || op == .rfadd
    | .load _ | .scalarLoad _ _ _ | .tensorLoad _ _ => false

theorem storeOnly_eq (scope : Nat) (o : MemOp) : storeOnly scope o = !scopeWaits scope o := by
  have h (op : StOp) : (!Machine.stAtomic op || op == .radd || op == .rfadd) = !(portsWritten (.st op)).1 := by cases op <;> rfl
  unfold storeOnly scopeWaits givesValue
  rw [decide_not, Bool.not_or, Bool.not_not]
  cases o.kind <;> simp only [Bool.not_true, Bool.not_false, h]

theorem fenceOver_iff {g : Group} {f : Fence} : fenceOver g f = true ↔ ∀ o ∈ g.ops, f.id ≤ o.id ∨ storeOnly f.scope o = true := by
  simp [fenceOver, storeOnly_eq]

theorem find?_of_filter {α : Type} {p : α → Bool} {l : List α} {a : α} (h : l.filter p = [a]) : l.find? p = some a := by
  rw [← List.head?_filter, h]; rfl

/-! ### A line recalled (R204) -/

theorem recallLine_dirty {s : State} {core line : Nat} {l : PolderLine} {ex : Bool} (h : tget (coreOf s core).lines line = some l)
    (hd : l.dirty = true) : recallLine s core line ex = dropLine s core line := by simp [recallLine, h, hd]

/-- A line that can go is written back, and its core holds it no more. -/
theorem dropLine_goes {s : State} {core line : Nat} {l : PolderLine} (h : tget (coreOf s core).lines line = some l) (hg : lineGoes s l = true)
    (hc : coreOf (writeBack s core line l) core = coreOf s core) :
    dropLine s core line =
      setCore (writeBack s core line l) core { coreOf s core with lines := tdel (coreOf s core).lines line } := by
  simp [dropLine, h, hg, hc]

theorem coreOf_congr {s u : State} (h : u.cores = s.cores) (k : Nat) : coreOf u k = coreOf s k := by rw [coreOf, coreOf, h]

theorem cores_invalidateBlocks (s : State) (core a n : Nat) : (invalidateBlocks s core a n).cores = s.cores := by
  rw [(invalidateBlocks_invalidated s core a n).1]

theorem recallLine_dev {s : State} {core line : Nat} {l : PolderLine} {ex : Bool} (h : tget (coreOf s core).lines line = some l)
    (hd : l.dirty = true) (hs : l.frame.space = .dev) :
    let p := granulesPoison s.memPoison l.frame.pa 4 fun i => (coreOf s core).spPoison.contains (4 * line + i)
    let x := { s with mem := memWrite s.mem l.frame.pa (memRead (coreOf s core).sp (128 * line) 128), memPoison := p }
    Invalidated x 192 l.frame.pa 128 (invalidateBlocks x 192 l.frame.pa 128) ∧ recallLine s core line ex =
      setCore (invalidateBlocks x 192 l.frame.pa 128) core { coreOf s core with lines := tdel (coreOf s core).lines line } := by
  intro p x
  have hw : writeBack s core line l = invalidateBlocks x 192 l.frame.pa 128 := writeBack_dev hd hs
  have hc : coreOf (writeBack s core line l) core = coreOf s core := coreOf_congr (by rw [hw, cores_invalidateBlocks]) core
  refine ⟨invalidateBlocks_invalidated x 192 l.frame.pa 128, ?_⟩
  rw [recallLine_dirty h hd, dropLine_goes h (by simp [lineGoes, hs]) hc, hw]

theorem recallLine_host {s : State} {core line : Nat} {l : PolderLine} {ex : Bool} (h : tget (coreOf s core).lines line = some l)
    (hd : l.dirty = true) (hs : l.frame.space = .host) :
    recallLine s core line ex = setCore { s with
      hostMem := memWrite s.hostMem l.frame.pa (memRead (coreOf s core).sp (128 * line) 128)
      hostPoison := granulesPoison s.hostPoison l.frame.pa 4 fun i => (coreOf s core).spPoison.contains (4 * line + i)
      tlps := s.tlps ++ granuleTlps l.func l.frame.pa (128 * line) 4 (coreOf s core).sp fun i => (coreOf s core).spPoison.contains (4 * line + i) }
      core { coreOf s core with lines := tdel (coreOf s core).lines line } := by
  have hw := writeBack_host (s := s) (k := core) (n := line) hd hs
  have hc : coreOf (writeBack s core line l) core = coreOf s core := coreOf_congr (by rw [hw]) core
  rw [recallLine_dirty h hd, dropLine_goes h (by simp [lineGoes, hs]) hc, hw]

theorem recallLine_clean {s : State} {core line : Nat} {l : PolderLine} (ex : Bool) (h : tget (coreOf s core).lines line = some l)
    (hd : l.dirty = false) : recallLine s core line ex =
      if ex = true then setCore s core { coreOf s core with lines := tdel (coreOf s core).lines line } else s := by
  have hw : writeBack s core line l = s := by simp [writeBack, hd]
  have hdrop := dropLine_goes h (by simp [lineGoes, hd]) (by rw [hw])
  rw [hw] at hdrop
  simp [recallLine, h, hd, hdrop]

theorem recallLine_stays {s : State} {core line : Nat} {l : PolderLine} {ex : Bool} (h : tget (coreOf s core).lines line = some l)
    (hd : l.dirty = true) (hs : l.frame.space = .peer) (hp : windowPorts s l.func l.frame.pa = []) : recallLine s core line ex = s := by
  rw [recallLine_dirty h hd]
  simp [dropLine, h, lineGoes, hd, hs, hp]

theorem lineRecalls (s : State) (core line : Nat) (l : PolderLine) (ex : Bool) (h : tget (coreOf s core).lines line = some l) :
    let c := coreOf s core
    let drop (v : State) : State := setCore v core { c with lines := tdel c.lines line }
    let Poison (old new : List Nat) : Prop := l.frame.pa % 32 = 0 → ∀ k, k ∈ new ↔
      if l.frame.pa / 32 ≤ k ∧ k < l.frame.pa / 32 + 4 then 4 * line + (k - l.frame.pa / 32) ∈ c.spPoison else k ∈ old
    (l.dirty = false → exec (.polderRecall core line ex) s = .next (if ex then drop s else s)) ∧
    (l.dirty = true → l.frame.space = .dev → ∃ p v, Poison s.memPoison p ∧
      Invalidated { s with mem := memWrite s.mem l.frame.pa (memRead c.sp (128 * line) 128), memPoison := p } 192 l.frame.pa 128 v ∧
      exec (.polderRecall core line ex) s = .next (drop v)) ∧
    (l.dirty = true → l.frame.space = .host → ∃ p ts, Poison s.hostPoison p ∧ exec (.polderRecall core line ex) s =
      .next (drop { s with hostMem := memWrite s.hostMem l.frame.pa (memRead c.sp (128 * line) 128), hostPoison := p, tlps := s.tlps ++ ts }) ∧
      (ts.map fun x => (x.func, x.addr, x.bytes, x.poisoned)) = (List.range 4).map fun i =>
        (l.func, l.frame.pa + 32 * i, memRead c.sp (128 * line + 32 * i) 32, c.spPoison.contains (4 * line + i))) ∧
    (l.dirty = true → l.frame.space = .peer → windowPorts s l.func l.frame.pa = [] → exec (.polderRecall core line ex) s = .next s) := by
  intro c drop Poison
  have hx (u : State) (hu : recallLine s core line ex = u) : exec (.polderRecall core line ex) s = .next u := by rw [← hu]; rfl
  have hp (old : List Nat) : Poison old (granulesPoison old l.frame.pa 4 fun i => c.spPoison.contains (4 * line + i)) := fun ha k => by
    rw [mem_granulesPoison 4 ha, List.contains_iff_mem]
  refine ⟨fun hd => hx _ (recallLine_clean ex h hd), fun hd hs => ?_, fun hd hs => ?_, fun hd hs hn => hx _ (recallLine_stays h hd hs hn)⟩
  · obtain ⟨h1, h2⟩ := recallLine_dev (ex := ex) h hd hs
    exact ⟨_, _, hp _, h1, hx _ h2⟩
  · refine ⟨_, _, hp _, hx _ (recallLine_host h hd hs), ?_⟩
    simp only [granuleTlps, List.map_map]
    rfl

/-- Settles O51: the load-block, Polder, hold, starvation, yield and fence events, each by the lemma about its function. -/
theorem cacheAndSchedulingEvents : Obligations.CacheAndSchedulingEvents := by
  unfold Obligations.CacheAndSchedulingEvents
  intro s gid g
  refine ⟨fun tid n b hb => ⟨fun hc hl => ?fill, fun h => ?unfilled, fun line => ?invalidate⟩, fun core line l ex h => lineRecalls s core line l ex h,
    fun sid sp hsp n hn => ?held, fun c k hp => ⟨fun sid hs he => ?starved, fun n hn hu hi => ⟨fun hc hl => ⟨?ready, fun rs hr hg => ?primary⟩, fun hc => ?idle⟩,
    fun n hn => ?yield⟩, fun f hf hone => ?fence, fun id hid => ?nofence⟩
  case fill =>
    show Host.Outcome.next (fillBlock s _ tid n) = _
    rw [fillBlock, hb]
    dsimp only
    rw [if_pos ⟨rfl, by simp [hc], hl⟩]
    rfl
  case unfilled =>
    show Host.Outcome.next (fillBlock s _ tid n) = _
    rw [fillBlock, hb]
    dsimp only
    rw [if_neg]
    rintro ⟨-, h1, h2⟩
    rcases h with h | h
    · simp [h] at h1
    · omega
  case invalidate =>
    show Host.Outcome.next (invalidateBlockLine s _ tid n line) = _
    rw [invalidateBlockLine, hb]
    exact congrArg _ (if_pos rfl)
  case held =>
    show Host.Outcome.next (heldTimesOut s gid sid) = _
    have hq : splitOf (groupOf s gid) sid = sp := by simp [splitOf, tgetD, show tget (groupOf s gid).splits sid = some sp from hsp]
    rw [heldTimesOut]
    rw [if_pos (by rw [show tget (groupOf s gid).splits sid = some sp from hsp]; rfl), holdTimeout, hq, hn]
    rfl
  case starved =>
    show Host.Outcome.next (splitStarves s gid sid) = _
    have hg : clusterOfGroup g = some c := by simp [clusterOfGroup, hp]
    have hs' : (tget (groupOf s gid).splits sid).isSome = true := hs
    have he' : eligible (groupOf s gid) sid = true := he
    rw [splitStarves, show clusterOfGroup (groupOf s gid) = some c from hg]
    simp only [hs', he', Bool.true_and, decide_eq_true_eq]
    rfl
  case ready => exact congrArg _ (contextStarves_starved hp hn hu hi hc hl)
  case primary => exact primaryOf_longest (longestReady_eq hn hu hc hl hr hg)
  case idle => exact congrArg _ (contextStarves_not hp hn hu hc)
  case yield =>
    show Host.Outcome.next (yieldEnds s gid) = _
    rw [yieldEnds, show clusterOfGroup (groupOf s gid) = some c by simp only [clusterOfGroup, show (groupOf s gid).place = _ from hp],
      show (groupOf s gid).yieldUntil = some n from hn]
  case fence =>
    show Host.Outcome.next (fenceEnds s gid f.id) = _
    rw [fenceEnds, show (groupOf s gid).fences.find? (fun x => decide (x.id = f.id)) = some f from find?_of_filter hone]
    refine congrArg _ (if_congr fenceOver_iff rfl rfl)
  case nofence =>
    show Host.Outcome.next (fenceEnds s gid id) = _
    rw [fenceEnds, show (groupOf s gid).fences.find? (fun x => decide (x.id = id)) = none from List.find?_eq_none.2 fun f hf => by simpa using hid f hf]

end Sys2Proof.Proofs

namespace Sys2Proof.Proofs
open Sys2Proof.Machine Sys2Proof.Safety

/-! ### Groups that end (R134, R312) -/

theorem unthrottle_eq (u : State) (core gid : Nat) :
    unthrottle u core gid = if gid ∈ (coreOf u core).weir.throttled then setCore u core (loosed (coreOf u core) gid) else u := by
  rw [unthrottle]
  exact if_congr List.contains_iff_mem rfl rfl

theorem endGroup_eq (s : State) (gid : Nat) : endGroup s gid = ended s gid := unthrottle_eq _ _ _

theorem ended_tasks (s : State) (gid n : Nat) : taskOf (ended s gid) n = taskOf s n := by
  unfold ended; dsimp only; split <;> rfl

/-- The group of a double trap ends as the statements say. -/
theorem killGroup_eq (s : State) (gid : Nat) : killGroup s gid = killed s gid := by
  have he (e : Option Nat) : (e.orElse fun _ => some 0x0B) = some (e.getD 0x0B) := by cases e <;> rfl
  rw [killGroup, endGroup_eq, failTask, ended_tasks, he]
  rfl

/-! ### A wait that is tried (R117) -/

/-- The state in which a group waits no more. -/
def woken (s : State) (gid : Nat) : State := setGroup s gid { groupOf s gid with wait := none }

@[simp] theorem groupOf_woken (s : State) (gid : Nat) : groupOf (woken s gid) gid = { groupOf s gid with wait := none } := groupOf_setGroup _ _ _

theorem groupOf_woken_ne (s : State) {gid k : Nat} (h : k ≠ gid) : groupOf (woken s gid) k = groupOf s k := groupOf_setGroup_ne _ h _

@[simp] theorem teamOf_woken (s : State) (gid k : Nat) : teamOf (woken s gid) k = teamOf s k := rfl

theorem tryWait_resident {s : State} {gid : Nat} {p : Wait → Bool} {w : Wait} (hr : Resident s gid) (hw : (groupOf s gid).wait = some w)
    (hp : p w = true) : tryWait s gid p = if waitMet s gid w = true then waitEffect (woken s gid) gid w else s := by
  obtain ⟨c, k, hr⟩ := hr
  simp [tryWait, hw, hr, hp, waitDone, woken]

theorem tryWait_other {s : State} {gid : Nat} {p : Wait → Bool} (h : ∀ w, (groupOf s gid).wait = some w → p w = false) : tryWait s gid p = s := by
  unfold tryWait
  dsimp only
  split
  next => rfl
  next w hw => split <;> simp [h w hw]

/-- The after-trap of a wait, which ends the group in supervisor mode. -/
theorem waitTrap_super {s : State} {gid : Nat} {t : TrapInfo} (h : (groupOf s gid).super = true) : waitTrap s gid t = killed s gid := by
  rw [waitTrap, if_pos h, killGroup_eq]

theorem waitTrap_user {s : State} {gid : Nat} {t : TrapInfo} (h : (groupOf s gid).super = false) : waitTrap s gid t =
    setGroup s gid { groupOf s gid with
      pendTraps := (groupOf s gid).pendTraps ++ [(t, (splitOf (groupOf s gid) (groupOf s gid).waitSplit).pc, (groupOf s gid).waitSplit)] } :=
  if_neg (by simp [h])

/-- An after-trap that a wait of `s` left pending in `v`. -/
def trapPending (s v : State) (gid code : Nat) (info : DWord) : State :=
  setGroup v gid { groupOf v gid with
    pendTraps := (groupOf s gid).pendTraps ++
      [({ code := code, info := info, slot := 6, after := true }, (splitOf (groupOf s gid) (groupOf s gid).waitSplit).pc, (groupOf s gid).waitSplit)] }

theorem waitTrap_woken {s v : State} {gid code : Nat} {info : DWord} (hv : groupOf v gid = { groupOf s gid with wait := none })
    (h : (groupOf s gid).super = false) :
    waitTrap v gid { code := code, info := info, slot := 6, after := true } = trapPending s v gid code info := by
  rw [waitTrap_user (by rw [hv]; exact h), trapPending]
  congr 2
  rw [hv]
  rfl

theorem waitTrap_killed {s v : State} {gid : Nat} {t : TrapInfo} (hv : groupOf v gid = { groupOf s gid with wait := none })
    (h : (groupOf s gid).super = true) : waitTrap v gid t = killed v gid := waitTrap_super (by rw [hv]; exact h)

theorem groupOf_onTeam_woken (s : State) (gid : Nat) (f : Team → Team) :
    groupOf (onTeam (woken s gid) gid f) gid = { groupOf s gid with wait := none } := groupOf_woken s gid

@[simp] theorem teamId_woken (s : State) (gid : Nat) : teamId (woken s gid) gid = teamId s gid := by simp [teamId]

/-! ### Waits for counters, batches and copies (R132, R239) -/

theorem waitc_ends {s : State} {gid h p n : Nat} (hr : Resident s gid) (hw : (groupOf s gid).wait = some (.waitc h p n)) :
    tryWait s gid isWaitc = if (tgetD (groupOf s gid).paths (8 * h + p) []).length ≤ n then woken s gid else s := by
  rw [tryWait_resident hr hw rfl]
  exact if_congr decide_eq_true_iff rfl rfl

theorem coveredReport_none {t : Team} {n : Nat} (h : ∀ r ∈ t.reports, n < r.num) : coveredReport t n = none := by
  have hf : (t.reports.filter fun r => decide (r.num ≤ n)) = [] :=
    List.filter_eq_nil_iff.2 fun r hr => by simpa using h r hr
  rw [coveredReport, hf]; rfl

/-- What an MXWAIT that ends does with the report it covers. -/
theorem mxwait_effect {s : State} {gid n : Nat} {r : Report} (hc : coveredReport (teamOf s (teamId s gid)) n = some r) :
    waitEffect (woken s gid) gid (.mxwait n) =
      waitTrap (onTeam (woken s gid) gid fun t => { t with reports := t.reports.filter fun x => decide (x.num ≠ r.num) }) gid
        { code := r.code, info := r.info, slot := 6, after := true } := by
  have ht : coveredReport (teamOf (woken s gid) (groupOf (woken s gid) gid).team) n = some r := by rw [groupOf_woken]; exact hc
  rw [waitEffect]
  rw [ht]
  rfl

theorem mxwait_ends {s : State} {gid n : Nat} (hr : Resident s gid) (hw : (groupOf s gid).wait = some (.mxwait n)) :
    tryWait s gid isMxwait =
      if n ≤ (teamOf s (teamId s gid)).batchDone then waitEffect (woken s gid) gid (.mxwait n) else s := by
  rw [tryWait_resident hr hw rfl]
  exact if_congr decide_eq_true_iff rfl rfl

/-- The channel that a group's CPWAIT names. -/
def chanOf (s : State) (gid ch : Nat) : Channel := tgetD (teamOf s (teamId s gid)).channels ch {}

theorem cpwait_waits {s : State} {gid ch n : Nat} (hr : Resident s gid) (hw : (groupOf s gid).wait = some (.cpwait ch n))
    (hd : (chanOf s gid ch).done < n) (hf : (chanOf s gid ch).fail = none) : tryWait s gid isCpwait = s := by
  rw [tryWait_resident hr hw rfl, if_neg]
  have hm : waitMet s gid (.cpwait ch n) = (decide (n ≤ (chanOf s gid ch).done) || match (chanOf s gid ch).fail with
    | some (k, _) => decide (k ≤ n)
    | none => false) := rfl
  simp [hm, hf, hd]

theorem cpwait_done {s : State} {gid ch n : Nat} (hr : Resident s gid) (hw : (groupOf s gid).wait = some (.cpwait ch n))
    (hd : n ≤ (chanOf s gid ch).done) (hf : (chanOf s gid ch).fail = none) : tryWait s gid isCpwait = woken s gid := by
  have hm : waitMet s gid (.cpwait ch n) = true := by
    simp only [waitMet, Bool.or_eq_true, decide_eq_true_eq]; exact .inl hd
  have hf' : (tgetD (teamOf (woken s gid) (groupOf (woken s gid) gid).team).channels ch {}).fail = none := by rw [groupOf_woken]; exact hf
  rw [tryWait_resident hr hw rfl, if_pos hm, waitEffect]
  rw [hf']

theorem cpwait_failed {s : State} {gid ch n m cause : Nat} (hr : Resident s gid) (hw : (groupOf s gid).wait = some (.cpwait ch n))
    (hf : (chanOf s gid ch).fail = some (m, cause)) (hn : m ≤ n) : tryWait s gid isCpwait =
      waitTrap (onTeam (woken s gid) gid fun t => { t with channels := tset t.channels ch { chanOf s gid ch with fail := none } }) gid
        { code := cause, info := copyWord ch m, slot := 6, after := true } := by
  have hm : waitMet s gid (.cpwait ch n) = true := by
    have hf : (tgetD (teamOf s (groupOf s gid).team).channels ch {}).fail = some (m, cause) := hf
    simp only [waitMet, hf, Bool.or_eq_true, decide_eq_true_eq]; exact .inr hn
  have hf' : (tgetD (teamOf (woken s gid) (groupOf (woken s gid) gid).team).channels ch {}).fail = some (m, cause) := by rw [groupOf_woken]; exact hf
  rw [tryWait_resident hr hw rfl, if_pos hm, waitEffect]
  dsimp only
  rw [hf']
  dsimp only
  rw [if_neg (by omega)]
  simp [onTeam, chanOf]
  rfl

end Sys2Proof.Proofs

namespace Sys2Proof.Safety.Touched
open Sys2Proof.Machine

/-! ### What reading and writing memory may touch (R197, R198, R204, R207) -/

variable {s t u : State}

theorem refl (s : State) : Touched s s := ⟨rfl, fun _ => rfl, fun _ => rfl, fun _ => rfl, fun _ => rfl⟩

theorem trans (h : Touched s t) (h' : Touched t u) : Touched s u := by
  obtain ⟨h1, h2, h3, h4, h5⟩ := h
  obtain ⟨i1, i2, i3, i4, i5⟩ := h'
  refine ⟨i1.trans (by rw [h1]), fun k => (i2 k).trans (by rw [h2 k]), fun k => (i3 k).trans (by rw [h3 k]),
    fun k => (i4 k).trans (by rw [h4 k]), fun k => (i5 k).trans (by rw [h5 k])⟩

theorem ite {p : Prop} [Decidable p] {a b : State} (ha : Touched s a) (hb : Touched s b) : Touched s (if p then a else b) := by
  split
  · exact ha
  · exact hb

theorem foldl {α : Type} {f : State → α → State} (hf : ∀ s a, Touched s (f s a)) (l : List α) (s : State) : Touched s (l.foldl f s) := by
  induction l generalizing s with
  | nil => exact refl s
  | cons a r ih => exact (hf s a).trans (ih _)

theorem memories (mem hostMem : Mem) (memPoison hostPoison : List Nat) (tlps : List Tlp) (peerMem : Table Mem) (peerPoison : Table (List Nat)) :
    Touched s { s with
      mem := mem, memPoison := memPoison, hostMem := hostMem, hostPoison := hostPoison, tlps := tlps, peerMem := peerMem
      peerPoison := peerPoison } := ⟨rfl, fun _ => rfl, fun _ => rfl, fun _ => rfl, fun _ => rfl⟩

theorem links (ports : Table Port) (flitsOut : List (Nat × List Byte)) (free : Nat) :
    Touched s { s with ports := ports, flitsOut := flitsOut, free := free } := ⟨rfl, fun _ => rfl, fun _ => rfl, fun _ => rfl, fun _ => rfl⟩

theorem setTeam (k : Nat) (b : Table LoadBlock) : Touched s (setTeam s k { teamOf s k with blocks := b }) := by
  refine ⟨rfl, fun j => ?_, fun _ => rfl, fun _ => rfl, fun _ => rfl⟩
  by_cases hj : j = k
  · subst hj; rw [teamOf_setTeam]
  · rw [teamOf_setTeam_ne _ hj]

theorem setCore (k : Nat) (sp : Mem) (spPoison : List Nat) (lines : Table PolderLine) (tlb : List TlbEntry) :
    Touched s (setCore s k { coreOf s k with sp := sp, spPoison := spPoison, lines := lines, tlb := tlb }) := by
  refine ⟨rfl, fun _ => rfl, fun j => ?_, fun _ => rfl, fun _ => rfl⟩
  by_cases hj : j = k
  · subst hj; rw [coreOf_setCore]
  · rw [coreOf_setCore_ne _ hj]

theorem setDie (k : Nat) (tlb : List TlbEntry) : Touched s (setDie s k { dieOf s k with tlb := tlb }) := by
  refine ⟨rfl, fun _ => rfl, fun _ => rfl, fun j => ?_, fun _ => rfl⟩
  by_cases hj : j = k
  · subst hj; rw [dieOf_setDie]
  · rw [dieOf_setDie_ne _ hj]

theorem setEvent (f bit : Nat) : Touched s (setEvent s f bit) := by
  refine ite (refl s) ⟨rfl, fun _ => rfl, fun _ => rfl, fun _ => rfl, fun j => ?_⟩
  have hm (v : State) (n : Nat) : funcOf (sendMsix v f n) j = funcOf v j := rfl
  by_cases hj : j = f
  · subst hj; rw [hm, funcOf_setFunc]
  · rw [hm, funcOf_setFunc_ne _ hj]

theorem putFlit (p type : Nat) : Touched s (putFlit s p type) := links _ _ _

theorem sendFlit (p type : Nat) : Touched s (sendFlit s p type) := ite (links _ _ _) (putFlit p type)

theorem peerSend (f a : Nat) : Touched s (peerSend s f a) := by
  unfold Machine.peerSend
  split
  · exact refl s
  · exact (links _ _ _).trans (sendFlit _ _)

theorem rawWrite (f : Nat) (sp : Space) (a : Nat) (bytes : List Byte) (poison : Bool) : Touched s (rawWrite s f sp a bytes poison) := by
  cases sp with
  | dev | host => exact memories _ _ _ _ _ _ _
  | peer => exact ite (setEvent _ _) (memories _ _ _ _ _ _ _)
  | spad => exact refl s

theorem invalidateBlocks (core a n : Nat) : Touched s (invalidateBlocks s core a n) :=
  foldl (fun _ _ => ite (setTeam _ _) (refl _)) _ _

theorem writeBack (k n : Nat) (l : PolderLine) : Touched s (writeBack s k n l) := by
  have hsend : Touched s (if l.frame.space = .peer then Machine.peerSend s l.func l.frame.pa else s) := ite (peerSend _ _) (refl s)
  have hput {f : State → Nat → State} (hf : ∀ v i, Touched v (f v i)) := hsend.trans (foldl hf (List.range 4) _)
  exact ite (ite ((hput fun _ _ => rawWrite _ _ _ _ _).trans (invalidateBlocks _ _ _)) (hput fun _ _ => rawWrite _ _ _ _ _)) (refl s)

theorem dropLine (k n : Nat) : Touched s (dropLine s k n) := by
  unfold Machine.dropLine
  split
  · exact refl s
  · exact ite ((writeBack _ _ _).trans (setCore _ _ _ _ _)) (refl s)

theorem recallRange (sp : Space) (k : Nat × Nat) (n : Nat) (w : Bool) : Touched s (recallRange s sp k n w) :=
  foldl (fun _ _ => foldl (fun _ _ => dropLine _ _) _ _) _ _

theorem refillBlocks (core a n : Nat) : Touched s (refillBlocks s core a n) := foldl (fun _ _ => ite (setTeam _ _) (refl _)) _ _

theorem spaceWrite (core f : Nat) (sp : Space) (a : Nat) (bytes : List Byte) (poison : Bool) : Touched s (spaceWrite s core f sp a bytes poison) := by
  have h := (recallRange (s := s) sp (placeKey s f sp a) bytes.length true).trans (rawWrite f sp a bytes poison)
  cases sp with
  | spad => exact setCore _ _ _ _ _
  | dev => exact h.trans (invalidateBlocks _ _ _)
  | host | peer => exact h

theorem setAD (fr : Frame) (write : Bool) : Touched s (setAD s fr write) := by
  unfold Machine.setAD
  split
  · exact refl s
  · exact ite (refl s) (spaceWrite _ _ _ _ _ _)

theorem touchPage (core f asid va : Nat) (fr : Frame) (write : Bool) : Touched s (touchPage s core f asid va fr write) := by
  unfold Machine.touchPage
  extract_lets walked marked size e c cached d
  have hwalked : Touched s walked := ite (foldl (fun _ _ => recallRange _ _ _ _) _ _) (refl s)
  have hcached : Touched s cached := (hwalked.trans (setAD fr write)).trans (ite (refl _) (setCore core _ _ _ _))
  exact hcached.trans (ite (refl _) (setDie _ _))

theorem fillLine (core n f : Nat) (fr : Frame) : Touched s (fillLine s core n f fr) := by
  unfold Machine.fillLine
  extract_lets fr recalled sent bytes bad told
  have hsent : Touched s sent := (recallRange _ _ _ _).trans (ite (peerSend _ _) (refl _))
  have htold : Touched s told := hsent.trans (ite (setEvent _ _) (refl _))
  exact htold.trans (setCore core _ _ _ _)

theorem ensureLine (core a : Nat) : Touched s (ensureLine s core a) := by
  unfold Machine.ensureLine
  split
  · exact (touchPage _ _ _ _ _ _).trans (fillLine _ _ _ _)
  · exact refl s

theorem ensureRange (core a n : Nat) : Touched s (ensureRange s core a n) := foldl (fun _ _ => ensureLine _ _) _ _

theorem placeGet (core f : Nat) (sp : Space) (a n : Nat) : Touched s (placeGet s core f sp a n).2.2 := by
  cases sp with
  | spad => exact ensureRange _ _ _
  | dev => exact (recallRange _ _ _ _).trans (refillBlocks _ _ _)
  | host => exact recallRange _ _ _ _
  | peer => exact ((recallRange _ _ _ _).trans (peerSend _ _)).trans (ite (setEvent _ _) (refl _))

end Sys2Proof.Safety.Touched

namespace Sys2Proof.Proofs
open Sys2Proof.Machine Sys2Proof.Safety

/-! ### Waits that end for several groups (R19, R129, R136) -/

theorem foldl_eq_self {α β : Type} {f : β → α → β} {l : List α} {b : β} (h : ∀ a ∈ l, f b a = b) : l.foldl f b = b := by
  induction l with
  | nil => rfl
  | cons a r ih => rw [List.foldl_cons, h a (by simp), ih fun x hx => h x (by simp [hx])]

/-- A wait for the token that is tried. -/
theorem tryWait_mxtake {s : State} {gid order : Nat} (hr : Resident s gid) (hw : (groupOf s gid).wait = some (.mxtake order)) :
    tryWait s gid isMxtake = if waitMet s gid (.mxtake order) = true then onTeam (woken s gid) gid fun t => { t with token := some gid } else s :=
  tryWait_resident hr hw rfl

/-- A group whose wait for the token is not over, or that does not wait for it. -/
theorem tryWait_mxtake_not {s : State} {k : Nat} (h : ∀ n, (groupOf s k).wait = some (.mxtake n) → waitMet s k (.mxtake n) = false) :
    tryWait s k isMxtake = s := by
  by_cases hr : Resident s k
  · cases hw : (groupOf s k).wait with
    | none => exact tryWait_other fun w hw' => by rw [hw] at hw'; cases hw'
    | some w =>
      by_cases hm : isMxtake w = true
      · cases w <;> simp only [isMxtake, Bool.false_eq_true] at hm
        rw [tryWait_mxtake hr hw, if_neg (by rw [h _ hw]; decide)]
      · exact tryWait_other fun w' hw' => by rw [hw] at hw'; cases hw'; simpa using hm
  · unfold tryWait
    dsimp only
    split
    next => rfl
    next =>
      split
      next c n hp => exact absurd ⟨c, n, hp⟩ hr
      all_goals rfl

/-- The token goes to the earliest of the team's groups that wait for it. -/
theorem mxtake_grants {s : State} {gid order : Nat} (hr : Resident s gid) (hw : (groupOf s gid).wait = some (.mxtake order))
    (ht : (teamOf s (teamId s gid)).token = none) (hg : gid ∈ (teamOf s (teamId s gid)).groups)
    (hk : ∀ k ∈ (teamOf s (teamId s gid)).groups, (groupOf s k).team = teamId s gid ∧
      ∀ n, k ≠ gid → (groupOf s k).wait = some (.mxtake n) → order < n) :
    tryTeam s (teamId s gid) isMxtake = onTeam (woken s gid) gid fun t => { t with token := some gid } := by
  have hmet : waitMet s gid (.mxtake order) = true := by
    have hf : takeFirst s (teamOf s (teamId s gid)) order = true := List.all_eq_true.2 fun k hkm => by
      by_cases he : k = gid
      · rw [he, hw]; simp
      · cases hwk : (groupOf s k).wait with
        | none => rfl
        | some w =>
          cases w <;> simp only [decide_eq_true_eq]
          exact Nat.le_of_lt ((hk k hkm).2 _ he hwk)
    have hm : waitMet s gid (.mxtake order) = (decide ((teamOf s (teamId s gid)).token = some gid) ||
      ((teamOf s (teamId s gid)).token.isNone && takeFirst s (teamOf s (teamId s gid)) order)) := rfl
    rw [hm, ht, hf]; rfl
  obtain ⟨pre, post, hl, hpre⟩ := List.eq_append_cons_of_mem hg
  have hbefore : pre.foldl (fun s k => tryWait s k isMxtake) s = s := by
    refine foldl_eq_self fun k hkp => tryWait_mxtake_not fun n hn => ?_
    have hkm : k ∈ (teamOf s (teamId s gid)).groups := by rw [hl]; simp [hkp]
    have hne : k ≠ gid := fun h => hpre (h ▸ hkp)
    obtain ⟨h1, h2⟩ := hk k hkm
    have hlt := h2 n hne hn
    have hm : waitMet s k (.mxtake n) = (decide ((teamOf s (groupOf s k).team).token = some k) ||
      ((teamOf s (groupOf s k).team).token.isNone && takeFirst s (teamOf s (groupOf s k).team) n)) := rfl
    have hf : takeFirst s (teamOf s (teamId s gid)) n = false := by
      rw [takeFirst, List.all_eq_false]
      exact ⟨gid, hg, by rw [hw]; simpa using hlt⟩
    rw [hm, h1, ht, hf]; rfl
  have hafter (u : State) (hu : u = onTeam (woken s gid) gid fun t => { t with token := some gid }) :
      post.foldl (fun s k => tryWait s k isMxtake) u = u := by
    refine foldl_eq_self fun k hkp => tryWait_mxtake_not fun n hn => ?_
    have hkm : k ∈ (teamOf s (teamId s gid)).groups := by rw [hl]; simp [hkp]
    by_cases he : k = gid
    · subst he
      rw [hu, groupOf_onTeam_woken] at hn
      cases hn
    · have hgk : groupOf u k = groupOf s k := by rw [hu]; exact groupOf_woken_ne s he
      have hm : waitMet u k (.mxtake n) = (decide ((teamOf u (groupOf u k).team).token = some k) ||
        ((teamOf u (groupOf u k).team).token.isNone && takeFirst u (teamOf u (groupOf u k).team) n)) := rfl
      have htok : (teamOf u (teamId s gid)).token = some gid := by rw [hu, onTeam, teamId_woken, teamOf_setTeam]
      rw [hm, hgk, (hk k hkm).1, htok]
      simp [Ne.symm he]
  rw [tryTeam, hl, List.foldl_append, List.foldl_cons, hbefore, tryWait_mxtake hr hw, if_pos hmet]
  exact hafter _ rfl

/-! ### Barriers (R129) -/

/-- A group that a test of its record picks waits no more. -/
def wakeIf (c : Group → Bool) (s : State) (k : Nat) : State := if c (groupOf s k) = true then woken s k else s

theorem foldl_wakeIf {c : Group → Bool} (hc : ∀ g : Machine.Group, c { g with wait := none } = false) (ks : List Nat) (s : State) :
    ks.foldl (wakeIf c) s = { s with groups := (ks.foldl (wakeIf c) s).groups } ∧ ∀ k, groupOf (ks.foldl (wakeIf c) s) k =
      if c (groupOf s k) = true ∧ k ∈ ks then { groupOf s k with wait := none } else groupOf s k := by
  induction ks generalizing s with
  | nil => simp
  | cons j r ih =>
    obtain ⟨h1, h2⟩ := ih (wakeIf c s j)
    rw [List.foldl_cons]
    by_cases hj : c (groupOf s j) = true
    · have he : wakeIf c s j = woken s j := if_pos hj
      refine ⟨h1.trans (by rw [he]; rfl), fun k => (h2 k).trans ?_⟩
      rw [he]
      by_cases hk : k = j
      · subst hk; simp [hj, hc]
      · simp [groupOf_woken_ne s hk, hk]
    · have he : wakeIf c s j = s := if_neg hj
      rw [he] at h1 h2 ⊢
      refine ⟨h1, fun k => (h2 k).trans ?_⟩
      by_cases hk : k = j
      · subst hk; simp [hj]
      · simp [hk]

/-- Whether a group with some teams waits on an object whose phase has moved on, its own arrivals made. -/
def barrierEnds (teams : Table Team) (id : Nat) (g : Group) : Bool :=
  match g.place, g.wait with
  | .resident _ _, some (.barw h i p _) => decide (i = id) && (!arrivalPending g h i &&
      decide ((barrierOf (tgetD teams g.team noTeam) i).phase ≠ tgetD g.ap (32 * h + i) p))
  | _, _ => false

/-- The waits on an object. -/
def isBarw (id : Nat) : Wait → Bool
  | .barw _ i _ _ => decide (i = id)
  | _ => false

theorem tryWait_barw {u : State} {teams : Table Team} (ht : u.teams = teams) (id k : Nat) :
    tryWait u k (isBarw id) = wakeIf (barrierEnds teams id) u k := by
  subst ht
  unfold tryWait wakeIf barrierEnds
  dsimp only
  cases hw : (groupOf u k).wait with
  | none => cases (groupOf u k).place <;> rfl
  | some w =>
    cases hp : (groupOf u k).place with
    | resident c n =>
      cases w with
      | barw => rfl
      | _ => simp [isBarw]
    | admitted | saved | ended => rfl

theorem barrierWakes_eq (s : State) (tid id : Nat) :
    barrierWakes s tid id = (teamOf s tid).groups.foldl (wakeIf (barrierEnds s.teams id)) s := by
  have h (ks : List Nat) (u : State) (hu : u.teams = s.teams) :
      ks.foldl (fun v k => tryWait v k (isBarw id)) u = ks.foldl (wakeIf (barrierEnds s.teams id)) u := by
    induction ks generalizing u with
    | nil => rfl
    | cons k r ih =>
      rw [List.foldl_cons, List.foldl_cons, tryWait_barw hu]
      refine ih _ ?_
      unfold wakeIf
      split
      · exact hu
      · exact hu
  exact h _ s rfl

theorem barrierEnds_woken (teams : Table Team) (id : Nat) (g : Group) : barrierEnds teams id { g with wait := none } = false := by
  unfold barrierEnds; split <;> simp_all

theorem barrierEnds_iff {s : State} {gid h id phase scope : Nat} (hr : Resident s gid)
    (hw : (groupOf s gid).wait = some (.barw h id phase scope)) : barrierEnds s.teams id (groupOf s gid) = true ↔
      (∀ a ∈ (groupOf s gid).arrivals, ¬(a.half = h ∧ a.bar = id)) ∧
        (barrierOf (teamOf s (teamId s gid)) id).phase ≠ tgetD (groupOf s gid).ap (32 * h + id) phase := by
  obtain ⟨c, k, hp⟩ := hr
  simp only [barrierEnds, hp, hw, arrivalPending, teamOf, teamId, decide_true, Bool.true_and, Bool.and_eq_true, Bool.not_eq_true',
    List.any_eq_false, decide_eq_true_eq]

theorem barrierEnds_wait {teams : Table Team} {id : Nat} {g : Group} (h : barrierEnds teams id g = true) :
    ∃ h p sc, g.wait = some (.barw h id p sc) := by
  unfold barrierEnds at h
  split at h
  next => rename_i h' i p sc _ hw; simp only [Bool.and_eq_true, decide_eq_true_eq] at h; exact ⟨h', p, sc, by rw [hw, h.1]⟩
  next => cases h

end Sys2Proof.Proofs

namespace Sys2Proof.Proofs
open Sys2Proof.Machine Sys2Proof.Safety

/-! ### Domains whose members go on (R19) -/

/-- The entries of the groups, whatever they wait for. -/
def Unwaited (s : State) (x : Nat × Machine.Group) : Prop := ∃ e ∈ s.groups, x = (e.1, { e.2 with wait := none })

theorem mem_tset_or {α : Type} (t : Table α) (k : Nat) (a : α) {e : Nat × α} (h : e ∈ t) : e ∈ tset t k a ∨ (e.1 = k ∧ tget t k = some e.2) := by
  induction t with
  | nil => cases h
  | cons x r ih =>
    obtain ⟨j, b⟩ := x
    rw [tset]
    split
    next => exact .inl (List.mem_cons_of_mem _ h)
    next hlt =>
      split
      next hj =>
        subst hj
        rcases List.mem_cons.1 h with rfl | h
        · exact .inr ⟨rfl, by simp [tget]⟩
        · exact .inl (List.mem_cons_of_mem _ h)
      next hj =>
        rcases List.mem_cons.1 h with rfl | h
        · exact .inl (by simp)
        · rcases ih h with h | ⟨h1, h2⟩
          · exact .inl (List.mem_cons_of_mem _ h)
          · exact .inr ⟨h1, by rw [tget, if_neg hj, h2]⟩

theorem mem_tset_self {α : Type} (t : Table α) (k : Nat) (a : α) : (k, a) ∈ tset t k a := mem_of_tget _ _ _ (tget_tset_same t k a)

/-- A group that waits no more leaves the entries of the groups as they are but for what they wait for. -/
theorem unwaited_woken {s : State} {gid : Nat} (h : (tget s.groups gid).isSome = true) (x : Nat × Machine.Group) :
    Unwaited (woken s gid) x ↔ Unwaited s x := by
  constructor
  · rintro ⟨e, he, rfl⟩
    rcases mem_tset _ _ _ _ he with rfl | he
    · exact ⟨_, mem_groups_of_isSome h, rfl⟩
    · exact ⟨e, he, rfl⟩
  · rintro ⟨e, he, rfl⟩
    rcases mem_tset_or s.groups gid { groupOf s gid with wait := none } he with he | ⟨h1, h2⟩
    · exact ⟨e, he, rfl⟩
    · refine ⟨_, mem_tset_self s.groups gid { groupOf s gid with wait := none }, ?_⟩
      have hg : groupOf s gid = e.2 := by rw [groupOf, tgetD, h2]; rfl
      rw [hg, h1]

/-- Whether a group belongs to a domain of a task. -/
def inDomain (s : State) (task level ident : Nat) (g : Machine.Group) : Bool :=
  decide ((teamOf s g.team).task = task) && decide ((teamOf s g.team).dom.getD (level - 3) 0 = ident)

/-- What a group's halves have to have done for a domain to be ready. -/
def memberReady (level phase : Nat) (g : Machine.Group) : Bool :=
  (halves g).all fun h => !halfLive g h ||
    (decide (phase < dsyncCount g level h) || (decide (dsyncCount g level h = phase) && g.ops.isEmpty))

theorem mem_domainMembers {s : State} {task level ident : Nat} {e : Nat × Machine.Group} :
    e ∈ domainMembers s task level ident ↔ e ∈ s.groups ∧ inDomain s task level ident e.2 = true := List.mem_filter

theorem domainReady_eq (s : State) (gid level phase : Nat) : domainReady s gid level phase =
    (domainMembers s (groupTeam s gid).task level ((groupTeam s gid).dom.getD (level - 3) 0)).all fun e => memberReady level phase e.2 := rfl

theorem domainReady_iff {s : State} {gid level phase : Nat} : domainReady s gid level phase = true ↔
    ∀ x, Unwaited s x → inDomain s (groupTeam s gid).task level ((groupTeam s gid).dom.getD (level - 3) 0) x.2 = true →
      memberReady level phase x.2 = true := by
  rw [domainReady_eq, List.all_eq_true]
  constructor
  · rintro h x ⟨e, he, rfl⟩ hd
    exact h e (mem_domainMembers.2 ⟨he, hd⟩)
  · intro h e he
    obtain ⟨h1, h2⟩ := mem_domainMembers.1 he
    exact h (e.1, { e.2 with wait := none }) ⟨e, h1, rfl⟩ h2

/-- What the end of some groups' DSYNCs leaves as it was: everything but what they wait for. -/
structure Resumed (s v : State) : Prop where
  rest : v = { s with groups := v.groups }
  entries : ∀ x, Unwaited v x ↔ Unwaited s x
  group : ∀ k, groupOf v k = groupOf s k ∨ (groupOf v k = { groupOf s k with wait := none } ∧ ∃ l p, (groupOf s k).wait = some (.dsync l p))

namespace Resumed

variable {s v : State}

theorem refl (s : State) : Resumed s s := ⟨rfl, fun _ => .rfl, fun _ => .inl rfl⟩

theorem teams (h : Resumed s v) (k : Nat) : teamOf v k = teamOf s k := by rw [h.rest]; rfl

theorem team (h : Resumed s v) (k : Nat) : (groupOf v k).team = (groupOf s k).team := by
  rcases h.group k with h | ⟨h, -⟩ <;> rw [h]

theorem ownTeam (h : Resumed s v) (k : Nat) : groupTeam v k = groupTeam s k := by
  rw [groupTeam, groupTeam, h.team, h.teams]

theorem ready (h : Resumed s v) (gid level phase : Nat) : domainReady v gid level phase = domainReady s gid level phase := by
  have hd (task ident : Nat) (g : Machine.Group) : inDomain v task level ident g = inDomain s task level ident g := by
    rw [inDomain, inDomain, h.teams]
  rw [Bool.eq_iff_iff, domainReady_iff, domainReady_iff]
  simp only [h.entries, h.ownTeam, hd]

/-- A group of an entry that the state lists once. -/
theorem of_entry (h : Resumed s v) (hn : (s.groups.map Prod.fst).Nodup) {e : Nat × Machine.Group} (he : e ∈ v.groups) :
    (tget s.groups e.1).isSome = true ∧ { e.2 with wait := none } = { groupOf s e.1 with wait := none } := by
  obtain ⟨y, hy, hxy⟩ := (h.entries _).1 ⟨e, he, rfl⟩
  obtain ⟨h1, h2⟩ := Prod.mk.inj hxy
  rw [h1, groupOf_of_mem hn hy, entry_of_nodup hn hy]
  exact ⟨rfl, h2⟩

end Resumed

theorem tget_isSome_of_mem {α : Type} {t : Table α} {e : Nat × α} (h : e ∈ t) : (tget t e.1).isSome = true := by
  induction t with
  | nil => cases h
  | cons x r ih =>
    obtain ⟨j, b⟩ := x
    rw [tget]
    split
    next => rfl
    next hj =>
      rcases List.mem_cons.1 h with rfl | h
      · exact absurd rfl hj
      · exact ih h

theorem Resumed.isSome {s v : State} (h : Resumed s v) {k : Nat} (hk : (tget s.groups k).isSome = true) : (tget v.groups k).isSome = true := by
  obtain ⟨e, he, hx⟩ := (h.entries _).2 ⟨_, mem_groups_of_isSome hk, rfl⟩
  rw [show k = e.1 from (Prod.mk.inj hx).1]
  exact tget_isSome_of_mem he

/-- A group that waits in a phase of a DSYNC wakes, and nothing else changes. -/
theorem Resumed.wake {s v : State} (h : Resumed s v) {k : Nat} (level phase : Nat) (hk : (tget s.groups k).isSome = true) :
    Resumed s (dsyncWake level phase v k) := by
  unfold dsyncWake
  split
  next hw =>
    refine ⟨h.rest ▸ rfl, fun x => (unwaited_woken (h.isSome hk) x).trans (h.entries x), fun j => ?_⟩
    by_cases hj : j = k
    · subst hj
      rcases h.group j with hg | ⟨hg, -⟩
      · exact .inr ⟨by rw [groupOf_setGroup, hg], level, phase, by rw [← hg]; exact hw⟩
      · rw [hg] at hw; cases hw
    · rw [groupOf_setGroup_ne _ hj]; exact h.group j
  next => exact h

/-- The numbers of a group's domain at a level. -/
def memberIds (s : State) (gid level : Nat) : List Nat :=
  (domainMembers s (groupTeam s gid).task level ((groupTeam s gid).dom.getD (level - 3) 0)).map Prod.fst

/-- What a DSYNC does to the groups of its domain. -/
theorem groupOf_dsyncAll (v : State) (k level phase j : Nat) : groupOf (dsyncAll v k level phase) j =
    if domainReady v k level phase = true ∧ (groupOf v j).wait = some (.dsync level phase) ∧ j ∈ memberIds v k level then
      { groupOf v j with wait := none } else groupOf v j := by
  cases hr : domainReady v k level phase with
  | false => rw [dsyncAll_waits hr]; simp
  | true => rw [dsyncAll_ready hr, (foldl_dsyncWake level phase _ v).2]; exact if_congr (by simp [memberIds]) rfl rfl

theorem Resumed.dsyncAll {s v : State} (h : Resumed s v) (hn : (s.groups.map Prod.fst).Nodup) (k level phase : Nat) :
    Resumed s (dsyncAll v k level phase) := by
  cases hr : domainReady v k level phase with
  | false => rwa [dsyncAll_waits hr]
  | true =>
    rw [dsyncAll_ready hr]
    refine List.foldlRecOn _ _ h fun u hu j hj => hu.wake level phase ?_
    obtain ⟨e, he, rfl⟩ := List.mem_map.1 hj
    exact (h.of_entry hn (mem_domainMembers.1 he).1).1

/-- Groups of one domain are ready together. -/
theorem Resumed.ready_of_member {s v : State} (h : Resumed s v) (hn : (s.groups.map Prod.fst).Nodup) {j k level : Nat} (phase : Nat)
    (hm : j ∈ memberIds v k level) : domainReady s j level phase = domainReady v k level phase := by
  obtain ⟨e, he, rfl⟩ := List.mem_map.1 hm
  obtain ⟨h1, h2⟩ := mem_domainMembers.1 he
  have hteam : e.2.team = (groupOf s e.1).team := by
    have hg := congrArg Machine.Group.team (h.of_entry hn h1).2
    exact hg
  simp only [inDomain, Bool.and_eq_true, decide_eq_true_eq, hteam, h.teams, h.ownTeam] at h2
  rw [h.ready, domainReady_eq, domainReady_eq, show groupTeam s e.1 = teamOf s (groupOf s e.1).team from rfl, h2.1, h2.2]

theorem mem_memberIds {v : State} {gid : Nat} (level : Nat) (hi : (tget v.groups gid).isSome = true) : gid ∈ memberIds v gid level :=
  List.mem_map.2 ⟨_, mem_domainMembers.2 ⟨mem_groups_of_isSome hi, by simp [inDomain, groupTeam]⟩, rfl⟩

/-- One group's part of the end of a domain's waits. -/
def domainStep (ident : Nat) (v : State) (k : Nat) : State :=
  match (groupOf v k).wait with
  | some (.dsync l p) => if (groupTeam v k).dom.getD (l - 3) 0 = ident then dsyncAll v k l p else v
  | _ => v

theorem dsyncWakes_eq (s : State) (ident : Nat) : dsyncWakes s ident = (s.groups.map Prod.fst).foldl (domainStep ident) s := by
  rw [List.foldl_map]; rfl

/-- A step is a DSYNC of its group or nothing. -/
theorem domainStep_cases (ident : Nat) (v : State) (k : Nat) :
    domainStep ident v k = v ∨ ∃ l p, domainStep ident v k = dsyncAll v k l p := by
  unfold domainStep
  split
  next l p _ =>
    split
    · exact .inr ⟨l, p, rfl⟩
    · exact .inl rfl
  next => exact .inl rfl

theorem Resumed.step {s v : State} (h : Resumed s v) (hn : (s.groups.map Prod.fst).Nodup) (ident k : Nat) : Resumed s (domainStep ident v k) := by
  rcases domainStep_cases ident v k with he | ⟨l, p, he⟩ <;> rw [he]
  · exact h
  · exact h.dsyncAll hn k l p

/-- A group that waits for nothing is left as it is. -/
theorem groupOf_domainStep_awake {ident k j : Nat} {v : State} (h : (groupOf v j).wait = none) : groupOf (domainStep ident v k) j = groupOf v j := by
  rcases domainStep_cases ident v k with he | ⟨l, p, he⟩ <;> rw [he]
  rw [groupOf_dsyncAll]
  simp [h]

/-- A group whose domain is not ready waits on. -/
theorem groupOf_domainStep_waits {s v : State} {gid level phase : Nat} (h : Resumed s v) (hn : (s.groups.map Prod.fst).Nodup)
    (hw : (groupOf v gid).wait = some (.dsync level phase)) (hr : domainReady s gid level phase = false) (ident k : Nat) :
    groupOf (domainStep ident v k) gid = groupOf v gid := by
  rcases domainStep_cases ident v k with he | ⟨l, p, he⟩ <;> rw [he]
  rw [groupOf_dsyncAll, if_neg]
  rintro ⟨h1, h2, h3⟩
  rw [hw] at h2
  cases h2
  rw [h.ready_of_member hn phase h3, h1] at hr
  cases hr

/-- A group whose domain is ready goes on at its own step. -/
theorem groupOf_domainStep_self {s v : State} {gid level phase : Nat} (h : Resumed s v) (hi : (tget s.groups gid).isSome = true)
    (hw : (groupOf s gid).wait = some (.dsync level phase)) (hr : domainReady s gid level phase = true) :
    groupOf (domainStep ((groupTeam s gid).dom.getD (level - 3) 0) v gid) gid = { groupOf s gid with wait := none } := by
  rcases h.group gid with hg | ⟨hg, -⟩
  · have hwv : (groupOf v gid).wait = some (.dsync level phase) := by rw [hg]; exact hw
    have hd : domainStep ((groupTeam s gid).dom.getD (level - 3) 0) v gid = dsyncAll v gid level phase := by
      rw [domainStep, hwv]
      exact if_pos (by rw [h.ownTeam])
    rw [hd, groupOf_dsyncAll, if_pos ⟨by rw [h.ready, hr], hwv, mem_memberIds level (h.isSome hi)⟩, hg]
  · rw [groupOf_domainStep_awake (by rw [hg]), hg]

/-- The end of a domain's waits, for one of the groups that wait in it. -/
theorem dsync_wakes {s : State} {gid level phase : Nat} (hw : (groupOf s gid).wait = some (.dsync level phase))
    (hi : (tget s.groups gid).isSome = true) (hn : (s.groups.map Prod.fst).Nodup) :
    let u := dsyncWakes s ((groupTeam s gid).dom.getD (level - 3) 0)
    Resumed s u ∧ groupOf u gid = if domainReady s gid level phase = true then { groupOf s gid with wait := none } else groupOf s gid := by
  intro u
  have hall (ks : List Nat) (v : State) (hv : Resumed s v) :
      Resumed s (ks.foldl (domainStep ((groupTeam s gid).dom.getD (level - 3) 0)) v) :=
    List.foldlRecOn _ _ hv fun u hu k _ => hu.step hn _ k
  have hu : u = (s.groups.map Prod.fst).foldl (domainStep ((groupTeam s gid).dom.getD (level - 3) 0)) s := dsyncWakes_eq s _
  refine ⟨hu ▸ hall _ s (.refl s), ?_⟩
  rw [hu]
  cases hr : domainReady s gid level phase with
  | false =>
    refine (List.foldlRecOn (motive := fun v => Resumed s v ∧ groupOf v gid = groupOf s gid) _ _ ⟨.refl s, rfl⟩ fun v hv k _ => ?_).2
    exact ⟨hv.1.step hn _ k, (groupOf_domainStep_waits hv.1 hn (by rw [hv.2]; exact hw) hr _ k).trans hv.2⟩
  | true =>
    obtain ⟨pre, post, hl⟩ := List.append_of_mem (List.mem_map.2 ⟨_, mem_groups_of_isSome hi, rfl⟩ : gid ∈ s.groups.map Prod.fst)
    rw [hl, List.foldl_append, List.foldl_cons]
    have hself := groupOf_domainStep_self (hall pre s (.refl s)) hi hw hr
    refine List.foldlRecOn (motive := fun v => groupOf v gid = { groupOf s gid with wait := none }) _ _ hself fun v hv k _ => ?_
    exact (groupOf_domainStep_awake (by rw [hv])).trans hv

/-! ### Register claims (R17, R135) -/

/-- The waiting REGCLAIMs of a cluster with their places in order. -/
def claimsOf (s : State) (cl : Nat) : List (Nat × Nat) := (residents s cl).filterMap fun e => match e.2.wait with
  | some (.regclaim _ k) => some (e.1, k)
  | _ => none

/-- The earlier of two claims. -/
def earlierClaim (b : Option (Nat × Nat)) (c : Nat × Nat) : Option (Nat × Nat) :=
  match b with
  | none => some c
  | some x => if c.2 < x.2 then some c else some x

theorem serveClaim_eq (s : State) (cl : Nat) : serveClaim s cl = match (claimsOf s cl).foldl earlierClaim none with
    | none => s
    | some (gid, _) => tryWait s gid fun _ => true := rfl

/-- The claim that comes before every other is the one found. -/
theorem foldl_earlierClaim {m : Nat × Nat} {l : List (Nat × Nat)} {b : Option (Nat × Nat)} (hm : m ∈ l ∨ b = some m)
    (hl : ∀ x ∈ l, x = m ∨ m.2 < x.2) (hb : ∀ x, b = some x → x = m ∨ m.2 < x.2) : l.foldl earlierClaim b = some m := by
  induction l generalizing b with
  | nil => exact hm.resolve_left (by simp)
  | cons c r ih =>
    rw [List.foldl_cons]
    have hc := hl c (by simp)
    refine ih ?_ (fun x hx => hl x (by simp [hx])) fun x hx => ?_
    · rcases hm with hm | rfl
      · rcases List.mem_cons.1 hm with rfl | hm
        · right
          cases b with
          | none => rfl
          | some x =>
            rcases hb x rfl with rfl | h
            · simp [earlierClaim]
            · simp [earlierClaim, h]
        · exact .inl hm
      · right
        rcases hc with rfl | h
        · simp [earlierClaim]
        · simp [earlierClaim, Nat.not_lt.2 (Nat.le_of_lt h)]
    · cases b with
      | none => cases hx; exact hc
      | some y =>
        rw [earlierClaim] at hx
        split at hx <;> cases hx
        · exact hc
        · exact hb _ rfl

theorem mem_claimsOf {s : State} {cl : Nat} {x : Nat × Nat} : x ∈ claimsOf s cl ↔
    ∃ e ∈ s.groups, clusterOfGroup e.2 = some cl ∧ e.1 = x.1 ∧ ∃ n, e.2.wait = some (.regclaim n x.2) := by
  rw [claimsOf, List.mem_filterMap]
  constructor
  · rintro ⟨e, he, hx⟩
    obtain ⟨h1, h2⟩ := mem_residents.1 he
    split at hx <;> cases hx
    next n k hw => exact ⟨e, h1, h2, rfl, n, hw⟩
  · rintro ⟨e, h1, h2, h3, n, h4⟩
    exact ⟨e, mem_residents.2 ⟨h1, h2⟩, by rw [h4, h3]⟩

theorem claimBefore_eq_false {s : State} {cl order : Nat} : claimBefore s cl order = false ↔ ∀ x ∈ claimsOf s cl, order ≤ x.2 := by
  rw [claimBefore, List.any_eq_false]
  constructor
  · intro h x hx
    obtain ⟨e, h1, h2, h3, n, h4⟩ := mem_claimsOf.1 hx
    simpa [h4] using h e (mem_residents.2 ⟨h1, h2⟩)
  · intro h e he
    obtain ⟨h1, h2⟩ := mem_residents.1 he
    split
    next n k hw => simpa using h (e.1, k) (mem_claimsOf.2 ⟨e, h1, h2, rfl, n, hw⟩)
    next => simp

theorem clusterOfGroup_eq_some {g : Machine.Group} {c : Nat} : clusterOfGroup g = some c ↔ ∃ k, g.place = .resident c k := by
  unfold clusterOfGroup; split <;> simp_all

/-- The claim of a cluster that comes first is served where the pool holds it. -/
theorem claim_served {s : State} {gid c k n order : Nat} (hp : (groupOf s gid).place = .resident c k)
    (hw : (groupOf s gid).wait = some (.regclaim n order)) (hi : (tget s.groups gid).isSome = true)
    (hl : ∀ e ∈ s.groups, e.1 ≠ gid → ∀ m o k', e.2.place = .resident c k' → e.2.wait = some (.regclaim m o) → order < o)
    (hn : (s.groups.map Prod.fst).Nodup) : serveClaim s c = if n ≤ poolFree s c then
      setGroup s gid { groupOf s gid with wait := none, regcnt := (groupOf s gid).regcnt + n, regclaimReady := false } else s := by
  have hg : clusterOfGroup (groupOf s gid) = some c := clusterOfGroup_eq_some.2 ⟨k, hp⟩
  have hmin (x : Nat × Nat) (hx : x ∈ claimsOf s c) : x = (gid, order) ∨ order < x.2 := by
    obtain ⟨e, h1, h2, h3, m, h4⟩ := mem_claimsOf.1 hx
    by_cases he : e.1 = gid
    · rw [← groupOf_of_mem hn h1, he, hw] at h4
      cases h4
      exact .inl (Prod.ext (h3.symm.trans he) rfl)
    · obtain ⟨k', hk'⟩ := clusterOfGroup_eq_some.1 h2
      exact .inr (hl e h1 he m x.2 k' hk' h4)
  have hf := foldl_earlierClaim (b := none) (.inl (mem_claimsOf.2 ⟨_, mem_groups_of_isSome hi, hg, rfl, n, hw⟩)) hmin (by simp)
  have hb : claimBefore s c order = false := claimBefore_eq_false.2 fun x hx => by
    rcases hmin x hx with rfl | h
    · exact Nat.le_refl _
    · exact Nat.le_of_lt h
  rw [serveClaim_eq, hf]
  show tryWait s gid (fun _ => true) = _
  rw [tryWait_resident ⟨c, k, hp⟩ hw rfl, waitMet_regclaim hp, hb]
  simp [waitEffect, woken]

end Sys2Proof.Proofs

namespace Sys2Proof.Proofs
open Sys2Proof.Machine Sys2Proof.Safety

/-! ### Bytes of Lining writes that an engine still holds back (R255, R288) -/

/-- Byte `i` of a little-endian value (R7). -/
theorem ofNat_leVal_getD (bs : List Byte) {i : Nat} (h : i < bs.length) : BitVec.ofNat 8 (leVal bs / 2 ^ (8 * i)) = bs.getD i 0 := by
  induction bs generalizing i with
  | nil => simp at h
  | cons b r ih =>
    cases i with
    | zero => exact BitVec.eq_of_toNat_eq (by have := b.isLt; simp only [leVal, BitVec.toNat_ofNat, List.getD_cons_zero]; omega)
    | succ i =>
      have hd : leVal (b :: r) / 2 ^ (8 * (i + 1)) = leVal r / 2 ^ (8 * i) := by
        have hb := b.isLt
        rw [leVal, show 8 * (i + 1) = 8 + 8 * i by omega, Nat.pow_add, ← Nat.div_div_eq_div_mul]
        congr 1
        omega
      rw [hd, List.getD_cons_succ]
      exact ih (by simpa using h)

/-- A late write performed. -/
def lateStep (f : Nat) (s : State) (w : LateWrite) : State := placePut s noCore f w.space w.addr w.bytes w.poison

theorem performLate_eq (s : State) (f : Nat) (ws : List LateWrite) : performLate s f ws = ws.foldl (lateStep f) s := rfl

/-- What a late write to device memory changes, where no Polder line is held. -/
theorem lateStep_dev {s : State} {w : LateWrite} (f : Nat) (h : NoPolder s) (hs : w.space = .dev) : lateStep f s w = invalidateBlocks { s with
    mem := memWrite s.mem w.addr w.bytes, memPoison := poisonAfter s.memPoison w.addr w.bytes.length w.poison } noCore w.addr w.bytes.length := by
  unfold lateStep
  rw [hs]
  simp only [placePut, spaceWrite, recallRange_noPolder _ _ _ _ h, rawWrite, if_true]

theorem lateStep_host {s : State} {w : LateWrite} (f : Nat) (h : NoPolder s) (hs : w.space = .host) :
    lateStep f s w = hostSend s f w.addr .write w.bytes w.poison := by
  unfold lateStep
  rw [hs]
  simp only [placePut, spaceWrite, recallRange_noPolder _ _ _ _ h, rawWrite]
  rfl

theorem lateStep_cores {s : State} {w : LateWrite} (f : Nat) (h : NoPolder s) (hs : w.space = .dev ∨ w.space = .host) :
    (lateStep f s w).cores = s.cores := by
  rcases hs with hs | hs
  · rw [lateStep_dev f h hs, cores_invalidateBlocks]
  · rw [lateStep_host f h hs]; rfl

theorem lateStep_noPolder {s : State} {w : LateWrite} (f : Nat) (h : NoPolder s) (hs : w.space = .dev ∨ w.space = .host) :
    NoPolder (lateStep f s w) :=
  ⟨Canonical.after_placePut h.1, by rw [lateStep_cores f h hs]; exact h.2⟩

/-- The bytes after a late write. -/
theorem placed_lateStep {s : State} {w : LateWrite} (f core : Nat) (h : NoPolder s) (hs : w.space = .dev ∨ w.space = .host) {sp : Space} {a : Nat}
    (hp : sp ≠ .peer) : placed (lateStep f s w) core sp a =
      if w.space = sp ∧ w.addr ≤ a ∧ a < w.addr + w.bytes.length then w.bytes.getD (a - w.addr) 0 else placed s core sp a := by
  have hc : coreOf (lateStep f s w) core = coreOf s core := coreOf_congr (lateStep_cores f h hs) core
  have hcan : Canonical s := h.1
  rcases hs with hs | hs
  · have hm : (lateStep f s w).mem = memWrite s.mem w.addr w.bytes ∧ (lateStep f s w).hostMem = s.hostMem := by
      rw [lateStep_dev f h hs, (invalidateBlocks_invalidated _ _ _ _).1]; exact ⟨rfl, rfl⟩
    cases sp with
    | dev => simp only [placed, hm.1, memGet_memWrite _ _ _ _ hcan.mem, hs, true_and]
    | host => simp [placed, hm.2, hs]
    | spad => simp [placed, hc, hs]
    | peer => exact absurd rfl hp
  · have hm : (lateStep f s w).mem = s.mem ∧ (lateStep f s w).hostMem = memWrite s.hostMem w.addr w.bytes := by
      rw [lateStep_host f h hs]; exact ⟨rfl, rfl⟩
    cases sp with
    | dev => simp [placed, hm.1, hs]
    | host => simp only [placed, hm.2, memGet_memWrite _ _ _ _ hcan.hostMem, hs, true_and]
    | spad => simp [placed, hc, hs]
    | peer => exact absurd rfl hp

theorem storedFrame_refl (s : State) : StoredFrame s s := ⟨rfl, fun _ => rfl, fun _ => rfl⟩

theorem storedFrame_trans {s t u : State} (h : StoredFrame s t) (h' : StoredFrame t u) : StoredFrame s u := by
  obtain ⟨h1, h2, h3⟩ := h
  obtain ⟨i1, i2, i3⟩ := h'
  exact ⟨i1.trans (by rw [h1]), fun k => (i2 k).trans (by rw [h2 k]), fun k => (i3 k).trans (by rw [h3 k])⟩

theorem storedFrame_lateStep {s : State} {w : LateWrite} (f : Nat) (h : NoPolder s) (hs : w.space = .dev ∨ w.space = .host) :
    StoredFrame s (lateStep f s w) := by
  have hc (k : Nat) : coreOf (lateStep f s w) k = coreOf s k := coreOf_congr (lateStep_cores f h hs) k
  have ht : ∀ k, teamOf (lateStep f s w) k = { teamOf s k with blocks := (teamOf (lateStep f s w) k).blocks } := by
    have : Touched s (lateStep f s w) := by
      unfold lateStep placePut
      rcases hs with hs | hs <;> rw [hs] <;> exact Touched.spaceWrite _ _ _ _ _ _
    exact this.2.1
  refine ⟨?_, ht, fun k => by rw [hc k]⟩
  rcases hs with hs | hs
  · rw [lateStep_dev f h hs]
    conv => lhs; rw [(invalidateBlocks_invalidated _ _ _ _).1]
    conv => rhs; rw [(invalidateBlocks_invalidated _ _ _ _).1]
  · rw [lateStep_host f h hs]; rfl

/-- Late writes performed in order are stores, the last of each byte standing. -/
theorem performLate_stored (f core : Nat) (ws : List LateWrite) {s : State} (h : NoPolder s) (hs : ∀ w ∈ ws, w.space = .dev ∨ w.space = .host) :
    StoredFrame s (performLate s f ws) ∧ Stored s (performLate s f ws) core (lateElems ws) ∧ (performLate s f ws).cores = s.cores := by
  rw [performLate_eq]
  induction ws generalizing s with
  | nil => exact ⟨storedFrame_refl s, ⟨fun _ _ _ _ => rfl, fun pre e post i he => by simp [lateElems] at he, fun _ _ => rfl⟩, rfl⟩
  | cons w r ih =>
    have hw := hs w (by simp)
    obtain ⟨hframe, ⟨hsame, hdata, -⟩, hcores⟩ := ih (lateStep_noPolder f h hw) fun x hx => hs x (by simp [hx])
    have hc : (r.foldl (lateStep f) (lateStep f s w)).cores = s.cores := hcores.trans (lateStep_cores f h hw)
    refine ⟨storedFrame_trans (storedFrame_lateStep f h hw) hframe, ⟨fun sp a hp he => ?_, fun pre e post i he hp hi hx => ?_, fun k _ => ?_⟩, hc⟩
    · refine (hsame sp a hp fun e hm => he e (List.mem_cons_of_mem _ hm)).trans ?_
      rw [placed_lateStep f core h hw hp, if_neg]
      rintro ⟨h1, h2⟩
      exact he _ List.mem_cons_self ⟨h1, h2⟩
    · cases pre with
      | nil =>
        obtain ⟨rfl, rfl⟩ := List.cons.inj he
        refine (hsame _ _ hp hx).trans ?_
        rw [placed_lateStep f core h hw hp, if_pos ⟨rfl, Nat.le_add_right _ _, Nat.add_lt_add_left hi _⟩, Nat.add_sub_cancel_left,
          ofNat_leVal_getD _ hi]
      | cons y pre =>
        exact hdata pre e post i (List.cons.inj he).2 hp hi hx
    · exact congrArg Core.sp (coreOf_congr hc k)

end Sys2Proof.Proofs

namespace Sys2Proof.Proofs
open Sys2Proof.Machine Sys2Proof.Safety

/-! ### What a written-back line leaves alone (R205) -/

/-- Cores, teams, device and host memory are as they were. -/
def SameBytes (s u : State) : Prop := u.cores = s.cores ∧ u.teams = s.teams ∧ u.mem = s.mem ∧ u.hostMem = s.hostMem

theorem SameBytes.refl (s : State) : SameBytes s s := ⟨rfl, rfl, rfl, rfl⟩

theorem SameBytes.trans {s t u : State} (h : SameBytes s t) (h' : SameBytes t u) : SameBytes s u :=
  ⟨h'.1.trans h.1, h'.2.1.trans h.2.1, h'.2.2.1.trans h.2.2.1, h'.2.2.2.trans h.2.2.2⟩

theorem sameBytes_setEvent (s : State) (f bit : Nat) : SameBytes s (setEvent s f bit) := by
  unfold setEvent
  dsimp only
  split
  · exact .refl s
  · exact ⟨rfl, rfl, rfl, rfl⟩

theorem sameBytes_peerSend (s : State) (f a : Nat) : SameBytes s (peerSend s f a) := by
  unfold peerSend
  split
  · exact .refl s
  · unfold sendFlit
    dsimp only
    split <;> exact ⟨rfl, rfl, rfl, rfl⟩

theorem sameBytes_rawWrite (s : State) (f : Nat) {sp : Space} (a : Nat) (bytes : List Byte) (poison : Bool) (hd : sp ≠ .dev) (hh : sp ≠ .host) :
    SameBytes s (rawWrite s f sp a bytes poison) := by
  cases sp with
  | dev => exact absurd rfl hd
  | host => exact absurd rfl hh
  | spad => exact .refl s
  | peer =>
    unfold rawWrite
    dsimp only
    split
    · exact sameBytes_setEvent s 0 7
    · exact ⟨rfl, rfl, rfl, rfl⟩

/-- A clean line, or one of a peer, changes no byte of device or host memory. -/
theorem sameBytes_writeBack (s : State) (k n : Nat) {l : PolderLine} (h : l.dirty = false ∨ (l.frame.space ≠ .dev ∧ l.frame.space ≠ .host)) :
    SameBytes s (writeBack s k n l) := by
  unfold writeBack
  split
  next hd =>
    obtain ⟨h1, h2⟩ := h.resolve_left (by simp [hd])
    have hsend : SameBytes s (if l.frame.space = .peer then peerSend s l.func l.frame.pa else s) := by
      split
      · exact sameBytes_peerSend s _ _
      · exact .refl s
    dsimp only
    rw [if_neg h1]
    exact List.foldlRecOn _ _ hsend fun u hu i _ => hu.trans (sameBytes_rawWrite u _ _ _ _ h1 h2)
  next => exact .refl s

theorem writeBack_cores (s : State) (k n : Nat) (l : PolderLine) : (writeBack s k n l).cores = s.cores := by
  cases hd : l.dirty with
  | false => exact (sameBytes_writeBack s k n (.inl hd)).1
  | true =>
    cases hs : l.frame.space with
    | dev => rw [writeBack_dev hd hs, cores_invalidateBlocks]
    | host => rw [writeBack_host hd hs]
    | peer | spad => exact (sameBytes_writeBack s k n (.inr (by simp [hs]))).1

theorem mem_invalidateBlocks (s : State) (core a n : Nat) : (invalidateBlocks s core a n).mem = s.mem := by
  rw [(invalidateBlocks_invalidated s core a n).1]

theorem hostMem_invalidateBlocks (s : State) (core a n : Nat) : (invalidateBlocks s core a n).hostMem = s.hostMem := by
  rw [(invalidateBlocks_invalidated s core a n).1]

/-- The bytes of device and host memory after a line is written back. -/
theorem placed_writeBack {s : State} (hc : Canonical s) (core n : Nat) (l : PolderLine) {sp : Space} (a : Nat) (hsp : sp = .dev ∨ sp = .host) :
    placed (writeBack s core n l) core sp a =
      if l.dirty = true ∧ l.frame.space = sp ∧ l.frame.pa ≤ a ∧ a < l.frame.pa + 128 then memGet (coreOf s core).sp (128 * n + (a - l.frame.pa))
      else placed s core sp a := by
  have hget : a < l.frame.pa + 128 → l.frame.pa ≤ a →
      (memRead (coreOf s core).sp (128 * n) 128).getD (a - l.frame.pa) 0 = memGet (coreOf s core).sp (128 * n + (a - l.frame.pa)) := fun h1 h2 => by
    simp [memRead, List.getD_eq_getElem?_getD, show a - l.frame.pa < 128 by omega]
  by_cases hb : l.dirty = false ∨ (l.frame.space ≠ .dev ∧ l.frame.space ≠ .host)
  · obtain ⟨-, -, hm, hh⟩ := sameBytes_writeBack s core n hb
    rw [if_neg]
    · rcases hsp with rfl | rfl
      · rw [placed, placed, hm]
      · rw [placed, placed, hh]
    · rintro ⟨h1, rfl, -⟩
      rcases hb with hb | ⟨hb1, hb2⟩
      · rw [h1] at hb; cases hb
      · rcases hsp with hsp | hsp
        · exact hb1 hsp
        · exact hb2 hsp
  · have hd : l.dirty = true := by
      cases hd : l.dirty with
      | false => exact absurd (.inl hd) hb
      | true => rfl
    have hspace : l.frame.space = .dev ∨ l.frame.space = .host := by
      by_contra hn
      exact hb (.inr (not_or.1 hn))
    have hput (m : Mem) (hm : memWf m = true) : memGet (memWrite m l.frame.pa (memRead (coreOf s core).sp (128 * n) 128)) a =
        if l.frame.pa ≤ a ∧ a < l.frame.pa + 128 then memGet (coreOf s core).sp (128 * n + (a - l.frame.pa)) else memGet m a := by
      rw [memGet_memWrite _ _ _ _ hm, memRead_length]
      split
      next h => exact hget h.2 h.1
      next => rfl
    rcases hspace with hs | hs
    · have hm : (writeBack s core n l).mem = memWrite s.mem l.frame.pa (memRead (coreOf s core).sp (128 * n) 128) ∧
          (writeBack s core n l).hostMem = s.hostMem := by
        constructor
        · rw [writeBack_dev hd hs, mem_invalidateBlocks]
        · rw [writeBack_dev hd hs, hostMem_invalidateBlocks]
      rcases hsp with rfl | rfl
      · simp only [placed, hm.1, hput _ hc.mem, hd, hs, true_and]
      · simp [placed, hm.2, hs]
    · have hm : (writeBack s core n l).mem = s.mem ∧
          (writeBack s core n l).hostMem = memWrite s.hostMem l.frame.pa (memRead (coreOf s core).sp (128 * n) 128) := by
        constructor
        · rw [writeBack_host hd hs]
        · rw [writeBack_host hd hs]
      rcases hsp with rfl | rfl
      · simp [placed, hm.1, hs]
      · simp only [placed, hm.2, hput _ hc.hostMem, hd, hs, true_and]

theorem sameTeams_refl (s : State) : SameTeams s s := ⟨fun _ => rfl, fun _ _ => rfl⟩

theorem sameTeams_trans {s t u : State} (h : SameTeams s t) (h' : SameTeams t u) : SameTeams s u :=
  ⟨fun k => (h'.1 k).trans (by rw [h.1 k]), fun k n => (h'.2 k n).trans (h.2 k n)⟩

theorem sameTeams_of_teams {s u : State} (h : u.teams = s.teams) : SameTeams s u := by
  have ht (k : Nat) : teamOf u k = teamOf s k := by rw [teamOf, teamOf, h]
  exact ⟨fun k => by rw [ht k], fun k n => by rw [ht k]⟩

theorem sameTeams_invalidateBlocks (s : State) (core a n : Nat) : SameTeams s (invalidateBlocks s core a n) := by
  have h (k : Nat) := ((foldl_unblockStep core a n s.teams s).2 k).1
  refine ⟨fun k => ?_, fun k i => ?_⟩
  · rcases h k with h | h
    · rw [show teamOf (invalidateBlocks s core a n) k = _ from h]
    · rw [show teamOf (invalidateBlocks s core a n) k = _ from h]; rfl
  · rcases h k with h | h
    · rw [show teamOf (invalidateBlocks s core a n) k = _ from h]
    rw [show teamOf (invalidateBlocks s core a n) k = _ from h, unblocked, tget_map]
    cases tget (teamOf s k).blocks i <;> rfl

theorem sameTeams_writeBack (s : State) (k n : Nat) (l : PolderLine) : SameTeams s (writeBack s k n l) := by
  cases hd : l.dirty with
  | false => exact sameTeams_of_teams (sameBytes_writeBack s k n (.inl hd)).2.1
  | true =>
    cases hs : l.frame.space with
    | dev =>
      rw [writeBack_dev hd hs]
      refine sameTeams_trans ?_ (sameTeams_invalidateBlocks _ _ _ _)
      exact sameTeams_of_teams rfl
    | host => rw [writeBack_host hd hs]; exact sameTeams_of_teams rfl
    | peer | spad => exact sameTeams_of_teams (sameBytes_writeBack s k n (.inr (by simp [hs]))).2.1

end Sys2Proof.Proofs

namespace Sys2Proof.Proofs
open Sys2Proof.Machine Sys2Proof.Safety

/-! ### PFLUSH (R140) -/

/-- A Polder line without its mark of being dirty. -/
def cleaned (y : PolderLine) : PolderLine := { y with dirty := false }

/-- One line's part of a PFLUSH. -/
def flushStep (core : Nat) (s : State) (l : Nat) : State :=
  match tget (coreOf s core).lines l with
  | none => s
  | some x => let s := writeBack s core l x
    setCore s core { coreOf s core with lines := tset (coreOf s core).lines l { x with dirty := false } }

theorem flushStep_some {s : State} {core l : Nat} {x : PolderLine} (h : tget (coreOf s core).lines l = some x) : flushStep core s l =
    setCore (writeBack s core l x) core { coreOf s core with lines := tset (coreOf s core).lines l (cleaned x) } := by
  unfold flushStep
  rw [h]
  dsimp only
  rw [coreOf_congr (writeBack_cores s core l x) core]
  rfl

theorem flushStep_none {s : State} {core l : Nat} (h : tget (coreOf s core).lines l = none) : flushStep core s l = s := by
  unfold flushStep; rw [h]

theorem flushStep_touched (s : State) (core l : Nat) : Touched s (flushStep core s l) := by
  unfold flushStep
  split
  · exact .refl s
  · exact (Touched.writeBack core l _).trans (Touched.setCore core _ _ _ _)

theorem flushStep_sameTeams (s : State) (core l : Nat) : SameTeams s (flushStep core s l) := by
  cases h : tget (coreOf s core).lines l with
  | none => rw [flushStep_none h]; exact sameTeams_refl s
  | some x => rw [flushStep_some h]; exact sameTeams_writeBack s core l x

theorem flushStep_canonical {s : State} (hc : Canonical s) (core l : Nat) : Canonical (flushStep core s l) := by
  cases h : tget (coreOf s core).lines l with
  | none => rwa [flushStep_none h]
  | some x => rw [flushStep_some h]; exact hc.after_writeBack.after_setCore hc.frame_core

theorem flushStep_sp (s : State) (core l k : Nat) : (coreOf (flushStep core s l) k).sp = (coreOf s k).sp := by
  cases h : tget (coreOf s core).lines l with
  | none => rw [flushStep_none h]
  | some x =>
    rw [flushStep_some h]
    by_cases hk : k = core
    · subst hk; rw [coreOf_setCore]
    · rw [coreOf_setCore_ne _ hk, coreOf_congr (writeBack_cores s core l x) k]

theorem flushStep_lines_same (s : State) (core l : Nat) :
    tget (coreOf (flushStep core s l) core).lines l = (tget (coreOf s core).lines l).map cleaned := by
  cases h : tget (coreOf s core).lines l with
  | none => rw [flushStep_none h, h]; rfl
  | some x => rw [flushStep_some h, coreOf_setCore, tget_tset_same]; rfl

theorem flushStep_lines_ne (s : State) (core : Nat) {l j : Nat} (hj : j ≠ l) :
    tget (coreOf (flushStep core s l) core).lines j = tget (coreOf s core).lines j := by
  cases h : tget (coreOf s core).lines l with
  | none => rw [flushStep_none h]
  | some x => rw [flushStep_some h, coreOf_setCore, tget_tset_ne _ hj]

/-- The bytes of device and host memory after one line's part of a PFLUSH. -/
theorem placed_flushStep {s : State} (hc : Canonical s) {core l : Nat} {y : PolderLine} (h : tget (coreOf s core).lines l = some y) {sp : Space}
    (a : Nat) (hsp : sp = .dev ∨ sp = .host) : placed (flushStep core s l) core sp a =
      if y.dirty = true ∧ y.frame.space = sp ∧ y.frame.pa ≤ a ∧ a < y.frame.pa + 128 then memGet (coreOf s core).sp (128 * l + (a - y.frame.pa))
      else placed s core sp a := by
  rw [flushStep_some h, ← placed_writeBack hc core l y a hsp]
  rcases hsp with rfl | rfl <;> rfl

/-- The lines that a test names are flushed in `u`, and nothing else has changed. -/
structure Flushed (w u : State) (core : Nat) (p : Nat → Prop) : Prop where
  touched : Touched w u
  teams : SameTeams w u
  sp : ∀ k, (coreOf u k).sp = (coreOf w k).sp
  named : ∀ l, p l → tget (coreOf u core).lines l = (tget (coreOf w core).lines l).map cleaned
  others : ∀ l, ¬p l → tget (coreOf u core).lines l = tget (coreOf w core).lines l
  bytes : Canonical w → Canonical u ∧ WrittenBack w u core p

theorem writtenBack_congr {w u v : State} {core : Nat} {p q : Nat → Prop}
    (hp : ∀ l y, tget (coreOf w core).lines l = some y → y.dirty = true → (p l ↔ q l))
    (hv : ∀ sp a, sp = .dev ∨ sp = .host → placed v core sp a = placed u core sp a) (h : WrittenBack w u core p) : WrittenBack w v core q := by
  obtain ⟨h1, h2⟩ := h
  refine ⟨fun l y hy hs hd i hi => ?_, fun sp a hs ha => ?_⟩
  · refine (hv _ _ hs).trans (h1 l y ⟨(hp l y hy.2.1 hy.2.2).2 hy.1, hy.2⟩ hs (fun l' y' hy' => hd l' y' ?_) i hi)
    exact ⟨(hp l' y' hy'.2.1 hy'.2.2).1 hy'.1, hy'.2⟩
  · refine (hv _ _ hs).trans (h2 sp a hs fun l y hy => ha l y ?_)
    exact ⟨(hp l y hy.2.1 hy.2.2).1 hy.1, hy.2⟩

/-- A dirty line more that is written back. -/
theorem writtenBack_flushStep {w u : State} {core l : Nat} {p : Nat → Prop} {y : PolderLine} (hc : Canonical u)
    (hw : tget (coreOf w core).lines l = some y) (hu : tget (coreOf u core).lines l = some y) (hd : y.dirty = true)
    (hsp : (coreOf u core).sp = (coreOf w core).sp) (h : WrittenBack w u core p) :
    WrittenBack w (flushStep core u l) core fun x => p x ∨ x = l := by
  obtain ⟨h1, h2⟩ := h
  refine ⟨fun j x hx hs hdis i hi => ?_, fun sp a hs ha => ?_⟩
  · rw [placed_flushStep hc hu _ hs]
    by_cases hj : j = l
    · subst hj
      rw [hw] at hx
      obtain rfl : y = x := Option.some.inj hx.2.1
      rw [if_pos ⟨hd, rfl, Nat.le_add_right _ _, Nat.add_lt_add_left hi _⟩, hsp, Nat.add_sub_cancel_left]
    · have hjp : p j := hx.1.resolve_right hj
      rw [if_neg]
      · exact h1 j x ⟨hjp, hx.2⟩ hs (fun l' y' hy' => hdis l' y' ⟨.inl hy'.1, hy'.2⟩) i hi
      · rintro ⟨-, hsame, hlo, hhi⟩
        have := hdis l y ⟨.inr rfl, hw, hd⟩ (Ne.symm hj) hsame
        omega
  · rw [placed_flushStep hc hu _ hs, if_neg]
    · exact h2 sp a hs fun j x hx => ha j x ⟨.inl hx.1, hx.2⟩
    · rintro ⟨-, hsame, hin⟩
      exact ha l y ⟨.inr rfl, hw, hd⟩ hsame hin

theorem Flushed.step {w u : State} {core : Nat} {p : Nat → Prop} (h : Flushed w u core p) (l : Nat) :
    Flushed w (flushStep core u l) core fun x => p x ∨ x = l := by
  refine ⟨h.touched.trans (flushStep_touched u core l), sameTeams_trans h.teams (flushStep_sameTeams u core l),
    fun k => (flushStep_sp u core l k).trans (h.sp k), fun j hj => ?_, fun j hj => ?_, fun hc => ?_⟩
  · by_cases he : j = l
    · subst he
      rw [flushStep_lines_same]
      by_cases hp : p j
      · rw [h.named j hp, Option.map_map]; rfl
      · rw [h.others j hp]
    · rw [flushStep_lines_ne u core he, h.named j (hj.resolve_right he)]
  · obtain ⟨hp, he⟩ := not_or.1 hj
    rw [flushStep_lines_ne u core he, h.others j hp]
  · obtain ⟨hcu, hb⟩ := h.bytes hc
    refine ⟨flushStep_canonical hcu core l, ?_⟩
    cases hl : tget (coreOf u core).lines l with
    | none =>
      have hn : tget (coreOf w core).lines l = none := by
        by_cases hp : p l
        · rw [h.named l hp] at hl; exact Option.map_eq_none_iff.1 hl
        · rw [← h.others l hp, hl]
      refine writtenBack_congr (fun j y hy _ => ⟨.inl, fun hj => hj.resolve_right fun he => ?_⟩) (fun sp a _ => by rw [flushStep_none hl]) hb
      rw [he, hn] at hy; cases hy
    | some x =>
      by_cases hx : x.dirty = true
      · have hp : ¬p l := fun hp => by
          rw [h.named l hp] at hl
          obtain ⟨y, -, rfl⟩ := Option.map_eq_some_iff.1 hl
          cases hx
        exact writtenBack_flushStep hcu (by rw [← h.others l hp, hl]) hl hx (h.sp core) hb
      · refine writtenBack_congr (fun j y hy hd => ⟨.inl, fun hj => hj.elim id fun he => ?_⟩)
          (fun sp a hs => by rw [placed_flushStep hcu hl a hs, if_neg (fun hn => hx hn.1)]) hb
        by_contra hp
        rw [he] at hy hp
        rw [h.others l hp, hy] at hl
        exact hx (Option.some.inj hl ▸ hd)

theorem Flushed.refl (w : State) (core : Nat) : Flushed w w core fun _ => False :=
  ⟨.refl w, sameTeams_refl w, fun _ => rfl, fun _ h => h.elim, fun _ _ => rfl,
    fun h => ⟨h, fun _ _ hy => hy.1.elim, fun _ _ _ _ => rfl⟩⟩

theorem foldl_flushStep (w : State) (core : Nat) (ls : List Nat) : Flushed w (ls.foldl (flushStep core) w) core fun l => l ∈ ls := by
  have h (p : Nat → Prop) (u : State) (hu : Flushed w u core p) : Flushed w (ls.foldl (flushStep core) u) core fun l => p l ∨ l ∈ ls := by
    induction ls generalizing p u with
    | nil => simpa using hu
    | cons l r ih =>
      have := ih _ _ (hu.step l)
      simpa only [List.foldl_cons, List.mem_cons, or_assoc] using this
  simpa using h _ w (.refl w core)

/-- A PFLUSH may end: the group's scratchpad accesses are performed, and each of its dirty lines can be written back. -/
theorem waitMet_pflush {s : State} {gid a n : Nat} : waitMet s gid (.pflush a n) = true ↔
    (∀ o ∈ (groupOf s gid).ops, ∀ e ∈ opElems o, e.space ≠ .spad) ∧
      ∀ l ∈ dirtyLines (coreOf s (teamOf s (teamId s gid)).core) a n,
        rangeLocked (coreOf s (teamOf s (teamId s gid)).core) none (128 * l) 128 = false ∧
          ∀ y, tget (coreOf s (teamOf s (teamId s gid)).core).lines l = some y → lineGoes s y = true := by
  have hgoes (x : Option PolderLine) : (x.map (lineGoes s)).getD true = true ↔ ∀ y, x = some y → lineGoes s y = true := by cases x <;> simp
  simp only [waitMet, spadQuiet, Bool.and_eq_true, List.all_eq_true, decide_eq_true_eq, Bool.not_eq_true', hgoes]
  rfl

theorem pflush_effect (s : State) (gid a n : Nat) : waitEffect (woken s gid) gid (.pflush a n) =
    (dirtyLines (coreOf s (teamOf s (teamId s gid)).core) a n).foldl (flushStep (teamOf s (teamId s gid)).core) (woken s gid) := by
  have ht : (groupOf (woken s gid) gid).team = teamId s gid := by rw [groupOf_woken]; rfl
  rw [waitEffect]
  rw [ht]
  rfl

end Sys2Proof.Proofs

namespace Sys2Proof.Proofs
open Sys2Proof.Machine Sys2Proof.Safety

/-- Events that leave equal states. -/
theorem next_congr {u v : State} (h : u = v) : (Host.Outcome.next u : Host.Outcome State Fault Refusal) = .next v := congrArg _ h

/-! ### SPAWN's waits (R133, R219) -/

theorem tryWait_waits {s : State} {gid : Nat} {p : Wait → Bool} {w : Wait} (hr : Resident s gid) (hw : (groupOf s gid).wait = some w)
    (hp : p w = true) (hm : waitMet s gid w = false) : tryWait s gid p = s := by rw [tryWait_resident hr hw hp, if_neg (by simp [hm])]

theorem tryWait_ends {s : State} {gid : Nat} {p : Wait → Bool} {w : Wait} (hr : Resident s gid) (hw : (groupOf s gid).wait = some w)
    (hp : p w = true) (hm : waitMet s gid w = true) : tryWait s gid p = waitEffect (woken s gid) gid w := by
  rw [tryWait_resident hr hw hp, if_pos hm]

/-- A SPAWN that may read its descriptor: it goes on to wait for room, or its lanes die. -/
theorem spawnRead_effect {s : State} {gid : Nat} (sd h q : Nat) (waits : Bool) (id : Nat) (e : Elem) :
    let tm := teamOf s (teamId s gid)
    let got := placeGet (woken s gid) tm.core tm.func e.space e.addr e.size
    waitEffect (woken s gid) gid (.spawnRead sd h q waits id e) = if got.2.1 = true then
      lanesDie got.2.2 gid (groupOf s gid).waitSplit (runningLanes (groupOf s gid) &&& halfMask (groupOf s gid) h) 6
        (splitOf (groupOf s gid) (groupOf s gid).waitSplit).pc
      else setGroup got.2.2 gid { groupOf got.2.2 gid with wait := some (.spawnRoom sd h q waits got.1) } := by
  have hg : groupOf (woken s gid) gid = { groupOf s gid with wait := none } := groupOf_woken s gid
  intro tm got
  rw [waitEffect]
  rw [hg]
  rfl

/-- The state in which a SPAWN's descriptor stands in its queue. -/
def spawned (s : State) (gid q : Nat) (b : List Byte) : State :=
  let tm := teamOf s (teamId s gid)
  let die := dieOfCore tm.core
  let y := setTask { woken s gid with nextId := s.nextId + 1 } s.nextId (newTask (descWords b) tm.func tm.asid (.hw die q))
  setDie y die { dieOf y die with queues := tset (dieOf y die).queues q (hwQueue s die q ++ [s.nextId]) }

/-- Whether a descriptor names one of its events for the SPAWN that waits (R133). -/
def OneEvent (b : List Byte) : Prop := (eventCodes (wordAt b 0)).1 = 1 ∨ (eventCodes (wordAt b 0)).2.1 = 1 ∨ (eventCodes (wordAt b 0)).2.2 = 1

theorem spawnRoom_effect (s : State) (gid sd h q : Nat) (waits : Bool) (b : List Byte) :
    waitEffect (woken s gid) gid (.spawnRoom sd h q waits b) =
      let z := spawned s gid q b
      if (!waits) = true then writeS z gid h sd 0
      else if (eventCodes (wordAt b 0)).1 ≠ 1 ∧ (eventCodes (wordAt b 0)).2.1 ≠ 1 ∧ (eventCodes (wordAt b 0)).2.2 ≠ 1 then writeS z gid h sd 2
      else setGroup z gid { groupOf z gid with wait := some (.spawnEvent sd h s.nextId) } := by
  have ht : (groupOf (woken s gid) gid).team = teamId s gid := by rw [groupOf_woken]; rfl
  rw [waitEffect]
  rw [ht]
  rfl

theorem spawnRoom_ends {s : State} {gid sd h q : Nat} {waits : Bool} {b : List Byte} (hr : Resident s gid)
    (hw : (groupOf s gid).wait = some (.spawnRoom sd h q waits b)) :
    let z := spawned s gid q b
    let len := (hwQueue s (dieOfCore (teamOf s (teamId s gid)).core) q).length
    (256 ≤ len → tryWait s gid isSpawnRoom = s) ∧
    (len < 256 → waits = false → tryWait s gid isSpawnRoom = writeS z gid h sd 0) ∧
    (len < 256 → waits = true → ¬OneEvent b → tryWait s gid isSpawnRoom = writeS z gid h sd 2) ∧
    (len < 256 → waits = true → OneEvent b →
      tryWait s gid isSpawnRoom = setGroup z gid { groupOf z gid with wait := some (.spawnEvent sd h s.nextId) }) := by
  intro z len
  have hm : waitMet s gid (.spawnRoom sd h q waits b) = decide (len < 256) := rfl
  refine ⟨fun hl => tryWait_waits hr hw rfl (by simpa [hm] using hl), fun hl hn => ?_, fun hl hy hno => ?_, fun hl hy hone => ?_⟩
  · rw [tryWait_ends hr hw rfl (by simpa [hm] using hl), spawnRoom_effect, hn]
    rfl
  · rw [tryWait_ends hr hw rfl (by simpa [hm] using hl), spawnRoom_effect, hy]
    exact if_pos (by simpa [OneEvent, not_or] using hno)
  · rw [tryWait_ends hr hw rfl (by simpa [hm] using hl), spawnRoom_effect, hy]
    have hn : ¬((eventCodes (wordAt b 0)).1 ≠ 1 ∧ (eventCodes (wordAt b 0)).2.1 ≠ 1 ∧ (eventCodes (wordAt b 0)).2.2 ≠ 1) :=
      fun ⟨h1, h2, h3⟩ => hone.elim h1 fun h => h.elim h2 h3
    exact if_neg hn

theorem spawnEvent_ends {s : State} {gid sd h task : Nat} (hr : Resident s gid) (hw : (groupOf s gid).wait = some (.spawnEvent sd h task)) :
    tryWait s gid isSpawnEvent =
      if eventReached (taskOf s task) (teamOf s (teamId s gid)).core = true then writeS (woken s gid) gid h sd 0 else s :=
  tryWait_resident hr hw rfl

/-! ### Stream and Lining register writes (R264, R288) -/

/-- A group's team with a stream replaced. -/
def streamPut (s : State) (gid q : Nat) (y : Stream) : State := onTeam (woken s gid) gid fun t => { t with streams := tset t.streams q y }

/-- What a stream write that ends does. -/
theorem streamWrite_effect (s : State) (gid reg : Nat) (v : DWord) : waitEffect (woken s gid) gid (.streamWrite reg v) =
    if reg % 2 = 1 ∧ qw1Bad (streamOf (teamOf s (teamId s gid)) ((reg - 0x40) / 2)) v = true then
      waitTrap (woken s gid) gid { code := 2, info := BitVec.ofNat 64 reg, slot := 6, after := true }
    else setTeam (woken s gid) (teamId s gid) (streamApply (teamOf s (teamId s gid)) reg v) := by
  have ht : (groupOf (woken s gid) gid).team = teamId s gid := by rw [groupOf_woken]; rfl
  rw [waitEffect]
  rw [ht]
  rfl

theorem bits_low (x n : Nat) : bits x 0 n = x % 2 ^ n := by rw [bits, Nat.pow_zero, Nat.div_one]

/-- A stream register's new value. -/
theorem streamApply_eq (s : State) (gid reg : Nat) (v : DWord) : setTeam (woken s gid) (teamId s gid) (streamApply (teamOf s (teamId s gid)) reg v) =
    streamPut s gid ((reg - 0x40) / 2) (if reg % 2 = 0 then { qw0 := v, head := 0, tail := 0 } else
      { streamOf (teamOf s (teamId s gid)) ((reg - 0x40) / 2) with head := v.toNat % 2 ^ 32, tail := v.toNat / 2 ^ 32 }) := by
  have hhi : bits v.toNat 32 32 = v.toNat / 2 ^ 32 := bits_top v.isLt
  rw [streamPut, onTeam, teamId_woken, teamOf_woken, streamApply, bits_low, hhi]

/-- A Lining write waits while commands of the engine are accepted, or while their bytes cannot go. -/
theorem liningWrite_waits {s : State} {gid reg : Nat} {v : DWord} (hr : Resident s gid) (hw : (groupOf s gid).wait = some (.liningWrite reg v))
    (h : (teamOf s (teamId s gid)).engine ≠ [] ∨
      lateOpen s (teamOf s (teamId s gid)).func (lateWrites (teamOf s (teamId s gid))) = false) : tryWait s gid isLiningWrite = s := by
  refine tryWait_waits hr hw rfl ?_
  have hm : waitMet s gid (.liningWrite reg v) = ((teamOf s (teamId s gid)).engine.isEmpty &&
    lateOpen s (teamOf s (teamId s gid)).func (lateWrites (teamOf s (teamId s gid)))) := rfl
  rw [hm]
  rcases h with h | h
  · simp [h]
  · simp [h]

/-- The bytes that a team's commands hold back are performed. -/
def lateDone (s : State) (gid : Nat) : State :=
  performLate (woken s gid) (teamOf s (teamId s gid)).func (lateWrites (teamOf s (teamId s gid)))

/-- What a Lining write that ends does. -/
theorem liningWrite_ends {s : State} {gid reg : Nat} {v : DWord} (hr : Resident s gid) (hw : (groupOf s gid).wait = some (.liningWrite reg v))
    (he : (teamOf s (teamId s gid)).engine = []) (hs : ∀ w ∈ lateWrites (teamOf s (teamId s gid)), w.space = .dev ∨ w.space = .host)
    (hg : groupOf (lateDone s gid) gid = { groupOf s gid with wait := none }) :
    let z := onTeam (lateDone s gid) gid flushedTeam
    tryWait s gid isLiningWrite = if liningStateBad (teamOf s (teamId s gid)) reg v = true then
      waitTrap z gid { code := 2, info := BitVec.ofNat 64 reg, slot := 6, after := true }
      else onTeam z gid fun t => liningApply t reg v := by
  intro z
  have hopen : lateOpen s (teamOf s (teamId s gid)).func (lateWrites (teamOf s (teamId s gid))) = true :=
    List.all_eq_true.2 fun w hw => by rcases hs w hw with h | h <;> simp [h]
  have hm : waitMet s gid (.liningWrite reg v) = ((teamOf s (teamId s gid)).engine.isEmpty &&
    lateOpen s (teamOf s (teamId s gid)).func (lateWrites (teamOf s (teamId s gid)))) := rfl
  have ht : (groupOf (woken s gid) gid).team = teamId s gid := by rw [groupOf_woken]; rfl
  have hz : flushLining (woken s gid) (teamId s gid) = z := by
    have hid : teamId (lateDone s gid) gid = teamId s gid := by rw [teamId, hg]; rfl
    show _ = onTeam (lateDone s gid) gid flushedTeam
    rw [onTeam, hid]
    rfl
  have hzid : teamId z gid = teamId s gid := by
    have : groupOf z gid = { groupOf s gid with wait := none } := hg
    rw [teamId, this]; rfl
  rw [tryWait_ends hr hw rfl (by rw [hm, hopen, he]; rfl), waitEffect, ht]
  simp only [hz, onTeam, hzid]
  rfl

end Sys2Proof.Proofs

namespace Sys2Proof.Proofs
open Sys2Proof.Machine Sys2Proof.Safety

/-- Settles O52: each wait's condition and effect by the lemma about it; those that wake several groups by what their folds leave alone. -/
theorem waitsEnd : Obligations.WaitsEnd := by
  unfold Obligations.WaitsEnd
  intro s gid hr g tm woke trapped
  have hkill (v : State) (t : TrapInfo) (hv : groupOf v gid = { groupOf s gid with wait := none }) (hs : g.super = true) :
      waitTrap v gid t = killed v gid := waitTrap_killed hv hs
  have htrap (v : State) (code : Nat) (info : DWord) (hv : groupOf v gid = { groupOf s gid with wait := none }) (hs : g.super = false) :
      waitTrap v gid { code := code, info := info, slot := 6, after := true } = trapped v code info := waitTrap_woken hv hs
  refine ⟨fun h p n hw => next_congr (waitc_ends hr hw), fun n hw => ⟨fun hn => ?batchOpen, fun hn hnone => ?batchDone,
    fun r hn hc hs => ?batchTraps, fun r hn hc hs => ?batchKills⟩,
    fun ch n hw => ⟨fun hd hf => next_congr (cpwait_waits hr hw hd hf), fun hd hf => next_congr (cpwait_done hr hw hd hf),
      fun m cause hf hm hs => ?copyTraps, fun m cause hf hm hs => ?copyKills⟩,
    fun order hw ht hg hk => next_congr (mxtake_grants hr hw ht hg hk), fun h id phase scope hw hg => ?barrier,
    fun l p hw hi hn => ?dsync, fun c k n order hp hw hi hl hn => next_congr (claim_served hp hw hi hl hn),
    fun sd h q waits id e hw => ?spawnRead, fun sd h q waits b hw => ?spawnRoom, fun sd h task hw => next_congr (spawnEvent_ends hr hw),
    fun a n hw => ⟨fun hn => ?flushWaits, fun hf => ?flushEnds⟩, fun reg v hw => ?stream,
    fun reg v hw => ⟨fun he => next_congr (liningWrite_waits hr hw (.inl he)),
      fun ho => next_congr (liningWrite_waits hr hw (.inr ho)), fun he hno hs => ?lining⟩⟩
  case batchOpen => exact next_congr ((mxwait_ends hr hw).trans (if_neg (Nat.not_le.2 hn)))
  case batchDone =>
    refine next_congr ((mxwait_ends hr hw).trans ((if_pos hn).trans ?_))
    have hc : coveredReport (teamOf (woken s gid) (groupOf (woken s gid) gid).team) n = none := by
      rw [groupOf_woken]; exact coveredReport_none hnone
    rw [waitEffect, hc]
    rfl
  case batchTraps =>
    have hend := (mxwait_ends hr hw).trans ((if_pos hn).trans (mxwait_effect hc))
    exact next_congr (hend.trans (htrap _ _ _ (groupOf_onTeam_woken s gid _) hs))
  case batchKills =>
    have hend := (mxwait_ends hr hw).trans ((if_pos hn).trans (mxwait_effect hc))
    exact next_congr (hend.trans (hkill _ _ (groupOf_onTeam_woken s gid _) hs))
  case copyTraps => exact next_congr ((cpwait_failed hr hw hf hm).trans (htrap _ _ _ (groupOf_onTeam_woken s gid _) hs))
  case copyKills => exact next_congr ((cpwait_failed hr hw hf hm).trans (hkill _ _ (groupOf_onTeam_woken s gid _) hs))
  case barrier =>
    obtain ⟨h1, h2⟩ := foldl_wakeIf (barrierEnds_woken s.teams id) tm.groups s
    refine ⟨_, next_congr (barrierWakes_eq s (teamId s gid) id), h1, (h2 gid).trans (if_congr ?_ rfl rfl), fun k => ?_⟩
    · rw [barrierEnds_iff hr hw]
      exact and_iff_left hg
    · refine (em (barrierEnds s.teams id (groupOf s k) = true ∧ k ∈ tm.groups)).elim (fun hc => .inr ⟨(h2 k).trans (if_pos hc), ?_⟩)
        fun hc => .inl ((h2 k).trans (if_neg hc))
      exact barrierEnds_wait hc.1
  case dsync =>
    obtain ⟨h1, h2⟩ := dsync_wakes hw hi hn
    exact ⟨_, rfl, h1.rest, h2, h1.group⟩
  case spawnRead =>
    have hm : waitMet s gid (.spawnRead sd h q waits id e) = readReady s gid id e := rfl
    refine ⟨fun hn => next_congr (tryWait_waits hr hw rfl (hm.trans hn)), fun hy => ⟨Touched.placeGet _ _ _ _ _, ?_⟩⟩
    exact next_congr ((tryWait_ends hr hw rfl (hm.trans hy)).trans (spawnRead_effect sd h q waits id e))
  case spawnRoom =>
    obtain ⟨h1, h2, h3, h4⟩ := spawnRoom_ends hr hw
    exact ⟨fun hl => next_congr (h1 hl), fun hl hn => next_congr (h2 hl hn),
      fun hl hy hno => next_congr (h3 hl hy hno),
      fun hl hy hone => next_congr (h4 hl hy hone)⟩
  case flushWaits => exact next_congr (tryWait_waits hr hw rfl (Bool.eq_false_iff.2 fun hm => hn (waitMet_pflush.1 hm)))
  case flushEnds =>
    have hflushed := foldl_flushStep (woken s gid) tm.core (dirtyLines (coreOf s tm.core) a n)
    exact ⟨_, next_congr ((tryWait_ends hr hw rfl (waitMet_pflush.2 hf)).trans (pflush_effect s gid a n)), hflushed.touched,
      hflushed.teams, hflushed.named, hflushed.others, hflushed.sp, fun hc => (hflushed.bytes hc).2⟩
  case stream =>
    intro q x put
    have hm : waitMet s gid (.streamWrite reg v) = !streamBusy tm q := rfl
    have hend (hb : streamBusy tm q = false) :=
      (tryWait_ends hr hw (p := isStreamWrite) rfl (hm.trans (by rw [hb]; rfl))).trans (streamWrite_effect s gid reg v)
    refine ⟨fun hb => next_congr (tryWait_waits hr hw rfl (hm.trans (by rw [hb]; rfl))), fun hb hreg => ?_, fun hb hreg hq => ?_,
      fun hb hreg hq hs => ?_⟩ <;> refine next_congr ((hend hb).trans ?_)
    · rw [if_neg (by omega), streamApply_eq, if_pos hreg]
      rfl
    · rw [if_neg (fun hn => Bool.false_ne_true (hq.symm.trans hn.2)), streamApply_eq, if_neg (by omega)]
      rfl
    · rw [if_pos ⟨hreg, hq⟩]
      exact htrap _ _ _ (groupOf_woken s gid) hs
  case lining =>
    obtain ⟨hframe, hstored, -⟩ := performLate_stored tm.func tm.core (lateWrites tm) (s := woken s gid) hno hs
    have hg : groupOf (lateDone s gid) gid = { groupOf s gid with wait := none } := by
      rw [← groupOf_woken]
      show groupOf (performLate _ _ _) gid = _
      rw [hframe.1]; rfl
    have hend := liningWrite_ends hr hw he hs hg
    refine ⟨_, hframe, hstored, fun hb => ?_, fun hb hu => ?_, fun hb hu => ?_⟩
    · exact next_congr (hend.trans (if_neg (by rw [show liningStateBad _ _ _ = false from hb]; decide)))
    · exact next_congr (hend.trans ((if_pos hb).trans (htrap _ _ _ hg hu)))
    · exact next_congr (hend.trans ((if_pos hb).trans (hkill _ _ hg hu)))

end Sys2Proof.Proofs

namespace Sys2Proof.Proofs
open Sys2Proof.Machine Sys2Proof.Safety

/-! ### A dependence whose page request failed (R35, R214) -/

/-- A task that waits for one dependence, whose record is at address 16; the request for the record's page has failed. -/
def refusedTask : Task :=
  { noTask with words := [2 ^ 57, 0, 0, 0, 0, 1, 0, 0], src := .hw 0 0, stage := .waiting, failedPage := true }

/-- The machine with that task at the head of a hardware queue. The record's page is there by now: the dispatcher's TLB holds it. -/
def refusedPoll : State :=
  let fr : Frame := { space := .dev, pa := 0, rd := true, w := true, sup := false, uncached := false, leaf := none, span := 2 ^ 21 }
  { State.reset with
    tasks := [(50, refusedTask)], dies := [(0, { queues := [(0, [50])] })]
    cores := [(0, { tlb := [{ asid := 0, func := 0, page := 0, size := 2 ^ 21, frame := fr }] })] }

/-- Whether a read gives bytes. -/
def gives : SysRead → Bool
  | .got _ => true
  | .missing _ | .denied => false

theorem gives_iff {r : SysRead} : gives r = true ↔ ∃ b, r = .got b := by cases r <;> simp [gives]

theorem refusedPoll_reads : gives (sysRead refusedPoll 0 0 0 16 16) = true := by decide +kernel

theorem refusedPoll_goesOn : (taskOf (pollDeps refusedPoll (.hw 0 0)) 50).error = none := by decide +kernel

/-- Refutes O55: a poll whose dependence reads all give their bytes drops the code 0x06 of a failed page response: of what `judgeRead` says
`depRead` keeps the bytes alone. The task of `refusedPoll` has such a response and no error after the poll. -/
theorem not_taskEvents : ¬Obligations.TaskEvents := by
  unfold Obligations.TaskEvents
  intro h
  obtain ⟨-, -, -, hpoll, -⟩ := h refusedPoll (.hw 0 0) 50
  have hdeps (i : Nat) (hi : i < taskNdep refusedTask) : ∃ b, sysRead refusedPoll 0 0 0 (taskDep refusedTask i) 16 = .got b := by
    obtain rfl : i = 0 := Nat.lt_one_iff.1 hi
    exact gives_iff.1 refusedPoll_reads
  obtain ⟨u, hu, ht, -⟩ := ((hpoll [] rfl).2 rfl rfl rfl hdeps).1 rfl (by decide) ⟨rfl, rfl, rfl, rfl⟩ rfl
  have hp : pollDeps refusedPoll (.hw 0 0) = u := Host.Outcome.next.inj hu
  have hn := refusedPoll_goesOn
  rw [hp, ht] at hn
  cases hn

end Sys2Proof.Proofs

namespace Sys2Proof.Proofs
open Sys2Proof.Machine Sys2Proof.Safety

/-! ### A partition pre-empted whose teams are listed out of order (R361) -/

/-- A machine whose partition 0 has PREEMPT set. Team 3, resident there without groups, is listed after team 5. -/
def unordered : State :=
  { State.reset with preempting := 1, teams := [(5, { noTeam with place := .offered }), (3, { noTeam with place := .resident })] }

theorem unordered_notClear : (preemptPartition unordered 0).preempting = 1 := by decide +kernel

/-- Refutes O56 in its clause for PARTITION_PREEMPT: a table written with `tset` keeps its old entry of a number that is listed after a greater
one, and different numbers (`Nodup`) do not exclude that. Team 3 of `unordered` is switched out and yet still listed as resident, so PREEMPT
stays set. -/
theorem not_teamEvents : ¬Obligations.TeamEvents := by
  unfold Obligations.TeamEvents
  intro h
  obtain ⟨-, -, -, -, -, -, -, hpart, -⟩ := h unordered 3
  obtain ⟨u, hu, -, hall⟩ := (hpart 0 (by decide)).2 (by decide)
  have hp : preemptPartition unordered 0 = u := Host.Outcome.next.inj hu
  have hclear := (hall (by decide) (by decide) fun e he hr hc => ?_).1
  · rw [← hp, unordered_notClear] at hclear
    exact absurd hclear (by decide)
  · rcases List.mem_cons.1 he with rfl | he
    · cases hr
    · obtain rfl := List.mem_singleton.1 he
      exact ⟨rfl, fun gid hg => by cases hg⟩

end Sys2Proof.Proofs

namespace Sys2Proof.Proofs
open Sys2Proof.Machine Sys2Proof.Safety

/-! ### Instructions and the bundles that hold them (R76, R86) -/

/-- Settles O39: an instruction and its bundle both run as the issue of that bundle. -/
theorem everyFormIsABundle : Obligations.EveryFormIsABundle := by
  unfold Obligations.EveryFormIsABundle
  intro i b s h
  exact (exec_toBundle i b s h).trans (exec_toBundle _ b s rfl).symm

/-- Settles O44, by evaluation of the decoder on the words. -/
theorem specWordsDecode : Obligations.SpecWordsDecode := by
  unfold Obligations.SpecWordsDecode
  decide +kernel

end Sys2Proof.Proofs

namespace Sys2Proof.Proofs
open Sys2Proof.Machine Sys2Proof.Safety

/-! ### Instructions and their words (R76-R110) -/

theorem unitOf_unitNo (u : FUnit) : unitOf (unitNo u) = some u := by
  cases u <;> rfl

theorem unitNo_lt (u : FUnit) : unitNo u < 16 := unitOf_lt (unitOf_unitNo u)

theorem fmOf_fmNo (o : FmOp) : fmOf (fmNo o) = some o := by
  cases o with
  | fma m | fms m | fnma m | add m | sub m | mul m | hfma m | bfma m | cvth m | cvtb m | cvti m | cvtf m => cases m <;> rfl
  | _ => rfl

/-- A trigger is the one that its unit and opcode name (R79, R97-R107). -/
theorem triggerOf_triggerNo (t : Trigger) : triggerOf (triggerUnit t) (triggerNo t) = some t := by
  cases t with
  | fm u o => cases u <;> simp only [triggerUnit, triggerOf, triggerNo, fmOf_fmNo, Option.map_some]
  | ia u o => cases u <;> cases o <;> rfl
  | lg o | sf o | xl o | sm o | ld o | st o | mx o | cp o => cases o <;> rfl

theorem triggerNo_lt (t : Trigger) : triggerNo t < 64 := by
  cases t with
  | fm u o =>
    show fmNo o < 64
    cases o with
    | fma m | fms m | fnma m | add m | sub m | mul m | hfma m | bfma m | cvth m | cvtb m | cvti m | cvtf m => cases m <;> decide
    | _ => decide
  | st o => cases o <;> decide
  | ia _ o | lg o | sf o | xl o | sm o | ld o | mx o | cp o => exact Nat.lt_of_le_of_lt List.idxOf_le_length (by decide)

theorem latchOf_latchNo (l : LatchName) : latchOf (latchNo l) = l := by
  cases l <;> rfl

theorem latchNo_lt (l : LatchName) : latchNo l < 4 := by
  cases l <;> decide

/-- A field whose value is a known number. -/
theorem field_eq {w n i : Nat} {x : BitVec w} {y : BitVec n} (h : x.toNat / 2 ^ i % 2 ^ n = y.toNat) : x.extractLsb' i n = y :=
  BitVec.eq_of_toNat_eq ((field_toNat x i n).trans h)

/-- A source field below 0x1000 names a vector register (R81). -/
theorem decodeSrc_vector {f : BitVec 14} (hf : f.toNat < 512) : decodeSrc f = some (.v (f.extractLsb' 0 9)) := by
  unfold decodeSrc
  rw [field_toNat f 12 2, field_toNat f 0 12, show f.toNat / 2 ^ 12 % 2 ^ 2 = 0 by omega]
  exact if_pos (by omega)

/-- A source field from 0x1000 on names a result port, port o or port x of a unit (R81, R84). -/
theorem decodeSrc_port {f : BitVec 14} (u : FUnit) (x : Bool) (hf : f.toNat = 0x1000 + 64 * unitNo u + if x then 1 else 0) :
    decodeSrc f = some (.port u x) := by
  have hu := unitNo_lt u
  have hx : (if x then 1 else 0) < 2 := by split <;> decide
  have h0 : f.extractLsb' 10 2 = 0 ∧ f.extractLsb' 2 4 = 0 := ⟨field_eq (by rw [hf]; simp; omega), field_eq (by rw [hf]; simp; omega)⟩
  unfold decodeSrc
  rw [field_toNat f 12 2, field_toNat f 6 4, field_toNat f 0 2, hf, show (0x1000 + 64 * unitNo u + if x then 1 else 0) / 2 ^ 12 % 2 ^ 2 = 1 by omega,
    show (0x1000 + 64 * unitNo u + if x then 1 else 0) / 2 ^ 6 % 2 ^ 4 = unitNo u by omega,
    show (0x1000 + 64 * unitNo u + if x then 1 else 0) / 2 ^ 0 % 2 ^ 2 = if x then 1 else 0 by omega, unitOf_unitNo]
  refine (if_pos h0).trans ?_
  cases x <;> rfl

/-- A source field from 0x2000 on is an immediate (R81). -/
theorem decodeSrc_imm {f : BitVec 14} (i : BitVec 12) (hf : f.toNat = 0x2000 + i.toNat) : decodeSrc f = some (.imm i) := by
  have hi := i.isLt
  unfold decodeSrc
  rw [field_toNat f 12 2, hf, show (0x2000 + i.toNat) / 2 ^ 12 % 2 ^ 2 = 2 by omega]
  exact congrArg (some ∘ Src.imm) (field_eq (by omega))

/-- A source field from 0x3000 on names a scalar or special source (R82). -/
theorem decodeSrc_special {f : BitVec 14} {c : Nat} (hf : f.toNat = 0x3000 + c) :
    decodeSrc f =
      if c < 0x40 then some (.s (f.extractLsb' 0 6))
      else if c < 0x80 then some (.hiS (f.extractLsb' 0 6))
      else if c < 0x88 then some (.w (f.extractLsb' 0 3))
      else if c = 0x88 then some .spad
      else if c = 0x90 then some .lane
      else if c = 0x91 then some .split
      else if c = 0x92 then some .gtime
      else if c = 0x93 then some .pstate
      else if 0xA0 ≤ c ∧ c < 0xA6 then some (.lim (f.extractLsb' 0 3))
      else if 0xB0 ≤ c ∧ c < 0xB4 then some (.e (f.extractLsb' 0 2))
      else none := by
  unfold decodeSrc
  rw [field_toNat f 12 2, field_toNat f 0 12, hf, show (0x3000 + c) / 2 ^ 12 % 2 ^ 2 = 3 by omega,
    show (0x3000 + c) / 2 ^ 0 % 2 ^ 12 = c by omega]
  rfl

/-- A long immediate's slot is one of the six. -/
theorem limSlot_lt {slots : List Slot} {i : Nat} (hl : slots.length = 6) (h : slotIsLim (slots.getD i .empty) = true) : i < 6 := by
  by_contra hi
  rw [List.getD_eq_default _ _ (by omega)] at h
  cases h

/-- R81, R82: the field of a legal source is read as that source. -/
theorem decodeSrc_encodeSrc {slots : List Slot} {x : Src} (hl : slots.length = 6) (hx : sourceLegal slots x = true) :
    decodeSrc (encodeSrc x) = some x := by
  have ofNat_toNat {n : Nat} (h : n < 0x4000) : (BitVec.ofNat 14 n).toNat = n := by rw [BitVec.toNat_ofNat]; omega
  cases x with
  | v i =>
    have hi : i.toNat < 320 := by simpa [sourceLegal] using hx
    have hf : (encodeSrc (.v i)).toNat = i.toNat := by rw [encodeSrc, BitVec.toNat_setWidth]; omega
    rw [decodeSrc_vector (by omega), field_eq (y := i) (by omega)]
  | port u x =>
    have hu := unitNo_lt u
    exact decodeSrc_port u x (ofNat_toNat (by split <;> omega))
  | imm i => exact decodeSrc_imm i (ofNat_toNat (by omega))
  | s i =>
    have hf : (encodeSrc (.s i)).toNat = 0x3000 + i.toNat := ofNat_toNat (by omega)
    rw [decodeSrc_special hf, if_pos (by omega), field_eq (y := i) (by omega)]
  | hiS i =>
    have hf : (encodeSrc (.hiS i)).toNat = 0x3000 + (0x40 + i.toNat) := (ofNat_toNat (by omega)).trans (by omega)
    rw [decodeSrc_special hf, if_neg (by omega), if_pos (by omega), field_eq (y := i) (by omega)]
  | w i =>
    have hf : (encodeSrc (.w i)).toNat = 0x3000 + (0x80 + i.toNat) := (ofNat_toNat (by omega)).trans (by omega)
    rw [decodeSrc_special hf, if_neg (by omega), if_neg (by omega), if_pos (by omega), field_eq (y := i) (by omega)]
  | spad | lane | split | gtime | pstate => rfl
  | lim i =>
    have hi : i.toNat < 6 := limSlot_lt hl hx
    have hf : (encodeSrc (.lim i)).toNat = 0x3000 + (0xA0 + i.toNat) := (ofNat_toNat (by omega)).trans (by omega)
    rw [decodeSrc_special hf, if_neg (by omega), if_neg (by omega), if_neg (by omega), if_neg (by omega), if_neg (by omega),
      if_neg (by omega), if_neg (by omega), if_neg (by omega), if_pos (by omega), field_eq (y := i) (by omega)]
  | e i =>
    have hf : (encodeSrc (.e i)).toNat = 0x3000 + (0xB0 + i.toNat) := (ofNat_toNat (by omega)).trans (by omega)
    rw [decodeSrc_special hf, if_neg (by omega), if_neg (by omega), if_neg (by omega), if_neg (by omega), if_neg (by omega),
      if_neg (by omega), if_neg (by omega), if_neg (by omega), if_neg (by omega), if_pos (by omega), field_eq (y := i) (by omega)]

/-- A destination that is legal on its own: its field holds all of it (R79, R80). -/
theorem decodeDst_encodeDst {d : Dst} {x : Src} (hd : destLegal d x = true) : decodeDst (encodeDst d) (dstHold d) = some d := by
  have ofNat_toNat {n : Nat} (h : n < 0x1000) : (BitVec.ofNat 12 n).toNat = n := by rw [BitVec.toNat_ofNat]; omega
  cases d with
  | v i =>
    have hi := i.isLt
    have hf : (encodeDst (.v i)).toNat = i.toNat := by rw [encodeDst, BitVec.toNat_setWidth]; omega
    unfold decodeDst
    rw [field_toNat _ 10 2, hf, show i.toNat / 2 ^ 10 % 2 ^ 2 = 0 by omega]
    exact congrArg (some ∘ Dst.v) (field_eq (by omega))
  | latch u l hold =>
    have hu := unitNo_lt u
    have hl := latchNo_lt l
    have hf : (encodeDst (.latch u l hold)).toNat = 0x400 + 64 * unitNo u + 16 * latchNo l := ofNat_toNat (by omega)
    unfold decodeDst
    rw [field_toNat _ 10 2, field_toNat _ 6 4, field_toNat _ 4 2, hf, show (0x400 + 64 * unitNo u + 16 * latchNo l) / 2 ^ 10 % 2 ^ 2 = 1 by omega,
      show (0x400 + 64 * unitNo u + 16 * latchNo l) / 2 ^ 6 % 2 ^ 4 = unitNo u by omega,
      show (0x400 + 64 * unitNo u + 16 * latchNo l) / 2 ^ 4 % 2 ^ 2 = latchNo l by omega, unitOf_unitNo, latchOf_latchNo]
    exact if_pos (field_eq (by rw [hf]; simp; omega))
  | trig t =>
    have hu := unitNo_lt (triggerUnit t)
    have ht := triggerNo_lt t
    have hf : (encodeDst (.trig t)).toNat = 0x800 + 64 * unitNo (triggerUnit t) + triggerNo t := ofNat_toNat (by omega)
    unfold decodeDst
    rw [field_toNat _ 10 2, field_toNat _ 6 4, field_toNat _ 0 6, hf,
      show (0x800 + 64 * unitNo (triggerUnit t) + triggerNo t) / 2 ^ 10 % 2 ^ 2 = 2 by omega,
      show (0x800 + 64 * unitNo (triggerUnit t) + triggerNo t) / 2 ^ 6 % 2 ^ 4 = unitNo (triggerUnit t) by omega,
      show (0x800 + 64 * unitNo (triggerUnit t) + triggerNo t) / 2 ^ 0 % 2 ^ 6 = triggerNo t by omega, unitOf_unitNo]
    exact congrArg (Option.map Dst.trig) (triggerOf_triggerNo t)
  | mask i =>
    have hi : i.toNat ≠ 0 := by
      intro h
      rw [BitVec.eq_of_toNat_eq (x := i) (y := 0) h] at hd
      cases hd
    have hf : (encodeDst (.mask i)).toNat = 0xC00 + i.toNat := ofNat_toNat (by omega)
    unfold decodeDst
    rw [field_toNat _ 10 2, field_toNat _ 0 10, hf, show (0xC00 + i.toNat) / 2 ^ 10 % 2 ^ 2 = 3 by omega,
      show (0xC00 + i.toNat) / 2 ^ 0 % 2 ^ 10 = i.toNat by omega]
    exact (if_neg Bool.false_ne_true).trans ((if_pos (by omega)).trans (congrArg (some ∘ Dst.mask) (field_eq (by omega))))
  | e i =>
    have hi := i.isLt
    have hf : (encodeDst (.e i)).toNat = 0xC10 + i.toNat := ofNat_toNat (by omega)
    unfold decodeDst
    rw [field_toNat _ 10 2, field_toNat _ 0 10, hf, show (0xC10 + i.toNat) / 2 ^ 10 % 2 ^ 2 = 3 by omega,
      show (0xC10 + i.toNat) / 2 ^ 0 % 2 ^ 10 = 0x10 + i.toNat by omega]
    exact (if_neg Bool.false_ne_true).trans ((if_neg (by omega)).trans ((if_pos (by omega)).trans (congrArg (some ∘ Dst.e) (field_eq (by omega)))))
  | fclr => rfl

end Sys2Proof.Proofs

namespace Sys2Proof.Proofs
open Sys2Proof.Machine Sys2Proof.Safety

/-- A bit whose number is known. -/
theorem getLsbD_eq {w i : Nat} {x : BitVec w} {b : Bool} (h : x.toNat / 2 ^ i % 2 = if b then 1 else 0) : x.getLsbD i = b := by
  rw [← getLsbD_toNat] at h
  cases hx : x.getLsbD i <;> cases b <;> simp_all

theorem bit_lt (b : Bool) : (if b then 1 else 0) < 2 := by
  cases b <;> decide

/-- The word of a move as its five fields (R78). -/
theorem encodeSlot_move (m : Move) : (encodeSlot (.move m)).toNat = m.g.mask.toNat * 2 ^ 28 + (if m.g.inv then 1 else 0) * 2 ^ 27 +
    (encodeDst m.dst).toNat * 2 ^ 15 + (encodeSrc m.src).toNat * 2 + if dstHold m.dst then 1 else 0 := by
  have h1 := bit_lt (dstHold m.dst)
  have h2 : (if m.g.inv then 2 ^ 27 else 0) = (if m.g.inv then 1 else 0) * 2 ^ 27 := by cases m.g.inv <;> rfl
  have h3 := bit_lt m.g.inv
  rw [encodeSlot, BitVec.toNat_ofNat, h2]
  omega

/-- R77, R78: the word of a legal move is read as that move. -/
theorem decodeMove_encodeSlot {slots : List Slot} {m : Move} (hl : slots.length = 6) (hm : moveLegal slots m = true) :
    decodeMove (encodeSlot (.move m)) = some (.move m) := by
  simp only [moveLegal, Bool.and_eq_true, decide_eq_true_eq] at hm
  obtain ⟨⟨⟨-, hs⟩, hd⟩, hne⟩ := hm
  have hw := encodeSlot_move m
  generalize encodeSlot (.move m) = w at hw
  have h0 := bit_lt (dstHold m.dst)
  have h27 := bit_lt m.g.inv
  have hdst : w.extractLsb' 15 12 = encodeDst m.dst := field_eq (by omega)
  have hsrc : w.extractLsb' 1 14 = encodeSrc m.src := field_eq (by omega)
  have hmask : w.extractLsb' 28 4 = m.g.mask := field_eq (by omega)
  have hinv : w.getLsbD 27 = m.g.inv := getLsbD_eq (by omega)
  have hhold : w.getLsbD 0 = dstHold m.dst := getLsbD_eq (by omega)
  have hd' := decodeDst_encodeDst hd
  have hs' := decodeSrc_encodeSrc hl hs
  rw [← hdst, ← hhold] at hd'
  rw [← hsrc] at hs'
  unfold decodeMove
  rw [hd', hs', hmask, hinv]
  refine if_neg fun hz => hne ?_
  -- the fields of the word 0 are those of the empty slot
  rw [hz] at hd' hs' hmask hinv
  obtain ⟨⟨mask, inv⟩, dst, src⟩ := m
  cases Option.some.inj hd'
  cases Option.some.inj hs'
  cases hmask
  cases hinv
  rfl

/-- R77: the word of a legal slot is read as that slot. -/
theorem decodeSlot_encodeSlot {slots before : List Slot} {x : Slot} (hl : slots.length = 6) (hx : slotLegal slots before x = true) :
    decodeSlot (slotIsLim x) (encodeSlot x) = some x := by
  cases x with
  | empty => simp [decodeSlot, slotIsLim, encodeSlot, decodeMove]
  | lim v => exact if_pos rfl
  | move m =>
    rw [slotLegal, Bool.and_eq_true] at hx
    simpa only [decodeSlot, slotIsLim, Bool.false_eq_true, if_false] using decodeMove_encodeSlot hl hx.1

theorem slotLegal_of_firstIllegalSlot {slots before : List Slot} {k : Nat} {l : List Slot} (h : firstIllegalSlot slots before k l = none) :
    ∀ x ∈ l, ∃ before, slotLegal slots before x = true := by
  induction l generalizing before k with
  | nil => simp
  | cons x r ih =>
    rw [firstIllegalSlot] at h
    split at h
    next hx =>
      intro y hy
      rcases List.mem_cons.1 hy with rfl | hy
      · exact ⟨before, hx⟩
      · exact ih h y hy
    next => cases h

/-! #### The scalar slot (R95, R109) -/

/-- A scalar slot of format SS from 0x11 on. -/
theorem decodeScalar_SS {n : Nat} (h0 : 0x11 ≤ n) (hn : n < 0x40) (sd sa sb : BitVec 6) (imm : BitVec 22) :
    decodeScalar (BitVec.ofNat 48 (encodeSS n sd sa sb imm)) = decodeSS n sd sa sb imm := by
  have hw : (BitVec.ofNat 48 (encodeSS n sd sa sb imm)).toNat = encodeSS n sd sa sb imm := by
    rw [BitVec.toNat_ofNat, encodeSS]; omega
  generalize BitVec.ofNat 48 (encodeSS n sd sa sb imm) = w at hw
  rw [encodeSS] at hw
  unfold decodeScalar
  dsimp only
  rw [field_toNat w 40 8, field_eq (i := 34) (y := sd) (x := w) (by omega), field_eq (i := 28) (y := sa) (x := w) (by omega),
    field_eq (i := 22) (y := sb) (x := w) (by omega), field_eq (i := 0) (y := imm) (x := w) (by omega),
    show w.toNat / 2 ^ 40 % 2 ^ 8 = n by omega]
  exact (if_neg (by omega)).trans (if_pos hn)

theorem decodeScalar_alu (op : AluOp) (sd sa sb : BitVec 6) (imm : BitVec 22) :
    decodeScalar (BitVec.ofNat 48 (encodeSS (aluOps.idxOf op) sd sa sb imm)) = some (.alu op sd sa sb imm) := by
  have hop : aluOps[aluOps.idxOf op]? = some op := by cases op <;> rfl
  have hn : aluOps.idxOf op < 0x11 := (List.getElem?_eq_some_iff.mp hop).1
  have hw : (BitVec.ofNat 48 (encodeSS (aluOps.idxOf op) sd sa sb imm)).toNat = encodeSS (aluOps.idxOf op) sd sa sb imm := by
    rw [BitVec.toNat_ofNat, encodeSS]; omega
  generalize BitVec.ofNat 48 (encodeSS (aluOps.idxOf op) sd sa sb imm) = w at hw
  rw [encodeSS] at hw
  unfold decodeScalar
  dsimp only
  rw [field_toNat w 40 8, field_eq (i := 34) (y := sd) (x := w) (by omega), field_eq (i := 28) (y := sa) (x := w) (by omega),
    field_eq (i := 22) (y := sb) (x := w) (by omega), field_eq (i := 0) (y := imm) (x := w) (by omega),
    show w.toNat / 2 ^ 40 % 2 ^ 8 = aluOps.idxOf op by omega, hop]
  exact if_pos hn

/-- A scalar slot of format SI. -/
theorem decodeScalar_SI {n : Nat} (h0 : 0x40 ≤ n) (hn : n < 0x60) (sd : BitVec 6) (imm : BitVec 32) :
    decodeScalar (BitVec.ofNat 48 (encodeSI n sd imm)) = decodeSI n sd 0 imm := by
  have hw : (BitVec.ofNat 48 (encodeSI n sd imm)).toNat = encodeSI n sd imm := by
    rw [BitVec.toNat_ofNat, encodeSI]; omega
  generalize BitVec.ofNat 48 (encodeSI n sd imm) = w at hw
  rw [encodeSI] at hw
  unfold decodeScalar
  dsimp only
  rw [field_toNat w 40 8, field_eq (i := 34) (y := sd) (x := w) (by omega), field_eq (i := 32) (y := (0 : BitVec 2)) (x := w) (by simp; omega),
    field_eq (i := 0) (y := imm) (x := w) (by omega), show w.toNat / 2 ^ 40 % 2 ^ 8 = n by omega]
  exact (if_neg (by omega)).trans ((if_neg (by omega)).trans (if_pos hn))

/-- A scalar slot of format BR. -/
theorem decodeScalar_BR {n : Nat} (h0 : 0x60 ≤ n) (hn : n < 0xB0) (target : BitVec 24) (join : BitVec 16) :
    decodeScalar (BitVec.ofNat 48 (encodeBR n target join)) = decodeBR (BitVec.ofNat 8 n) target join := by
  have hw : (BitVec.ofNat 48 (encodeBR n target join)).toNat = encodeBR n target join := by
    rw [BitVec.toNat_ofNat, encodeBR]; omega
  have ho : (BitVec.ofNat 8 n).toNat = n := by rw [BitVec.toNat_ofNat]; omega
  generalize BitVec.ofNat 48 (encodeBR n target join) = w at hw
  rw [encodeBR] at hw
  unfold decodeScalar
  dsimp only
  rw [field_eq (i := 40) (y := BitVec.ofNat 8 n) (x := w) (by omega), ho, field_eq (i := 16) (y := target) (x := w) (by omega),
    field_eq (i := 0) (y := join) (x := w) (by omega)]
  exact (if_neg (by omega)).trans ((if_neg (by omega)).trans ((if_neg (by omega)).trans (if_pos hn)))

/-- A scalar slot of format SY. -/
theorem decodeScalar_SY {n : Nat} (h0 : 0xB0 ≤ n) (hn : n < 0xC0) (sa sb id : BitVec 6) (scope : BitVec 3) :
    decodeScalar (BitVec.ofNat 48 (encodeSY n sa sb id scope)) = decodeSY n sa sb id scope 0 := by
  have hw : (BitVec.ofNat 48 (encodeSY n sa sb id scope)).toNat = encodeSY n sa sb id scope := by
    rw [BitVec.toNat_ofNat, encodeSY]; omega
  generalize BitVec.ofNat 48 (encodeSY n sa sb id scope) = w at hw
  rw [encodeSY] at hw
  unfold decodeScalar
  dsimp only
  rw [field_toNat w 40 8, field_eq (i := 34) (y := sa) (x := w) (by omega), field_eq (i := 28) (y := sb) (x := w) (by omega),
    field_eq (i := 22) (y := id) (x := w) (by omega), field_eq (i := 19) (y := scope) (x := w) (by omega),
    field_eq (i := 0) (y := (0 : BitVec 19)) (x := w) (by simp; omega), show w.toNat / 2 ^ 40 % 2 ^ 8 = n by omega]
  exact (if_neg (by omega)).trans ((if_neg (by omega)).trans ((if_neg (by omega)).trans ((if_neg (by omega)).trans (if_pos hn))))

/-- A scalar slot of format SX. -/
theorem decodeScalar_SX {n : Nat} (h0 : 0xC0 ≤ n) (hn : n < 0x100) (sd sa : BitVec 6) (imm : BitVec 16) :
    decodeScalar (BitVec.ofNat 48 (encodeSX n sd sa imm)) = decodeSX n sd sa imm 0 := by
  have hw : (BitVec.ofNat 48 (encodeSX n sd sa imm)).toNat = encodeSX n sd sa imm := by
    rw [BitVec.toNat_ofNat, encodeSX]; omega
  generalize BitVec.ofNat 48 (encodeSX n sd sa imm) = w at hw
  rw [encodeSX] at hw
  unfold decodeScalar
  dsimp only
  rw [field_toNat w 40 8, field_eq (i := 34) (y := sd) (x := w) (by omega), field_eq (i := 28) (y := sa) (x := w) (by omega),
    field_eq (i := 12) (y := imm) (x := w) (by omega), field_eq (i := 0) (y := (0 : BitVec 12)) (x := w) (by simp; omega),
    show w.toNat / 2 ^ 40 % 2 ^ 8 = n by omega]
  exact (if_neg (by omega)).trans ((if_neg (by omega)).trans ((if_neg (by omega)).trans ((if_neg (by omega)).trans (if_neg (by omega)))))

/-- A BD or BU opcode gives back its condition (R96). -/
theorem encodeCond_fields (inv : Bool) (mask : BitVec 4) {n : Nat} (hn : n % 32 = 0) :
    (BitVec.ofNat 8 (n + encodeCond inv mask)).getLsbD 4 = inv ∧ (BitVec.ofNat 8 (n + encodeCond inv mask)).extractLsb' 0 4 = mask := by
  have hb := bit_lt inv
  have hc : encodeCond inv mask = 16 * (if inv then 1 else 0) + mask.toNat := by cases inv <;> rfl
  have hm := mask.isLt
  exact ⟨getLsbD_eq (by rw [BitVec.toNat_ofNat]; omega), field_eq (by rw [BitVec.toNat_ofNat]; omega)⟩

theorem encodeCond_lt (inv : Bool) (mask : BitVec 4) : encodeCond inv mask < 32 := by
  have hm := mask.isLt
  unfold encodeCond
  split <;> omega

theorem setWidth_low {n k : Nat} (x : BitVec k) (h : k ≤ n) : (x.setWidth n).toNat = x.toNat := by
  rw [BitVec.toNat_setWidth, Nat.mod_eq_of_lt (Nat.lt_of_lt_of_le x.isLt (Nat.pow_le_pow_right (by omega) h))]

theorem extract_setWidth {n k : Nat} (x : BitVec k) (h : k ≤ n) : (x.setWidth n).extractLsb' 0 k = x :=
  field_eq (by rw [setWidth_low x h, Nat.pow_zero, Nat.div_one, Nat.mod_eq_of_lt x.isLt])

/-- R95, R109: the scalar slot of an operation is read as that operation. -/
theorem decodeScalar_encodeScalar (op : ScalarOp) : decodeScalar (encodeScalar op) = some op := by
  unfold encodeScalar
  cases op with
  | alu op sd sa sb imm => exact decodeScalar_alu op sd sa sb imm
  | mrd sd mask =>
    refine (decodeScalar_SS (by omega) (by omega) _ _ _ _).trans ((if_pos ⟨?_, rfl, rfl⟩).trans ?_)
    · rw [extract_setWidth mask (by omega)]
    · rw [setWidth_low mask (by omega)]
      omega
  | mwr mask sa sb imm =>
    refine (decodeScalar_SS (by omega) (by omega) _ _ _ _).trans ((if_pos ?_).trans ?_)
    · rw [setWidth_low mask (by omega)]
      omega
    · rw [extract_setWidth mask (by omega)]
  | basew win sa sb imm =>
    refine (decodeScalar_SS (by omega) (by omega) _ _ _ _).trans ((if_pos ?_).trans ?_)
    · rw [setWidth_low win (by omega)]
      omega
    · rw [extract_setWidth win (by omega)]
  | bd inv mask target join =>
    have hc := encodeCond_lt inv mask
    obtain ⟨hi, hm⟩ := encodeCond_fields inv mask (n := 0x60) rfl
    refine (decodeScalar_BR (by omega) (by omega) _ _).trans ?_
    rw [decodeBR, hi, hm, BitVec.toNat_ofNat]
    exact if_pos (by omega)
  | bu inv mask target =>
    have hc := encodeCond_lt inv mask
    obtain ⟨hi, hm⟩ := encodeCond_fields inv mask (n := 0x80) rfl
    refine (decodeScalar_BR (by omega) (by omega) _ _).trans ?_
    rw [decodeBR, hi, hm, BitVec.toNat_ofNat]
    exact (if_neg (by omega)).trans ((if_pos (by omega)).trans (if_pos rfl))
  | call target => exact decodeScalar_BR (by omega) (by omega) _ _
  | loop target counter =>
    have hz : (counter.setWidth 16).extractLsb' 6 10 = 0 := field_eq (by rw [setWidth_low counter (by omega)]; simp; omega)
    refine (decodeScalar_BR (by omega) (by omega) _ _).trans ?_
    rw [decodeBR, hz, extract_setWidth counter (by omega)]
    rfl
  | li | liz | lih => exact decodeScalar_SI (by omega) (by omega) _ _
  | bara | barw | dsync | fence | waitc | mxwait | cpwait | mxtake | mxgive => exact decodeScalar_SY (by omega) (by omega) _ _ _ _
  | rdsr | wrsr | sys | trap | eret => exact decodeScalar_SX (by omega) (by omega) _ _ _
  | _ => exact decodeScalar_SS (by omega) (by omega) _ _ _ _

end Sys2Proof.Proofs

namespace Sys2Proof.Proofs
open Sys2Proof.Machine Sys2Proof.Safety

/-! #### The bundle (R76) -/

theorem encodeSlots_lt (l : List Slot) : encodeSlots l < 2 ^ (32 * l.length) := by
  induction l with
  | nil => simp [encodeSlots]
  | cons x r ih =>
    have hx := (encodeSlot x).isLt
    rw [encodeSlots, List.length_cons, Nat.mul_add, Nat.mul_one, Nat.add_comm (32 * r.length), Nat.pow_add]
    nlinarith

theorem encodeK_lt (l : List Slot) : encodeK l < 2 ^ l.length := by
  induction l with
  | nil => simp [encodeK]
  | cons x r ih =>
    have hx := bit_lt (slotIsLim x)
    rw [encodeK, List.length_cons, Nat.pow_succ]
    omega

theorem scalarNat_lt (o : Option ScalarOp) : scalarNat o < 2 ^ 48 := by
  cases o with
  | none => exact Nat.two_pow_pos 48
  | some op => exact (encodeScalar op).isLt

/-- The value of a bundle's word, field by field (R76). -/
theorem encodeBundle_toNat {b : Bundle} (hl : b.slots.length = 6) : (encodeBundle b).toNat = encodeSlots b.slots + 2 ^ 192 * scalarNat b.scalar +
    2 ^ 244 * (if b.y then 1 else 0) + 2 ^ 245 * (if b.scalar.isSome then 1 else 0) + 2 ^ 246 * encodeK b.slots + 2 ^ 252 * b.la.toNat := by
  have hs := encodeSlots_lt b.slots
  have hk := encodeK_lt b.slots
  have hy := bit_lt b.y
  have ho := bit_lt b.scalar.isSome
  have hn := scalarNat_lt b.scalar
  rw [hl] at hs hk
  have he : encodeBundle b = BitVec.ofNat 256 (encodeSlots b.slots + 2 ^ 192 * scalarNat b.scalar + 2 ^ 244 * (if b.y then 1 else 0) +
    2 ^ 245 * (if b.scalar.isSome then 1 else 0) + 2 ^ 246 * encodeK b.slots + 2 ^ 252 * b.la.toNat) := rfl
  rw [he, BitVec.toNat_ofNat]
  exact Nat.mod_eq_of_lt (by omega)

/-- Slots whose values and K bits stand in a word from place `k` on are read from there (R77). -/
theorem slotsFrom_of_encode {w : BundleWord} {slots l : List Slot} {k : Nat} (hl : slots.length = 6)
    (hx : ∀ x ∈ l, ∃ before, slotLegal slots before x = true) (hs : encodeSlots l = w.toNat / 2 ^ (32 * k) % 2 ^ (32 * l.length))
    (hk : encodeK l = w.toNat / 2 ^ (246 + k) % 2 ^ l.length) : SlotsFrom w k l := by
  induction l generalizing k with
  | nil => trivial
  | cons x r ih =>
    obtain ⟨before, hb⟩ := hx x (by simp)
    have hb' := bit_lt (slotIsLim x)
    rw [encodeSlots, List.length_cons, Nat.mul_add, Nat.mul_one, Nat.add_comm (32 * r.length), Nat.pow_add, Nat.mod_mul,
      Nat.div_div_eq_div_mul, ← Nat.pow_add] at hs
    rw [encodeK, List.length_cons, Nat.pow_succ', Nat.mod_mul, Nat.div_div_eq_div_mul, ← Nat.pow_succ] at hk
    refine ⟨?_, ih (fun y hy => hx y (by simp [hy])) ?_ ?_⟩
    · rw [getLsbD_eq (b := slotIsLim x) (by omega), field_eq (y := encodeSlot x) (by omega)]
      exact decodeSlot_encodeSlot hl hb
    · rw [Nat.mul_add, Nat.mul_one]
      omega
    · change encodeK r = w.toNat / 2 ^ (246 + k).succ % 2 ^ r.length
      omega

theorem decodeSlot_of_slotsFrom {w : BundleWord} {k : Nat} {l : List Slot} (h : SlotsFrom w k l) {i : Nat} (hi : i < l.length) :
    decodeSlot (w.getLsbD (246 + (k + i))) (w.extractLsb' (32 * (k + i)) 32) = some l[i] := by
  induction l generalizing k i with
  | nil => cases hi
  | cons x r ih =>
    obtain ⟨hx, hr⟩ := h
    cases i with
    | zero => exact hx
    | succ i =>
      rw [← Nat.add_assoc k i 1, Nat.add_right_comm]
      exact ih hr (Nat.lt_of_succ_lt_succ hi)

theorem decodeSlots_eq {w : BundleWord} {slots : List Slot} (hl : slots.length = 6) (h : SlotsFrom w 0 slots) :
    decodeSlots w = slots.map some := by
  refine List.ext_getElem (by simp [decodeSlots, hl]) fun i _ hi => ?_
  rw [List.length_map] at hi
  have hx := decodeSlot_of_slotsFrom h hi
  rw [Nat.zero_add] at hx
  simp only [decodeSlots, List.getElem_map, List.getElem_range, hx]

theorem firstUnread_some (k : Nat) (l : List Slot) : firstUnread k (l.map some) = none := by
  induction l generalizing k with
  | nil => rfl
  | cons x r ih => exact ih (k + 1)

/-- A legal bundle has legal slots and a legal scalar operation. -/
theorem firstIllegal_eq_none {b : Bundle} (h : firstIllegal b = none) :
    firstIllegalSlot b.slots [] 0 b.slots = none ∧ ∀ op, b.scalar = some op → scalarLegal op = true := by
  unfold firstIllegal at h
  split at h
  · cases h
  next hs =>
    refine ⟨hs, fun op ho => ?_⟩
    rw [ho] at h
    by_contra hn
    exact absurd ((if_neg hn).symm.trans h) (by simp)

/-- R76, R110: the word of a legal bundle is read as that bundle. -/
theorem decodeBundle_encodeBundle {b : Bundle} (h : bundleLegal b = true) : decodeBundle (encodeBundle b) = .ok b := by
  simp only [bundleLegal, Bool.and_eq_true, decide_eq_true_eq] at h
  obtain ⟨hl, hf⟩ := h
  obtain ⟨hslots, hscalar⟩ := firstIllegal_eq_none hf
  have hw := encodeBundle_toNat hl
  have hs := encodeSlots_lt b.slots
  have hk := encodeK_lt b.slots
  have hy := bit_lt b.y
  have ho := bit_lt b.scalar.isSome
  have hn := scalarNat_lt b.scalar
  generalize encodeBundle b = w at hw
  have hfrom : SlotsFrom w 0 b.slots := slotsFrom_of_encode hl (slotLegal_of_firstIllegalSlot hslots)
    (by rw [hl] at hs ⊢; omega) (by rw [hl] at hk hs ⊢; omega)
  rw [hl] at hs hk
  have hzero : w.extractLsb' 240 4 = 0 := field_eq (by simp; omega)
  have hbits : (w.extractLsb' 192 48).toNat = scalarNat b.scalar := by rw [field_toNat]; omega
  have hla : w.extractLsb' 252 4 = b.la := field_eq (by omega)
  have hyb : w.getLsbD 244 = b.y := getLsbD_eq (by omega)
  have hob : w.getLsbD 245 = b.scalar.isSome := getLsbD_eq (by omega)
  have hread : (decodeSlots w).map (fun x => x.getD .empty) = b.slots := by
    rw [decodeSlots_eq hl hfrom, List.map_map]
    exact List.map_id _
  have hnone : firstOf (firstUnread 0 (decodeSlots w)) (firstIllegalSlot b.slots [] 0 b.slots) = none := by
    rw [decodeSlots_eq hl hfrom, firstUnread_some, hslots]
    rfl
  obtain ⟨la, y, slots, scalar⟩ := b
  unfold decodeBundle
  dsimp only at *
  rw [hread, hnone, hzero, hob, hla, hyb]
  cases scalar with
  | none =>
    have hbits' : w.extractLsb' 192 48 = 0 := BitVec.eq_of_toNat_eq hbits
    rw [hbits']
    rfl
  | some op =>
    have hbits' : w.extractLsb' 192 48 = encodeScalar op := BitVec.eq_of_toNat_eq hbits
    rw [hbits', decodeScalar_encodeScalar]
    exact if_pos (hscalar op rfl)

/-- Settles O42: a legal bundle is read back from its word, and it is the well-formed instruction's own. -/
theorem decodeEncode : Obligations.DecodeEncode := by
  unfold Obligations.DecodeEncode
  intro i w hi he
  obtain ⟨b, hb, rfl⟩ := Option.map_eq_some_iff.mp he
  obtain ⟨-, hleg, hof⟩ := Laws.Encoding.statement_holds i b hb hi
  rw [decode, decodeBundle_encodeBundle hleg]
  exact congrArg Except.ok hof

end Sys2Proof.Proofs

namespace Sys2Proof.Proofs
open Sys2Proof.Machine Sys2Proof.Safety

/-! ### Illegal encodings (R110, R111) -/

theorem fetch_illegal {u : State} {gid sid k : Nat} (h : Fetchable u gid sid) (hd : decode (fetched u gid sid) = .error k) :
    fetch (coreOf u (groupCore u gid)) (groupOf u gid).super (pcOf u gid sid) = .illegal k := by
  obtain ⟨h1, h2, h3⟩ := h
  have hb : bundleWord (coreOf u (groupCore u gid)) (pcOf u gid sid) = fetched u gid sid := by rw [bundleWord, leVal_memRead]; rfl
  have hr : ((groupOf u gid).super && decide (pcOf u gid sid = supervisorPc) && (coreOf u (groupCore u gid)).supplied) = false := by
    by_cases hs : (groupOf u gid).super = true
    · by_cases hp : pcOf u gid sid = supervisorPc
      · simp [h2 hs hp]
      · simp [hp]
    · simp [hs]
  simp [fetch, h1, hr, h3, hb, hd]

/-- A trap before the bundle in user mode enters the supervisor (R311). -/
theorem trapBundle_entered {s : State} {gid sid : Nat} (t : TrapInfo) (ports : Table PortCell) (hs : (groupOf s gid).super = false) :
    ∃ h, trapBundle s gid sid t ports = setGroup s gid h ∧ Entered (groupOf s gid) h sid t (pcOf s gid sid) ports := by
  refine ⟨_, ?_, trapGroup_entered _ _ _ _ _⟩
  simp only [trapBundle, takeTrap, groupOf_setGroup, setGroup_setGroup, hs, Bool.false_eq_true, if_false, pcOf]

/-- A trap before the bundle in supervisor mode ends the group (R312). -/
theorem trapBundle_killed {s : State} {gid sid : Nat} (t : TrapInfo) (ports : Table PortCell) (hs : (groupOf s gid).super = true) :
    trapBundle s gid sid t ports = killed s gid := by
  have hk : killed (setGroup s gid { groupOf s gid with inject := none }) gid = killed s gid := by
    simp only [killed, ended, teamId, groupOf_setGroup, teamOf_setGroup, coreOf_setGroup, setGroup_setGroup]
    rfl
  rw [trapBundle, takeTrap, killGroup_eq, groupOf_setGroup]
  exact (if_pos hs).trans hk

/-- Settles O7: a word or bundle with an illegal field is answered by its trap before anything else of it is looked at. -/
theorem illegalEncodings : Obligations.IllegalEncodings := by
  unfold Obligations.IllegalEncodings
  refine ⟨fun s u cl gid sid after k hturn hf hd => ?word, fun i b k s gid sid hi hk hc hs => ?bundle⟩
  case word =>
    have hstep := step_turn hturn
    obtain ⟨-, -, -, -, hp⟩ := hturn
    rw [runContext_present hp, fetch_illegal hf hd] at hstep
    refine ⟨fun hs => ?_, fun hs => ?_⟩
    · obtain ⟨h, ht, hent⟩ := trapBundle_entered { code := 1, info := 0, slot := k } [] hs
      exact ⟨h, hstep.trans (congrArg (fun t => onNext tick (onNext after (.next t))) ht), hent⟩
    · exact hstep.trans (congrArg (fun t => onNext tick (onNext after (.next t))) (trapBundle_killed { code := 1, info := 0, slot := k } [] hs))
  case bundle =>
    obtain ⟨h, ht, hent⟩ := trapBundle_entered (sid := sid) { code := 1, info := 0, slot := k } [] hs
    refine ⟨h, ?_, hent⟩
    rw [exec_toBundle i b s hi, issue_cur s gid sid b hc, issueAt, hk]
    exact congrArg Host.Outcome.next ht

end Sys2Proof.Proofs

namespace Sys2Proof.Proofs
open Sys2Proof.Machine Sys2Proof.Safety

/-! ### Lane-local triggers (R87-R89, R148) -/

/-- The triggers whose result each lane computes of its own operands: those of ia, lg, fm and sf (R147, R151). -/
def LaneLocal : Trigger → Prop
  | .ia _ _ | .lg _ | .fm _ _ | .sf _ => True
  | .xl _ | .sm _ | .ld _ | .st _ | .mx _ | .cp _ => False

theorem unitUniform_laneLocal {t : Trigger} (h : LaneLocal t) : unitUniform (triggerUnit t) = false := by
  cases t with
  | ia u _ | fm u _ => cases u <;> rfl
  | lg _ | sf _ => rfl
  | _ => cases h

theorem toBundle_laneLocal {t : Trigger} {g : Guard} {src : Src} (h : LaneLocal t) :
    toBundle (triggerInstr t g src) = some (triggerBundle t g src) :=
  toBundle_triggerInstr src fun hu => absurd hu (Bool.eq_false_iff.mp (unitUniform_laneLocal h))

/-- Consuming latches changes the latches of an image alone. -/
theorem foldl_consumeLatch (u : FUnit) (ls : List LatchName) (m : Mask) (im : Image) :
    ls.foldl (fun im l => consumeLatch im u l m) im = { im with latches := consumed im u ls m } := by
  induction ls generalizing im with
  | nil => rfl
  | cons l r ih => rw [List.foldl_cons, ih]; rfl

theorem addResult_eq (g : Group) (r : Result) :
    addResult g r = { g with image := { g.image with results := g.image.results ++ if r.mask = 0 then [] else [r] } } := by
  unfold addResult
  split
  · rw [List.append_nil]
  · rfl

theorem firePaths_laneLocal {g : Group} {f : Fire} (ht : LaneLocal f.op) : firePaths g f = [] := by
  unfold firePaths
  split
  · rfl
  · cases h : f.op with
    | ia _ _ | lg _ | fm _ _ | sf _ => rfl
    | _ => simp only [h, LaneLocal] at ht

/-- A lane-local trigger fires: it consumes its latches, and its result is in flight unless no lane contributes. -/
theorem fireRun_laneLocal {s : State} {g : Group} {gid sid id : Nat} {f : Fire} {p : Plan} (hg : groupOf s gid = g) (ht : LaneLocal f.op)
    (hi : f.inj = none) :
    fireRun s gid sid f p id = setGroup s gid { g with image := { g.image with
      latches := consumed g.image (triggerUnit f.op) (latchesRead f.op) f.lanes
      results := g.image.results ++ if f.lanes = 0 then [] else [laneFire g f id] } } := by
  subst hg
  have hc : consumeFor (groupOf s gid) sid f = { (groupOf s gid).image with
      latches := consumed (groupOf s gid).image (triggerUnit f.op) (latchesRead f.op) f.lanes } := by
    rw [consumeFor, unitUniform_laneLocal ht]
    exact foldl_consumeLatch _ _ _ _
  have hp := firePaths_laneLocal (g := groupOf s gid) ht
  have hr := addResult_eq (groupOf s gid) (laneFire (groupOf s gid) f id)
  cases h : f.op with
  | ia _ _ | lg _ | fm _ _ | sf _ =>
    rw [h] at hc
    simp only [fireRun, hi, h]
    rw [hp, hc, groupOf_setGroup, setGroup_setGroup, hr]
    rfl
  | _ => simp only [h, LaneLocal] at ht

/-- The group in which a lone trigger fires: what is due is delivered, and no mask is being written. -/
def firing (s : State) (gid : Nat) (b : Bundle) : Group := { seen s gid b with mPrev := [] }

theorem groupOf_fireBase (s : State) (gid : Nat) (b : Bundle) : groupOf (fireBase s gid b) gid = firing s gid b := groupOf_setGroup _ _ _

theorem setGroup_fireBase (s : State) (gid : Nat) (b : Bundle) (x : Group) : setGroup (fireBase s gid b) gid x = setGroup (delivered s gid b) gid x :=
  setGroup_setGroup _ _ _ _

/-- The trigger of a lone trigger's bundle, as it fires. -/
def theFire (s : State) (gid sid : Nat) (t : Trigger) (g : Guard) (src : Src) : Fire :=
  loneFire (delivered s gid (triggerBundle t g src)) gid sid t g src

theorem theFire_lanes (s : State) (gid sid : Nat) (t : Trigger) (g : Guard) (src : Src) :
    (theFire s gid sid t g src).lanes = contributing s gid sid (triggerBundle t g src) g := by
  rw [contributing, ← seen_delivered]; rfl

/-- A lone lane-local trigger fires with the result that its lanes compute. -/
theorem loneRun_laneLocal {s : State} {gid sid : Nat} {t : Trigger} {g : Guard} {src : Src} (ht : LaneLocal t) :
    let b := triggerBundle t g src
    let c := contributing s gid sid b g
    loneRun s gid sid t g src = fired s gid b (consumed (seen s gid b).image (triggerUnit t) (latchesRead t) c)
      (if c = 0 then [] else [laneFire (firing s gid b) (theFire s gid sid t g src) (seen s gid b).opId]) := by
  intro b c
  have hr := fireRun_laneLocal (sid := sid) (id := (seen s gid b).opId) (f := theFire s gid sid t g src) (p := lonePlan s gid sid t g src)
    (groupOf_fireBase s gid b) ht rfl
  rw [theFire_lanes, setGroup_fireBase] at hr
  exact hr

/-- A lone lane-local trigger that issues: its result is in flight, and its split goes on. -/
theorem firesWith_laneFire {s : State} {gid sid : Nat} {t : Trigger} {g : Guard} {src : Src} {i : Instr} {r : Result} (ht : LaneLocal t)
    (hi : toBundle i = some (triggerBundle t g src)) (h : Issues s gid sid (triggerBundle t g src))
    (hk : Clean s gid sid (triggerBundle t g src))
    (hr : laneFire (firing s gid (triggerBundle t g src)) (theFire s gid sid t g src) (seen s gid (triggerBundle t g src)).opId = r) :
    FiresWith s gid sid t g src i r := by
  have hl := loneRun_laneLocal (s := s) (gid := gid) (sid := sid) (g := g) (src := src) ht
  obtain ⟨w, hw, he⟩ := trigger_issues h hk (by rw [hl, fired, groupOf_setGroup]) (by
    rw [hl, pcOf, fired, groupOf_setGroup]
    exact congrArg Split.pc (splitOf_seen s gid sid _))
  rw [hl, hr] at hw
  exact ⟨w, hw, (exec_toBundle i _ s hi).trans he⟩

/-- The result of a lone lane-local trigger by lane, from what each lane computes of its operands. -/
theorem laneFire_produced {s : State} {gid sid : Nat} {t : Trigger} {g : Guard} {src : Src} {n : Nat} {v : Nat → LaneRes} {hasX : Bool}
    (hn : ∀ spad, latency t spad = n) (hp : portsWritten t = (true, hasX)) (hres : residueChecked t = checkedByResidue t)
    (hv : ∀ l, laneResult (firing s gid (triggerBundle t g src)) (theFire s gid sid t g src) l = v l) :
    laneFire (firing s gid (triggerBundle t g src)) (theFire s gid sid t g src) (seen s gid (triggerBundle t g src)).opId =
      produced s gid sid t g src n hasX 0 (fun l => (v l).o) (fun l => (v l).x.getD 0) fun l => (v l).flags := by
  have hop : (theFire s gid sid t g src).op = t := rfl
  have ho (c : Mask) (l : Nat) : (if c.getLsbD l then v l else { o := 0 }).o = if c.getLsbD l then (v l).o else 0 :=
    apply_ite LaneRes.o _ _ _
  have hx (c : Mask) (l : Nat) : (if c.getLsbD l then v l else { o := 0 }).x.getD 0 = if c.getLsbD l then (v l).x.getD 0 else 0 :=
    apply_ite (fun r : LaneRes => r.x.getD 0) _ _ _
  have hf (c : Mask) (l : Nat) : (if c.getLsbD l then v l else { o := 0 }).flags = if c.getLsbD l then (v l).flags else 0 :=
    apply_ite LaneRes.flags _ _ _
  simp only [laneFire, blankResult, produced, hop, hn, hp, hres, hv, theFire_lanes, List.map_map, Function.comp_def, ho, hx, hf]
  rfl

/-- Settles O27: fm and sf are lane-local, so their results are what `fmLane` and `sfLane` give of each lane's operands. -/
theorem floatLanes : Obligations.FloatLanes := by
  unfold Obligations.FloatLanes
  refine fun g src s gid sid => ⟨fun unit op h hk => ?_, fun op h hk => ?_⟩
  · have hi : toBundle (fmInstr unit op g src) = some (triggerBundle (.fm unit op) g src) :=
      toBundle_laneLocal (t := .fm unit op) trivial
    refine firesWith_laneFire trivial hi h hk (laneFire_produced (fun _ => rfl) ?_ ?_ fun _ => rfl)
    · simp [portsWritten]
    · cases op <;> rfl
  · have hi : toBundle (sfInstr op g src) = some (triggerBundle (.sf op) g src) :=
      toBundle_laneLocal (t := .sf op) trivial
    exact firesWith_laneFire trivial hi h hk (laneFire_produced (fun _ => rfl) rfl rfl fun _ => rfl)

end Sys2Proof.Proofs

namespace Sys2Proof.Proofs
open Sys2Proof.Machine Sys2Proof.Safety

/-! ### Lone triggers of mx and cp (R87, R234, R267) -/

theorem toBundle_uniform {t : Trigger} (src : Src) : toBundle (triggerInstr t noGuard src) = some (triggerBundle t noGuard src) :=
  toBundle_triggerInstr src fun _ => rfl

section
variable {s : State} {gid sid : Nat} {t : Trigger} {g : Guard} {src : Src} (h : Issues s gid sid (triggerBundle t g src))
  (hk : Clean s gid sid (triggerBundle t g src))
include h hk

/-- A lone trigger that issues meets no trap condition of its own. -/
theorem lonePlan_noTraps : (lonePlan s gid sid t g src).traps = [] := by
  obtain ⟨⟨⟨⟨-, hi⟩, -, -⟩, ht, -⟩, -⟩ := h
  have hj : (groupOf (delivered s gid (triggerBundle t g src)) gid).inject = none := by rw [groupOf_delivered]; exact seen_inject hi
  have hb := (List.append_eq_nil_iff.mp ht).2
  rw [bundlePlan, bundleFires_lone hj ht hk, bundleScalar_trigger, planJoin_none, List.map_singleton, planAll, List.foldr_cons,
    List.foldr_nil, planJoin_none, seen_delivered] at hb
  exact hb

/-- A lone trigger that issues does not stall. -/
theorem lone_unstalled : fireStalls (fireBase s gid (triggerBundle t g src)) gid sid (theFire s gid sid t g src) = false := by
  obtain ⟨⟨⟨⟨-, hi⟩, -, hs⟩, ht, -⟩, -⟩ := h
  have hj : (groupOf (delivered s gid (triggerBundle t g src)) gid).inject = none := by rw [groupOf_delivered]; exact seen_inject hi
  have hf := loneFires_clean hk
  have hl := loneLanes_clean hk (lone_emptyLatch hj hf ht)
  have hr : loneRaw (delivered s gid (triggerBundle t g src)) gid sid t g src = theFire s gid sid t g src := by
    rw [loneRaw, hl]; rfl
  have ho := (Bool.or_eq_false_iff.mp (Bool.or_eq_false_iff.mp hs).1).2
  have hfs := firesOf_trigger hf
  rw [hr] at hfs
  have ha : ([theFire s gid sid t g src].any fun f => fireStalls (setGroup (delivered s gid (triggerBundle t g src)) gid
      { groupOf (delivered s gid (triggerBundle t g src)) gid with mPrev := [] }) gid sid f) = false := by
    rw [← hfs]
    exact (Bool.or_eq_false_iff.mp (Bool.or_eq_false_iff.mp ho).1).2
  rw [List.any_cons, List.any_nil, Bool.or_false, seen_delivered] at ha
  exact ha

end

/-- Consuming uniform latches changes the uniform latches of an image alone. -/
theorem foldl_consumeUniform (u : FUnit) (n : Nat) (ls : List LatchName) (im : Image) :
    ls.foldl (fun im l => consumeUniform im u n l) im = { im with uniform := uniConsumed im u n ls } := by
  induction ls generalizing im with
  | nil => rfl
  | cons l r ih => rw [List.foldl_cons, ih]; rfl

theorem consumeFor_uniform {g : Group} {sid : Nat} {f : Fire} (hu : unitUniform (triggerUnit f.op) = true) :
    consumeFor g sid f = { g.image with uniform := uniConsumed g.image (triggerUnit f.op) (halfOf g sid) (latchesRead f.op) } := by
  rw [consumeFor, if_pos hu]
  exact foldl_consumeUniform _ _ _ _

theorem team_firing (s : State) (gid : Nat) (b : Bundle) : (firing s gid b).team = teamId s gid := by
  rw [firing, seen, deliverFor_frame]; rfl

theorem teamId_fireBase (s : State) (gid : Nat) (b : Bundle) : (groupOf (fireBase s gid b) gid).team = teamId s gid := by
  rw [groupOf_fireBase, team_firing]

theorem halfOf_firing (s : State) (gid sid : Nat) (b : Bundle) : halfOf (firing s gid b) sid = half s gid sid := halfOf_seen s gid sid b

theorem groupOf_uniFired (s : State) (gid : Nat) (b : Bundle) (uni : Table ULatch) (rs : List Result) :
    groupOf (uniFired s gid b uni rs) gid = { firing s gid b with
      image := { (firing s gid b).image with uniform := uni, results := (firing s gid b).image.results ++ rs } } := groupOf_setGroup _ _ _

theorem teamId_uniFired (s : State) (gid : Nat) (b : Bundle) (uni : Table ULatch) (rs : List Result) :
    teamId (uniFired s gid b uni rs) gid = teamId s gid := by
  rw [teamId, groupOf_uniFired, ← groupOf_fireBase, teamId_fireBase]

theorem teamOf_uniFired (s : State) (gid : Nat) (b : Bundle) (uni : Table ULatch) (rs : List Result) (n : Nat) :
    teamOf (uniFired s gid b uni rs) n = teamOf s n := rfl

/-- A result added where uniform latches have been consumed. -/
theorem setGroup_addResult_uniFired (s : State) (gid : Nat) (b : Bundle) (uni : Table ULatch) (r : Result) :
    setGroup (uniFired s gid b uni []) gid (addResult (groupOf (uniFired s gid b uni []) gid) r) =
      uniFired s gid b uni (if r.mask = 0 then [] else [r]) := by
  rw [addResult_eq, groupOf_uniFired, uniFired, setGroup_setGroup, List.append_nil]
  rfl

/-- The number that a lone mx or cp trigger gives. -/
theorem numbered_eq {s : State} {gid sid : Nat} {t : Trigger} {src : Src} {n : Nat} (hl : ∀ spad, latency t spad = 1)
    (hp : portsWritten t = (true, false)) (hr : residueChecked t = checkedByResidue t) :
    let r : Result := { blankResult (firing s gid (triggerBundle t noGuard src)) (theFire s gid sid t noGuard src)
      (seen s gid (triggerBundle t noGuard src)).opId with o := laneFill fun _ => BitVec.ofNat 32 n }
    (if r.mask = 0 then [] else [r]) = Safety.numbered s gid sid t src n := by
  have hop : (theFire s gid sid t noGuard src).op = t := rfl
  simp only [blankResult, Safety.numbered, produced, hop, hl, hp, hr, theFire_lanes, laneFill]
  rfl

/-- What a lone trigger of mx or cp comes to: the uniform latches, results and counters of its group change, and its splits stand where they
stood. -/
theorem fires_issues {s v : State} {gid sid : Nat} {t : Trigger} {g : Guard} {src : Src} (h : Issues s gid sid (triggerBundle t g src))
    (hk : Clean s gid sid (triggerBundle t g src)) (hl : loneRun s gid sid t g src = v)
    (hv : ∃ uni rs ps, groupOf v gid = { groupOf (uniFired s gid (triggerBundle t g src) uni rs) gid with paths := ps }) :
    ∃ w, issue (triggerBundle t g src) s = .next (goesOn w gid sid) ∧ Counts v w gid := by
  subst hl
  obtain ⟨uni, rs, ps, hv⟩ := hv
  obtain ⟨w, hw, he⟩ := trigger_issues h hk (by rw [hv, groupOf_uniFired]; rfl) (by
    rw [pcOf, hv, groupOf_uniFired]
    exact congrArg Split.pc (splitOf_seen s gid sid _))
  exact ⟨w, he, hw⟩

theorem onTeam_issues {s : State} {gid sid : Nat} {t : Trigger} {g : Guard} {src : Src} {uni : Table ULatch} {rs : List Result} {f : Team → Team}
    (h : Issues s gid sid (triggerBundle t g src)) (hk : Clean s gid sid (triggerBundle t g src))
    (hl : loneRun s gid sid t g src = onTeam (uniFired s gid (triggerBundle t g src) uni rs) gid f) :
    ∃ w, issue (triggerBundle t g src) s = .next (goesOn w gid sid) ∧
      Counts (onTeam (uniFired s gid (triggerBundle t g src) uni rs) gid f) w gid := fires_issues h hk hl ⟨uni, rs, _, rfl⟩

end Sys2Proof.Proofs

namespace Sys2Proof.Proofs
open Sys2Proof.Machine Sys2Proof.Safety

/-! ### What a committed step leaves alone (R256) -/

theorem groupOf_commitStep (s : State) (n k : Nat) : groupOf (commitStep s n) k = groupOf s k := by
  unfold commitStep
  extract_lets t
  split <;> rfl

theorem teamOf_commitStep (s : State) (n : Nat) :
    teamOf (commitStep s n) n = { teamOf s n with committed := (teamOf s n).committed || (teamOf s n).step } := by
  unfold commitStep
  extract_lets t
  by_cases h : t.step = true
  · rw [if_pos h, teamOf_setTeam, show (teamOf s n).step = true from h, Bool.or_true]
  · have hs : (teamOf s n).step = false := Bool.eq_false_iff.mpr h
    rw [if_neg h, show ((teamOf s n).committed || (teamOf s n).step) = (teamOf s n).committed by rw [hs, Bool.or_false]]

theorem setTeam_setTeam (s : State) (n : Nat) (x y : Team) : setTeam (setTeam s n x) n y = setTeam s n y := by simp [setTeam]

/-! ### A lone trigger of mx as it fires -/

/-- A state whose group has other uniform latches. -/
def withUniform (v : State) (gid : Nat) (uni : Table ULatch) : State :=
  setGroup v gid { groupOf v gid with image := { (groupOf v gid).image with uniform := uni } }

/-- A number given on port o of the lanes of a trigger, in flight (R84). -/
def giveNumber (v : State) (gid : Nat) (g : Group) (f : Fire) (id n : Nat) : State :=
  setGroup v gid (addResult (groupOf v gid) { blankResult g f id with o := laneFill fun _ => BitVec.ofNat 32 n })

/-- An mx trigger that fires is applied once its latches are consumed, and its number, where it gives one, is in flight. -/
theorem fireRun_mx {s u : State} {g : Group} {gid sid id : Nat} {f : Fire} {p : Plan} {op : MxOp} (hg : groupOf s gid = g)
    (ht : f.op = .mx op) (hi : f.inj = none)
    (hu : (if segmentOpen (teamOf s g.team) && op != .qadv && op != .mxfence then commitStep s g.team else s) = u) :
    let r := mxApply (withUniform u gid (uniConsumed g.image .mx (halfOf g sid) (latchesRead f.op))) gid id op
      ((uniLatch g (halfOf g sid) .mx .a).getD 0) f.uval
    fireRun s gid sid f p id = match r.2 with
      | none => r.1
      | some n => giveNumber r.1 gid g f id n := by
  have hgu : groupOf u gid = g := by
    rw [← hu, ← hg]
    split
    · exact groupOf_commitStep _ _ _
    · rfl
  have hc : consumeFor g sid f = { g.image with uniform := uniConsumed g.image .mx (halfOf g sid) (latchesRead f.op) } := by
    rw [consumeFor_uniform (by rw [ht]; rfl), ht]; rfl
  have hp : firePaths g f = [] := by unfold firePaths; rw [ht]; exact ite_self _
  simp only [fireRun, hi, ht, hg, hu, hc, hp, hgu, withUniform]
  rfl

/-- Where a lone trigger of mx or cp fires with its latches consumed, nothing more has changed. -/
theorem withUniform_fireBase (s : State) (gid : Nat) (b : Bundle) (uni : Table ULatch) :
    withUniform (fireBase s gid b) gid uni = uniFired s gid b uni [] := by
  rw [withUniform, groupOf_fireBase, setGroup_fireBase, uniFired, List.append_nil]
  rfl

end Sys2Proof.Proofs

namespace Sys2Proof.Proofs
open Sys2Proof.Machine Sys2Proof.Safety

/-! ### QADV and MXFENCE (R280, R281) -/

theorem trapIf_append_eq_nil {c : Prop} [Decidable c] {code info slot : Nat} {r : List TrapInfo}
    (h : trapIf (decide c) code info slot ++ r = []) : ¬c ∧ r = [] := by
  obtain ⟨hc, hr⟩ := List.append_eq_nil_iff.mp h
  exact ⟨of_decide_eq_false (trapIf_eq_nil.mp hc), hr⟩

/-- The value of a lone uniform trigger is what its source gives it. -/
theorem theFire_uval (s : State) (gid sid : Nat) (t : Trigger) (g : Guard) (src : Src) :
    (theFire s gid sid t g src).uval = uniformValue (seen s gid (triggerBundle t g src)) (half s gid sid) (triggerBundle t g src) src := by
  simp only [theFire, loneFire]; rw [seen_delivered, halfOf_seen]

/-- A latch as a lone trigger of mx or cp finds it. -/
theorem uniLatch_firing (s : State) (gid sid : Nat) (b : Bundle) (u : FUnit) (l : LatchName) :
    uniLatch (firing s gid b) (halfOf (firing s gid b) sid) u l = uniLatch (seen s gid b) (half s gid sid) u l := by
  rw [halfOf_firing]; rfl

theorem groupTeam_fireBase (s : State) (gid : Nat) (b : Bundle) : groupTeam (fireBase s gid b) gid = teamOf s (teamId s gid) := by
  rw [groupTeam, teamId_fireBase]; rfl

/-- The checks that a lone mx trigger that issues has passed. -/
theorem mxTraps_noTraps {s : State} {gid sid : Nat} {op : MxOp} {src : Src} (h : Issues s gid sid (triggerBundle (.mx op) noGuard src))
    (hk : Clean s gid sid (triggerBundle (.mx op) noGuard src)) :
    let b := triggerBundle (.mx op) noGuard src
    mxTraps (fireBase s gid b) gid sid 0 op (uniLatch (seen s gid b) (half s gid sid) .mx .a)
      (uniformValue (seen s gid b) (half s gid sid) b src) = [] := by
  have hp := lonePlan_noTraps h hk
  simp only [lonePlan, firePlan, loneFire, Option.isSome_none, Bool.false_eq_true, if_false] at hp
  rw [groupOf_fireBase, uniLatch_firing, seen_delivered, halfOf_seen] at hp
  exact hp

theorem qadvTraps_eq_nil {t : Team} {v : DWord} {slot : Nat} (h : qadvTraps t slot v = []) :
    let n := v.toNat / 2 ^ 8 % 2 ^ 8
    let x := streamOf t (v.toNat % 16)
    v.toNat / 2 ^ 17 = 0 ∧ v.toNat / 2 ^ 4 % 2 ^ 4 = 0 ∧ 0 < n ∧ (v.getLsbD 16 = true → n ≤ occupancy x) ∧
      (v.getLsbD 16 = false → occupancy x + n ≤ qCap x.qw0) := by
  intro n x
  simp only [qadvTraps, List.append_assoc] at h
  obtain ⟨hz, h⟩ := trapIf_append_eq_nil h
  obtain ⟨hn, h⟩ := trapIf_append_eq_nil h
  obtain ⟨-, h⟩ := trapIf_append_eq_nil h
  have hc := trapIf_eq_nil.mp h
  rw [bits_zero] at hc
  rw [bits_top (x := v.toNat) (lo := 17) (n := 47) v.isLt] at hz
  refine ⟨by omega, ?_, Nat.pos_of_ne_zero hn, fun hb => ?_, fun hb => ?_⟩
  · have : bits v.toNat 4 4 = 0 := by omega
    exact this
  · rw [if_pos hb] at hc
    exact Nat.not_lt.mp (of_decide_eq_false hc)
  · rw [if_neg (by rw [hb]; decide)] at hc
    exact Nat.not_lt.mp (of_decide_eq_false hc)

/-- Bit 16 of a word without bits above it. -/
theorem getLsbD_sixteen {v : DWord} (h : v.toNat / 2 ^ 17 = 0) :
    (v.getLsbD 16 = true ↔ v.toNat / 2 ^ 16 = 1) ∧ (v.getLsbD 16 = false ↔ v.toNat / 2 ^ 16 = 0) := by
  have hb : v.getLsbD 16 = decide (v.toNat / 2 ^ 16 % 2 = 1) := by rw [BitVec.getLsbD, Nat.testBit_eq_decide_div_mod_eq]
  rw [hb, decide_eq_true_iff, decide_eq_false_iff_not]
  omega

theorem giveNumber_setTeam (v : State) (gid n id k : Nat) (x : Team) (g : Group) (f : Fire) :
    giveNumber (setTeam v n x) gid g f id k = setTeam (giveNumber v gid g f id k) n x := rfl

/-- The number that a lone trigger of mx or cp gives, once its latches are consumed. -/
theorem giveNumber_uniFired {s : State} {gid sid n : Nat} {t : Trigger} {src : Src} (uni : Table ULatch) (hl : ∀ spad, latency t spad = 1)
    (hp : portsWritten t = (true, false)) (hr : residueChecked t = checkedByResidue t) :
    let b := triggerBundle t noGuard src
    giveNumber (uniFired s gid b uni []) gid (firing s gid b) (theFire s gid sid t noGuard src) (seen s gid b).opId n =
      uniFired s gid b uni (Safety.numbered s gid sid t src n) := by
  intro b
  rw [giveNumber, setGroup_addResult_uniFired, ← numbered_eq hl hp hr]

theorem onTeam_uniFired (s : State) (gid : Nat) (b : Bundle) (uni : Table ULatch) (rs : List Result) (f : Team → Team) :
    onTeam (uniFired s gid b uni rs) gid f = setTeam (uniFired s gid b uni rs) (teamId s gid) (f (teamOf s (teamId s gid))) := by
  rw [onTeam, teamId_uniFired, teamOf_uniFired]

/-- QADV of a word without bits above bit 16, by division. -/
theorem qadvApply_eq (t : Team) (gid id : Nat) {v : DWord} (h : v.toNat / 2 ^ 17 = 0) :
    let x := streamOf t (v.toNat % 16)
    let n := v.toNat / 2 ^ 8 % 2 ^ 8
    qadvApply t gid id v = { t with
      qadvOps := tset t.qadvOps gid id
      streams := tset t.streams (v.toNat % 16) (if v.toNat / 2 ^ 16 = 1 then { x with head := (x.head + n) % 2 ^ 32 }
        else { x with tail := (x.tail + n) % 2 ^ 32 }) } := by
  intro x n
  simp only [qadvApply, bits_zero, (getLsbD_sixteen h).1]
  rfl

theorem mxfenceTraps_eq_nil {t : Team} {v : DWord} {slot : Nat} (h : mxfenceTraps t slot v = []) :
    v.toNat % 2 ^ 12 < 2 ^ 11 ∧ t.batchLast + 1 < 2 ^ 32 := by
  simp only [mxfenceTraps, List.append_assoc] at h
  obtain ⟨hk, h⟩ := trapIf_append_eq_nil h
  obtain ⟨-, h⟩ := trapIf_append_eq_nil h
  have hn := of_decide_eq_false (trapIf_eq_nil.mp h)
  rw [bits_zero] at hk
  omega

/-- QADV as it fires. -/
theorem loneRun_qadv (s : State) (gid sid : Nat) (src : Src) :
    let b := triggerBundle (.mx .qadv) noGuard src
    loneRun s gid sid (.mx .qadv) noGuard src = onTeam (uniFired s gid b (seen s gid b).image.uniform []) gid fun t =>
      qadvApply t gid (seen s gid b).opId (uniformValue (seen s gid b) (half s gid sid) b src) := by
  intro b
  have hr := fireRun_mx (sid := sid) (id := (seen s gid b).opId) (f := theFire s gid sid (.mx .qadv) noGuard src)
    (p := lonePlan s gid sid (.mx .qadv) noGuard src) (u := fireBase s gid b) (groupOf_fireBase s gid b) rfl rfl (by simp)
  rw [withUniform_fireBase, theFire_uval] at hr
  exact hr

/-- MXFENCE as it fires. -/
theorem loneRun_mxfence (s : State) (gid sid : Nat) (src : Src) :
    let b := triggerBundle (.mx .mxfence) noGuard src
    loneRun s gid sid (.mx .mxfence) noGuard src =
      onTeam (uniFired s gid b (seen s gid b).image.uniform (Safety.numbered s gid sid (.mx .mxfence) src ((teamOf s (teamId s gid)).batchLast + 1)))
        gid fun t => closeBatch t (bits (uniformValue (seen s gid b) (half s gid sid) b src).toNat 0 12) false := by
  intro b
  have hr := fireRun_mx (sid := sid) (id := (seen s gid b).opId) (f := theFire s gid sid (.mx .mxfence) noGuard src)
    (p := lonePlan s gid sid (.mx .mxfence) noGuard src) (u := fireBase s gid b) (groupOf_fireBase s gid b) rfl rfl (by simp)
  rw [withUniform_fireBase, theFire_uval] at hr
  let k := uniFired s gid b (seen s gid b).image.uniform []
  let f (t : Team) : Team := closeBatch t (bits (uniformValue (seen s gid b) (half s gid sid) b src).toNat 0 12) false
  have hx := giveNumber_setTeam k gid (teamId s gid) (seen s gid b).opId (f (teamOf s (teamId s gid))).batchLast (f (teamOf s (teamId s gid)))
    (firing s gid b) (theFire s gid sid (.mx .mxfence) noGuard src)
  rw [giveNumber_uniFired _ (fun _ => rfl) rfl rfl] at hx
  rw [onTeam_uniFired]
  refine (hr.trans ?_).trans hx
  change giveNumber (onTeam k gid f) gid (firing s gid b) _ _ (f (teamOf k (teamId k gid))).batchLast = _
  rw [onTeam_uniFired, teamId_uniFired]
  rfl

/-- Settles O37: the checks of QADV and MXFENCE give their conditions, and what each does is all that its fire changes. -/
theorem streamAdvanceAndFence : Obligations.StreamAdvanceAndFence := by
  unfold Obligations.StreamAdvanceAndFence
  refine fun src s gid sid => ⟨fun h hk => ?_, fun h hk => ?_⟩
  · have ht := (List.append_eq_nil_iff.mp (mxTraps_noTraps h hk)).2
    simp only [groupTeam_fireBase] at ht
    obtain ⟨hz, hr, hn, ho, hi⟩ := qadvTraps_eq_nil ht
    obtain ⟨h1, h0⟩ := getLsbD_sixteen hz
    obtain ⟨w, he, hw⟩ := onTeam_issues h hk (loneRun_qadv s gid sid src)
    refine ⟨hz, hr, hn, fun hv => ho (h1.mpr hv), fun hv => hi (h0.mpr hv), w, (exec_toBundle _ _ s (toBundle_uniform src)).trans he, ?_⟩
    rw [onTeam_uniFired] at hw ⊢
    rwa [qadvApply_eq _ _ _ hz] at hw
  · have ht := (List.append_eq_nil_iff.mp (mxTraps_noTraps h hk)).2
    simp only [groupTeam_fireBase] at ht
    obtain ⟨hrec, hlast⟩ := mxfenceTraps_eq_nil ht
    obtain ⟨w, he, hw⟩ := onTeam_issues h hk (loneRun_mxfence s gid sid src)
    refine ⟨hrec, hlast, w, (exec_toBundle _ _ s (toBundle_uniform src)).trans he, ?_⟩
    rw [onTeam_uniFired, bits_zero] at hw
    rw [onTeam_uniFired]
    exact hw

end Sys2Proof.Proofs

namespace Sys2Proof.Proofs
open Sys2Proof.Machine Sys2Proof.Safety

/-! ### Transfer commands (R233, R234) -/

theorem firePaths_cp {g : Group} {f : Fire} {op : CpOp} (ht : f.op = .cp op) (hi : f.inj = none) :
    firePaths g f = if f.lanes = 0 then [] else [3] := by
  simp only [firePaths, ht, hi, Option.isSome_none, Bool.false_eq_true, or_false]

theorem raisePaths_withUniform (v : State) (gid n id : Nat) (uni : Table ULatch) (ps : List Nat) :
    setGroup v gid (raisePaths { groupOf v gid with image := { (groupOf v gid).image with uniform := uni } } n id ps) =
      onPaths (withUniform v gid uni) gid n id ps := by
  rw [onPaths, withUniform, groupOf_setGroup, setGroup_setGroup]
  rfl

/-- A cp trigger that fires is applied once its latches are consumed and its counter is raised, and its number is in flight. -/
theorem fireRun_cp {s u : State} {g : Group} {gid sid id : Nat} {f : Fire} {p : Plan} {op : CpOp} (hg : groupOf s gid = g)
    (ht : f.op = .cp op) (hi : f.inj = none) (hu : (if op = .coll then commitStep s g.team else s) = u) :
    let l (x : LatchName) : DWord := (uniLatch g (halfOf g sid) .cp x).getD 0
    let r := cpApply (onPaths (withUniform u gid (uniConsumed g.image .cp (halfOf g sid) [.a, .b, .c])) gid (halfOf g sid) id
      (if f.lanes = 0 then [] else [3])) gid (halfOf g sid) id op (l .a) (l .b) (l .c) f.uval
    fireRun s gid sid f p id = giveNumber r.1 gid g f id r.2 := by
  have hgu : groupOf u gid = g := by
    rw [← hu, ← hg]
    split
    · exact groupOf_commitStep _ _ _
    · rfl
  have hc : consumeFor g sid f = { g.image with uniform := uniConsumed g.image .cp (halfOf g sid) [.a, .b, .c] } := by
    rw [consumeFor_uniform (by rw [ht]; rfl), ht]; rfl
  rw [← raisePaths_withUniform]
  simp only [fireRun, hi, ht, hg, hu, hc, firePaths_cp ht hi, hgu]
  rfl

/-- A committed step is a team written, if anything. -/
theorem commitStep_cases (s : State) (n : Nat) : commitStep s n = s ∨ ∃ x, commitStep s n = setTeam s n x := by
  unfold commitStep
  extract_lets t
  split
  · exact .inr ⟨_, rfl⟩
  · exact .inl rfl

theorem giveNumber_onPaths (v : State) (gid n id i k : Nat) (ps : List Nat) (g : Group) (f : Fire) :
    giveNumber (onPaths v gid n id ps) gid g f i k = onPaths (giveNumber v gid g f i k) gid n id ps := by
  simp only [giveNumber, onPaths, addResult_eq, groupOf_setGroup, setGroup_setGroup]

/-- Where a team is written in the end, it does not matter that it was written before. -/
theorem setTeam_of_written {u v : State} {n : Nat} (F : State → State) (x : Team) (hu : u = v ∨ ∃ y, u = setTeam v n y)
    (hF : ∀ y, F (setTeam v n y) = setTeam (F v) n y) : setTeam (F u) n x = setTeam (F v) n x := by
  rcases hu with rfl | ⟨y, rfl⟩
  · rfl
  · rw [hF, setTeam_setTeam]

/-- A state with a transfer command in the buffer of a core, its number the next of the module. -/
def withCommand (v : State) (core : Nat) (c : CopyCmd) : State :=
  setCore { v with nextId := v.nextId + 1 } core { coreOf v core with copies := (coreOf v core).copies ++ [c] }

/-- The channels of a team once a number is given on one (R234). -/
def channelsAfter (t : Team) (ch n : Nat) : Table Channel := tset t.channels ch { tgetD t.channels ch {} with last := n }

theorem cpApply_eq {v : State} {gid n m id : Nat} {op : CpOp} {a b d ctl : DWord} {t : Team} (hn : teamId v gid = n) (ht : teamOf v n = t) :
    let num := (tgetD t.channels (kCH ctl) {}).last + 1
    let c : CopyCmd := { id := v.nextId, op := op, team := n, gid := gid, half := m, opId := id, channel := kCH ctl, num := num
                         a := a, b := b, time := d, ctl := ctl, sup := false }
    cpApply v gid m id op a b d ctl = (setTeam (withCommand v t.core c) n { t with channels := channelsAfter t (kCH ctl) num }, num) := by
  subst hn ht; rfl

theorem teamId_withUniform (v : State) (gid : Nat) (uni : Table ULatch) : teamId (withUniform v gid uni) gid = teamId v gid := by
  rw [teamId, withUniform, groupOf_setGroup]; rfl

theorem teamId_onPaths (v : State) (gid n id : Nat) (ps : List Nat) : teamId (onPaths v gid n id ps) gid = teamId v gid := by
  rw [teamId, onPaths, groupOf_setGroup]; rfl

/-- The state in which a lone cp trigger fires, its team's step committed where it is a coll (R256). -/
def cpBase (s : State) (gid : Nat) (op : CpOp) (src : Src) : State :=
  let u := fireBase s gid (triggerBundle (.cp op) noGuard src)
  if op = .coll then commitStep u (teamId s gid) else u

theorem cpBase_cases (s : State) (gid : Nat) (op : CpOp) (src : Src) :
    let u := fireBase s gid (triggerBundle (.cp op) noGuard src)
    cpBase s gid op src = u ∨ ∃ x, cpBase s gid op src = setTeam u (teamId s gid) x := by
  intro u
  unfold cpBase
  by_cases h : op = .coll
  · rw [if_pos h]; exact commitStep_cases _ _
  · rw [if_neg h]; exact .inl rfl

theorem teamId_cpBase (s : State) (gid : Nat) (op : CpOp) (src : Src) : teamId (cpBase s gid op src) gid = teamId s gid := by
  rcases cpBase_cases s gid op src with h | ⟨x, h⟩
  · rw [h]; exact teamId_fireBase _ _ _
  · rw [h]; exact teamId_fireBase _ _ _

theorem teamOf_cpBase (s : State) (gid : Nat) (op : CpOp) (src : Src) :
    let t := teamOf s (teamId s gid)
    teamOf (cpBase s gid op src) (teamId s gid) = { t with committed := t.committed || (t.step && decide (op = .coll)) } := by
  intro t
  unfold cpBase
  by_cases h : op = .coll
  · rw [if_pos h, teamOf_commitStep, decide_eq_true h, Bool.and_true]; rfl
  · rw [if_neg h, decide_eq_false h, Bool.and_false, Bool.or_false]; rfl

/-- The command that a lone cp trigger submits (R234). -/
def theCommand (s : State) (gid sid : Nat) (op : CpOp) (src : Src) : CopyCmd :=
  let b := triggerBundle (.cp op) noGuard src
  let y := seen s gid b
  let ctl := uniformValue y (half s gid sid) b src
  let l (x : LatchName) : DWord := (uniLatch y (half s gid sid) .cp x).getD 0
  { id := s.nextId, op := op, team := teamId s gid, gid := gid, half := half s gid sid, opId := y.opId, channel := kCH ctl
    num := (tgetD (teamOf s (teamId s gid)).channels (kCH ctl) {}).last + 1, a := l .a, b := l .b, time := l .c, ctl := ctl, sup := false }

/-- A cp trigger in a state, but for its team: its latches consumed, its number in flight, its counter raised and its command submitted. -/
def submitted (g : Group) (f : Fire) (uni : Table ULatch) (m : Nat) (ps : List Nat) (core : Nat) (c : CopyCmd) (v : State) : State :=
  withCommand (onPaths (giveNumber (withUniform v c.gid uni) c.gid g f c.opId c.num) c.gid m c.opId ps) core c

theorem submitted_setTeam (g : Group) (f : Fire) (uni : Table ULatch) (m : Nat) (ps : List Nat) (core : Nat) (c : CopyCmd) (v : State) (n : Nat)
    (x : Team) : submitted g f uni m ps core c (setTeam v n x) = setTeam (submitted g f uni m ps core c v) n x := rfl

theorem giveNumber_withCommand (v : State) (core n : Nat) (x : Team) (g : Group) (f : Fire) (c : CopyCmd) :
    giveNumber (setTeam (withCommand v core c) n x) c.gid g f c.opId c.num = setTeam (withCommand (giveNumber v c.gid g f c.opId c.num) core c) n x :=
  rfl

theorem submitted_eq (g : Group) (f : Fire) (uni : Table ULatch) (m : Nat) (ps : List Nat) (core : Nat) (c : CopyCmd) (v : State) (n : Nat)
    (x : Team) : giveNumber (setTeam (withCommand (onPaths (withUniform v c.gid uni) c.gid m c.opId ps) core c) n x) c.gid g f c.opId c.num =
      setTeam (submitted g f uni m ps core c v) n x := by
  rw [giveNumber_withCommand, giveNumber_onPaths, submitted]

theorem teamId_withCommand (v : State) (gid core : Nat) (c : CopyCmd) : teamId (withCommand v core c) gid = teamId v gid := rfl

theorem teamOf_withCommand (v : State) (n core : Nat) (c : CopyCmd) : teamOf (withCommand v core c) n = teamOf v n := rfl

theorem teamOf_onPaths (v : State) (gid m id n : Nat) (ps : List Nat) : teamOf (onPaths v gid m id ps) n = teamOf v n := rfl

theorem nextId_cpBase (s : State) (gid : Nat) (op : CpOp) (src : Src) : (cpBase s gid op src).nextId = s.nextId := by
  rcases cpBase_cases s gid op src with h | ⟨_, h⟩ <;> rw [h] <;> rfl

theorem submitted_fireBase (s : State) (gid sid : Nat) (op : CpOp) (src : Src) (uni : Table ULatch) (ps : List Nat) (core : Nat) :
    let b := triggerBundle (.cp op) noGuard src
    let c := theCommand s gid sid op src
    submitted (firing s gid b) (theFire s gid sid (.cp op) noGuard src) uni (half s gid sid) ps core c (fireBase s gid b) =
      withCommand (onPaths (uniFired s gid b uni (Safety.numbered s gid sid (.cp op) src c.num)) gid (half s gid sid) (seen s gid b).opId ps)
        core c := by
  intro b c
  have hg := giveNumber_uniFired (s := s) (gid := gid) (sid := sid) (n := c.num) (t := .cp op) (src := src) uni (fun _ => rfl) rfl rfl
  dsimp only at hg
  rw [← withUniform_fireBase] at hg
  exact congrArg (fun v => withCommand (onPaths v gid (half s gid sid) (seen s gid b).opId ps) core c) hg

/-- A lone cp trigger as it fires. -/
theorem loneRun_cp (s : State) (gid sid : Nat) (op : CpOp) (src : Src) :
    let b := triggerBundle (.cp op) noGuard src
    let y := seen s gid b
    let t := teamOf s (teamId s gid)
    let c := theCommand s gid sid op src
    let x := onPaths (uniFired s gid b (uniConsumed y.image .cp (half s gid sid) [.a, .b, .c]) (Safety.numbered s gid sid (.cp op) src c.num))
      gid (half s gid sid) y.opId (if contributing s gid sid b noGuard = 0 then [] else [3])
    loneRun s gid sid (.cp op) noGuard src = onTeam (withCommand x t.core c) gid fun t => { t with
      channels := channelsAfter t c.channel c.num, committed := t.committed || (t.step && decide (op = .coll)) } := by
  intro b y t c x
  let uni := uniConsumed y.image .cp (half s gid sid) [.a, .b, .c]
  let ps := if contributing s gid sid b noGuard = 0 then [] else [3]
  let f := theFire s gid sid (.cp op) noGuard src
  let k := onPaths (withUniform (cpBase s gid op src) gid uni) gid (half s gid sid) y.opId ps
  let z : Team := { t with
    channels := channelsAfter t c.channel c.num, committed := t.committed || (t.step && decide (op = .coll)) }
  have hk : teamId k gid = teamId s gid := by rw [teamId_onPaths, teamId_withUniform, teamId_cpBase]
  have hr := fireRun_cp (sid := sid) (id := y.opId) (f := f) (p := lonePlan s gid sid (.cp op) noGuard src) (u := cpBase s gid op src)
    (groupOf_fireBase s gid b) rfl rfl (by rw [team_firing]; rfl)
  have happ := cpApply_eq (m := half s gid sid) (id := y.opId) (op := op) (a := c.a) (b := c.b) (d := c.time) (ctl := c.ctl) hk
    (teamOf_cpBase s gid op src)
  have hid : k.nextId = s.nextId := nextId_cpBase s gid op src
  dsimp only at hr happ
  rw [theFire_lanes, theFire_uval, uniLatch_firing, uniLatch_firing, uniLatch_firing, halfOf_firing] at hr
  rw [hid] at happ
  calc loneRun s gid sid (.cp op) noGuard src
    _ = giveNumber (setTeam (withCommand k t.core c) (teamId s gid) z) gid (firing s gid b) f y.opId c.num :=
      hr.trans (congrArg (fun r => giveNumber r.1 gid (firing s gid b) f y.opId r.2) happ)
    _ = setTeam (submitted (firing s gid b) f uni (half s gid sid) ps t.core c (cpBase s gid op src)) (teamId s gid) z :=
      submitted_eq _ _ _ _ _ _ c _ _ _
    _ = setTeam (submitted (firing s gid b) f uni (half s gid sid) ps t.core c (fireBase s gid b)) (teamId s gid) z :=
      setTeam_of_written (submitted (firing s gid b) f uni (half s gid sid) ps t.core c) z (cpBase_cases s gid op src)
        (submitted_setTeam _ _ _ _ _ _ _ _ _)
    _ = setTeam (withCommand x t.core c) (teamId s gid) z := by rw [submitted_fireBase]
    _ = _ := by rw [onTeam, teamId_withCommand, teamOf_withCommand, teamId_onPaths, teamId_uniFired, teamOf_onPaths, teamOf_uniFired]

/-- The checks that a lone cp trigger that issues has passed. -/
theorem cpTraps_noTraps {s : State} {gid sid : Nat} {op : CpOp} {src : Src} (h : Issues s gid sid (triggerBundle (.cp op) noGuard src))
    (hk : Clean s gid sid (triggerBundle (.cp op) noGuard src)) :
    let b := triggerBundle (.cp op) noGuard src
    let l (x : LatchName) : Option DWord := uniLatch (seen s gid b) (half s gid sid) .cp x
    cpTraps (fireBase s gid b) gid 0 op (l .a) (l .b) (l .c) (uniformValue (seen s gid b) (half s gid sid) b src) = [] := by
  have hp := lonePlan_noTraps h hk
  simp only [lonePlan, firePlan, loneFire, Option.isSome_none, Bool.false_eq_true, if_false] at hp
  rw [groupOf_fireBase, uniLatch_firing, uniLatch_firing, uniLatch_firing, seen_delivered, halfOf_seen] at hp
  exact hp

/-- A latch whose emptiness would trap is full. -/
theorem full_of_noTrap {l : Option DWord} {code info slot : Nat}
    (h : (if l.isNone then slotTrap code info slot else []) = []) : ∃ v, l = some v := by
  cases l with
  | none => cases h
  | some v => exact ⟨v, rfl⟩

theorem cpTraps_eq_nil {s : State} {gid slot : Nat} {op : CpOp} {a b c : Option DWord} {ctl : DWord} {t : Team}
    (ht : teamOf s (teamId s gid) = t) (h : cpTraps s gid slot op a b c ctl = []) :
    (∃ v, a = some v) ∧ (∃ v, b = some v) ∧ (∃ v, c = some v) ∧ (tgetD t.channels (kCH ctl) {}).last + 1 < 2 ^ 32 := by
  subst ht
  simp only [cpTraps, List.append_assoc] at h
  obtain ⟨ha, h⟩ := List.append_eq_nil_iff.mp h
  obtain ⟨hb, h⟩ := List.append_eq_nil_iff.mp h
  obtain ⟨hc, h⟩ := List.append_eq_nil_iff.mp h
  obtain ⟨-, h⟩ := List.append_eq_nil_iff.mp h
  obtain ⟨-, h⟩ := List.append_eq_nil_iff.mp h
  exact ⟨full_of_noTrap ha, full_of_noTrap hb, full_of_noTrap hc, Nat.not_le.mp (trapIf_append_eq_nil h).1⟩

/-- The buffer of the core of a lone cp trigger that issues has room. -/
theorem copies_room {s : State} {gid sid : Nat} {op : CpOp} {src : Src} (h : Issues s gid sid (triggerBundle (.cp op) noGuard src))
    (hk : Clean s gid sid (triggerBundle (.cp op) noGuard src)) :
    ((coreOf s (teamOf s (teamId s gid)).core).copies.filter fun x => decide (x.state = .buffered)).length < 64 := by
  have hs := (Bool.or_eq_false_iff.mp (lone_unstalled h hk)).2
  have hc : cpStalls (coreOf (fireBase s gid (triggerBundle (.cp op) noGuard src))
      (groupTeam (fireBase s gid (triggerBundle (.cp op) noGuard src)) gid).core) = false := hs
  rw [groupTeam_fireBase] at hc
  exact Nat.not_le.mp (of_decide_eq_false hc)

/-- A lone cp trigger that issues. -/
theorem cp_issues {s : State} {gid sid : Nat} {op : CpOp} {src : Src} (h : Issues s gid sid (triggerBundle (.cp op) noGuard src))
    (hk : Clean s gid sid (triggerBundle (.cp op) noGuard src)) :
    ∃ w, issue (triggerBundle (.cp op) noGuard src) s = .next (goesOn w gid sid) ∧ Counts (loneRun s gid sid (.cp op) noGuard src) w gid := by
  refine fires_issues h hk rfl ?_
  rw [loneRun_cp]
  exact ⟨_, _, _, groupOf_setGroup _ _ _⟩

/-- Settles O38: the checks of a cp trigger give its conditions, and it fires by submitting its command. -/
theorem transferCommands : Obligations.TransferCommands := by
  unfold Obligations.TransferCommands
  intro op i src s gid sid hi
  have hb : toBundle i = some (triggerBundle (.cp op) noGuard src) := by
    simp only [List.mem_cons, List.not_mem_nil, or_false, Prod.mk.injEq] at hi
    obtain ⟨rfl, rfl⟩ | ⟨rfl, rfl⟩ | ⟨rfl, rfl⟩ | ⟨rfl, rfl⟩ | ⟨rfl, rfl⟩ | ⟨rfl, rfl⟩ | ⟨rfl, rfl⟩ := hi <;> rfl
  intro t b h hk y tm ctl ch n
  have hch (v : DWord) : kCH v = v.toNat % 8 := bits_zero v.toNat 3
  obtain ⟨⟨a, ha⟩, ⟨d, hd⟩, ⟨c, hc⟩, hn⟩ := cpTraps_eq_nil (by rw [teamId, teamId_fireBase]) (cpTraps_noTraps h hk)
  obtain ⟨w, he, hw⟩ := cp_issues h hk
  dsimp only at ha hd hc
  rw [hch] at hn
  refine ⟨hn, copies_room h hk, a, d, c, w, ha, hd, hc, (exec_toBundle _ _ s hb).trans he, ?_⟩
  rw [loneRun_cp] at hw
  simp only [theCommand, ha, hd, hc, hch, Option.getD_some] at hw
  exact hw

end Sys2Proof.Proofs

namespace Sys2Proof.Proofs
open Sys2Proof.Machine Sys2Proof.Safety

/-! ### Reading memory does not depend on groups or teams (R197, R204, R207) -/

/-- A state without its groups and teams. -/
def bare (s : State) : State := { s with groups := [], teams := [] }

/-- A change of a state that neither reads the groups and teams nor depends on them elsewhere. -/
def Blind (f : State → State) : Prop := ∀ s, bare (f (bare s)) = bare (f s)

variable {s t : State}

theorem Blind.congr {f : State → State} (hf : Blind f) (h : bare s = bare t) : bare (f s) = bare (f t) := by
  rw [← hf s, h, hf t]

theorem bare_ite {p : Prop} [Decidable p] {a b c d : State} (h1 : bare a = bare c) (h2 : bare b = bare d) :
    bare (if p then a else b) = bare (if p then c else d) := by
  split
  · exact h1
  · exact h2

theorem bare_ite_eq {p : Prop} [Decidable p] {a b c : State} (h1 : bare a = c) (h2 : bare b = c) : bare (if p then a else b) = c := by
  split
  · exact h1
  · exact h2

theorem bare_foldl {α : Type} {f : State → α → State} (hf : ∀ a, Blind (f · a)) (l : List α) (h : bare s = bare t) :
    bare (l.foldl f s) = bare (l.foldl f t) := by
  induction l generalizing s t with
  | nil => exact h
  | cons a r ih => exact ih ((hf a).congr h)

theorem bare_foldl_self {α : Type} {f : State → α → State} (hf : ∀ s a, bare (f s a) = bare s) (l : List α) (s : State) :
    bare (l.foldl f s) = bare s := by
  induction l generalizing s with
  | nil => rfl
  | cons a r ih => exact (ih _).trans (hf s a)

theorem blind_setEvent (f bit : Nat) : Blind (setEvent · f bit) := fun _ => bare_ite rfl rfl

theorem blind_sendFlit (p type : Nat) : Blind (sendFlit · p type) := fun _ => bare_ite rfl rfl

theorem blind_peerSend (f a : Nat) : Blind (peerSend · f a) := by
  intro s
  have h : windowPorts (bare s) f a = windowPorts s f a := rfl
  simp only [peerSend, h]
  split
  · rfl
  · exact (blind_sendFlit _ _).congr rfl

theorem blind_rawWrite (f : Nat) (sp : Space) (a : Nat) (bytes : List Byte) (poison : Bool) : Blind (rawWrite · f sp a bytes poison) := by
  intro s
  cases sp with
  | dev | host | spad => rfl
  | peer => exact bare_ite (blind_setEvent _ _ _) rfl

theorem bare_invalidateBlocks (s : State) (core a n : Nat) : bare (invalidateBlocks s core a n) = bare s := by
  refine bare_foldl_self (fun _ _ => ?_) _ _
  exact bare_ite_eq rfl rfl

theorem bare_refillBlocks (s : State) (core a n : Nat) : bare (refillBlocks s core a n) = bare s := by
  refine bare_foldl_self (fun _ _ => ?_) _ _
  exact bare_ite_eq rfl rfl

theorem blind_writeBack (k n : Nat) (l : PolderLine) : Blind (writeBack · k n l) := by
  intro s
  have hsend : bare (if l.frame.space = .peer then peerSend (bare s) l.func l.frame.pa else bare s) =
      bare (if l.frame.space = .peer then peerSend s l.func l.frame.pa else s) := bare_ite (blind_peerSend _ _ _) rfl
  have hput := bare_foldl (f := fun v i => rawWrite v l.func l.frame.space (l.frame.pa + 32 * i) (memRead (coreOf s k).sp (128 * n + 32 * i) 32)
    ((coreOf s k).spPoison.contains (4 * n + i))) (fun i => blind_rawWrite _ _ _ _ _) (List.range 4) hsend
  exact bare_ite (bare_ite (((bare_invalidateBlocks _ _ _ _).trans hput).trans (bare_invalidateBlocks _ _ _ _).symm) hput) rfl

theorem blind_dropLine (k n : Nat) : Blind (dropLine · k n) := by
  intro s
  have h : tget (coreOf (bare s) k).lines n = tget (coreOf s k).lines n := rfl
  simp only [dropLine, h]
  split
  · rfl
  · have hw := blind_writeBack k n ‹_› s
    exact bare_ite (congrArg (fun v => setCore v k { coreOf v k with lines := tdel (coreOf v k).lines n }) hw) rfl

theorem blind_dropLines (k : Nat) (ns : List Nat) : Blind (dropLines · k ns) := fun _ => bare_foldl (fun n => blind_dropLine k n) ns rfl

theorem blind_recallRange (sp : Space) (k : Nat × Nat) (n : Nat) (w : Bool) : Blind (recallRange · sp k n w) := by
  have hf (e : Nat × Core) : Blind fun v => dropLines v e.1 (linesMeeting v e.2 sp k n w) := fun v =>
    blind_dropLines e.1 (linesMeeting v e.2 sp k n w) v
  exact fun s => bare_foldl (s := bare s) (t := s) hf s.cores rfl

theorem blind_spaceWrite (core f : Nat) (sp : Space) (a : Nat) (bytes : List Byte) (poison : Bool) :
    Blind (spaceWrite · core f sp a bytes poison) := by
  intro s
  have h := (blind_rawWrite f sp a bytes poison).congr (blind_recallRange sp (placeKey s f sp a) bytes.length true s)
  cases sp with
  | spad => rfl
  | dev => exact ((bare_invalidateBlocks _ _ _ _).trans h).trans (bare_invalidateBlocks _ _ _ _).symm
  | host | peer => exact h

theorem blind_setAD (fr : Frame) (write : Bool) : Blind (setAD · fr write) := by
  intro s
  cases h : fr.leaf with
  | none => simp only [setAD, h]; rfl
  | some a =>
    simp only [setAD, h]
    exact bare_ite rfl (blind_spaceWrite _ _ _ _ _ _ _)

/-! #### Translation -/

theorem walkTables_bare (s : State) (va table : Nat) (ls : List (Nat × Nat × Nat × Nat)) :
    walkTables (bare s) va table ls = walkTables s va table ls := by
  induction ls generalizing table with
  | nil => rfl
  | cons l r ih =>
    obtain ⟨shift, width, x, y⟩ := l
    simp only [walkTables, ih]
    rfl

theorem walkEntries_bare (s : State) (f asid va : Nat) : walkEntries (bare s) f asid va = walkEntries s f asid va := by
  simp only [walkEntries, walkTables_bare]
  rfl

theorem walkFrom_bare (s : State) (f asid va table level : Nat) (ls : List (Nat × Nat × Nat × Nat)) :
    walkFrom (bare s) f asid va table level ls = walkFrom s f asid va table level ls := by
  induction ls generalizing table level with
  | nil => rfl
  | cons l r ih =>
    obtain ⟨shift, width, x, y⟩ := l
    simp only [walkFrom, ih]
    rfl

theorem walk_bare (s : State) (f asid va : Nat) : walk (bare s) f asid va = walk s f asid va := by
  simp only [walk, walkFrom_bare]
  rfl

theorem xlate_bare (s : State) (core f asid va : Nat) (n : Need) (sup : Bool) :
    xlate (bare s) core f asid va n sup = xlate s core f asid va n sup := by
  simp only [xlate, xlateRaw, walk_bare]
  rfl

theorem rangeX_bare (s : State) (core f asid va n : Nat) (need : Need) (sup : Bool) :
    rangeX (bare s) core f asid va n need sup = rangeX s core f asid va n need sup := by
  simp only [rangeX, xlateRange, xlate_bare]

theorem blind_walkReads (f asid va : Nat) : Blind (walkReads · f asid va) := by
  intro s
  simp only [walkReads, walkEntries_bare]
  exact bare_foldl (fun a => blind_recallRange _ _ _ _) _ rfl

theorem blind_cacheInCore (core f asid va : Nat) (e : TlbEntry) :
    Blind fun v => if (tlbFind (coreOf v core).tlb f asid va).isSome then v
      else setCore v core { coreOf v core with tlb := tlbAdd (coreOf v core).tlb 256 e } := fun _ => bare_ite rfl rfl

theorem blind_cacheInDie (die f asid va : Nat) (e : TlbEntry) :
    Blind fun v => if (tlbFind (dieOf v die).tlb f asid va).isSome then v
      else setDie v die { dieOf v die with tlb := tlbAdd (dieOf v die).tlb 16384 e } := fun _ => bare_ite rfl rfl

theorem blind_touchPage (core f asid va : Nat) (fr : Frame) (write : Bool) : Blind (touchPage · core f asid va fr write) := by
  intro s
  have hw : bare (if tlbMiss (bare s) core f asid va then walkReads (bare s) f asid va else bare s) =
      bare (if tlbMiss s core f asid va then walkReads s f asid va else s) := bare_ite (blind_walkReads _ _ _ _) rfl
  exact (blind_cacheInDie _ _ _ _ _).congr ((blind_cacheInCore _ _ _ _ _).congr ((blind_setAD _ _).congr hw))

theorem blind_touchPieces (core f asid : Nat) (ps : List Piece) (write : Bool) : Blind (touchPieces · core f asid ps write) := fun s =>
  bare_foldl (s := bare s) (t := s) (fun p : Piece => blind_touchPage core f asid p.va p.frame write) ps rfl

/-! #### Reading -/

theorem fillFrame_bare (s : State) (core a : Nat) : fillFrame (bare s) core a = fillFrame s core a := by
  simp only [fillFrame, xlate_bare]
  rfl

/-- A Polder line put in place, once its recall is done and its peer is asked (R204). -/
def lineFilled (core n f : Nat) (fr : Frame) (v : State) : State :=
  let told := if fr.space = .peer && v.peerRefuses.contains (peerTarget v f fr.pa).1 then setEvent v 0 7 else v
  let bad := (List.range 4).filter fun i => spacePoison v core f fr.space (fr.pa + 32 * i) 32
  setCore told core { coreOf told core with
    sp := memWrite (coreOf told core).sp (128 * n) (spaceRead v core f fr.space fr.pa 128)
    spPoison := ((coreOf told core).spPoison.filter fun g => !decide (4 * n ≤ g ∧ g < 4 * n + 4)) ++ bad.map fun i => 4 * n + i
    lines := tset (coreOf told core).lines n { frame := fr, func := f, exclusive := false, dirty := false } }

theorem blind_lineFilled (core n f : Nat) (fr : Frame) : Blind (lineFilled core n f fr) := by
  intro s
  have h : bare (if fr.space = .peer && (bare s).peerRefuses.contains (peerTarget (bare s) f fr.pa).1 then setEvent (bare s) 0 7 else bare s) =
      bare (if fr.space = .peer && s.peerRefuses.contains (peerTarget s f fr.pa).1 then setEvent s 0 7 else s) :=
    bare_ite (blind_setEvent _ _ _) rfl
  exact congrArg (fun v => setCore v core { coreOf v core with
    sp := memWrite (coreOf v core).sp (128 * n) (spaceRead s core f fr.space fr.pa 128)
    spPoison := ((coreOf v core).spPoison.filter fun g => !decide (4 * n ≤ g ∧ g < 4 * n + 4)) ++
      ((List.range 4).filter fun i => spacePoison s core f fr.space (fr.pa + 32 * i) 32).map fun i => 4 * n + i
    lines := tset (coreOf v core).lines n { frame := fr, func := f, exclusive := false, dirty := false } }) h

theorem blind_fillLine (core n f : Nat) (fr : Frame) : Blind (fillLine · core n f fr) := by
  intro s
  have hr := blind_recallRange fr.space (placeKey s f fr.space (fr.pa / 128 * 128)) 128 false s
  have hp := bare_ite (p := fr.space = .peer) ((blind_peerSend f (fr.pa / 128 * 128)).congr hr) hr
  exact (blind_lineFilled core n f { fr with pa := fr.pa / 128 * 128 }).congr hp

theorem blind_ensureLine (core a : Nat) : Blind (ensureLine · core a) := by
  intro s
  simp only [ensureLine, fillFrame_bare]
  split
  · exact (blind_fillLine _ _ _ _).congr (blind_touchPage _ _ _ _ _ _ _)
  · rfl

theorem blind_ensureRange (core a n : Nat) : Blind (ensureRange · core a n) := fun s =>
  bare_foldl (s := bare s) (t := s) (fun x => blind_ensureLine core x) (lineAddrs a n) rfl

/-- What is read of a state that is what it is without its groups and teams. -/
theorem read_congr {α : Type} {f : State → α} (hf : ∀ s, f (bare s) = f s) (h : bare s = bare t) : f s = f t := by rw [← hf s, h, hf t]

theorem bytes_congr (core f : Nat) (sp : Space) (a n : Nat) (h : bare s = bare t) :
    spaceRead s core f sp a n = spaceRead t core f sp a n ∧ spacePoison s core f sp a n = spacePoison t core f sp a n :=
  ⟨read_congr (f := (spaceRead · core f sp a n)) (fun _ => rfl) h, read_congr (f := (spacePoison · core f sp a n)) (fun _ => rfl) h⟩

/-- What two states without their groups and teams give alike: bytes, their poison, and the states after they are read. -/
def AlikeReads (x y : List Byte × Bool × State) : Prop := x.1 = y.1 ∧ x.2.1 = y.2.1 ∧ bare x.2.2 = bare y.2.2

theorem placeGet_bare (s : State) (core f : Nat) (sp : Space) (a n : Nat) :
    AlikeReads (placeGet (bare s) core f sp a n) (placeGet s core f sp a n) := by
  cases sp with
  | spad =>
    have h := blind_ensureRange core a n s
    exact ⟨read_congr (f := fun v => memRead (coreOf v core).sp a n) (fun _ => rfl) h, (bytes_congr core f .spad a n h).2, h⟩
  | dev =>
    have h := ((bare_refillBlocks _ core a n).trans (blind_recallRange .dev (0, a) n false s)).trans (bare_refillBlocks _ core a n).symm
    obtain ⟨h1, h2⟩ := bytes_congr core f .dev a n h
    exact ⟨h1, h2, h⟩
  | host =>
    have h := blind_recallRange .host (0, a) n false s
    obtain ⟨h1, h2⟩ := bytes_congr core f .host a n h
    exact ⟨h1, h2, h⟩
  | peer =>
    have h := (blind_peerSend f a).congr (blind_recallRange .peer (peerTarget s f a) n false s)
    obtain ⟨h1, h2⟩ := bytes_congr core f .peer a n h
    have hv : Blind fun v => if v.peerRefuses.contains (peerTarget v f a).1 then setEvent v 0 7 else v := fun _ =>
      bare_ite (blind_setEvent _ _ _) rfl
    exact ⟨h1, h2, hv.congr h⟩

theorem placeGet_congr (core f : Nat) (sp : Space) (a n : Nat) (h : bare s = bare t) :
    AlikeReads (placeGet s core f sp a n) (placeGet t core f sp a n) := by
  obtain ⟨h1, h2, h3⟩ := placeGet_bare s core f sp a n
  obtain ⟨i1, i2, i3⟩ := placeGet_bare t core f sp a n
  rw [h] at h1 h2 h3
  exact ⟨h1.symm.trans i1, h2.symm.trans i2, h3.symm.trans i3⟩

theorem readPieces_congr (core f : Nat) (ps : List Piece) (h : bare s = bare t) : AlikeReads (readPieces s core f ps) (readPieces t core f ps) := by
  induction ps generalizing s t with
  | nil => exact ⟨rfl, rfl, h⟩
  | cons p r ih =>
    obtain ⟨h1, h2, h3⟩ := placeGet_congr core f p.frame.space p.frame.pa p.n h
    obtain ⟨i1, i2, i3⟩ := ih h3
    exact ⟨congrArg₂ (· ++ ·) h1 i1, congrArg₂ (· || ·) h2 i2, i3⟩

theorem virtRead_congr (core f asid va n : Nat) (sup : Bool) (h : bare s = bare t) :
    AlikeReads (virtRead s core f asid va n sup) (virtRead t core f asid va n sup) := by
  have hx := read_congr (f := (rangeX · core f asid va n { rd := true, w := false } sup)) (fun v => rangeX_bare v _ _ _ _ _ _ _) h
  unfold virtRead
  rw [hx]
  exact readPieces_congr core f _ ((blind_touchPieces core f asid _ false).congr h)

/-! #### The Lining (R255, R293) -/

theorem lnRead_congr (t' : Team) (off n : Nat) (h : bare s = bare t) : lnRead s t' off n = lnRead t t' off n := by
  obtain ⟨h1, h2, -⟩ := virtRead_congr t'.core t'.func t'.asid (t'.lnBase + 64 * off) n false h
  simp only [lnRead, h1, h2]

theorem lnHeader_congr (t' : Team) (off : Nat) (h : bare s = bare t) : lnHeader s t' off = lnHeader t t' off := by
  rw [lnHeader, lnRead_congr t' off 64 h]; rfl

theorem precedingHeader_congr (t' : Team) (h : bare s = bare t) : precedingHeader s t' = precedingHeader t t' := by
  rw [precedingHeader, lnHeader_congr t' _ h]; rfl

theorem cycleBase_congr (t' : Team) (h : bare s = bare t) : cycleBase s t' = cycleBase t t' := by
  rw [cycleBase, lnHeader_congr t' _ h]; rfl

end Sys2Proof.Proofs

namespace Sys2Proof.Proofs
open Sys2Proof.Machine Sys2Proof.Safety

/-! ### Tile commands (R261, R267, R294) -/

/-- The mx operations that join the engine order. -/
def IsTile (op : MxOp) : Prop := op ≠ .qadv ∧ op ≠ .mxfence

theorem latchesRead_tile {op : MxOp} (h : IsTile op) : latchesRead (.mx op) = [.a] := if_neg fun hn => hn.elim h.2 h.1

theorem mxApply_tile {op : MxOp} (h : IsTile op) (v : State) (gid id : Nat) (lo hi : DWord) :
    mxApply v gid id op lo hi = (mxAccept v gid id op lo hi, none) := by
  obtain ⟨hq, hf⟩ := h
  cases op with
  | qadv => exact absurd rfl hq
  | mxfence => exact absurd rfl hf
  | _ => rfl

theorem mxTraps_tile {op : MxOp} (h : IsTile op) (s : State) (gid sid slot : Nat) (lo : Option DWord) (hi : DWord) :
    mxTraps s gid sid slot op lo hi = mxCommonTraps s gid sid slot ++ match lo with
      | none => slotTrap 9 9 slot ++ hiTraps (groupTeam s gid) slot op hi
      | some lo => tileTraps s gid slot op lo hi := by
  obtain ⟨hq, hf⟩ := h
  cases op with
  | qadv => exact absurd rfl hq
  | mxfence => exact absurd rfl hf
  | _ => rfl

theorem mxStalls_tile {op : MxOp} {t : Team} (h : IsTile op) (hs : mxStalls t op = false) : unstarted t < 32 := by
  have h1 : (op != .qadv) = true := bne_iff_ne.mpr h.1
  have h2 : (op != .mxfence) = true := bne_iff_ne.mpr h.2
  rw [mxStalls, h1, h2, Bool.true_and, Bool.true_and] at hs
  exact Nat.not_le.mp (of_decide_eq_false hs)

/-- The engine item of a tile command (R261). -/
def itemOf (s : State) (gid id : Nat) (op : MxOp) (lo hi : DWord) : EngineItem := { id := s.nextId, op := .tile op lo hi, gid := gid, opId := id }

/-- The Lining entry of the next command of a team logged (R294, R295, R302). -/
def entryOf (s : State) (t : Team) (op : MxOp) (lo : DWord) : LogEntry :=
  let before := cycleBase s t
  let ga := geoOf (streamOf t (cQA lo)).qw0
  let own := adjointCycles op (tmmaK lo ga) (fmtNarrow ga.fmt)
  let again := recomputeCycles lo (precedingHeader s t)
  { off := t.lnHead, size := entrySize t op lo, prev := if t.lnHead = 0 then 0 else t.lnCur
    first := decide (t.lnHead = 0), seq := before.2.2 % 2 ^ 32
    acyc := min (before.1 + own.1 + again.1) (2 ^ 32 - 1), mcyc := min (before.2.1 + own.2 + again.2) (2 ^ 32 - 1) }

/-- A team whose engine has accepted a tile command, without a Lining entry. -/
def acceptedTeam (t : Team) (item : EngineItem) : Team :=
  { t with engine := t.engine ++ [item], openBatch := { t.openBatch with left := t.openBatch.left + 1 } }

/-- A team whose engine has accepted a tile command with its Lining entry (R294). -/
def loggedTeam (s : State) (t : Team) (item : EngineItem) (op : MxOp) (lo hi : DWord) : Team :=
  let e := entryOf s t op lo
  let d := flaggedDescs t op lo hi
  { acceptedTeam t { item with log := some e, descs := d } with
    lnCur := e.off, lnHead := e.off + e.size, lnSeq := (cycleBase s t).2.2 + 1, lnAcyc := e.acyc, lnMcyc := e.mcyc, lnFresh := false
    lnPrev := some (headerWords op lo hi e d) }

section
variable {v : State} {gid n id : Nat} {op : MxOp} {lo hi : DWord} {t : Team} (hn : teamId v gid = n) (ht : teamOf v n = t)
include hn ht

theorem mxAccept_closed (h : segmentOpen t = false) :
    mxAccept v gid id op lo hi = setTeam { v with nextId := v.nextId + 1 } n (acceptedTeam t (itemOf v gid id op lo hi)) := by
  subst hn ht
  exact if_neg (Bool.eq_false_iff.mp h)

theorem mxAccept_open (h : segmentOpen t = true) :
    mxAccept v gid id op lo hi = setTeam { v with nextId := v.nextId + 1 } n (loggedTeam v t (itemOf v gid id op lo hi) op lo hi) := by
  subst hn ht
  refine (if_pos h).trans ?_
  simp only [loggedTeam, entryOf, decide_eq_true_eq]
  rfl

end

/-- The Lining entry and its team's fields do not depend on groups, or on whether the team's step is committed. -/
theorem loggedTeam_congr {s v : State} (h : bare v = bare s) (t : Team) (c : Bool) (item : EngineItem) (op : MxOp) (lo hi : DWord) :
    loggedTeam v { t with committed := c } item op lo hi = { loggedTeam s t item op lo hi with committed := c } := by
  have hb : cycleBase v { t with committed := c } = cycleBase s t := cycleBase_congr (s := v) (t := s) { t with committed := c } h
  have hp : precedingHeader v { t with committed := c } = precedingHeader s t :=
    precedingHeader_congr (s := v) (t := s) { t with committed := c } h
  simp only [loggedTeam, entryOf, hb, hp]
  rfl

/-- The state in which a tile command is accepted, but for its team: its latch is consumed. -/
def tileBase (s : State) (gid sid : Nat) (op : MxOp) (src : Src) : State :=
  let b := triggerBundle (.mx op) noGuard src
  { uniFired s gid b (uniConsumed (seen s gid b).image .mx (half s gid sid) [.a]) [] with nextId := s.nextId + 1 }

theorem onTeam_tileBase (s : State) (gid sid : Nat) (op : MxOp) (src : Src) (f : Team → Team) :
    onTeam (tileBase s gid sid op src) gid f = setTeam (tileBase s gid sid op src) (teamId s gid) (f (teamOf s (teamId s gid))) := by
  have h : teamId (tileBase s gid sid op src) gid = teamId s gid := teamId_uniFired _ _ _ _ _
  rw [onTeam, h]
  rfl

/-- A tile command's latch consumed in some state, the next number of the module taken. -/
def tileFrom (s : State) (gid sid : Nat) (op : MxOp) (src : Src) (v : State) : State :=
  { withUniform v gid (uniConsumed (seen s gid (triggerBundle (.mx op) noGuard src)).image .mx (half s gid sid) [.a]) with nextId := v.nextId + 1 }

theorem tileFrom_setTeam (s : State) (gid sid : Nat) (op : MxOp) (src : Src) (v : State) (n : Nat) (x : Team) :
    tileFrom s gid sid op src (setTeam v n x) = setTeam (tileFrom s gid sid op src v) n x := rfl

theorem tileFrom_fireBase (s : State) (gid sid : Nat) (op : MxOp) (src : Src) :
    tileFrom s gid sid op src (fireBase s gid (triggerBundle (.mx op) noGuard src)) = tileBase s gid sid op src := by
  rw [tileFrom, withUniform_fireBase]; rfl

/-- The state in which a logged tile command is accepted: its team's step is committed. -/
def loggedBase (s : State) (gid : Nat) (op : MxOp) (src : Src) : State :=
  commitStep (fireBase s gid (triggerBundle (.mx op) noGuard src)) (teamId s gid)

theorem setTeam_loggedBase (s : State) (gid sid : Nat) (op : MxOp) (src : Src) (x : Team) :
    setTeam (tileFrom s gid sid op src (loggedBase s gid op src)) (teamId s gid) x = setTeam (tileBase s gid sid op src) (teamId s gid) x :=
  (setTeam_of_written (tileFrom s gid sid op src) x (commitStep_cases _ _) fun _ => tileFrom_setTeam _ _ _ _ _ _ _ _).trans (by rw [tileFrom_fireBase])

theorem bare_loggedBase (s : State) (gid : Nat) (op : MxOp) (src : Src) : bare (loggedBase s gid op src) = bare s := by
  rcases commitStep_cases (fireBase s gid (triggerBundle (.mx op) noGuard src)) (teamId s gid) with h | ⟨x, h⟩ <;> rw [loggedBase, h] <;> rfl

theorem teamId_loggedBase (s : State) (gid : Nat) (op : MxOp) (src : Src) : teamId (loggedBase s gid op src) gid = teamId s gid := by
  rw [teamId, loggedBase, groupOf_commitStep, teamId_fireBase]

theorem teamOf_loggedBase (s : State) (gid : Nat) (op : MxOp) (src : Src) :
    let t := teamOf s (teamId s gid)
    teamOf (loggedBase s gid op src) (teamId s gid) = { t with committed := t.committed || t.step } := teamOf_commitStep _ _

section
variable {s u : State} {gid sid : Nat} {op : MxOp} {src : Src} (ht : IsTile op)
include ht

/-- A lone tile command is accepted as it fires. -/
theorem loneRun_tile (hu : (if segmentOpen (teamOf s (teamId s gid)) && op != .qadv && op != .mxfence then
      commitStep (fireBase s gid (triggerBundle (.mx op) noGuard src)) (teamId s gid)
      else fireBase s gid (triggerBundle (.mx op) noGuard src)) = u) :
    let b := triggerBundle (.mx op) noGuard src
    let y := seen s gid b
    loneRun s gid sid (.mx op) noGuard src = mxAccept (withUniform u gid (uniConsumed y.image .mx (half s gid sid) [.a])) gid y.opId op
      ((uniLatch y (half s gid sid) .mx .a).getD 0) (uniformValue y (half s gid sid) b src) := by
  intro b y
  have hr := fireRun_mx (sid := sid) (id := y.opId) (f := theFire s gid sid (.mx op) noGuard src)
    (p := lonePlan s gid sid (.mx op) noGuard src) (u := u) (groupOf_fireBase s gid b) rfl rfl (by rw [team_firing]; exact hu)
  dsimp only at hr
  rw [mxApply_tile ht, theFire_uval, uniLatch_firing, halfOf_firing] at hr
  rw [← latchesRead_tile ht]
  exact hr

/-- A lone tile command as it fires while no segment is open. -/
theorem loneRun_tile_closed (hc : segmentOpen (teamOf s (teamId s gid)) = false) :
    let b := triggerBundle (.mx op) noGuard src
    let y := seen s gid b
    loneRun s gid sid (.mx op) noGuard src = onTeam (tileBase s gid sid op src) gid fun t => acceptedTeam t
      (itemOf s gid y.opId op ((uniLatch y (half s gid sid) .mx .a).getD 0) (uniformValue y (half s gid sid) b src)) := by
  intro b y
  rw [loneRun_tile ht (u := fireBase s gid b) (by rw [hc]; rfl), withUniform_fireBase,
    mxAccept_closed (teamId_uniFired _ _ _ _ _) (teamOf_uniFired _ _ _ _ _ _) hc, onTeam_tileBase]
  rfl

/-- A lone tile command as it fires while a segment is open. -/
theorem loneRun_tile_open (ho : segmentOpen (teamOf s (teamId s gid)) = true) :
    let b := triggerBundle (.mx op) noGuard src
    let y := seen s gid b
    let lo := (uniLatch y (half s gid sid) .mx .a).getD 0
    let hi := uniformValue y (half s gid sid) b src
    loneRun s gid sid (.mx op) noGuard src = onTeam (tileBase s gid sid op src) gid fun t =>
      { loggedTeam s t (itemOf s gid y.opId op lo hi) op lo hi with committed := t.committed || t.step } := by
  intro b y lo hi
  let uni := uniConsumed y.image .mx (half s gid sid) [.a]
  let v := withUniform (loggedBase s gid op src) gid uni
  have hv : bare v = bare s := bare_loggedBase s gid op src
  have hi' : itemOf v gid y.opId op lo hi = itemOf s gid y.opId op lo hi :=
    read_congr (f := (itemOf · gid y.opId op lo hi)) (fun _ => rfl) hv
  have ha := mxAccept_open (id := y.opId) (op := op) (lo := lo) (hi := hi) ((teamId_withUniform _ _ _).trans (teamId_loggedBase s gid op src))
    (show teamOf v _ = _ from teamOf_loggedBase s gid op src) ho
  rw [loggedTeam_congr hv, hi'] at ha
  rw [loneRun_tile ht (u := loggedBase s gid op src) (if_pos (by rw [ho, bne_iff_ne.mpr ht.1, bne_iff_ne.mpr ht.2]; rfl)), onTeam_tileBase]
  exact ha.trans (setTeam_loggedBase s gid sid op src _)

end

/-- A lone tile command that issues. -/
theorem tile_issues {s : State} {gid sid : Nat} {op : MxOp} {src : Src} (ht : IsTile op) (h : Issues s gid sid (triggerBundle (.mx op) noGuard src))
    (hk : Clean s gid sid (triggerBundle (.mx op) noGuard src)) :
    ∃ w, issue (triggerBundle (.mx op) noGuard src) s = .next (goesOn w gid sid) ∧ Counts (loneRun s gid sid (.mx op) noGuard src) w gid := by
  refine fires_issues h hk rfl ?_
  cases hs : segmentOpen (teamOf s (teamId s gid)) with
  | false => rw [loneRun_tile_closed ht hs]; exact ⟨_, _, _, rfl⟩
  | true => rw [loneRun_tile_open ht hs]; exact ⟨_, _, _, rfl⟩

theorem mxCommonTraps_eq_nil {s : State} {gid sid slot : Nat} (h : mxCommonTraps s gid sid slot = []) :
    (groupTeam s gid).token = some gid ∧ absentLanes (groupOf s gid) sid = 0 := by
  obtain ⟨ht, h⟩ := trapIf_append_eq_nil h
  exact ⟨not_not.mp ht, not_not.mp (of_decide_eq_false (trapIf_eq_nil.mp h))⟩

/-- A logged command that passes its checks has room in its segment (R294). -/
theorem tileTraps_room {s : State} {gid slot : Nat} {op : MxOp} {lo hi : DWord} {t : Team} (hg : groupTeam s gid = t)
    (h : tileTraps s gid slot op lo hi = []) (ho : t.lnSt = 1) : t.lnHead + entrySize t op lo ≤ t.lnSize := by
  subst hg
  have hr := trapIf_eq_nil.mp (List.append_eq_nil_iff.mp h).2
  have hs : segmentOpen (groupTeam s gid) = true := decide_eq_true ho
  rw [hs, Bool.true_and] at hr
  exact Nat.not_lt.mp (of_decide_eq_false hr)

/-- The checks that a lone tile command that issues has passed. -/
theorem tile_checks {s : State} {gid sid : Nat} {op : MxOp} {src : Src} (ht : IsTile op) (h : Issues s gid sid (triggerBundle (.mx op) noGuard src))
    (hk : Clean s gid sid (triggerBundle (.mx op) noGuard src)) :
    let y := seen s gid (triggerBundle (.mx op) noGuard src)
    let t := teamOf s (teamId s gid)
    t.token = some gid ∧ absentLanes y sid = 0 ∧ unstarted t < 32 ∧
      ∃ lo, uniLatch y (half s gid sid) .mx .a = some lo ∧ (t.lnSt = 1 → t.lnHead + entrySize t op lo ≤ t.lnSize) := by
  intro y t
  have hm := mxTraps_noTraps h hk
  dsimp only at hm
  rw [mxTraps_tile ht] at hm
  obtain ⟨hc, hl⟩ := List.append_eq_nil_iff.mp hm
  obtain ⟨htok, habs⟩ := mxCommonTraps_eq_nil hc
  have hst : mxStalls (groupTeam (fireBase s gid (triggerBundle (.mx op) noGuard src)) gid) op = false :=
    (Bool.or_eq_false_iff.mp (lone_unstalled h hk)).2
  rw [groupTeam_fireBase] at htok hst
  rw [groupOf_fireBase] at habs
  refine ⟨htok, habs, mxStalls_tile ht hst, ?_⟩
  cases hlo : uniLatch y (half s gid sid) .mx .a with
  | none => rw [hlo] at hl; cases hl
  | some lo =>
    rw [hlo] at hl
    exact ⟨lo, rfl, tileTraps_room (groupTeam_fireBase _ _ _) hl⟩

/-- Settles O36: the checks of a tile command give its conditions, and it fires by joining the engine order,
with its entry where a segment is open. -/
theorem tileCommands : Obligations.TileCommands := by
  unfold Obligations.TileCommands
  intro op i src s gid sid hi
  have hb : IsTile op ∧ toBundle i = some (triggerBundle (.mx op) noGuard src) := by
    simp only [List.mem_cons, List.not_mem_nil, or_false, Prod.mk.injEq] at hi
    obtain ⟨rfl, rfl⟩ | ⟨rfl, rfl⟩ | ⟨rfl, rfl⟩ | ⟨rfl, rfl⟩ | ⟨rfl, rfl⟩ | ⟨rfl, rfl⟩ | ⟨rfl, rfl⟩ | ⟨rfl, rfl⟩ |
      ⟨rfl, rfl⟩ | ⟨rfl, rfl⟩ | ⟨rfl, rfl⟩ := hi <;> exact ⟨⟨nofun, nofun⟩, rfl⟩
  obtain ⟨ht, hb⟩ := hb
  intro b h hk y t hi
  obtain ⟨htok, habs, hun, lo, hlo, hroom⟩ := tile_checks ht h hk
  obtain ⟨w, he, hw⟩ := tile_issues ht h hk
  refine ⟨htok, habs, hun, lo, w, hlo, (exec_toBundle _ _ s hb).trans he, fun hc => ?_, fun ho => ?_⟩
  · rw [loneRun_tile_closed ht (decide_eq_false hc), hlo] at hw
    exact hw
  · refine ⟨hroom ho, fun h0 => if_pos h0, fun h0 hf => (if_neg h0).trans (if_neg (by rw [hf]; decide)), ?_⟩
    rw [loneRun_tile_open ht (decide_eq_true ho), hlo, onTeam_tileBase] at hw
    change Counts (onTeam (tileBase s gid sid op src) gid _) w gid
    rw [onTeam_tileBase]
    simp only [loggedTeam, entryOf, acceptedTeam, itemOf, Option.getD_some] at hw
    exact hw

end Sys2Proof.Proofs

namespace Sys2Proof.Proofs
open Sys2Proof.Machine Sys2Proof.Safety

/-! ### Writes in order -/

section
variable {α β γ : Type} {f : β → α → β} {l : List α}

/-- What no write of a list changes stands after all of them. -/
theorem foldl_keeps (obs : β → γ) (h : ∀ a ∈ l, ∀ b, obs (f b a) = obs b) (b : β) : obs (l.foldl f b) = obs b := by
  induction l generalizing b with
  | nil => rfl
  | cons a r ih => rw [List.foldl_cons, ih (fun c hc => h c (List.mem_cons_of_mem _ hc)), h a List.mem_cons_self]

/-- The last of the writes that change something gives its value. -/
theorem foldl_last (obs : β → γ) {slot : α → Nat} {hit : α → Prop} {a : α} {x : γ}
    (hs : l.Pairwise fun c d => slot c < slot d) (ha : a ∈ l) (hlast : ∀ c ∈ l, hit c → slot c ≤ slot a) (hset : ∀ b, obs (f b a) = x)
    (hkeep : ∀ c ∈ l, ¬hit c → ∀ b, obs (f b c) = obs b) (b : β) :
    obs (l.foldl f b) = x := by
  induction l generalizing b with
  | nil => cases ha
  | cons c r ih =>
    obtain ⟨hc, hr⟩ := List.pairwise_cons.mp hs
    rw [List.foldl_cons]
    rcases List.mem_cons.mp ha with rfl | ha
    · rw [foldl_keeps obs fun d hd => hkeep d (List.mem_cons_of_mem _ hd) fun hh =>
        absurd (hlast d (List.mem_cons_of_mem _ hd) hh) (Nat.not_le.mpr (hc d hd))]
      exact hset b
    · exact ih hr ha (fun d hd => hlast d (List.mem_cons_of_mem _ hd)) (fun d hd => hkeep d (List.mem_cons_of_mem _ hd)) _

/-- A bit that some writes clear stands where it stood and none of them clears it. -/
theorem foldl_clears {obs : β → Bool} {clears : α → Bool} {inv : β → Prop} (hinv : ∀ b a, inv b → inv (f b a))
    (h : ∀ a ∈ l, ∀ b, inv b → obs (f b a) = (obs b && !clears a)) {b : β} (hb : inv b) : obs (l.foldl f b) = (obs b && !l.any clears) := by
  induction l generalizing b with
  | nil => simp
  | cons a r ih =>
    rw [List.foldl_cons, ih (fun c hc => h c (List.mem_cons_of_mem _ hc)) (hinv b a hb), h a List.mem_cons_self b hb, List.any_cons, Bool.not_or,
      Bool.and_assoc]

end

/-! ### Masks by lane -/

theorem one_shiftLeft_getLsbD (k l : Nat) : ((1#32 : Mask) <<< k).getLsbD l = decide (l < 32 ∧ l = k) := by
  rw [BitVec.getLsbD_shiftLeft, BitVec.getLsbD_one]
  by_cases h : l < 32 <;> by_cases hk : l = k <;> simp [h, hk]
  omega

theorem foldl_setBit_getLsbD (f : Nat → Bool) (ls : List Nat) (m : Mask) {k : Nat} (hk : k < 32) :
    (ls.foldl (fun m l => if f l then m ||| (1#32 <<< l) else m) m).getLsbD k = (m.getLsbD k || (decide (k ∈ ls) && f k)) := by
  induction ls generalizing m with
  | nil => simp
  | cons l r ih =>
    rw [List.foldl_cons, ih]
    have hb : (if f l then m ||| (1#32 <<< l) else m).getLsbD k = (m.getLsbD k || (decide (k = l) && f l)) := by
      split
      · rename_i hf; rw [BitVec.getLsbD_or, one_shiftLeft_getLsbD, hf]; simp [hk]
      · rename_i hf; simp [hf]
    rw [hb]
    by_cases hl : k = l
    · subst hl; cases f k <;> simp
    · simp [hl]

theorem maskOf_getLsbD (f : Nat → Bool) {k : Nat} (hk : k < 32) : (maskOf f).getLsbD k = f k := by
  rw [maskOf, foldl_setBit_getLsbD f lanes 0 hk]
  simp [lanes, hk]

/-! ### Latch numbers (R87) -/

theorem unitKey_injective {u v : FUnit} (h : unitKey u = unitKey v) : u = v := by
  have hu (w : FUnit) : [FUnit.ia0, .ia1, .fm0, .fm1, .sf, .lg, .xl, .ld, .st, .mx, .cp, .sm, .sp, .sp, .sp, .sp][unitKey w]? = some w := by
    cases w <;> rfl
  exact Option.some.inj ((hu u).symm.trans (h ▸ hu v))

theorem latchKey_injective {u v : FUnit} {x y : LatchName} (h : latchKey u x = latchKey v y) : u = v ∧ x = y := by
  have hx (w : FUnit) (z : LatchName) : latchKey w z / 4 = unitKey w ∧ [LatchName.a, .b, .c, .w][latchKey w z % 4]? = some z := by
    cases z <;> simp [latchKey, Nat.add_mod] <;> omega
  obtain ⟨h1, h2⟩ := hx u x
  obtain ⟨h3, h4⟩ := hx v y
  rw [h] at h1 h2
  exact ⟨unitKey_injective (h1.symm.trans h3), Option.some.inj (h2.symm.trans h4)⟩

theorem uniformKey_injective {u v : FUnit} {n : Nat} {x y : LatchName} (hu : unitUniform u = true) (hv : unitUniform v = true)
    (h : uniformKey u n x = uniformKey v n y) : u = v ∧ x = y := by
  have hm (w : FUnit) (hw : unitUniform w = true) : w = .mx ∨ w = .cp := by
    cases w <;> simp_all [unitUniform]
  rcases hm u hu with rfl | rfl <;> rcases hm v hv with rfl | rfl <;> cases x <;> cases y <;> simp [uniformKey] at h ⊢ <;> omega

end Sys2Proof.Proofs

namespace Sys2Proof.Proofs
open Sys2Proof.Machine Sys2Proof.Safety

/-! ### What one move writes (R79, R80, R87, R92) -/

section
variable {h : Nat} {g : Group} {m : Moved}

theorem moveApply_latch {u : FUnit} {x : LatchName} {o : Bool} (hd : m.mv.dst = .latch u x o) :
    moveApply h g m = if unitUniform u then
        (if m.poison ≠ 0 then g else { g with image := { g.image with
          uniform := tset g.image.uniform (uniformKey u h x) { val := m.uval, full := true, hold := o } } })
      else
        let y := latchOf' g.image u x
        let ls := m.lanes &&& ~~~m.poison
        let z : Latch := { val := laneMerge y.val m.val ls, full := y.full ||| ls, poison := y.poison &&& ~~~ls
                           hold := if o then y.hold ||| ls else y.hold &&& ~~~ls }
        { g with image := { g.image with latches := tset g.image.latches (latchKey u x) z } } := by
  unfold moveApply
  rw [hd]

theorem moveApply_mask {i : BitVec 4} (hd : m.mv.dst = .mask i) :
    moveApply h g m =
      let ls := m.lanes &&& ~~~m.poison
      { g with m := tset g.m i.toNat ((mget g i.toNat &&& ~~~ls) ||| ((maskOf fun l => (laneGet m.val l).getLsbD 0) &&& ls))
               mPoison := tset g.mPoison i.toNat (tgetD g.mPoison i.toNat 0 &&& ~~~ls)
               userPrev := if g.super then tdel g.userPrev i.toNat else g.userPrev } := by
  unfold moveApply
  rw [hd]

theorem moveApply_e {i : BitVec 2} (hd : m.mv.dst = .e i) :
    moveApply h g m =
      let ls := m.lanes &&& ~~~m.poison
      let x := tgetD g.e i.toNat {}
      { g with e := tset g.e i.toNat { x with full := x.full &&& ~~~ls, poison := x.poison &&& ~~~ls } } := by
  unfold moveApply
  rw [hd]

theorem moveApply_fclr (hd : m.mv.dst = .fclr) :
    moveApply h g m = if m.lanes &&& ~~~m.poison = 0 then g else fstatClear g h (m.uval.setWidth 13) := by
  unfold moveApply
  rw [hd]

theorem moveApply_trig {t : Trigger} (hd : m.mv.dst = .trig t) : moveApply h g m = g := by
  unfold moveApply
  rw [hd]

/-- A move changes registers, latches, masks, e-slots, FSTAT and their poison alone. -/
theorem moveApply_frame (h : Nat) (g : Group) (m : Moved) :
    let r := moveApply h g m
    r = { g with v := r.v, vPoison := r.vPoison, image := { g.image with latches := r.image.latches, uniform := r.image.uniform }
                 m := r.m, mPoison := r.mPoison, userPrev := r.userPrev, e := r.e, fstat := r.fstat } := by
  intro r
  have hr : moveApply h g m = r := rfl
  cases hd : m.mv.dst with
  | v i => rw [← hr, moveApply_v hd]
  | latch u x o =>
    rw [← hr, moveApply_latch hd]
    split
    · split <;> rfl
    · rfl
  | trig t => rw [← hr, moveApply_trig hd]
  | mask i => rw [← hr, moveApply_mask hd]
  | e i => rw [← hr, moveApply_e hd]
  | fclr =>
    rw [← hr, moveApply_fclr hd]
    split <;> rfl

/-- What a move to another kind of destination leaves. -/
theorem moveApply_keeps (h : Nat) (g : Group) (m : Moved) :
    let r := moveApply h g m
    ((∀ i, m.mv.dst ≠ .v i) → r.v = g.v) ∧ ((∀ i, m.mv.dst ≠ .mask i) → r.m = g.m) ∧ ((∀ i, m.mv.dst ≠ .e i) → r.e = g.e) ∧
      ((∀ u x o, m.mv.dst ≠ .latch u x o) → r.image = g.image) ∧ (m.mv.dst ≠ .fclr → r.fstat = g.fstat) := by
  cases hd : m.mv.dst with
  | v i =>
    rw [moveApply_v hd]
    exact ⟨fun hn => absurd rfl (hn i), fun _ => rfl, fun _ => rfl, fun _ => rfl, fun _ => rfl⟩
  | latch u x o =>
    rw [moveApply_latch hd]
    refine ⟨fun _ => ?_, fun _ => ?_, fun _ => ?_, fun hn => absurd rfl (hn u x o), fun _ => ?_⟩ <;> split_ifs <;> rfl
  | trig t =>
    rw [moveApply_trig hd]
    exact ⟨fun _ => rfl, fun _ => rfl, fun _ => rfl, fun _ => rfl, fun _ => rfl⟩
  | mask i =>
    rw [moveApply_mask hd]
    exact ⟨fun _ => rfl, fun hn => absurd rfl (hn i), fun _ => rfl, fun _ => rfl, fun _ => rfl⟩
  | e i =>
    rw [moveApply_e hd]
    exact ⟨fun _ => rfl, fun _ => rfl, fun hn => absurd rfl (hn i), fun _ => rfl, fun _ => rfl⟩
  | fclr =>
    rw [moveApply_fclr hd]
    refine ⟨fun _ => ?_, fun _ => ?_, fun _ => ?_, fun _ => ?_, fun hn => absurd rfl hn⟩ <;> split <;> rfl

theorem v_moveApply_of_ne (hd : ∀ i, m.mv.dst ≠ .v i) : (moveApply h g m).v = g.v := by
  obtain ⟨hv, -⟩ := moveApply_keeps h g m
  exact hv hd

theorem m_moveApply_of_ne (hd : ∀ i, m.mv.dst ≠ .mask i) : (moveApply h g m).m = g.m := by
  obtain ⟨-, hm, -⟩ := moveApply_keeps h g m
  exact hm hd

theorem e_moveApply_of_ne (hd : ∀ i, m.mv.dst ≠ .e i) : (moveApply h g m).e = g.e := by
  obtain ⟨-, -, he, -⟩ := moveApply_keeps h g m
  exact he hd

theorem image_moveApply_of_ne (hd : ∀ u x o, m.mv.dst ≠ .latch u x o) : (moveApply h g m).image = g.image := by
  obtain ⟨-, -, -, hi, -⟩ := moveApply_keeps h g m
  exact hi hd

theorem fstat_moveApply_of_ne (hd : m.mv.dst ≠ .fclr) : (moveApply h g m).fstat = g.fstat := by
  obtain ⟨-, -, -, -, hf⟩ := moveApply_keeps h g m
  exact hf hd

end

end Sys2Proof.Proofs

namespace Sys2Proof.Proofs
open Sys2Proof.Machine Sys2Proof.Safety

/-! ### What a move writes, by lane (R86) -/

/-- A latch of a group in one lane: its value, and whether it is full and held. -/
def latchLane (g : Group) (u : FUnit) (x : LatchName) (l : Nat) : Word × Bool × Bool :=
  (laneGet (latchOf' g.image u x).val l, (latchOf' g.image u x).full.getLsbD l, (latchOf' g.image u x).hold.getLsbD l)

section
variable {h : Nat} {g : Group} {m : Moved} {l : Nat}

/-- The lanes that a move without poison writes. -/
theorem lanes_of_clean (hp : m.poison = 0) : m.lanes &&& ~~~m.poison = m.lanes := by
  rw [hp, show (~~~(0 : Mask)) = BitVec.allOnes 32 from rfl, BitVec.and_allOnes]

/-- A lane that a move does not reach is none of those it writes. -/
theorem not_written (hm : m.lanes.getLsbD l = false) : (m.lanes &&& ~~~m.poison).getLsbD l = false := by
  rw [BitVec.getLsbD_and, hm, Bool.false_and]

theorem vget_moveApply_keeps {i : Nat} (hl : l < 32) (hn : ¬((∃ j, m.mv.dst = .v j ∧ j.toNat = i) ∧ m.lanes.getLsbD l = true)) :
    laneGet (vget (moveApply h g m) i) l = laneGet (vget g i) l := by
  by_cases hd : ∃ j, m.mv.dst = .v j
  · obtain ⟨j, hj⟩ := hd
    rw [moveApply_v hj]
    by_cases hi : i = j.toNat
    · subst hi
      rw [vget, tgetD_tset_same, laneGet_laneMerge _ _ _ hl, not_written (Bool.eq_false_iff.mpr fun hm => hn ⟨⟨j, hj, rfl⟩, hm⟩)]
      rfl
    · rw [vget, tgetD_tset_ne _ hi]; rfl
  · rw [vget, v_moveApply_of_ne fun j hj => hd ⟨j, hj⟩]; rfl

theorem vget_moveApply {j : BitVec 10} (hl : l < 32) (hd : m.mv.dst = .v j) (hp : m.poison = 0) (hm : m.lanes.getLsbD l = true) :
    laneGet (vget (moveApply h g m) j.toNat) l = laneGet m.val l := by
  rw [moveApply_v hd, vget, tgetD_tset_same, laneGet_laneMerge _ _ _ hl, lanes_of_clean hp, if_pos hm]

theorem latchLane_moveApply_keeps {u : FUnit} {x : LatchName} (hl : l < 32)
    (hn : ¬((∃ o, m.mv.dst = .latch u x o) ∧ m.lanes.getLsbD l = true)) : latchLane (moveApply h g m) u x l = latchLane g u x l := by
  by_cases hd : ∃ v y o, m.mv.dst = .latch v y o
  · obtain ⟨v, y, o, hd⟩ := hd
    rw [moveApply_latch hd]
    by_cases hv : unitUniform v = true
    · rw [if_pos hv]; split <;> rfl
    · rw [if_neg hv]
      by_cases hk : latchKey u x = latchKey v y
      · obtain ⟨rfl, rfl⟩ := latchKey_injective hk
        have hw := not_written (m := m) (Bool.eq_false_iff.mpr fun hm => hn ⟨⟨o, hd⟩, hm⟩)
        generalize m.lanes &&& ~~~m.poison = ls at hw ⊢
        have ho : (if o then (latchOf' g.image u x).hold ||| ls else (latchOf' g.image u x).hold &&& ~~~ls).getLsbD l =
            (latchOf' g.image u x).hold.getLsbD l := by
          split
          · rw [BitVec.getLsbD_or, hw, Bool.or_false]
          · rw [BitVec.getLsbD_and, BitVec.getLsbD_not, hw, decide_eq_true hl]; exact Bool.and_true _
        simp only [latchOf'] at ho
        simp only [latchLane, latchOf', tgetD_tset_same, laneGet_laneMerge _ _ _ hl, BitVec.getLsbD_or, hw, ho, Bool.false_eq_true, if_false,
          Bool.or_false]
      · simp only [latchLane, latchOf', tgetD_tset_ne _ hk]
  · rw [latchLane, latchOf', image_moveApply_of_ne fun v y o hj => hd ⟨v, y, o, hj⟩]; rfl

theorem latchLane_moveApply {u : FUnit} {x : LatchName} {o : Bool} (hl : l < 32) (hu : unitUniform u = false) (hd : m.mv.dst = .latch u x o)
    (hp : m.poison = 0) (hm : m.lanes.getLsbD l = true) : latchLane (moveApply h g m) u x l = (laneGet m.val l, true, o) := by
  rw [moveApply_latch hd, if_neg (Bool.eq_false_iff.mp hu)]
  simp only [latchLane, latchOf', tgetD_tset_same, laneGet_laneMerge _ _ _ hl, lanes_of_clean hp, hm, if_true, BitVec.getLsbD_or, Bool.or_true]
  cases o <;> simp [hm, hl]

theorem uniform_moveApply_keeps {n : Nat} (hn : ∀ u x o, unitUniform u = true → m.mv.dst = .latch u x o → uniformKey u h x ≠ n) :
    tget (moveApply h g m).image.uniform n = tget g.image.uniform n := by
  by_cases hd : ∃ v y o, m.mv.dst = .latch v y o
  · obtain ⟨v, y, o, hd⟩ := hd
    rw [moveApply_latch hd]
    split
    · rename_i hv
      split
      · rfl
      · exact tget_tset_ne _ (Ne.symm (hn v y o hv hd)) _
    · rfl
  · rw [image_moveApply_of_ne fun v y o hj => hd ⟨v, y, o, hj⟩]

theorem uniform_moveApply {u : FUnit} {x : LatchName} {o : Bool} (hu : unitUniform u = true) (hd : m.mv.dst = .latch u x o) (hp : m.poison = 0) :
    tget (moveApply h g m).image.uniform (uniformKey u h x) = some { val := m.uval, full := true, hold := o } := by
  rw [moveApply_latch hd, if_pos hu, if_neg (not_not.mpr hp)]
  exact tget_tset_same _ _ _

theorem mget_moveApply_keeps {i : Nat} (hl : l < 32) (hn : ¬((∃ j, m.mv.dst = .mask j ∧ j.toNat = i) ∧ m.lanes.getLsbD l = true)) :
    (mget (moveApply h g m) i).getLsbD l = (mget g i).getLsbD l := by
  by_cases hd : ∃ j, m.mv.dst = .mask j
  · obtain ⟨j, hj⟩ := hd
    rw [moveApply_mask hj]
    by_cases hi : i = j.toNat
    · subst hi
      have hw := not_written (m := m) (Bool.eq_false_iff.mpr fun hm => hn ⟨⟨j, hj, rfl⟩, hm⟩)
      rw [mget, tgetD_tset_same, BitVec.getLsbD_or, BitVec.getLsbD_and, BitVec.getLsbD_and, BitVec.getLsbD_not, hw]
      simp [hl]
    · rw [mget, tgetD_tset_ne _ hi]; rfl
  · rw [mget, m_moveApply_of_ne fun j hj => hd ⟨j, hj⟩]; rfl

theorem mget_moveApply {j : BitVec 4} (hl : l < 32) (hd : m.mv.dst = .mask j) (hp : m.poison = 0) (hm : m.lanes.getLsbD l = true) :
    (mget (moveApply h g m) j.toNat).getLsbD l = (laneGet m.val l).getLsbD 0 := by
  rw [moveApply_mask hd, mget, tgetD_tset_same, lanes_of_clean hp, BitVec.getLsbD_or, BitVec.getLsbD_and, BitVec.getLsbD_and, BitVec.getLsbD_not,
    hm, maskOf_getLsbD _ hl]
  simp [hl]

/-- A move to an e-slot empties it in the lanes it reaches. -/
theorem eslot_moveApply (i : BitVec 2) (hl : l < 32) (hp : m.poison = 0) :
    (tgetD (moveApply h g m).e i.toNat {}).full.getLsbD l =
      ((tgetD g.e i.toNat {}).full.getLsbD l && !(decide (m.mv.dst = .e i) && m.lanes.getLsbD l)) := by
  by_cases hd : ∃ j, m.mv.dst = .e j
  · obtain ⟨j, hj⟩ := hd
    rw [moveApply_e hj, lanes_of_clean hp]
    by_cases hi : i = j
    · subst hi
      rw [tgetD_tset_same, BitVec.getLsbD_and, BitVec.getLsbD_not]
      simp [hj, hl]
    · rw [tgetD_tset_ne _ fun e => hi (BitVec.eq_of_toNat_eq e), hj]
      simp [Ne.symm hi]
  · rw [e_moveApply_of_ne fun j hj => hd ⟨j, hj⟩]
    have hi : m.mv.dst ≠ .e i := fun hj => hd ⟨i, hj⟩
    simp [hi]

/-- The flags of FSTAT that a half owns, by bit (R59, R349). -/
theorem fstatHalf_getLsbD (g : Group) (h : Nat) {k : Nat} (hk : k < 13) :
    (fstatHalf g h).getLsbD k = !decide (if g.lw = true ∧ h ≠ 0 then k < 8 else 5 ≤ k) := by
  have h0 : ∀ k, k < 13 → (0x001F : BitVec 13).getLsbD k = !decide (5 ≤ k) := by decide
  have h1 : ∀ k, k < 13 → (0x1F00 : BitVec 13).getLsbD k = !decide (k < 8) := by decide
  unfold fstatHalf
  cases g.lw with
  | false => simpa using h0 k hk
  | true =>
    by_cases hh : h = 0
    · simpa [hh] using h0 k hk
    · simpa [hh] using h1 k hk

/-- A clear of flags that reaches a lane clears those its value names, of its half. -/
theorem fstat_moveApply {k : Nat} (hk : k < 13) (hp : m.poison = 0) :
    (moveApply h g m).fstat.getLsbD k = (g.fstat.getLsbD k && !(decide (m.mv.dst = .fclr) && decide (m.lanes ≠ 0) &&
      (m.uval.getLsbD k && !decide (if g.lw = true ∧ h ≠ 0 then k < 8 else 5 ≤ k)))) := by
  by_cases hd : m.mv.dst = .fclr
  · rw [moveApply_fclr hd, lanes_of_clean hp]
    by_cases hz : m.lanes = 0
    · simp [hz]
    · rw [if_neg hz, fstatClear, BitVec.getLsbD_and, BitVec.getLsbD_not, BitVec.getLsbD_and, BitVec.getLsbD_setWidth, fstatHalf_getLsbD g h hk]
      have hz' : decide (m.lanes ≠ 0) = true := decide_eq_true hz
      rw [hd, hz']
      simp [hk]
  · rw [fstat_moveApply_of_ne hd]
    simp [hd]

end

end Sys2Proof.Proofs

namespace Sys2Proof.Proofs
open Sys2Proof.Machine Sys2Proof.Safety

/-! ### The moves of a bundle (R79, R80, R86) -/

/-- The moves of a bundle stand in rising order of their slots. -/
theorem bundleMoves_pairwise (b : Bundle) : (bundleMoves b).Pairwise fun p q => p.1 < q.1 := by
  have hr : ((List.range b.slots.length).zip b.slots).Pairwise fun p q => p.1 < q.1 := by
    have h := List.pairwise_lt_range (n := b.slots.length)
    rw [← List.map_fst_zip (l₁ := List.range b.slots.length) (l₂ := b.slots) (by rw [List.length_range])] at h
    exact List.pairwise_map.mp h
  refine hr.filterMap _ fun p q hpq x hx y hy => ?_
  have hf (p : Nat × Slot) (x : Nat × Move) (hx : (match p.2 with
      | .move m => some (p.1, m)
      | .empty | .lim _ => none) = some x) : x.1 = p.1 := by
    split at hx <;> cases hx
    rfl
  rw [hf p x hx, hf q y hy]
  exact hpq

/-- A move of a bundle as read (R86). -/
def readMove (s : State) (gid sid : Nat) (b : Bundle) (p : Nat × Move) : Moved :=
  let g := groupOf s gid
  let m := guardLanes g sid p.2.g
  { slot := p.1, mv := p.2, lanes := m, val := srcValue s gid sid b p.2.src, uval := uniformValue g (halfOf g sid) b p.2.src
    poison := (m &&& srcPoison g (halfOf g sid) p.2.src) ||| guardPoison g sid p.2.g }

theorem readMoves_eq (s : State) (gid sid : Nat) (b : Bundle) : readMoves s gid sid b = (bundleMoves b).map (readMove s gid sid b) := rfl

/-- What a move of a bundle may kill (R321). -/
def moveKill (g : Group) (h : Nat) (m : Moved) : Mask :=
  match m.mv.dst with
  | .trig t => if unitUniform (triggerUnit t) then uniformKill g h m t
      else (latchesRead t).foldl (fun k l => k ||| (m.lanes &&& (latchOf' g.image (triggerUnit t) l).poison))
        (m.poison ||| (m.lanes &&& windowPoison g h (triggerUnit t)))
  | _ => m.poison

theorem poison_of_moveKill {g : Group} {h : Nat} {m : Moved} (hk : moveKill g h m = 0) : m.poison = 0 := by
  cases hd : m.mv.dst with
  | trig t =>
    rw [moveKill, hd] at hk
    dsimp only at hk
    split at hk
    · exact (BitVec.or_eq_zero_iff.mp hk).1
    · exact (BitVec.or_eq_zero_iff.mp (foldl_or_zero _ _ _ hk).1).1
  | _ => rw [moveKill, hd] at hk; exact hk

theorem foldl_fst_or {α : Type} (f : α → Mask) (n : Mask × Nat → α → Nat) (ls : List α) (a : Mask × Nat) :
    (ls.foldl (fun a m => (a.1 ||| f m, n a m)) a).1 = ls.foldl (fun k m => k ||| f m) a.1 := by
  induction ls generalizing a with
  | nil => rfl
  | cons m r ih => rw [List.foldl_cons, ih]; rfl

/-- No move of a bundle that kills no lane carries poison. -/
theorem poison_of_killedBy {g : Group} {h : Nat} {ms : List Moved} (hk : killedBy g h ms = (0, 0)) {m : Moved} (hm : m ∈ ms) : m.poison = 0 := by
  have h1 : (ms.foldl (fun a m => (a.1 ||| moveKill g h m, if a.1 = 0 ∧ moveKill g h m ≠ 0 then m.slot else a.2)) ((0, 0) : Mask × Nat)).1 = 0 :=
    congrArg Prod.fst hk
  rw [foldl_fst_or] at h1
  exact poison_of_moveKill ((foldl_or_zero _ _ _ h1).2 m hm)

end Sys2Proof.Proofs

namespace Sys2Proof.Proofs
open Sys2Proof.Machine Sys2Proof.Safety

/-! ### The group after a bundle's moves (R86, R90) -/

/-- A move of a presented bundle as read, once what it reads is delivered. -/
def theMove (s : State) (gid sid : Nat) (b : Bundle) (p : Nat × Move) : Moved := readMove (delivered s gid b) gid sid b p

theorem theMove_lanes (s : State) (gid sid : Nat) (b : Bundle) (p : Nat × Move) :
    (theMove s gid sid b p).lanes = guardLanes (seen s gid b) sid p.2.g := by
  simp only [theMove, readMove, seen_delivered]

theorem theMove_uval (s : State) (gid sid : Nat) (b : Bundle) (p : Nat × Move) :
    (theMove s gid sid b p).uval = uniformValue (seen s gid b) (half s gid sid) b p.2.src := by
  simp only [theMove, readMove, seen_delivered, halfOf_seen]

/-- The group as its bundle sees it, with the masks noted that the bundle writes (R90). -/
def noted (s : State) (gid sid : Nat) (b : Bundle) : Group :=
  { seen s gid b with mPrev := masksWritten (seen s gid b) ((bundleMoves b).map (theMove s gid sid b)) }

theorem bundleMoved_eq (s : State) (gid sid : Nat) (b : Bundle) :
    bundleMoved (delivered s gid b) gid sid b =
      (bundleMoves b).foldl (fun g p => moveApply (half s gid sid) g (theMove s gid sid b p)) (noted s gid sid b) := by
  rw [bundleMoved, movesApply, seen_delivered, halfOf_seen, readMoves_eq, List.foldl_map]
  rfl

/-- What a move of a bundle reaches: a destination of a kind, in a lane of its guard. -/
def Reaches (s : State) (gid sid : Nat) (b : Bundle) (to_ : Dst → Prop) (l : Nat) (p : Nat × Move) : Prop :=
  to_ p.2.dst ∧ (theMove s gid sid b p).lanes.getLsbD l = true

theorem moves_iff (s : State) (gid sid : Nat) (b : Bundle) (to_ : Dst → Prop) (l k : Nat) (m : Move) :
    Moves s gid sid b to_ l k m ↔ (k, m) ∈ bundleMoves b ∧ Reaches s gid sid b to_ l (k, m) := by
  rw [Moves, Reaches, theMove_lanes]

section
variable {s : State} {gid sid : Nat} {b : Bundle} {γ : Type} {obs : Group → γ} {to_ : Dst → Prop} {l : Nat}

/-- What no move of a bundle changes stands after all of them. -/
theorem bundleMoved_keeps (h : ∀ p ∈ bundleMoves b, ∀ v, obs (moveApply (half s gid sid) v (theMove s gid sid b p)) = obs v) :
    obs (bundleMoved (delivered s gid b) gid sid b) = obs (noted s gid sid b) := by
  rw [bundleMoved_eq]
  exact foldl_keeps obs h _

/-- What the moves to a destination alone change stands where none reaches it. -/
theorem bundleMoved_noMove (hn : ∀ k m, ¬Moves s gid sid b to_ l k m)
    (h : ∀ p ∈ bundleMoves b, ¬Reaches s gid sid b to_ l p → ∀ v, obs (moveApply (half s gid sid) v (theMove s gid sid b p)) = obs v) :
    obs (bundleMoved (delivered s gid b) gid sid b) = obs (noted s gid sid b) :=
  bundleMoved_keeps fun p hp => h p hp fun hr => hn p.1 p.2 ((moves_iff _ _ _ _ _ _ _ _).mpr ⟨hp, hr⟩)

/-- The last move to a destination gives its value. -/
theorem bundleMoved_last {k : Nat} {m : Move} {x : γ} (hm : LastMove s gid sid b to_ l k m)
    (hset : Reaches s gid sid b to_ l (k, m) → ∀ v, obs (moveApply (half s gid sid) v (theMove s gid sid b (k, m))) = x)
    (h : ∀ p ∈ bundleMoves b, ¬Reaches s gid sid b to_ l p → ∀ v, obs (moveApply (half s gid sid) v (theMove s gid sid b p)) = obs v) :
    obs (bundleMoved (delivered s gid b) gid sid b) = x := by
  obtain ⟨hmem, hr⟩ := (moves_iff _ _ _ _ _ _ _ _).mp hm.1
  rw [bundleMoved_eq]
  exact foldl_last obs (bundleMoves_pairwise b) hmem (fun p hp hh => hm.2 p.1 p.2 ((moves_iff _ _ _ _ _ _ _ _).mpr ⟨hp, hh⟩)) (hset hr) h _

/-- A bit that moves may clear stands where none of them clears it. -/
theorem bundleMoved_clears {obs : Group → Bool} {clears : Nat × Move → Bool} (h : ∀ p ∈ bundleMoves b, ∀ v : Machine.Group,
      v.lw = (seen s gid b).lw → obs (moveApply (half s gid sid) v (theMove s gid sid b p)) = (obs v && !clears p)) :
    obs (bundleMoved (delivered s gid b) gid sid b) = (obs (noted s gid sid b) && !(bundleMoves b).any clears) := by
  rw [bundleMoved_eq]
  exact foldl_clears (inv := fun v : Machine.Group => v.lw = (seen s gid b).lw) (fun v p hv => by rw [moveApply_frame]; exact hv) h rfl

end

/-! #### The masks written (R90) -/

theorem tget_foldl_masks (g : Group) (ms : List Moved) (t : Table Mask) (i : Nat) :
    tget (ms.foldl (fun t m => match m.mv.dst with
      | .mask j => tset t j.toNat (mget g j.toNat)
      | _ => t) t) i = if ∃ m ∈ ms, ∃ j, m.mv.dst = .mask j ∧ j.toNat = i then some (mget g i) else tget t i := by
  induction ms generalizing t with
  | nil => simp
  | cons m r ih =>
    rw [List.foldl_cons, ih]
    by_cases hr : ∃ m ∈ r, ∃ j, m.mv.dst = .mask j ∧ j.toNat = i
    · obtain ⟨m', hm', hj⟩ := hr
      rw [if_pos ⟨m', hm', hj⟩, if_pos ⟨m', List.mem_cons_of_mem _ hm', hj⟩]
    · rw [if_neg hr]
      by_cases hm : ∃ j, m.mv.dst = .mask j ∧ j.toNat = i
      · obtain ⟨j, hj, rfl⟩ := hm
        rw [if_pos ⟨m, List.mem_cons_self, j, hj, rfl⟩]
        simp only [hj]
        exact tget_tset_same _ _ _
      · rw [if_neg (by
          rintro ⟨m', hm', hj⟩
          rcases List.mem_cons.mp hm' with rfl | hm'
          · exact hm hj
          · exact hr ⟨m', hm', hj⟩)]
        split
        · rename_i j hj
          exact tget_tset_ne _ (fun e => hm ⟨j, hj, e.symm⟩) _
        · rfl

theorem mPrev_bundleMoved (s : State) (gid sid : Nat) (b : Bundle) (i : Nat) :
    tget (bundleMoved (delivered s gid b) gid sid b).mPrev i =
      if ∃ p ∈ bundleMoves b, ∃ j : BitVec 4, p.2.dst = .mask j ∧ j.toNat = i then some (mget (seen s gid b) i) else none := by
  rw [bundleMoved_keeps (obs := Group.mPrev) fun p _ v => by rw [moveApply_frame]]
  refine (tget_foldl_masks _ _ _ _).trans ?_
  simp only [List.mem_map, exists_exists_and_eq_and]
  rfl

/-! #### What else stands -/

/-- A group that moves have changed: registers, latches, masks, e-slots, FSTAT and their poison. -/
def Written (g r : Group) : Prop :=
  ∃ v vp la un m mp mv up e fs, r = { g with v := v, vPoison := vp, image := { g.image with latches := la, uniform := un }
                                             m := m, mPoison := mp, mPrev := mv, userPrev := up, e := e, fstat := fs }

theorem written_moveApply {g r : Group} (h : Nat) (m : Moved) (hr : Written g r) : Written g (moveApply h r m) := by
  obtain ⟨v, vp, la, un, m', mp, mv, up, e, fs, rfl⟩ := hr
  exact ⟨_, _, _, _, _, _, _, _, _, _, moveApply_frame _ _ _⟩

theorem written_bundleMoved (s : State) (gid sid : Nat) (b : Bundle) : Written (seen s gid b) (bundleMoved (delivered s gid b) gid sid b) := by
  rw [bundleMoved_eq]
  have hn : Written (seen s gid b) (noted s gid sid b) := ⟨_, _, _, _, _, _, _, _, _, _, rfl⟩
  generalize noted s gid sid b = r at hn
  induction bundleMoves b generalizing r with
  | nil => exact hn
  | cons p ps ih => exact ih _ (written_moveApply _ _ hn)

end Sys2Proof.Proofs

namespace Sys2Proof.Proofs
open Sys2Proof.Machine Sys2Proof.Safety

/-! ### The issue of a whole bundle (R86) -/

/-- A bundle that passes its checks issues: its moves are made, then its triggers fire, then its scalar operation takes effect. -/
theorem exec_bundleIssue {b : Bundle} {s : State} {gid sid : Nat} (h : Issues s gid sid b) :
    exec (.bundleIssue b) s = .next (issueBundle (delivered s gid b) gid sid b (seen s gid b) (bundleMoved (delivered s gid b) gid sid b)
      (readMoves (delivered s gid b) gid sid b) (bundleFires (delivered s gid b) gid sid b) (bundleScalar (delivered s gid b) gid sid b)) := by
  obtain ⟨⟨⟨⟨hc, -⟩, hl, hs⟩, ht, hm⟩, -⟩ := h
  rw [exec_toBundle _ b s rfl, issue_cur _ _ _ _ hc, issueAt_runs _ _ _ _ hl hs ht hm, seen_delivered]

theorem firesOf_noTrigger {g : Group} {h : Nat} {ms : List Moved} (hv : ∀ m ∈ ms, ∀ t, m.mv.dst ≠ .trig t) (inj : Option Inject) :
    firesOf g h ms inj = [] := by
  have he (f : Moved → Option Fire) (hf : ∀ m ∈ ms, f m = none) : ms.filterMap f = [] := List.filterMap_eq_nil_iff.2 hf
  unfold firesOf
  dsimp only
  rw [he _ fun m hm => ?_]
  · rfl
  · split
    · rename_i t ht; exact absurd ht (hv m hm t)
    · rfl

theorem bundleFires_noTrigger {s : State} {gid sid : Nat} {b : Bundle} (ht : ∀ p ∈ bundleMoves b, ∀ t, p.2.dst ≠ .trig t) :
    bundleFires s gid sid b = [] := by
  have hm : ∀ m ∈ readMoves s gid sid b, ∀ t, m.mv.dst ≠ .trig t := by
    intro m hm
    obtain ⟨p, hp, rfl⟩ := List.mem_map.mp hm
    exact ht p hp
  simp only [bundleFires, firesOf_noTrigger hm, List.map_nil]

/-- A bundle without triggers, after its moves and counts: the counts, with the masks that it wrote noted and the yield of its Y bit. -/
theorem issuedMoves_moves {d : State} {gid sid : Nat} {b : Bundle} {h : Group} (hp : h.place = (groupOf d gid).place)
    (ho : h.opId = (groupOf d gid).opId) :
    issuedMoves d gid sid b (groupOf d gid) h [] =
      setGroup (countsOf d gid sid b h) gid { groupOf (countsOf d gid sid b h) gid with
        mPrev := h.mPrev, yieldUntil := (yields (countsOf d gid sid b h) gid b).orElse fun _ => h.yieldUntil } := by
  rw [yields_countsOf hp, groupOf_countsOf, countsOf, ← countCluster_setGroup, setGroup_setGroup, ho]
  simp only [issuedMoves, performFirst_nil, fireAll, groupOf_setGroup, setGroup_setGroup, List.map_nil, coveredIds, List.length_nil, Nat.add_zero]
  rfl

/-- A bundle without triggers or scalar operation does no more than make its moves and counts. -/
theorem issueBundle_moves {d : State} {gid sid : Nat} {b : Bundle} {h : Group} {ms : List Moved} {p : Plan} (hw : Written (groupOf d gid) h)
    (hs : b.scalar = none) (hsound : scalarPoisoned (groupOf d gid) sid b = false) (hk : killedBy h (halfOf (groupOf d gid) sid) ms = (0, 0)) :
    issueBundle d gid sid b (groupOf d gid) h ms [] p = goesOn (setGroup (countsOf d gid sid b h) gid { groupOf (countsOf d gid sid b h) gid with
      mPrev := h.mPrev, yieldUntil := (yields (countsOf d gid sid b h) gid b).orElse fun _ => (groupOf d gid).yieldUntil }) gid sid := by
  have hpc : (splitOf (groupOf (countsOf d gid sid b h) gid) sid).pc = (splitOf (groupOf d gid) sid).pc := by
    obtain ⟨-, -, -, hsplit⟩ := countsOf_counts d gid sid b h
    rw [hsplit sid, groupOf_setGroup]
    obtain ⟨v, vp, la, un, m, mp, mv, up, e, fs, rfl⟩ := hw
    rfl
  have hi := issuedMoves_moves (d := d) (gid := gid) (sid := sid) (b := b) (h := h)
    (by obtain ⟨v, vp, la, un, m, mp, mv, up, e, fs, rfl⟩ := hw; rfl) (by obtain ⟨v, vp, la, un, m, mp, mv, up, e, fs, rfl⟩ := hw; rfl)
  have hy : h.yieldUntil = (groupOf d gid).yieldUntil := by obtain ⟨v, vp, la, un, m, mp, mv, up, e, fs, rfl⟩ := hw; rfl
  rw [hy] at hi
  have hkill : bundleKill (groupOf d gid) h sid b ms = (0, 0) := by rw [bundleKill, hsound, hk]; rfl
  have hsc (t : State) (id pc : Nat) : scalarStep t gid sid (groupOf d gid) id pc b p = goOn t gid sid pc := by
    simp [scalarStep, hs]
  rw [issueBundle, hkill, hi, hsc, bundleEnd_plain _ _ _ rfl rfl, goesOn, pcOf, groupOf_setGroup]
  exact congrArg (fun n => setPc _ gid sid (nextPc n)) hpc.symm

end Sys2Proof.Proofs

namespace Sys2Proof.Proofs
open Sys2Proof.Machine Sys2Proof.Safety

/-! ### What the moves of a bundle leave, by lane (R86, R87, R91, R92) -/

section
variable {s : State} {gid sid : Nat} {b : Bundle} {l : Nat} (hk : Clean s gid sid b)

include hk in
/-- No move of a bundle without poisoned operands carries poison. -/
theorem theMove_clean {p : Nat × Move} (hp : p ∈ bundleMoves b) : (theMove s gid sid b p).poison = 0 :=
  poison_of_killedBy hk (List.mem_map_of_mem hp)

include hk in
theorem vget_lastMove {i : BitVec 10} {k : Nat} {m : Move} (hl : l < 32) (hm : LastMove s gid sid b (fun d => d = .v i) l k m) :
    laneGet (vget (bundleMoved (delivered s gid b) gid sid b) i.toNat) l = carried s gid sid b m.src l := by
  refine bundleMoved_last (obs := fun g => laneGet (vget g i.toNat) l) hm (fun hr v => vget_moveApply hl hr.1 (theMove_clean hk hm.1.1) hr.2)
    fun p _ hn v => vget_moveApply_keeps hl fun ⟨⟨j, hj, hi⟩, hh⟩ => hn ⟨?_, hh⟩
  rw [← BitVec.eq_of_toNat_eq hi]
  exact hj

theorem vget_noMove {i : Nat} (hl : l < 32) (hn : ∀ (j : BitVec 10) k m, j.toNat = i → ¬Moves s gid sid b (fun d => d = .v j) l k m) :
    laneGet (vget (bundleMoved (delivered s gid b) gid sid b) i) l = laneGet (vget (seen s gid b) i) l := by
  refine bundleMoved_noMove (obs := fun g => laneGet (vget g i) l) (to_ := fun d => ∃ j, d = .v j ∧ j.toNat = i) (l := l)
    (fun k m hm => ?_) fun p _ hp v => vget_moveApply_keeps hl hp
  obtain ⟨hm, ⟨j, hj, hi⟩, hh⟩ := hm
  exact hn j k m hi ⟨hm, hj, hh⟩

theorem latchLane_keeps {u : FUnit} {x : LatchName} {p : Nat × Move} (hl : l < 32)
    (hn : ¬Reaches s gid sid b (fun d => ∃ o, d = .latch u x o) l p)
    (v : Group) : latchLane (moveApply (half s gid sid) v (theMove s gid sid b p)) u x l = latchLane v u x l :=
  latchLane_moveApply_keeps hl hn

include hk in
theorem latchLane_lastMove {u : FUnit} {x : LatchName} {o : Bool} {k : Nat} {m : Move} (hl : l < 32) (hu : unitUniform u = false)
    (hm : LastMove s gid sid b (fun d => ∃ o, d = .latch u x o) l k m) (hd : m.dst = .latch u x o) :
    latchLane (bundleMoved (delivered s gid b) gid sid b) u x l = (carried s gid sid b m.src l, true, o) :=
  bundleMoved_last (obs := fun g => latchLane g u x l) hm (fun hr _ => latchLane_moveApply hl hu hd (theMove_clean hk hm.1.1) hr.2)
    fun _ _ hn v => latchLane_keeps hl hn v

theorem latchLane_noMove {u : FUnit} {x : LatchName} (hl : l < 32) (hn : ∀ k m, ¬Moves s gid sid b (fun d => ∃ o, d = .latch u x o) l k m) :
    latchLane (bundleMoved (delivered s gid b) gid sid b) u x l = latchLane (seen s gid b) u x l :=
  bundleMoved_noMove (obs := fun g => latchLane g u x l) hn fun _ _ hn v => latchLane_keeps hl hn v

include hk in
theorem mget_lastMove {i : BitVec 4} {k : Nat} {m : Move} (hl : l < 32) (hm : LastMove s gid sid b (fun d => d = .mask i) l k m) :
    (mget (bundleMoved (delivered s gid b) gid sid b) i.toNat).getLsbD l = (carried s gid sid b m.src l).getLsbD 0 := by
  refine bundleMoved_last (obs := fun g => (mget g i.toNat).getLsbD l) hm (fun hr v => mget_moveApply hl hr.1 (theMove_clean hk hm.1.1) hr.2)
    fun p _ hn v => mget_moveApply_keeps hl fun ⟨⟨j, hj, hi⟩, hh⟩ => hn ⟨?_, hh⟩
  rw [← BitVec.eq_of_toNat_eq hi]
  exact hj

theorem mget_noMove {i : Nat} (hl : l < 32) (hn : ∀ (j : BitVec 4) k m, j.toNat = i → ¬Moves s gid sid b (fun d => d = .mask j) l k m) :
    (mget (bundleMoved (delivered s gid b) gid sid b) i).getLsbD l = (mget (seen s gid b) i).getLsbD l := by
  refine bundleMoved_noMove (obs := fun g => (mget g i).getLsbD l) (to_ := fun d => ∃ j, d = .mask j ∧ j.toNat = i) (l := l)
    (fun k m hm => ?_) fun p _ hp v => mget_moveApply_keeps hl hp
  obtain ⟨hm, ⟨j, hj, hi⟩, hh⟩ := hm
  exact hn j k m hi ⟨hm, hj, hh⟩

include hk in
/-- An e-slot stays full in a lane unless a move empties it there. -/
theorem eslot_bundleMoved (i : BitVec 2) (hl : l < 32) :
    (tgetD (bundleMoved (delivered s gid b) gid sid b).e i.toNat {}).full.getLsbD l =
      ((tgetD (seen s gid b).e i.toNat {}).full.getLsbD l && decide (∀ p ∈ bundleMoves b, ¬(p.2.dst = .e i ∧
        (guardLanes (seen s gid b) sid p.2.g).getLsbD l = true))) := by
  refine (bundleMoved_clears (obs := fun g => (tgetD g.e i.toNat {}).full.getLsbD l)
    (clears := fun p => decide (p.2.dst = .e i) && (theMove s gid sid b p).lanes.getLsbD l)
    fun p hp v _ => eslot_moveApply i hl (theMove_clean hk hp)).trans ?_
  refine congrArg ((tgetD (seen s gid b).e i.toNat {}).full.getLsbD l && ·) ?_
  rw [Bool.eq_iff_iff, decide_eq_true_iff, Bool.not_eq_true', List.any_eq_false]
  simp only [Bool.and_eq_true, decide_eq_true_eq, theMove_lanes]

include hk in
/-- A flag of FSTAT stands unless a move clears it. -/
theorem fstat_bundleMoved {k : Nat} (hlt : k < 13) :
    (bundleMoved (delivered s gid b) gid sid b).fstat.getLsbD k = ((seen s gid b).fstat.getLsbD k && decide (∀ p ∈ bundleMoves b,
      p.2.dst = .fclr → guardLanes (seen s gid b) sid p.2.g ≠ 0 → (uniformValue (seen s gid b) (half s gid sid) b p.2.src).getLsbD k = true →
        (if (seen s gid b).lw = true ∧ half s gid sid ≠ 0 then k < 8 else 5 ≤ k))) := by
  refine (bundleMoved_clears (obs := fun g => g.fstat.getLsbD k)
    (clears := fun p => decide (p.2.dst = .fclr) && decide ((theMove s gid sid b p).lanes ≠ 0) && ((theMove s gid sid b p).uval.getLsbD k &&
      !decide (if (seen s gid b).lw = true ∧ half s gid sid ≠ 0 then k < 8 else 5 ≤ k))) fun p hp v hv => ?_).trans ?_
  · rw [← hv]
    exact fstat_moveApply hlt (theMove_clean hk hp)
  · refine congrArg ((seen s gid b).fstat.getLsbD k && ·) ?_
    rw [Bool.eq_iff_iff, decide_eq_true_iff, Bool.not_eq_true', List.any_eq_false]
    simp only [Bool.and_eq_true, decide_eq_true_eq, theMove_lanes, theMove_uval, Bool.not_eq_true', decide_eq_false_iff_not]
    refine forall₂_congr fun p _ => ?_
    tauto

end

end Sys2Proof.Proofs

namespace Sys2Proof.Proofs
open Sys2Proof.Machine Sys2Proof.Safety

/-- The last move to a uniform latch fills it with the value of its source (R83, R87). -/
theorem uniform_lastMove {s : State} {gid sid k : Nat} {b : Bundle} {u : FUnit} {x : LatchName} {o : Bool} {m : Move} (hk : Clean s gid sid b)
    (hu : unitUniform u = true) (hm : (k, m) ∈ bundleMoves b) (hd : m.dst = .latch u x o)
    (hlast : ∀ k' m', (k', m') ∈ bundleMoves b → (∃ o, m'.dst = .latch u x o) → k' ≤ k) :
    tget (bundleMoved (delivered s gid b) gid sid b).image.uniform (uniformKey u (half s gid sid) x) =
      some { val := uniformValue (seen s gid b) (half s gid sid) b m.src, full := true, hold := o } := by
  rw [bundleMoved_eq]
  refine foldl_last (obs := fun g : Machine.Group => tget g.image.uniform (uniformKey u (half s gid sid) x)) (bundleMoves_pairwise b) hm
    (hit := fun p => ∃ o, p.2.dst = .latch u x o) (fun p hp hh => hlast p.1 p.2 hp hh) (fun g => ?_) (fun p _ hn g => ?_) _
  · rw [← theMove_uval s gid sid b (k, m)]
    exact uniform_moveApply hu hd (theMove_clean hk hm)
  · refine uniform_moveApply_keeps fun v y o' hv hd' he => hn ⟨o', ?_⟩
    obtain ⟨rfl, rfl⟩ := uniformKey_injective hv hu he
    exact hd'

theorem uniform_noMove {s : State} {gid sid n : Nat} {b : Bundle}
    (hn : ∀ p ∈ bundleMoves b, ∀ u x o, unitUniform u = true → p.2.dst = .latch u x o → uniformKey u (half s gid sid) x ≠ n) :
    tget (bundleMoved (delivered s gid b) gid sid b).image.uniform n = tget (seen s gid b).image.uniform n :=
  bundleMoved_keeps (obs := fun g => tget g.image.uniform n) fun p hp _ => uniform_moveApply_keeps (hn p hp)

/-- A bundle without trigger or scalar operation that issues does no more than make its moves and counts. -/
theorem exec_moves {s : State} {gid sid : Nat} {b : Bundle} (h : Issues s gid sid b) (hk : Clean s gid sid b) (hs : b.scalar = none)
    (ht : ∀ p ∈ bundleMoves b, ∀ t, p.2.dst ≠ .trig t) :
    let d := delivered s gid b
    let r := bundleMoved d gid sid b
    ∃ w, Counts (setGroup d gid r) w gid ∧ exec (.bundleIssue b) s = .next (goesOn (setGroup w gid { groupOf w gid with
      mPrev := r.mPrev, yieldUntil := (yields w gid b).orElse fun _ => (seen s gid b).yieldUntil }) gid sid) := by
  intro d r
  have hg : groupOf d gid = seen s gid b := seen_delivered s gid b
  refine ⟨countsOf d gid sid b r, countsOf_counts _ _ _ _ _, (exec_bundleIssue h).trans ?_⟩
  rw [bundleFires_noTrigger ht, ← hg, issueBundle_moves (by rw [hg]; exact written_bundleMoved s gid sid b) hs (by rw [hg]; exact h.2) hk]

/-- Settles O40: the moves of a bundle are writes in order, so the last one that reaches a place gives its value and the rest stands.
The name keeps apart from `Machine.bundleMoves`. -/
theorem bundleMoves_obligation : Obligations.BundleMoves := by
  unfold Obligations.BundleMoves
  intro b s gid sid h d g r
  refine ⟨exec_bundleIssue h, fun hk => ⟨exec_moves h hk, ?_, mPrev_bundleMoved s gid sid b, fun k => fstat_bundleMoved hk,
    fun u x o k m hu hm hd hlast => uniform_lastMove hk hu hm hd hlast, fun n => uniform_noMove, fun l hl => ⟨fun i k m => vget_lastMove hk hl,
    fun i => vget_noMove hl, fun u x o k m hu hm hd => ?_, fun u x _ hn => ?_, fun i k m => mget_lastMove hk hl, fun i => mget_noMove hl,
    fun i => eslot_bundleMoved hk i hl⟩⟩⟩
  · obtain ⟨v, vp, la, un, m, mp, mv, up, e, fs, hw⟩ := written_bundleMoved s gid sid b
    have hr : r = _ := hw
    rw [hr]
  · have hw := latchLane_lastMove hk hl hu hm hd
    exact ⟨congrArg (·.1) hw, congrArg (·.2.1) hw, congrArg (·.2.2) hw⟩
  · have hw := latchLane_noMove hl hn
    exact ⟨congrArg (·.1) hw, congrArg (·.2.1) hw⟩

end Sys2Proof.Proofs
